-- ==== Sys2Proof/Word.lean ====
section
/-! DEFINITION. The word types of the JN72 and their plainest arithmetic. -/

namespace Sys2Proof

/-- One byte of any memory space (R5). -/
abbrev Byte := BitVec 8
/-- One 32-bit lane register or scalar register (R222). -/
abbrev Word := BitVec 32
/-- A 64-bit pair (d or g), a near pointer or a flat address (R30, R222). -/
abbrev DWord := BitVec 64
/-- A set of lanes of one wave: bit l stands for lane l (R180). -/
abbrev Mask := BitVec 32

/-- Lane `l` is in the mask. -/
def Mask.has (m : Mask) (l : Nat) : Bool := m.getLsbD l

/-- The lanes of a mask in increasing order. -/
def Mask.lanes (m : Mask) : List Nat := (List.range 32).filter (Mask.has m)

/-- The number of lanes in a mask. -/
def Mask.count (m : Mask) : Nat := (Mask.lanes m).length

/-- The mask of one lane. -/
def Mask.single (l : Nat) : Mask := (1#32) <<< l

/-- The mask of the lanes that satisfy a test. -/
def Mask.ofPred (f : Nat → Bool) : Mask :=
  (List.range 32).foldl (fun m l => if f l then m ||| Mask.single l else m) 0#32

end Sys2Proof
end

