-- ==== Sys2Proof/Syntax.lean ====
section
/-! DEFINITION. The syntax of Disum: operand codes (R211), the six instruction formats (R208), the operands of
the events, and one constructor of `Instr` for each row of the opcode table. -/

namespace Sys2Proof

/-- A 9-bit operand code (R211), split by its table so that no bit is lost. -/
inductive Operand where
  /-- v0 to v255; a 64-bit operand names dN by the code of vN. -/
  | v (n : BitVec 8)
  /-- s0 to s63; a 64-bit operand names gN by the code of sN. -/
  | s (n : BitVec 6)
  /-- p0 to p7. -/
  | p (n : BitVec 3)
  /-- Integer constants 0 to 63. -/
  | pos (k : BitVec 6)
  /-- Integer constants -32 to -1: the constant is k - 32. -/
  | neg (k : BitVec 5)
  /-- Floating constants, by the table of R213. -/
  | flt (k : BitVec 4)
  /-- A reserved code: 0x148 to 0x17F or 0x1F0 to 0x1FF. -/
  | rsv (code : BitVec 9)
  deriving DecidableEq, Repr

/-- The code 0x180, which an unused field holds (R208). -/
abbrev Operand.zero : Operand := .pos 0#6

/-- Format A3 (R208). -/
structure FmtA3 where
  dst : Operand
  a : Operand
  b : Operand
  c : Operand
  pred : BitVec 4
  ty : BitVec 4
  rnd : BitVec 3
  mark : BitVec 3
  flg : BitVec 4
  deriving DecidableEq, Repr

/-- Format AI (R208). -/
structure FmtAI where
  dst : Operand
  a : Operand
  imm : BitVec 32
  pred : BitVec 4
  deriving DecidableEq, Repr

/-- Format M (R208). -/
structure FmtM where
  data : Operand
  base : Operand
  index : Operand
  imm : BitVec 14
  pred : BitVec 4
  width : BitVec 3
  scope : BitVec 3
  order : BitVec 3
  deriving DecidableEq, Repr

/-- Format B (R208). -/
structure FmtB where
  pred : BitVec 4
  mode : BitVec 4
  opnd : Operand
  rsv : BitVec 5
  target : BitVec 32
  deriving DecidableEq, Repr

/-- Format E (R208). -/
structure FmtE where
  p : Operand
  q : Operand
  pred : BitVec 4
  cls : BitVec 3
  mode : BitVec 3
  rsv : BitVec 26
  deriving DecidableEq, Repr

/-- Format X (R208). -/
structure FmtX where
  dst : Operand
  a : Operand
  sel : BitVec 16
  pred : BitVec 4
  rsv : BitVec 16
  deriving DecidableEq, Repr

/-- The destination types of FCVTI, in the order of its opcodes 0x170 to 0x178 (R262). -/
inductive CvtInt where
  | i8 | i16 | i32 | i64 | n8 | n16 | n32 | n64 | i4
  deriving DecidableEq, Repr

/-- What an access through translation does (R82). -/
inductive Access where
  | load | store | atomic | fetch
  deriving DecidableEq, Repr

/-- The operations of ATOM and RED (R277), in the order of the table's k. -/
inductive AtomOp where
  | add | min | minu | max | maxu | and | or | xor | exch | cas | inc | dec | fadd | fmin | fmax
  deriving DecidableEq, Repr

/-- A missing unit (R95, R96), and the resolution that an LDN waits for (R38). -/
inductive MissUnit where
  /-- A 64 KiB virtual page of a world with a pending page request (R83). -/
  | page (world vpage : Nat)
  /-- A 64 KiB tier page, by its world, its range and its physical address (R89, R90, R96). -/
  | tier (world range pa : Nat)
  /-- A 64 KiB page of an object (R88). -/
  | objPage (h page : Nat)
  /-- An object whose entry is arriving or departed (R33). -/
  | obj (h : Nat)
  /-- The resolution of a name (R38). -/
  | resolve (world : Nat) (realm : BitVec 16) (serial : BitVec 64)
  deriving DecidableEq, Repr

/-- What the directory agent finds for a name (R38). -/
inductive NameRes where
  /-- The realm is unknown, or another world's. -/
  | unknown
  /-- The object has been destroyed. -/
  | destroyed
  /-- The realm holds no object of that serial. -/
  | noObject
  /-- The object's extent, and its HOME field (R32). -/
  | object (extent home : Nat)
  deriving DecidableEq, Repr

/-- A request that arrives over the fabric (R379, R380); `addr` is a byte of this device's DRAM. -/
inductive FabricReq where
  | read (addr width : Nat)
  | write (addr : Nat) (bytes : List Byte)
  | atomic (op : AtomOp) (addr width : Nat) (b cmp : DWord)
  deriving DecidableEq, Repr

/-- The answer of another node to a remote load or atomic: the bytes, or a refusal's code (R382). -/
inductive RemoteAns where
  | value (bytes : List Byte)
  | refused (code : BitVec 8)
  deriving DecidableEq, Repr

/-- A firmware image (R396): its header of 4,160 bits, and what follows it. -/
structure Image where
  header : BitVec 4160
  body : List Byte
  deriving DecidableEq, Repr

/-- The bring-up parameters (R397); `none` takes the default. `serving` names the serving waves of worlds. -/
structure BringUp where
  node : Option Nat
  privateGiB : Option Nat
  serving : List (Nat × List Nat)
  protBlock : Option Nat
  cethr : Option Nat
  ttrip : Option Nat
  trel : Option Nat
  deriving DecidableEq, Repr

/-- An SPDM request (R388): a key exchange with the algorithms it names, a measurement, or the certificate chain of a slot. -/
inductive SpdmReq where
  | session (version asym hash kex aead : Nat) (heartbeat : Nat)
  | measure (index : Nat)
  | certificate (slot : Nat)
  deriving DecidableEq, Repr

/-- The operands of an event: a common record, of which each event reads the fields that its meaning names. -/
structure Arg where
  /-- The first number: a wave, a core, a queue, a world, a line, an operation. -/
  a : Nat := 0
  /-- The second number. -/
  b : Nat := 0
  /-- The third number. -/
  c : Nat := 0
  flag : Bool := false
  val : DWord := 0#64
  key : BitVec 256 := 0#256
  bytes : List Byte := []
  nums : List Nat := []
  acc : Access := .load
  unit : MissUnit := .obj 0
  res : NameRes := .unknown
  req : FabricReq := .read 0 0
  ans : RemoteAns := .value []
  img : Image := { header := 0#4160, body := [] }
  bring : BringUp := { node := none, privateGiB := none, serving := [], protBlock := none, cethr := none,
                       ttrip := none, trel := none }
  spdm : SpdmReq := .measure 0
  deriving DecidableEq, Repr

/-- The steps of the JN72: one constructor for each row of the opcode table. The first 205 are the instructions
of Disum, with the fields of their word; the others are the events of the table, whose operands (which agent acts,
what the outside world supplies) stand in an `Arg` (log 1, DESIGN CHOICE). -/
inductive Instr where
  /-- IADD (R228). -/
  | iadd (f : FmtA3)
  /-- ISUB (R228). -/
  | isub (f : FmtA3)
  /-- IMUL (R228). -/
  | imul (f : FmtA3)
  /-- IMULH (R228). -/
  | imulh (f : FmtA3)
  /-- IMAD (R228). -/
  | imad (f : FmtA3)
  /-- IMADW (R228). -/
  | imadw (f : FmtA3)
  /-- IDIV (R229). -/
  | idiv (f : FmtA3)
  /-- IREM (R229). -/
  | irem (f : FmtA3)
  /-- IMIN (R228). -/
  | imin (f : FmtA3)
  /-- IMAX (R228). -/
  | imax (f : FmtA3)
  /-- IABS (R228). -/
  | iabs (f : FmtA3)
  /-- INEG (R228). -/
  | ineg (f : FmtA3)
  /-- IADDS (R230). -/
  | iadds (f : FmtA3)
  /-- ISUBS (R230). -/
  | isubs (f : FmtA3)
  /-- AND (R232). -/
  | andOp (f : FmtA3)
  /-- OR (R232). -/
  | orOp (f : FmtA3)
  /-- XOR (R232). -/
  | xorOp (f : FmtA3)
  /-- ANDN (R232). -/
  | andn (f : FmtA3)
  /-- SHL (R232). -/
  | shl (f : FmtA3)
  /-- SHR (R232). -/
  | shr (f : FmtA3)
  /-- SAR (R232). -/
  | sar (f : FmtA3)
  /-- SHF (R232). -/
  | shf (f : FmtA3)
  /-- BFE (R233). -/
  | bfe (f : FmtA3)
  /-- BFI (R233). -/
  | bfi (f : FmtA3)
  /-- POPC (R234). -/
  | popc (f : FmtA3)
  /-- CLZ (R234). -/
  | clz (f : FmtA3)
  /-- CTZ (R234). -/
  | ctz (f : FmtA3)
  /-- BREV (R234). -/
  | brev (f : FmtA3)
  /-- PERMB (R234). -/
  | permb (f : FmtA3)
  /-- ISETP (R235). -/
  | isetp (f : FmtA3)
  /-- SEL (R235). -/
  | sel (f : FmtA3)
  /-- MOV (R235). -/
  | mov (f : FmtA3)
  /-- NOP (R235). -/
  | nop (f : FmtA3)
  /-- PSETP (R236). -/
  | psetp (f : FmtA3)
  /-- P2V (R236). -/
  | p2v (f : FmtA3)
  /-- V2P (R236). -/
  | v2p (f : FmtA3)
  /-- IADD_IMM (R237). -/
  | iaddImm (f : FmtAI)
  /-- IADD_IMM64 (R237). -/
  | iaddImm64 (f : FmtAI)
  /-- IMUL_IMM (R237). -/
  | imulImm (f : FmtAI)
  /-- AND_IMM (R237). -/
  | andImm (f : FmtAI)
  /-- OR_IMM (R237). -/
  | orImm (f : FmtAI)
  /-- XOR_IMM (R237). -/
  | xorImm (f : FmtAI)
  /-- MOVI (R237). -/
  | movi (f : FmtAI)
  /-- MOVI_I64 (R237). -/
  | moviI64 (f : FmtAI)
  /-- MOVI_F64 (R237). -/
  | moviF64 (f : FmtAI)
  /-- LEA (R238). -/
  | lea (f : FmtAI)
  /-- VOTE (R240). -/
  | vote (f : FmtA3)
  /-- MATCH (R241). -/
  | matchOp (f : FmtA3)
  /-- SHFL (R242). -/
  | shfl (f : FmtA3)
  /-- SYNCW (R243). -/
  | syncw (f : FmtAI)
  /-- SRD (R244). -/
  | srd (f : FmtX)
  /-- CLOCK (R245). -/
  | clock (f : FmtX)
  /-- BRA (R247). -/
  | bra (f : FmtB)
  /-- BRX (R247). -/
  | brx (f : FmtB)
  /-- CALL (R248). -/
  | call (f : FmtB)
  /-- RET (R248). -/
  | ret (f : FmtB)
  /-- EXIT (R249). -/
  | exitOp (f : FmtB)
  /-- YIELD (R250). -/
  | yield (f : FmtB)
  /-- FADD (R254). -/
  | fadd (f : FmtA3)
  /-- FSUB (R254). -/
  | fsub (f : FmtA3)
  /-- FMUL (R254). -/
  | fmul (f : FmtA3)
  /-- FFMA (R254). -/
  | ffma (f : FmtA3)
  /-- FABS (R254). -/
  | fabs (f : FmtA3)
  /-- FNEG (R254). -/
  | fneg (f : FmtA3)
  /-- FDIV (R255). -/
  | fdiv (f : FmtA3)
  /-- FSQRT (R255). -/
  | fsqrt (f : FmtA3)
  /-- FRSQ (R255). -/
  | frsq (f : FmtA3)
  /-- FEXP2 (R255). -/
  | fexp2 (f : FmtA3)
  /-- FLOG2 (R255). -/
  | flog2 (f : FmtA3)
  /-- FSCALE (R256). -/
  | fscale (f : FmtA3)
  /-- FGETEXP (R256). -/
  | fgetexp (f : FmtA3)
  /-- FCOPYSIGN (R256). -/
  | fcopysign (f : FmtA3)
  /-- FMIN (R257). -/
  | fmin (f : FmtA3)
  /-- FMAX (R257). -/
  | fmax (f : FmtA3)
  /-- FMINM (R257). -/
  | fminm (f : FmtA3)
  /-- FMAXM (R257). -/
  | fmaxm (f : FmtA3)
  /-- FSETP (R258). -/
  | fsetp (f : FmtA3)
  /-- FCLASS (R259). -/
  | fclass (f : FmtA3)
  /-- FRND (R260). -/
  | frnd (f : FmtA3)
  /-- FCVT (R261). -/
  | fcvt (f : FmtA3)
  /-- FCVT_SAT (R261). -/
  | fcvtSat (f : FmtA3)
  /-- FCVTI (R262). -/
  | fcvti (t : CvtInt) (f : FmtA3)
  /-- ICVTF (R263). -/
  | icvtf (f : FmtA3)
  /-- FPACK (R264). -/
  | fpack (f : FmtA3)
  /-- FUNPK (R264). -/
  | funpk (f : FmtA3)
  /-- FDOT2 (R265). -/
  | fdot2 (f : FmtA3)
  /-- FQBLK (R266). -/
  | fqblk (f : FmtA3)
  /-- FNXENC (R267). -/
  | fnxenc (f : FmtA3)
  /-- FNXDEC (R268). -/
  | fnxdec (f : FmtA3)
  /-- LD_GLOBAL (R272). -/
  | ldGlobal (f : FmtM)
  /-- LD_GLOBAL_SIGNED (R272). -/
  | ldGlobalSigned (f : FmtM)
  /-- LD_SCRATCH (R272). -/
  | ldScratch (f : FmtM)
  /-- LD_SCRATCH_SIGNED (R272). -/
  | ldScratchSigned (f : FmtM)
  /-- LD_WEIGHT (R272). -/
  | ldWeight (f : FmtM)
  /-- LD_ACTIVATION (R272). -/
  | ldActivation (f : FmtM)
  /-- LD_ACCUMULATOR (R272). -/
  | ldAccumulator (f : FmtM)
  /-- ST_GLOBAL (R272). -/
  | stGlobal (f : FmtM)
  /-- ST_SCRATCH (R272). -/
  | stScratch (f : FmtM)
  /-- ST_WEIGHT (R272). -/
  | stWeight (f : FmtM)
  /-- ST_ACTIVATION (R272). -/
  | stActivation (f : FmtM)
  /-- ST_ACCUMULATOR (R272). -/
  | stAccumulator (f : FmtM)
  /-- LDN (R38). -/
  | ldn (f : FmtM)
  /-- STN (R41). -/
  | stn (f : FmtM)
  /-- PADD (R43). -/
  | padd (f : FmtA3)
  /-- PSUB (R44). -/
  | psub (f : FmtA3)
  /-- PEQ (R45). -/
  | peq (f : FmtA3)
  /-- PLT (R45). -/
  | plt (f : FmtA3)
  /-- PLE (R45). -/
  | ple (f : FmtA3)
  /-- PNAME (R46). -/
  | pname (f : FmtA3)
  /-- PEXT (R47). -/
  | pext (f : FmtA3)
  /-- ATOM_ADD (R278). -/
  | atomAdd (f : FmtM)
  /-- ATOM_MIN (R278). -/
  | atomMin (f : FmtM)
  /-- ATOM_MIN_UNSIGNED (R278). -/
  | atomMinUnsigned (f : FmtM)
  /-- ATOM_MAX (R278). -/
  | atomMax (f : FmtM)
  /-- ATOM_MAX_UNSIGNED (R278). -/
  | atomMaxUnsigned (f : FmtM)
  /-- ATOM_AND (R278). -/
  | atomAnd (f : FmtM)
  /-- ATOM_OR (R278). -/
  | atomOr (f : FmtM)
  /-- ATOM_XOR (R278). -/
  | atomXor (f : FmtM)
  /-- ATOM_EXCH (R278). -/
  | atomExch (f : FmtM)
  /-- ATOM_CAS (R279). -/
  | atomCas (f : FmtM)
  /-- ATOM_INC (R278). -/
  | atomInc (f : FmtM)
  /-- ATOM_DEC (R278). -/
  | atomDec (f : FmtM)
  /-- ATOM_FADD (R278). -/
  | atomFadd (f : FmtM)
  /-- ATOM_FMIN (R278). -/
  | atomFmin (f : FmtM)
  /-- ATOM_FMAX (R278). -/
  | atomFmax (f : FmtM)
  /-- RED_ADD (R278). -/
  | redAdd (f : FmtM)
  /-- RED_MIN (R278). -/
  | redMin (f : FmtM)
  /-- RED_MIN_UNSIGNED (R278). -/
  | redMinUnsigned (f : FmtM)
  /-- RED_MAX (R278). -/
  | redMax (f : FmtM)
  /-- RED_MAX_UNSIGNED (R278). -/
  | redMaxUnsigned (f : FmtM)
  /-- RED_AND (R278). -/
  | redAnd (f : FmtM)
  /-- RED_OR (R278). -/
  | redOr (f : FmtM)
  /-- RED_XOR (R278). -/
  | redXor (f : FmtM)
  /-- RED_INC (R278). -/
  | redInc (f : FmtM)
  /-- RED_DEC (R278). -/
  | redDec (f : FmtM)
  /-- RED_FADD (R278). -/
  | redFadd (f : FmtM)
  /-- RED_FMIN (R278). -/
  | redFmin (f : FmtM)
  /-- RED_FMAX (R278). -/
  | redFmax (f : FmtM)
  /-- LDG2L (R280). -/
  | ldg2l (f : FmtM)
  /-- PREFETCH (R281). -/
  | prefetch (f : FmtM)
  /-- CINV (R282). -/
  | cinv (f : FmtM)
  /-- CCLEAN (R282). -/
  | cclean (f : FmtM)
  /-- FENCE (R284). -/
  | fence (f : FmtM)
  /-- FENCE_SC (R284). -/
  | fenceSc (f : FmtM)
  /-- QPUSH (R286). -/
  | qpush (f : FmtM)
  /-- QPOP (R287). -/
  | qpop (f : FmtM)
  /-- QSTAT (R288). -/
  | qstat (f : FmtX)
  /-- CAIRN (R292). -/
  | cairn (f : FmtA3)
  /-- CAIRNQ (R293). -/
  | cairnq (f : FmtX)
  /-- CAIRNX (R294). -/
  | cairnx (f : FmtX)
  /-- MMA (R299). -/
  | mma (f : FmtE)
  /-- MZERO (R303). -/
  | mzero (f : FmtA3)
  /-- MDRAIN (R315). -/
  | mdrain (f : FmtE)
  /-- DPLOAD (R308). -/
  | dpload (f : FmtE)
  /-- TKTAKE (R304). -/
  | tktake (f : FmtX)
  /-- TKPASS (R305). -/
  | tkpass (f : FmtX)
  /-- TKPASS_END (R305). -/
  | tkpassEnd (f : FmtX)
  /-- MSTAT (R307). -/
  | mstat (f : FmtX)
  /-- XCOPY (R319). -/
  | xcopy (f : FmtE)
  /-- XGATHER (R325). -/
  | xgather (f : FmtE)
  /-- XLEVEL (R328). -/
  | xlevel (f : FmtE)
  /-- XSTAT (R330). -/
  | xstat (f : FmtX)
  /-- WAITC (R331). -/
  | waitc (f : FmtE)
  /-- SRING (R332). -/
  | sring (f : FmtA3)
  /-- SAWAIT_FREE (R155). -/
  | sawaitFree (f : FmtA3)
  /-- SAWAIT_FULL (R155). -/
  | sawaitFull (f : FmtA3)
  /-- SPUB (R155). -/
  | spub (f : FmtA3)
  /-- SREL (R155). -/
  | srel (f : FmtA3)
  /-- RBEGIN (R335). -/
  | rbegin (f : FmtE)
  /-- RCHILD (R336). -/
  | rchild (f : FmtX)
  /-- RDONE (R336). -/
  | rdone (f : FmtX)
  /-- RFRAME (R336). -/
  | rframe (f : FmtX)
  /-- RRES (R336). -/
  | rres (f : FmtX)
  /-- RARRIVE_M (R192). -/
  | rarriveM (f : FmtAI)
  /-- RARRIVE_K (R192). -/
  | rarriveK (f : FmtAI)
  /-- RSYNC_M (R192). -/
  | rsyncM (f : FmtAI)
  /-- RSYNC_K (R192). -/
  | rsyncK (f : FmtAI)
  /-- RWAIT (R193). -/
  | rwait (f : FmtAI)
  /-- RQUERY (R338). -/
  | rquery (f : FmtX)
  /-- LOWER (R339). -/
  | lower (f : FmtX)
  /-- TRAP (R340). -/
  | trap (f : FmtX)
  /-- BKPT (R340). -/
  | bkpt (f : FmtX)
  /-- SVRET (R341). -/
  | svret (f : FmtX)
  /-- SRDP (R341). -/
  | srdp (f : FmtX)
  /-- SWRP (R341). -/
  | swrp (f : FmtX)
  /-- TLBI_WORLD (R342). -/
  | tlbiWorld (f : FmtX)
  /-- TLBI_PAGE (R342). -/
  | tlbiPage (f : FmtX)
  /-- TLBI_ALL (R342). -/
  | tlbiAll (f : FmtX)
  /-- WSET_RESUME (R343). -/
  | wsetResume (f : FmtX)
  /-- WSET_RESTART (R343). -/
  | wsetRestart (f : FmtX)
  /-- WSET_CANCEL (R343). -/
  | wsetCancel (f : FmtX)
  /-- WSET_KILL (R343). -/
  | wsetKill (f : FmtX)
  /-- WSET_PAUSE (R343). -/
  | wsetPause (f : FmtX)
  /-- WSET_UNPAUSE (R343). -/
  | wsetUnpause (f : FmtX)
  /-- WSET_RESET (R343). -/
  | wsetReset (f : FmtX)
  /-- HALTC_DRAIN (R344). -/
  | haltcDrain (f : FmtX)
  /-- HALTC_IMM (R344). -/
  | haltcImm (f : FmtX)
  /-- HALTC_RESUME (R344). -/
  | haltcResume (f : FmtX)
  /-- HALTC_STEP (R369). -/
  | haltcStep (f : FmtX)
  /-- QUEUE_BIND (R348). -/
  | queueBind (f : FmtX)
  /-- QUEUE_STOP (R348). -/
  | queueStop (f : FmtX)
  /-- QUEUE_REACTIVATE (R348). -/
  | queueReactivate (f : FmtX)
  /-- QUEUE_UNBIND (R348). -/
  | queueUnbind (f : FmtX)
  /-- SV_RANGE_STAGE (R225). -/
  | svRangeStage (f : FmtX)
  /-- SV_RANGE_APPLY (R86). -/
  | svRangeApply (f : FmtX)
  /-- CLAUSE_FETCH (R205). -/
  | clauseFetch
  /-- WAVE_ISSUE (R200). -/
  | waveIssue
  /-- TRANSLATION_WALK (R82). -/
  | translationWalk
  /-- PAGE_INSTALL (R83). -/
  | pageInstall
  /-- PAGE_DENY (R83). -/
  | pageDeny
  /-- MISSING_UNIT_AVAILABLE (R95). -/
  | missingUnitAvailable
  /-- WAVE_REQUEUE (R201). -/
  | waveRequeue
  /-- WAVE_LOWER (R194). -/
  | waveLower
  /-- PAGE_MIGRATE (R90). -/
  | pageMigrate
  /-- PAGE_DEMOTE (R92). -/
  | pageDemote
  /-- MIGRATION_COMPLETE (R93). -/
  | migrationComplete
  /-- NAME_RESOLVED (R38). -/
  | nameResolved
  /-- OBJECT_DEPART (R35). -/
  | objectDepart
  /-- OBJECT_ARRIVE (R34). -/
  | objectArrive
  /-- OBJECT_DESTROY (R34). -/
  | objectDestroy
  /-- EPOCH_SWEEP (R37). -/
  | epochSweep
  /-- ENGINE_OP_PROGRESS (R157). -/
  | engineOpProgress
  /-- ENGINE_OP_FREEZE (R156). -/
  | engineOpFreeze
  /-- ENGINE_OP_COMPLETE (R148). -/
  | engineOpComplete
  /-- COMPLETION_NOTICE_RETIRE (R148). -/
  | completionNoticeRetire
  /-- FRAME_DISPATCH (R197). -/
  | frameDispatch
  /-- UNFOLDING_END (R198). -/
  | unfoldingEnd
  /-- MULTICAST_WRITE_ARRIVE (R63). -/
  | multicastWriteArrive
  /-- MULTICAST_TIMEOUT (R63). -/
  | multicastTimeout
  /-- STORE_QUEUE_DRAIN (R125). -/
  | storeQueueDrain
  /-- DRAM_REQUEST_SERVE (R104). -/
  | dramRequestServe
  /-- POSTED_WRITE_ACK (R381). -/
  | postedWriteAck
  /-- FABRIC_REQUEST (R380). -/
  | fabricRequest
  /-- REMOTE_RESPONSE (R423). -/
  | remoteResponse
  /-- REMOTE_TIMEOUT (R381). -/
  | remoteTimeout
  /-- FLIT_RECEIVE (R378). -/
  | flitReceive
  /-- LANE_SPARE (R378). -/
  | laneSpare
  /-- PORT_DOWN (R378). -/
  | portDown
  /-- HOST_HDM_READ (R373). -/
  | hostHdmRead
  /-- HOST_HDM_WRITE (R373). -/
  | hostHdmWrite
  /-- HDM_DECODER_COMMIT (R372). -/
  | hdmDecoderCommit
  /-- NOTIFY (R375). -/
  | notify
  /-- ICTL (R375). -/
  | ictl
  /-- NDROP_CLEAR (R375). -/
  | ndropClear
  /-- WINDOW_GRANT (R350). -/
  | windowGrant
  /-- WINDOW_RECLAIM (R350). -/
  | windowReclaim
  /-- RECORD_START (R351). -/
  | recordStart
  /-- SIGNAL_RETEST (R352). -/
  | signalRetest
  /-- WORKGROUP_PLACE (R356). -/
  | workgroupPlace
  /-- WORKGROUP_END (R64). -/
  | workgroupEnd
  /-- LAUNCH_COMPLETE (R352). -/
  | launchComplete
  /-- FAULT_QUEUE_POST (R361). -/
  | faultQueuePost
  /-- SUPERVISOR_ENTRY (R361). -/
  | supervisorEntry
  /-- SLICE_END (R390). -/
  | sliceEnd
  /-- PREEMPT (R364). -/
  | preempt
  /-- WORKGROUP_SAVE (R365). -/
  | workgroupSave
  /-- WORKGROUP_RESTORE (R366). -/
  | workgroupRestore
  /-- CORE_RETIRE (R367). -/
  | coreRetire
  /-- LAYER_RETIRE (R107). -/
  | layerRetire
  /-- LAYER_REBUILD_DONE (R107). -/
  | layerRebuildDone
  /-- SECOND_LAYER_FAILURE (R108). -/
  | secondLayerFailure
  /-- SCRUB_LINE (R110). -/
  | scrubLine
  /-- PATROL_SCRUB (R401). -/
  | patrolScrub
  /-- THERMAL_TRIP (R399). -/
  | thermalTrip
  /-- THERMAL_RELEASE (R399). -/
  | thermalRelease
  /-- CORE_CLOCK_GATE (R398). -/
  | coreClockGate
  /-- CORE_POWER_GATE (R398). -/
  | corePowerGate
  /-- CORE_WAKE (R398). -/
  | coreWake
  /-- STACK_SELF_REFRESH (R398). -/
  | stackSelfRefresh
  /-- STACK_SELF_REFRESH_EXIT (R398). -/
  | stackSelfRefreshExit
  /-- POWER_ON_RESET (R395). -/
  | powerOnReset
  /-- FIRMWARE_UPDATE (R395). -/
  | firmwareUpdate
  /-- BRINGUP_PARAMETERS (R397). -/
  | bringupParameters
  /-- SPDM_REQUEST (R388). -/
  | spdmRequest
  /-- LOCK_INTERFACE (R389). -/
  | lockInterface
  /-- SET_GROUP_KEY (R391). -/
  | setGroupKey
  /-- SWITCH_GROUP_KEY (R391). -/
  | switchGroupKey
  /-- END_SESSION (R393). -/
  | endSession
  /-- HEARTBEAT_EXPIRY (R393). -/
  | heartbeatExpiry
  /-- TDI_LEAVE_RUN (R393). -/
  | tdiLeaveRun
  /-- LOAD_VALUE_RETURN (R55). -/
  | loadValueReturn
  /-- LINE_CONFIRM (R125). -/
  | lineConfirm
  /-- CXL_CACHE_SNOOP (R129). -/
  | cxlCacheSnoop
  /-- RETURN_TO_CONFIG_UNLOCKED (R393). -/
  | returnToConfigUnlocked
  /-- TDI_ENTER_RUN (R389). -/
  | tdiEnterRun
  /-- WORLD_BIND (R385). -/
  | worldBind
  /-- LD_BINDING_CHANGE (R371). -/
  | ldBindingChange
  /-- MSIX_VECTOR_UNMASK (R377). -/
  | msixVectorUnmask
  /-- NYMNIK_PORT_TRAINING (R381). -/
  | nymnikPortTraining
  /-- CXL_PORT_TRAINING (R370). -/
  | cxlPortTraining
  /-- POWER_LOSS (R394). -/
  | powerLoss
  deriving DecidableEq, Repr

end Sys2Proof
end

