-- ==== Sys2Proof/Machine/Fields.lean ====
section
/-! DEFINITION. The field rules of every instruction (R208 to R217 and the chapters 10 to 14): which fields an
instruction reads and writes, of which shape, and which values raise RESERVED_FIELD whatever wave runs it.
`slots` is the one table: the decode step, the register-state step and the frames all read it. -/

namespace Sys2Proof.Machine

/-- Which constants a source takes (R212, R213). -/
inductive Consts where
  /-- No constant. -/
  | none
  /-- Integer constants only. -/
  | int
  /-- Integer and floating constants. -/
  | both
  deriving DecidableEq, Repr

/-- What an operand field holds. -/
inductive Kind where
  /-- The field is unused and must hold 0x180 (R208). -/
  | unused
  /-- A destination of `n` registers, vector or scalar. -/
  | dst (n : Nat)
  /-- A vector destination of `n` registers. -/
  | vdst (n : Nat)
  /-- A scalar destination of `n` registers. -/
  | sdst (n : Nat)
  /-- A predicate destination, p0 to p5. -/
  | pdst
  /-- A source of `n` registers, a constant of the class, or, where `p` says so, a predicate (R211). -/
  | src (n : Nat) (c : Consts) (p : Bool)
  /-- A scalar source of `n` registers, or a constant of the class. -/
  | ssrc (n : Nat) (c : Consts)
  /-- A predicate source, p0 to p7. -/
  | psrc
  /-- An integer constant from 0 to `hi`. -/
  | cst (hi : Nat)
  /-- One of SHFL's segment widths (R242). -/
  | segment
  deriving DecidableEq, Repr

/-- One operand field of an instruction: its code, what it holds, its trap-on-empty bit, and whether the scalar
destination rule of R212 counts it as a per-lane source. -/
structure Slot where
  op : Operand
  kind : Kind
  mark : Bool := false
  deriving DecidableEq, Repr

/-- A register number is a multiple of the count of registers taken, for counts 1, 2 and 4 (R212, R271). -/
def alignedReg (n r : Nat) : Bool := if n = 16 then true else r % n == 0

/-- The last register of a group of scalars exists. -/
def sFits (n r : Nat) : Bool := r + n ≤ 64

/-- A slot's field holds a value that some wave could accept (R208, R211, R212). -/
def Slot.ok (x : Slot) : Bool :=
  match x.kind, x.op with
  | .unused, o => decide (o = Operand.zero)
  | .dst n, .v r => alignedReg n r.toNat && decide (r.toNat + n ≤ 256)
  | .dst n, .s r => alignedReg n r.toNat && sFits n r.toNat
  | .dst _, _ => false
  | .vdst n, .v r => alignedReg n r.toNat && decide (r.toNat + n ≤ 256)
  | .vdst _, _ => false
  | .sdst n, .s r => alignedReg n r.toNat && sFits n r.toNat
  | .sdst _, _ => false
  | .pdst, .p r => decide (r.toNat < 6)
  | .pdst, _ => false
  | .src n _ _, .v r => alignedReg n r.toNat && decide (r.toNat + n ≤ 256)
  | .src n _ _, .s r => alignedReg n r.toNat && sFits n r.toNat
  | .src _ _ q, .p _ => q
  | .src _ c _, .pos _ => decide (c ≠ .none)
  | .src _ c _, .neg _ => decide (c ≠ .none)
  | .src _ c _, .flt _ => decide (c = .both)
  | .src _ _ _, .rsv _ => false
  | .ssrc n _, .s r => alignedReg n r.toNat && sFits n r.toNat
  | .ssrc _ c, .pos _ => decide (c ≠ .none)
  | .ssrc _ c, .neg _ => decide (c ≠ .none)
  | .ssrc _ c, .flt _ => decide (c = .both)
  | .ssrc _ _, _ => false
  | .psrc, .p _ => true
  | .psrc, _ => false
  | .cst hi, .pos k => decide (k.toNat ≤ hi)
  | .cst _, _ => false
  | .segment, .pos k => decide (k.toNat ∈ [1, 2, 4, 8, 16, 32])
  | .segment, _ => false

/-- A trap-on-empty bit may be set on a vector source only (R217). -/
def Slot.markOk (x : Slot) : Bool :=
  !x.mark || (match x.kind, x.op with
    | .src _ _ _, .v _ => true
    | _, _ => false)

/-- The slot is a destination. -/
def Slot.isDst (x : Slot) : Bool :=
  match x.kind with
  | .dst _ | .vdst _ | .sdst _ | .pdst => true
  | _ => false

/-- The slot is a source register or a predicate. -/
def Slot.isSrc (x : Slot) : Bool :=
  match x.kind with
  | .src _ _ _ | .ssrc _ _ | .psrc => true
  | _ => false

/-- The registers a slot names, as a count. -/
def Slot.count (x : Slot) : Nat :=
  match x.kind with
  | .dst n | .vdst n | .sdst n | .src n _ _ | .ssrc n _ => n
  | _ => 1

/-- The slot reads a value that differs between lanes (a vector register or a predicate). -/
def Slot.perLane (x : Slot) : Bool :=
  x.isSrc && (match x.op with
    | .v _ | .p _ => true
    | _ => false)

/-- The slot is a scalar destination. -/
def Slot.scalarDst (x : Slot) : Bool :=
  x.isDst && (match x.op with
    | .s _ => true
    | _ => false)

/-- Vector registers the slot names lie below `n` (R212). -/
def Slot.below (n : Nat) (x : Slot) : Bool :=
  match x.op with
  | .v r => decide (r.toNat + x.count ≤ n)
  | _ => true

/-- A vector destination is no frontier register: it lies below `m` = n minus the reserved registers (R186). -/
def Slot.clearOf (m : Nat) (x : Slot) : Bool :=
  !x.isDst || (match x.op with
    | .v r => decide (r.toNat + x.count ≤ m)
    | _ => true)

/-- Registers of a W-bit operand of table I (R214, R227). -/
def wordsI (ty : BitVec 4) : Nat := if ty = 3#4 ∨ ty = 7#4 then 2 else 1
/-- Registers of an operand of table F (R214, R252). -/
def wordsF (ty : BitVec 4) : Nat := if ty = 3#4 then 2 else 1

/-- The constants a source of an F-table type takes (R212). -/
def constsF (ty : BitVec 4) : Consts := if ty.toNat ∈ [4, 5, 6, 7] then .none else .both

/-- The three sources of an A3 word, each with its trap-on-empty bit (R208). -/
def aSlot (f : FmtA3) (k : Kind) : Slot := ⟨f.a, k, f.mark.getLsbD 0⟩
@[inherit_doc aSlot] def bSlot (f : FmtA3) (k : Kind) : Slot := ⟨f.b, k, f.mark.getLsbD 1⟩
@[inherit_doc aSlot] def cSlot (f : FmtA3) (k : Kind) : Slot := ⟨f.c, k, f.mark.getLsbD 2⟩
/-- The destination of an A3 word. -/
def dSlot (f : FmtA3) (k : Kind) : Slot := ⟨f.dst, k, false⟩

/-- The slots of an A3 word. -/
def a3 (f : FmtA3) (d a b c : Kind) : List Slot := [dSlot f d, aSlot f a, bSlot f b, cSlot f c]

/-- A source of `n` registers of an integer type. -/
abbrev si (n : Nat) : Kind := .src n .int true
/-- A source of a floating type. -/
abbrev sf (ty : BitVec 4) : Kind := .src (wordsF ty) (constsF ty) true
/-- A register or an integer constant of one word, no predicate. -/
abbrev rk : Kind := .src 1 .int false
/-- A register of `n` words. -/
abbrev rg (n : Nat) : Kind := .src n .none false
/-- A scalar register or an integer constant. -/
abbrev sk : Kind := .ssrc 1 .int

/-- The slots of the two-source integer form. -/
def int2 (f : FmtA3) : List Slot := a3 f (.dst (wordsI f.ty)) (si (wordsI f.ty)) (si (wordsI f.ty)) .unused
/-- The slots of the one-source integer form. -/
def int1 (f : FmtA3) : List Slot := a3 f (.dst (wordsI f.ty)) (si (wordsI f.ty)) .unused .unused
/-- The slots of the three-source integer form. -/
def int3 (f : FmtA3) : List Slot :=
  a3 f (.dst (wordsI f.ty)) (si (wordsI f.ty)) (si (wordsI f.ty)) (si (wordsI f.ty))
/-- The slots of the floating forms with one, two and three sources. -/
def flt1 (f : FmtA3) : List Slot := a3 f (.dst (wordsF f.ty)) (sf f.ty) .unused .unused
@[inherit_doc flt1] def flt2 (f : FmtA3) : List Slot := a3 f (.dst (wordsF f.ty)) (sf f.ty) (sf f.ty) .unused
@[inherit_doc flt1] def flt3 (f : FmtA3) : List Slot :=
  a3 f (.dst (wordsF f.ty)) (sf f.ty) (sf f.ty) (sf f.ty)

/-- Registers of a memory operand of a width code (R271). -/
def wordsM (w : BitVec 3) : Nat := if w = 3#3 then 2 else if w = 4#3 then 4 else 1

/-- The constants ST's data field takes at a width (R274). -/
def stConsts (w : BitVec 3) : Consts :=
  if w = 0#3 then .int else if w = 4#3 then .none else .both

/-- A `g:` address: a base pair and an index (R19, R25). R19 names registers for both: the model refuses a constant base, and
takes every integer constant as an index, as R25's inline index and the 0x180 of a missing one are (log 53, DESIGN CHOICE). -/
def gAddr (f : FmtM) : List Slot := [⟨f.base, rg 2, false⟩, ⟨f.index, rk, false⟩]
/-- An on-chip address: a base register and an index (R19, R24); constants as in `gAddr` (log 53, DESIGN CHOICE). -/
def lAddr (f : FmtM) : List Slot := [⟨f.base, rg 1, false⟩, ⟨f.index, rk, false⟩]

/-- The slots of a load, an ST, an ATOM and a RED. -/
def ldSlots (f : FmtM) (addr : FmtM → List Slot) : List Slot := ⟨f.data, .dst (wordsM f.width), false⟩ :: addr f
@[inherit_doc ldSlots] def stSlots (f : FmtM) (addr : FmtM → List Slot) : List Slot :=
  ⟨f.data, .src (wordsM f.width) (stConsts f.width) false, false⟩ :: addr f
/-- The operand b of an atomic (R277, R279). -/
def atomB (op : AtomOp) (w : BitVec 3) : Kind :=
  match op with
  | .cas => .src (2 * wordsM w) .none false
  | .exch | .fadd | .fmin | .fmax => .src (wordsM w) .both false
  | _ => .src (wordsM w) .int false
@[inherit_doc ldSlots] def atomSlots (op : AtomOp) (f : FmtM) : List Slot :=
  [⟨f.data, .dst (wordsM f.width), false⟩, ⟨f.base, rg 2, false⟩, ⟨f.index, atomB op f.width, false⟩]
@[inherit_doc ldSlots] def redSlots (op : AtomOp) (f : FmtM) : List Slot := ⟨f.data, atomB op f.width, false⟩ :: gAddr f

/-- The p-operand of an engine command in its mode (R210, R295). -/
def blockSlot (f : FmtE) : Slot :=
  if f.mode = 0#3 then ⟨f.p, .ssrc 16 .none, false⟩
  else if f.mode = 1#3 then ⟨f.p, rg 1, false⟩
  else ⟨f.p, rg 2, false⟩

/-- The slots of an engine command. -/
def eSlots (f : FmtE) (q : Kind) : List Slot := [blockSlot f, ⟨f.q, q, false⟩]
/-- The slots of a format X word. -/
def xSlots (f : FmtX) (d a : Kind) : List Slot := [⟨f.dst, d, false⟩, ⟨f.a, a, false⟩]
/-- The slots of a format AI word. -/
def iSlots (f : FmtAI) (d a : Kind) : List Slot := [⟨f.dst, d, false⟩, ⟨f.a, a, false⟩]

/-- A mask operand: 0x180, or a register with a zero literal (R243, R337). -/
def maskSlot (f : FmtAI) : Slot :=
  if f.a = Operand.zero then ⟨f.a, .unused, false⟩ else ⟨f.a, rg 1, false⟩

/-- The destination of SRD by its selector (R223). -/
def srdKind (sel : BitVec 16) : Kind :=
  if sel = 0#16 then .vdst 1 else if sel = 0xB#16 then .dst 2 else .dst 1

/-- A privileged register is 32 bits wide: SV_LMDROP and SV_DLMISS (R225). -/
def sv32 (sel : BitVec 16) : Bool := sel.toNat = 0x108 ∨ (0x110 ≤ sel.toNat ∧ sel.toNat ≤ 0x117)

/-- The register operands of every instruction. An event has none. Where an operand is a pair of a pointer instruction (R43
to R47), R50 names pairs and no rule refuses an integer constant or a predicate there: the model takes both, as R211 and R213
give them values, but for PADD.i64's b, for which R43 names a pair beside the constant of `.i32` (log 53, DESIGN CHOICE). -/
def slots : Instr → List Slot
  | .iadd f | .isub f | .imul f | .imulh f | .idiv f | .irem f | .imin f | .imax f | .iadds f | .isubs f
  | .andOp f | .orOp f | .xorOp f | .andn f | .shl f | .shr f | .sar f => int2 f
  | .imad f | .shf f | .permb f => int3 f
  | .imadw f => a3 f (.dst 2) (si 1) (si 1) (si 2)
  | .iabs f | .ineg f | .brev f | .mov f => int1 f
  | .bfe f => a3 f (.dst (wordsI f.ty)) (si (wordsI f.ty)) rk rk
  | .bfi f => a3 f (.dst (wordsI f.ty)) (si (wordsI f.ty)) (si (wordsI f.ty)) rk
  | .popc f | .clz f | .ctz f => a3 f (.dst 1) (si (wordsI f.ty)) .unused .unused
  | .isetp f => a3 f .pdst (si (wordsI f.ty)) (si (wordsI f.ty))
      (if f.flg.toNat < 6 then .unused else .src (wordsI f.ty) .int false)
  | .sel f => a3 f (.dst (wordsI f.ty)) (si (wordsI f.ty)) (si (wordsI f.ty)) .psrc
  | .nop f => a3 f .unused .unused .unused .unused
  | .psetp f => a3 f .pdst .psrc (if f.flg = 5#4 then .unused else .psrc) .unused
  | .p2v f => a3 f (.vdst 1) .unused .unused .unused
  | .v2p f => a3 f .unused (si 1) (.cst 63) .unused
  | .vote f => a3 f (if f.flg.toNat < 3 then .pdst else .dst 1) (.src 1 .none true) .unused .unused
  | .matchOp f => a3 f (.vdst 1) (si (wordsI f.ty)) .unused .unused
  | .shfl f => a3 f (.dst (wordsI f.ty)) (rg (wordsI f.ty)) rk .segment
  | .fadd f | .fsub f | .fmul f | .fdiv f | .fcopysign f | .fmin f | .fmax f | .fminm f | .fmaxm f => flt2 f
  | .ffma f => flt3 f
  | .fabs f | .fneg f | .fsqrt f | .frsq f | .fexp2 f | .flog2 f | .frnd f => flt1 f
  | .fscale f => a3 f (.dst (wordsF f.ty)) (sf f.ty) rk .unused
  | .fgetexp f | .fclass f => a3 f (.dst 1) (sf f.ty) .unused .unused
  | .fsetp f => a3 f .pdst (sf f.ty) (sf f.ty) (if f.flg = 8#4 then sf f.ty else .unused)
  | .fcvt f | .fcvtSat f => a3 f (.dst (wordsF f.ty)) (sf f.flg) .unused .unused
  | .fcvti t f => a3 f (.dst (if t = .i64 ∨ t = .n64 then 2 else 1)) (sf f.flg) .unused .unused
  | .icvtf f => a3 f (.dst (wordsF f.ty))
      (if f.flg = 8#4 then .src 1 .none true else si (wordsI f.flg)) .unused .unused
  | .fpack f => a3 f (.dst 1) (sf 2#4) (sf 2#4) .unused
  | .funpk f => a3 f (.dst 1) (sf f.ty) .unused .unused
  | .fdot2 f => a3 f (.dst 1) (sf f.ty) (sf f.ty) (sf 2#4)
  | .fqblk f => a3 f (.vdst 1) (sf 2#4) .unused .unused
  | .fnxenc f => a3 f (.dst 1) (sf 2#4) .unused .unused
  | .fnxdec f => a3 f (.dst 1) (.src 1 .none true) .unused .unused
  | .padd f => a3 f (.dst 2) (si 2) (if f.ty = 2#4 then rk else rg 2) .unused
  | .psub f => a3 f (.dst 2) (si 2) (si 2) .pdst
  | .peq f | .plt f | .ple f => a3 f .pdst (si 2) (si 2) .unused
  | .pname f => a3 f (.vdst 4) (si 2) .unused .unused
  | .pext f => a3 f (.dst 1) (si 2) (.cst 4) .unused
  | .cairn f => a3 f (.sdst 1) (.ssrc 4 .none) .unused .unused
  | .mzero f => a3 f .unused rk rk rk
  | .sring f => a3 f .unused sk (.ssrc 2 .none) .unused
  | .sawaitFree f | .sawaitFull f | .spub f | .srel f => a3 f .unused sk sk .unused
  | .iaddImm f | .imulImm f | .andImm f | .orImm f | .xorImm f => iSlots f (.dst 1) (si 1)
  | .iaddImm64 f => iSlots f (.dst 2) (si 2)
  | .movi f => iSlots f (.dst 1) .unused
  | .moviI64 f | .moviF64 f | .lea f => iSlots f (.dst 2) .unused
  | .syncw f => [⟨f.dst, .unused, false⟩, maskSlot f]
  | .rarriveM f | .rarriveK f | .rsyncM f | .rsyncK f => iSlots f rk rk
  | .rwait f => [⟨f.dst, rk, false⟩, maskSlot f]
  | .ldGlobal f | .ldGlobalSigned f => ldSlots f gAddr
  | .ldScratch f | .ldScratchSigned f | .ldWeight f | .ldActivation f | .ldAccumulator f => ldSlots f lAddr
  | .stGlobal f => stSlots f gAddr
  | .stScratch f | .stWeight f | .stActivation f | .stAccumulator f => stSlots f lAddr
  | .ldn f => ⟨f.data, .dst 2, false⟩ :: gAddr f
  | .stn f => ⟨f.data, rg 2, false⟩ :: gAddr f
  | .atomAdd f => atomSlots .add f
  | .atomMin f => atomSlots .min f
  | .atomMinUnsigned f => atomSlots .minu f
  | .atomMax f => atomSlots .max f
  | .atomMaxUnsigned f => atomSlots .maxu f
  | .atomAnd f => atomSlots .and f
  | .atomOr f => atomSlots .or f
  | .atomXor f => atomSlots .xor f
  | .atomExch f => atomSlots .exch f
  | .atomCas f => atomSlots .cas f
  | .atomInc f => atomSlots .inc f
  | .atomDec f => atomSlots .dec f
  | .atomFadd f => atomSlots .fadd f
  | .atomFmin f => atomSlots .fmin f
  | .atomFmax f => atomSlots .fmax f
  | .redAdd f => redSlots .add f
  | .redMin f => redSlots .min f
  | .redMinUnsigned f => redSlots .minu f
  | .redMax f => redSlots .max f
  | .redMaxUnsigned f => redSlots .maxu f
  | .redAnd f => redSlots .and f
  | .redOr f => redSlots .or f
  | .redXor f => redSlots .xor f
  | .redInc f => redSlots .inc f
  | .redDec f => redSlots .dec f
  | .redFadd f => redSlots .fadd f
  | .redFmin f => redSlots .fmin f
  | .redFmax f => redSlots .fmax f
  | .ldg2l f => ⟨f.data, rg 1, false⟩ :: gAddr f
  | .prefetch f | .cinv f | .cclean f => ⟨f.data, .unused, false⟩ :: gAddr f
  | .fence f | .fenceSc f => [⟨f.data, .unused, false⟩, ⟨f.base, .unused, false⟩, ⟨f.index, .unused, false⟩]
  | .qpush f | .qpop f => ⟨f.data, .cst 31, false⟩ :: lAddr f
  | .bra f | .exitOp f | .yield f => [⟨f.opnd, .unused, false⟩]
  | .brx f | .ret f => [⟨f.opnd, rg 2, false⟩]
  | .call f => [⟨f.opnd, .dst 2, false⟩]
  | .mma f | .mdrain f | .xcopy f | .xgather f | .xlevel f => eSlots f .unused
  | .dpload f => eSlots f (.cst 3)
  | .rbegin f => eSlots f sk
  | .waitc f => [⟨f.p, .cst 63, false⟩, ⟨f.q, .unused, false⟩]
  | .srd f => xSlots f (srdKind f.sel) .unused
  | .clock f => xSlots f (.dst 2) .unused
  | .qstat f => xSlots f (.dst 1) (.cst 31)
  | .cairnq f | .rquery f => xSlots f (.sdst 4) sk
  | .cairnx f | .tktake f | .tkpass f | .tkpassEnd f => xSlots f .unused sk
  | .mstat f | .xstat f => xSlots f (.dst 1) .unused
  | .rchild f => xSlots f (.vdst 2) .unused
  | .rdone f | .lower f | .trap f | .bkpt f | .svret f => xSlots f .unused .unused
  | .rframe f => xSlots f (if f.sel = 2#16 then .vdst 1 else .vdst 2) .unused
  | .rres f => xSlots f (.vdst 2) rk
  | .srdp f => xSlots f (.sdst (if sv32 f.sel then 1 else 2)) .unused
  | .swrp f | .queueBind f | .queueStop f | .queueReactivate f | .queueUnbind f | .svRangeStage f
  | .svRangeApply f => xSlots f (if f.dst = Operand.zero then .unused else .pdst) (.ssrc 2 .none)
  | .tlbiWorld f | .tlbiAll f | .wsetPause f | .wsetUnpause f | .wsetReset f | .haltcResume f =>
      xSlots f .unused .unused
  | .tlbiPage f | .wsetResume f | .wsetRestart f | .wsetCancel f | .wsetKill f | .haltcDrain f | .haltcImm f
  | .haltcStep f => xSlots f .unused (.ssrc 2 .none)
  | _ => []

/-- The type, round and flags fields of an A3 word (R208, R214, R215): a type of the list, a flags value of the
list, and a round code 0, or 0 to 5 where the instruction rounds. -/
def a3Codes (f : FmtA3) (types flags : List Nat) (rounds : Bool) : Bool :=
  decide (f.ty.toNat ∈ types) && decide (f.flg.toNat ∈ flags)
    && (if rounds then decide (f.rnd.toNat < 6) else decide (f.rnd = 0#3))

/-- The integer types of full width. -/
abbrev tyW : List Nat := [2, 3, 6, 7]
/-- The float types with and without the packed ones. -/
abbrev tyF : List Nat := [0, 1, 2, 3]
@[inherit_doc tyF] abbrev tyFP : List Nat := [0, 1, 2, 3, 8, 9]

/-- Orders and scopes of a format M word (R216): the order is one of the list; scope 0 with plain and invariant
order, 0 to 6 with any other. R273 counts invariant among the non-plain orders, which take every scope; R216 is the rule of
the field and the model follows it (log 53, DEDUCED). -/
def orders (f : FmtM) (l : List Nat) : Bool :=
  decide (f.order.toNat ∈ l)
    && (if f.order.toNat < 2 then decide (f.scope = 0#3) else decide (f.scope.toNat < 7))

/-- The width code is one of the list. -/
def widths (f : FmtM) (l : List Nat) : Bool := decide (f.width.toNat ∈ l)

/-- A control instruction's fields (R246). -/
def bCodes (f : FmtB) (target : Bool) : Bool :=
  decide (f.mode = 0#4) && decide (f.rsv = 0#5) && (target || decide (f.target = 0#32))

/-- An engine command's class, mode and reserved fields (R210). -/
def eCodes (f : FmtE) (cls : Nat) (modes : List Nat) : Bool :=
  decide (f.cls.toNat = cls) && decide (f.mode.toNat ∈ modes) && decide (f.rsv = 0#26)
    && (decide (f.mode ≠ 0#3) || (match f.p with
          | .s n => decide (n.toNat ≤ 48)
          | _ => false))

/-- A format X word's selector and reserved fields. -/
def xCodes (f : FmtX) (p : Nat → Bool) : Bool := p f.sel.toNat && decide (f.rsv = 0#16)

/-- SRDP may read the selector: it is assigned (R225). -/
def svReadable (n : Nat) : Bool :=
  (0x100 ≤ n && n ≤ 0x108) || (0x110 ≤ n && n ≤ 0x117) || (0x120 ≤ n && n ≤ 0x17F)
    || (0x180 ≤ n && n ≤ 0x184) || (0x190 ≤ n && n ≤ 0x194) || (0x1A0 ≤ n && n ≤ 0x1BF)

/-- SWRP may write the selector: it is assigned and not read-only (R224, R225). -/
def svWritable (n : Nat) : Bool :=
  svReadable n && !(n = 0x101 || n = 0x103 || (0x191 ≤ n && n ≤ 0x194))

/-- The fields of an instruction outside its operand slots hold values the spec allows. -/
def codesOk : Instr → Bool
  | .iadd f | .isub f | .imin f | .imax f => a3Codes f [2, 3, 6, 7, 9] [0] false
  | .imul f | .imulh f | .imad f | .idiv f | .irem f | .ineg f | .andOp f | .orOp f | .xorOp f | .andn f
  | .shl f | .shr f | .sar f | .bfe f | .bfi f | .sel f | .mov f => a3Codes f tyW [0] false
  | .imadw f => a3Codes f [2, 6] [0] false
  | .iabs f => a3Codes f [2, 3, 9] [0] false
  | .iadds f | .isubs f => a3Codes f [0, 1, 2, 3, 4, 5, 6, 7, 9] [0] false
  | .shf f => a3Codes f [6] [0, 1] false
  | .popc f | .clz f | .ctz f | .brev f => a3Codes f [6, 7] [0] false
  | .permb f => a3Codes f [6] [0] false
  | .isetp f => a3Codes f tyW [0, 1, 2, 3, 4, 5, 6, 7] false
  | .nop f | .p2v f | .v2p f | .cairn f | .mzero f | .sring f | .spub f | .srel f | .sawaitFree f =>
      a3Codes f [0] [0] false
  | .sawaitFull f => a3Codes f [0] [1] false
  | .psetp f | .vote f => a3Codes f [0] [0, 1, 2, 3, 4, 5] false
  | .matchOp f => a3Codes f [6, 7] [0, 1, 2] false
  | .shfl f => a3Codes f [6, 7] [0, 1, 2, 3] false
  | .fadd f | .fsub f | .fmul f | .ffma f => a3Codes f tyFP [0] true
  | .fabs f | .fneg f | .fcopysign f | .fmin f | .fmax f | .fminm f | .fmaxm f => a3Codes f tyFP [0] false
  | .fdiv f | .fsqrt f | .frsq f | .fexp2 f | .flog2 f | .fscale f => a3Codes f tyF [0] true
  | .fgetexp f | .fclass f => a3Codes f tyF [0] false
  | .fsetp f => a3Codes f tyF [0, 1, 2, 3, 4, 5, 6, 7, 8] false
  | .frnd f => a3Codes f tyF [0, 1] true
  | .fcvt f | .fcvtSat f => a3Codes f [0, 1, 2, 3, 4, 5, 6] [0, 1, 2, 3, 4, 5, 6] true
  | .fcvti _ f => a3Codes f [0] [0, 1, 2, 3, 4, 5, 6] true
  | .icvtf f => a3Codes f [0, 1, 2, 3, 4, 5, 6] [0, 1, 2, 3, 4, 5, 6, 7, 8] true
  | .fpack f | .fdot2 f => a3Codes f [8, 9] [0] true
  | .funpk f => a3Codes f [8, 9] [0, 1] false
  | .fqblk f => a3Codes f [4, 6] [0, 1, 2, 3] false
  | .fnxenc f => a3Codes f [7] [0] false
  | .fnxdec f => a3Codes f [0, 1, 2] [0] false
  | .padd f => a3Codes f [2, 3] [0] false
  | .psub f | .peq f | .plt f | .ple f | .pname f => a3Codes f [3] [0] false
  | .pext f => a3Codes f [2] [0] false
  | .iaddImm _ | .iaddImm64 _ | .imulImm _ | .andImm _ | .orImm _ | .xorImm _ | .movi _ | .moviI64 _
  | .moviF64 _ | .lea _ | .rarriveM _ | .rarriveK _ | .rsyncM _ | .rsyncK _ => true
  | .syncw f | .rwait f => decide (f.a = Operand.zero) || decide (f.imm = 0#32)
  | .ldGlobal f => widths f [0, 1, 2, 3, 4] && orders f [0, 1, 2, 5]
  | .ldGlobalSigned f => widths f [0, 1] && orders f [0, 1, 2, 5]
  | .ldScratch f | .ldWeight f | .ldActivation f | .ldAccumulator f =>
      widths f [0, 1, 2, 3, 4] && orders f [0, 2, 5]
  | .ldScratchSigned f => widths f [0, 1] && orders f [0, 2, 5]
  | .stGlobal f | .stScratch f | .stWeight f | .stActivation f | .stAccumulator f =>
      widths f [0, 1, 2, 3, 4] && orders f [0, 3, 5]
  | .ldn f => widths f [4] && orders f [0, 2]
  | .stn f => widths f [4] && orders f [0, 3]
  | .atomAdd f | .atomMin f | .atomMinUnsigned f | .atomMax f | .atomMaxUnsigned f | .atomAnd f | .atomOr f
  | .atomXor f | .atomExch f | .atomCas f | .atomInc f | .atomDec f | .atomFadd f | .atomFmin f
  | .atomFmax f => widths f [2, 3] && orders f [2, 3, 4, 5, 6]
  | .redAdd f | .redMin f | .redMinUnsigned f | .redMax f | .redMaxUnsigned f | .redAnd f | .redOr f
  | .redXor f | .redInc f | .redDec f | .redFadd f | .redFmin f | .redFmax f => widths f [2, 3] && orders f [3, 6]
  | .ldg2l f => widths f [0, 1, 2, 3, 4] && orders f [0]
  | .prefetch f | .cinv f | .cclean f => widths f [0, 1] && orders f [0]
  | .fence f => widths f [0] && orders f [2, 3, 4] && decide (f.imm = 0#14)
  | .fenceSc f => widths f [0] && orders f [5] && decide (f.imm = 0#14)
  | .qpush f | .qpop f => widths f [0] && orders f [0]
  | .bra f | .call f => bCodes f true
  | .brx f | .ret f | .exitOp f | .yield f => bCodes f false
  | .mma f | .mdrain f => eCodes f 1 [0, 1, 2]
  | .dpload f => eCodes f 1 [1, 2]
  | .xcopy f | .xlevel f => eCodes f 0 [0, 1, 2]
  | .xgather f => eCodes f 2 [0, 1, 2]
  | .rbegin f => eCodes f 4 [1, 2]
  | .waitc f => decide (f.cls.toNat < 5) && decide (f.mode = 0#3) && decide (f.rsv = 0#26)
  | .srd f => xCodes f (· < 16)
  | .clock f | .cairnq f | .cairnx f | .tktake f | .tkpass f | .rchild f | .rdone f | .rres f | .lower f
  | .rquery f | .svret f | .wsetResume f | .haltcDrain f => xCodes f (· == 0)
  | .qstat f | .mstat f | .rframe f => xCodes f (· < 3)
  | .tkpassEnd f | .wsetRestart f | .haltcImm f => xCodes f (· == 1)
  | .xstat f => xCodes f (fun n => n < 5 || (8 ≤ n && n < 13))
  | .trap f | .bkpt f => xCodes f (fun _ => true)
  | .srdp f => xCodes f svReadable
  | .swrp f => xCodes f svWritable
  | .queueBind f | .queueStop f | .queueReactivate f | .queueUnbind f => xCodes f (· == 0x183)
  | .svRangeStage f => xCodes f (fun n => 0x120 ≤ n && n ≤ 0x17F && n % 2 == 0)
  | .svRangeApply f => xCodes f (fun n => 0x120 ≤ n && n ≤ 0x17F && n % 2 == 1)
  | .tlbiWorld f => xCodes f (fun n => n % 4 == 0 && n < 8)
  | .tlbiPage f => xCodes f (fun n => n % 4 == 1 && n < 8)
  | .tlbiAll f => xCodes f (fun n => n % 4 == 2 && n < 8)
  | .wsetCancel f | .haltcResume f => xCodes f (· == 2)
  | .wsetKill f | .haltcStep f => xCodes f (· == 3)
  | .wsetPause f => xCodes f (· == 4)
  | .wsetUnpause f => xCodes f (· == 5)
  | .wsetReset f => xCodes f (· == 6)
  | _ => true

/-- The slots that the register-state step checks in the active lanes: SHFL's operand a is read in other lanes, and
its meaning checks those (R242). -/
def regSlots (i : Instr) : List Slot :=
  match i with
  | .shfl f => [dSlot f (.dst (wordsI f.ty)), bSlot f rk]
  | _ => slots i

/-- The sources that the steps before the data step read: addresses, targets, and the operands that select a ridge, a record
or a lane (R221). -/
def earlySlots (i : Instr) : List Slot :=
  match i with
  | .ldGlobal _ | .ldGlobalSigned _ | .ldScratch _ | .ldScratchSigned _ | .ldWeight _ | .ldActivation _ | .ldAccumulator _
  | .stGlobal _ | .stScratch _ | .stWeight _ | .stActivation _ | .stAccumulator _ | .ldn _ | .stn _
  | .atomAdd _ | .atomMin _ | .atomMinUnsigned _ | .atomMax _ | .atomMaxUnsigned _ | .atomAnd _ | .atomOr _ | .atomXor _
  | .atomExch _ | .atomCas _ | .atomInc _ | .atomDec _ | .atomFadd _ | .atomFmin _ | .atomFmax _
  | .redAdd _ | .redMin _ | .redMinUnsigned _ | .redMax _ | .redMaxUnsigned _ | .redAnd _ | .redOr _ | .redXor _
  | .redInc _ | .redDec _ | .redFadd _ | .redFmin _ | .redFmax _ => (slots i).drop 1
  | .shfl f => [bSlot f rk]
  | _ => regSlots i

/-- The instruction may write a scalar register from per-lane sources: VOTE (R240). -/
def scalarFromLanes : Instr → Bool
  | .vote _ => true
  | _ => false

/-- A scalar data register of ST has no per-lane base or index (R271). -/
def scalarData : Instr → Bool
  | .stGlobal f | .stScratch f | .stWeight f | .stActivation f | .stAccumulator f =>
      (match f.data with
        | .s _ => !(gAddr f).any Slot.perLane
        | _ => true)
  | _ => true

/-- A scalar destination has no per-lane source (R212), and a scalar data register no per-lane address (R271). -/
def scalarRule (i : Instr) : Bool :=
  (scalarFromLanes i || !((slots i).any Slot.scalarDst) || !((slots i).any Slot.perLane)) && scalarData i

/-- Every field holds a value that some wave accepts: the wave-independent part of the decode step (R219). -/
def fieldsOk (i : Instr) : Bool :=
  codesOk i && (slots i).all Slot.ok && (slots i).all Slot.markOk && scalarRule i

/-- The part of the decode step that depends on the wave: its `.vregs` n, and the first frontier register m
(R186, R212). -/
def fieldsFit (n m : Nat) (i : Instr) : Bool :=
  (slots i).all (Slot.below n) && (slots i).all (Slot.clearOf m)

/-- The instruction is one of the privileged ones (R224), or an SRD of a privileged register (R223). -/
def privileged : Instr → Bool
  | .svret _ | .srdp _ | .swrp _ | .queueBind _ | .queueStop _ | .queueReactivate _ | .queueUnbind _
  | .svRangeStage _ | .svRangeApply _ | .tlbiWorld _ | .tlbiPage _ | .tlbiAll _ | .wsetResume _
  | .wsetRestart _ | .wsetCancel _ | .wsetKill _ | .wsetPause _ | .wsetUnpause _ | .wsetReset _
  | .haltcDrain _ | .haltcImm _ | .haltcResume _ | .haltcStep _ => true
  | .srd f => decide (0x100 ≤ f.sel.toNat)
  | _ => false

/-- The predicate field of an instruction (R209); an event has none. -/
def predOf : Instr → BitVec 4
  | .iadd f | .isub f | .imul f | .imulh f | .imad f | .imadw f | .idiv f | .irem f | .imin f | .imax f
  | .iabs f | .ineg f | .iadds f | .isubs f | .andOp f | .orOp f | .xorOp f | .andn f | .shl f | .shr f
  | .sar f | .shf f | .bfe f | .bfi f | .popc f | .clz f | .ctz f | .brev f | .permb f | .isetp f | .sel f
  | .mov f | .nop f | .psetp f | .p2v f | .v2p f | .vote f | .matchOp f | .shfl f | .fadd f | .fsub f
  | .fmul f | .ffma f | .fabs f | .fneg f | .fdiv f | .fsqrt f | .frsq f | .fexp2 f | .flog2 f | .fscale f
  | .fgetexp f | .fcopysign f | .fmin f | .fmax f | .fminm f | .fmaxm f | .fsetp f | .fclass f | .frnd f
  | .fcvt f | .fcvtSat f | .icvtf f | .fpack f | .funpk f | .fdot2 f | .fqblk f | .fnxenc f | .fnxdec f
  | .padd f | .psub f | .peq f | .plt f | .ple f | .pname f | .pext f | .cairn f | .mzero f | .sring f
  | .sawaitFree f | .sawaitFull f | .spub f | .srel f => f.pred
  | .iaddImm f | .iaddImm64 f | .imulImm f | .andImm f | .orImm f | .xorImm f | .movi f | .moviI64 f
  | .moviF64 f | .lea f | .syncw f | .rarriveM f | .rarriveK f | .rsyncM f | .rsyncK f | .rwait f => f.pred
  | .ldGlobal f | .ldGlobalSigned f | .ldScratch f | .ldScratchSigned f | .ldWeight f | .ldActivation f
  | .ldAccumulator f | .stGlobal f | .stScratch f | .stWeight f | .stActivation f | .stAccumulator f
  | .ldn f | .stn f | .atomAdd f | .atomMin f | .atomMinUnsigned f | .atomMax f | .atomMaxUnsigned f
  | .atomAnd f | .atomOr f | .atomXor f | .atomExch f | .atomCas f | .atomInc f | .atomDec f | .atomFadd f
  | .atomFmin f | .atomFmax f | .redAdd f | .redMin f | .redMinUnsigned f | .redMax f | .redMaxUnsigned f
  | .redAnd f | .redOr f | .redXor f | .redInc f | .redDec f | .redFadd f | .redFmin f | .redFmax f
  | .ldg2l f | .prefetch f | .cinv f | .cclean f | .fence f | .fenceSc f | .qpush f | .qpop f => f.pred
  | .bra f | .brx f | .call f | .ret f | .exitOp f | .yield f => f.pred
  | .mma f | .mdrain f | .dpload f | .xcopy f | .xgather f | .xlevel f | .waitc f | .rbegin f => f.pred
  | .srd f | .clock f | .qstat f | .cairnq f | .cairnx f | .tktake f | .tkpass f | .tkpassEnd f | .mstat f
  | .xstat f | .rchild f | .rdone f | .rframe f | .rres f | .rquery f | .lower f | .trap f | .bkpt f
  | .svret f | .srdp f | .swrp f | .tlbiWorld f | .tlbiPage f | .tlbiAll f | .wsetResume f | .wsetRestart f
  | .wsetCancel f | .wsetKill f | .wsetPause f | .wsetUnpause f | .wsetReset f | .haltcDrain f
  | .haltcImm f | .haltcResume f | .haltcStep f | .queueBind f | .queueStop f | .queueReactivate f
  | .queueUnbind f | .svRangeStage f | .svRangeApply f => f.pred
  | .fcvti _ f => f.pred
  | _ => 7#4

/-- The instruction has words of its own: it is no event, and no row of SWRP's words (QUEUE_BIND and its like). -/
def encodable : Instr → Bool
  | .iadd _ | .isub _ | .imul _ | .imulh _ | .imad _ | .imadw _ | .idiv _ | .irem _ | .imin _ | .imax _
  | .iabs _ | .ineg _ | .iadds _ | .isubs _ | .andOp _ | .orOp _ | .xorOp _ | .andn _ | .shl _ | .shr _
  | .sar _ | .shf _ | .bfe _ | .bfi _ | .popc _ | .clz _ | .ctz _ | .brev _ | .permb _ | .isetp _ | .sel _
  | .mov _ | .nop _ | .psetp _ | .p2v _ | .v2p _ | .iaddImm _ | .iaddImm64 _ | .imulImm _ | .andImm _
  | .orImm _ | .xorImm _ | .movi _ | .moviI64 _ | .moviF64 _ | .lea _ | .vote _ | .matchOp _ | .shfl _
  | .syncw _ | .srd _ | .clock _ | .bra _ | .brx _ | .call _ | .ret _ | .exitOp _ | .yield _ | .fadd _
  | .fsub _ | .fmul _ | .ffma _ | .fabs _ | .fneg _ | .fdiv _ | .fsqrt _ | .frsq _ | .fexp2 _ | .flog2 _
  | .fscale _ | .fgetexp _ | .fcopysign _ | .fmin _ | .fmax _ | .fminm _ | .fmaxm _ | .fsetp _ | .fclass _
  | .frnd _ | .fcvt _ | .fcvtSat _ | .fcvti _ _ | .icvtf _ | .fpack _ | .funpk _ | .fdot2 _ | .fqblk _
  | .fnxenc _ | .fnxdec _ | .ldGlobal _ | .ldGlobalSigned _ | .ldScratch _ | .ldScratchSigned _
  | .ldWeight _ | .ldActivation _ | .ldAccumulator _ | .stGlobal _ | .stScratch _ | .stWeight _
  | .stActivation _ | .stAccumulator _ | .ldn _ | .stn _ | .padd _ | .psub _ | .peq _ | .plt _ | .ple _
  | .pname _ | .pext _ | .atomAdd _ | .atomMin _ | .atomMinUnsigned _ | .atomMax _ | .atomMaxUnsigned _
  | .atomAnd _ | .atomOr _ | .atomXor _ | .atomExch _ | .atomCas _ | .atomInc _ | .atomDec _ | .atomFadd _
  | .atomFmin _ | .atomFmax _ | .redAdd _ | .redMin _ | .redMinUnsigned _ | .redMax _ | .redMaxUnsigned _
  | .redAnd _ | .redOr _ | .redXor _ | .redInc _ | .redDec _ | .redFadd _ | .redFmin _ | .redFmax _
  | .ldg2l _ | .prefetch _ | .cinv _ | .cclean _ | .fence _ | .fenceSc _ | .qpush _ | .qpop _ | .qstat _
  | .cairn _ | .cairnq _ | .cairnx _ | .mma _ | .mzero _ | .mdrain _ | .dpload _ | .tktake _ | .tkpass _
  | .tkpassEnd _ | .mstat _ | .xcopy _ | .xgather _ | .xlevel _ | .xstat _ | .waitc _ | .sring _
  | .sawaitFree _ | .sawaitFull _ | .spub _ | .srel _ | .rbegin _ | .rchild _ | .rdone _ | .rframe _
  | .rres _ | .rarriveM _ | .rarriveK _ | .rsyncM _ | .rsyncK _ | .rwait _ | .rquery _ | .lower _ | .trap _
  | .bkpt _ | .svret _ | .srdp _ | .swrp _ | .tlbiWorld _ | .tlbiPage _ | .tlbiAll _ | .wsetResume _
  | .wsetRestart _ | .wsetCancel _ | .wsetKill _ | .wsetPause _ | .wsetUnpause _ | .wsetReset _
  | .haltcDrain _ | .haltcImm _ | .haltcResume _ | .haltcStep _ 
  | .svRangeStage _ | .svRangeApply _ => true
  | _ => false

end Sys2Proof.Machine
end

