-- ==== Sys2Proof/WellFormed.lean ====
section
/-! DEFINITION. Well-formed instructions: every field holds a value the spec allows (R208 to R217, R224). An
instruction that is not well formed raises RESERVED_FIELD when a wave runs it (R219). -/

namespace Sys2Proof

/-- An instruction with an encoding whose fields hold allowed values. -/
def Instr.wf (i : Instr) : Bool := Machine.encodable i && Machine.fieldsOk i

end Sys2Proof
end

