-- ==== Sys2Proof/Decode.lean ====
section
/-! DEFINITION. Decoding a 64-bit instruction word (R208, R211, R218) and, after it, encoding one.
Decoding is total: a word gives an instruction, or is refused by name. A refused field of an assigned opcode is no
refusal here: the instruction comes back and raises RESERVED_FIELD when it runs (R219). -/

namespace Sys2Proof

/-- Why a word is no instruction (R219). -/
inductive DecodeError where
  /-- An unassigned or reserved opcode: ILLEGAL_OPCODE at issue. -/
  | illegalOpcode
  /-- An opcode of the header space: MALFORMED_CLAUSE at the fetch. -/
  | malformedClause
  /-- A selector or flags value that names no operation of a shared opcode: RESERVED_FIELD at issue. -/
  | reservedField
  /-- Fewer than eight bytes. -/
  | tooShort
  deriving DecidableEq, Repr

/-- Bits [lo+len-1 : lo] of a word, as a number. -/
def field (w : DWord) (lo len : Nat) : Nat := w.toNat / 2 ^ lo % 2 ^ len

/-- The operand of a 9-bit code (R211). -/
def Operand.ofCode (c : Nat) : Operand :=
  if c < 0x100 then .v (BitVec.ofNat 8 c)
  else if c < 0x140 then .s (BitVec.ofNat 6 (c - 0x100))
  else if c < 0x148 then .p (BitVec.ofNat 3 (c - 0x140))
  else if c < 0x180 then .rsv (BitVec.ofNat 9 c)
  else if c < 0x1C0 then .pos (BitVec.ofNat 6 (c - 0x180))
  else if c < 0x1E0 then .neg (BitVec.ofNat 5 (c - 0x1C0))
  else if c < 0x1F0 then .flt (BitVec.ofNat 4 (c - 0x1E0))
  else .rsv (BitVec.ofNat 9 c)

/-- The 9-bit code of an operand (R211). -/
def Operand.code : Operand → Nat
  | .v n => n.toNat
  | .s n => 0x100 + n.toNat
  | .p n => 0x140 + n.toNat
  | .pos k => 0x180 + k.toNat
  | .neg k => 0x1C0 + k.toNat
  | .flt k => 0x1E0 + k.toNat
  | .rsv c => c.toNat

/-- The operand field at bit `lo`. -/
def opndAt (w : DWord) (lo : Nat) : Operand := Operand.ofCode (field w lo 9)

/-- The fields of the six formats (R208). -/
def FmtA3.ofWord (w : DWord) : FmtA3 :=
  { dst := opndAt w 45, a := opndAt w 36, b := opndAt w 27, c := opndAt w 18
    pred := BitVec.ofNat 4 (field w 14 4), ty := BitVec.ofNat 4 (field w 10 4)
    rnd := BitVec.ofNat 3 (field w 7 3), mark := BitVec.ofNat 3 (field w 4 3), flg := BitVec.ofNat 4 (field w 0 4) }
@[inherit_doc FmtA3.ofWord] def FmtAI.ofWord (w : DWord) : FmtAI :=
  { dst := opndAt w 45, a := opndAt w 36, imm := BitVec.ofNat 32 (field w 4 32), pred := BitVec.ofNat 4 (field w 0 4) }
@[inherit_doc FmtA3.ofWord] def FmtM.ofWord (w : DWord) : FmtM :=
  { data := opndAt w 45, base := opndAt w 36, index := opndAt w 27, imm := BitVec.ofNat 14 (field w 13 14)
    pred := BitVec.ofNat 4 (field w 9 4), width := BitVec.ofNat 3 (field w 6 3)
    scope := BitVec.ofNat 3 (field w 3 3), order := BitVec.ofNat 3 (field w 0 3) }
@[inherit_doc FmtA3.ofWord] def FmtB.ofWord (w : DWord) : FmtB :=
  { pred := BitVec.ofNat 4 (field w 50 4), mode := BitVec.ofNat 4 (field w 46 4), opnd := opndAt w 37
    rsv := BitVec.ofNat 5 (field w 32 5), target := BitVec.ofNat 32 (field w 0 32) }
@[inherit_doc FmtA3.ofWord] def FmtE.ofWord (w : DWord) : FmtE :=
  { p := opndAt w 45, q := opndAt w 36, pred := BitVec.ofNat 4 (field w 32 4), cls := BitVec.ofNat 3 (field w 29 3)
    mode := BitVec.ofNat 3 (field w 26 3), rsv := BitVec.ofNat 26 (field w 0 26) }
@[inherit_doc FmtA3.ofWord] def FmtX.ofWord (w : DWord) : FmtX :=
  { dst := opndAt w 45, a := opndAt w 36, sel := BitVec.ofNat 16 (field w 20 16)
    pred := BitVec.ofNat 4 (field w 16 4), rsv := BitVec.ofNat 16 (field w 0 16) }

/-- The word of an opcode and the fields of a format (R208). -/
def FmtA3.toWord (f : FmtA3) (op : Nat) : DWord :=
  BitVec.ofNat 64 (op * 2 ^ 54 + f.dst.code * 2 ^ 45 + f.a.code * 2 ^ 36 + f.b.code * 2 ^ 27 + f.c.code * 2 ^ 18
    + f.pred.toNat * 2 ^ 14 + f.ty.toNat * 2 ^ 10 + f.rnd.toNat * 2 ^ 7 + f.mark.toNat * 2 ^ 4 + f.flg.toNat)
@[inherit_doc FmtA3.toWord] def FmtAI.toWord (f : FmtAI) (op : Nat) : DWord :=
  BitVec.ofNat 64 (op * 2 ^ 54 + f.dst.code * 2 ^ 45 + f.a.code * 2 ^ 36 + f.imm.toNat * 2 ^ 4 + f.pred.toNat)
@[inherit_doc FmtA3.toWord] def FmtM.toWord (f : FmtM) (op : Nat) : DWord :=
  BitVec.ofNat 64 (op * 2 ^ 54 + f.data.code * 2 ^ 45 + f.base.code * 2 ^ 36 + f.index.code * 2 ^ 27
    + f.imm.toNat * 2 ^ 13 + f.pred.toNat * 2 ^ 9 + f.width.toNat * 2 ^ 6 + f.scope.toNat * 2 ^ 3 + f.order.toNat)
@[inherit_doc FmtA3.toWord] def FmtB.toWord (f : FmtB) (op : Nat) : DWord :=
  BitVec.ofNat 64 (op * 2 ^ 54 + f.pred.toNat * 2 ^ 50 + f.mode.toNat * 2 ^ 46 + f.opnd.code * 2 ^ 37
    + f.rsv.toNat * 2 ^ 32 + f.target.toNat)
@[inherit_doc FmtA3.toWord] def FmtE.toWord (f : FmtE) (op : Nat) : DWord :=
  BitVec.ofNat 64 (op * 2 ^ 54 + f.p.code * 2 ^ 45 + f.q.code * 2 ^ 36 + f.pred.toNat * 2 ^ 32 + f.cls.toNat * 2 ^ 29
    + f.mode.toNat * 2 ^ 26 + f.rsv.toNat)
@[inherit_doc FmtA3.toWord] def FmtX.toWord (f : FmtX) (op : Nat) : DWord :=
  BitVec.ofNat 64 (op * 2 ^ 54 + f.dst.code * 2 ^ 45 + f.a.code * 2 ^ 36 + f.sel.toNat * 2 ^ 20
    + f.pred.toNat * 2 ^ 16 + f.rsv.toNat)

/-- TKPASS and its `.end` form share an opcode (R305); the selector chooses. -/
def tkpassWord (f : FmtX) : Except DecodeError Instr :=
  match f.sel.toNat with
  | 0 => .ok (.tkpass f)
  | 1 => .ok (.tkpassEnd f)
  | _ => .error .reservedField

/-- SAWAIT's two forms share an opcode (R332); the flags choose. -/
def sawaitWord (f : FmtA3) : Except DecodeError Instr :=
  match f.flg.toNat with
  | 0 => .ok (.sawaitFree f)
  | 1 => .ok (.sawaitFull f)
  | _ => .error .reservedField

/-- SWRP (R341); the halves of the range entries have rows of their own (R225). -/
def swrpWord (f : FmtX) : Except DecodeError Instr :=
  if 0x120 ≤ f.sel.toNat ∧ f.sel.toNat ≤ 0x17F then
    if f.sel.toNat % 2 = 0 then .ok (.svRangeStage f) else .ok (.svRangeApply f)
  else .ok (.swrp f)

/-- TLBI's forms share an opcode (R342). -/
def tlbiWord (f : FmtX) : Except DecodeError Instr :=
  if 8 ≤ f.sel.toNat then .error .reservedField
  else match f.sel.toNat % 4 with
    | 0 => .ok (.tlbiWorld f)
    | 1 => .ok (.tlbiPage f)
    | 2 => .ok (.tlbiAll f)
    | _ => .error .reservedField

/-- WSET's operations share an opcode (R343). -/
def wsetWord (f : FmtX) : Except DecodeError Instr :=
  match f.sel.toNat with
  | 0 => .ok (.wsetResume f)
  | 1 => .ok (.wsetRestart f)
  | 2 => .ok (.wsetCancel f)
  | 3 => .ok (.wsetKill f)
  | 4 => .ok (.wsetPause f)
  | 5 => .ok (.wsetUnpause f)
  | 6 => .ok (.wsetReset f)
  | _ => .error .reservedField

/-- HALTC's operations share an opcode (R344). -/
def haltcWord (f : FmtX) : Except DecodeError Instr :=
  match f.sel.toNat with
  | 0 => .ok (.haltcDrain f)
  | 1 => .ok (.haltcImm f)
  | 2 => .ok (.haltcResume f)
  | 3 => .ok (.haltcStep f)
  | _ => .error .reservedField

/-- The opcodes 0x000 to 0x03F (R218). -/
def cell0 (op : Nat) (w : DWord) : Except DecodeError Instr :=
  if op = 0x000 then .ok (.iadd (FmtA3.ofWord w))
  else if op = 0x001 then .ok (.isub (FmtA3.ofWord w))
  else if op = 0x002 then .ok (.imul (FmtA3.ofWord w))
  else if op = 0x003 then .ok (.imulh (FmtA3.ofWord w))
  else if op = 0x004 then .ok (.imad (FmtA3.ofWord w))
  else if op = 0x005 then .ok (.imadw (FmtA3.ofWord w))
  else if op = 0x006 then .ok (.idiv (FmtA3.ofWord w))
  else if op = 0x007 then .ok (.irem (FmtA3.ofWord w))
  else if op = 0x010 then .ok (.imin (FmtA3.ofWord w))
  else if op = 0x011 then .ok (.imax (FmtA3.ofWord w))
  else if op = 0x012 then .ok (.iabs (FmtA3.ofWord w))
  else if op = 0x013 then .ok (.ineg (FmtA3.ofWord w))
  else if op = 0x014 then .ok (.iadds (FmtA3.ofWord w))
  else if op = 0x015 then .ok (.isubs (FmtA3.ofWord w))
  else if op = 0x020 then .ok (.andOp (FmtA3.ofWord w))
  else if op = 0x021 then .ok (.orOp (FmtA3.ofWord w))
  else if op = 0x022 then .ok (.xorOp (FmtA3.ofWord w))
  else if op = 0x023 then .ok (.andn (FmtA3.ofWord w))
  else if op = 0x024 then .ok (.shl (FmtA3.ofWord w))
  else if op = 0x025 then .ok (.shr (FmtA3.ofWord w))
  else if op = 0x026 then .ok (.sar (FmtA3.ofWord w))
  else if op = 0x027 then .ok (.shf (FmtA3.ofWord w))
  else if op = 0x030 then .ok (.bfe (FmtA3.ofWord w))
  else if op = 0x031 then .ok (.bfi (FmtA3.ofWord w))
  else if op = 0x032 then .ok (.popc (FmtA3.ofWord w))
  else if op = 0x033 then .ok (.clz (FmtA3.ofWord w))
  else if op = 0x034 then .ok (.ctz (FmtA3.ofWord w))
  else if op = 0x035 then .ok (.brev (FmtA3.ofWord w))
  else if op = 0x036 then .ok (.permb (FmtA3.ofWord w))
  else .error .illegalOpcode

/-- The opcodes 0x040 to 0x07F (R218). -/
def cell1 (op : Nat) (w : DWord) : Except DecodeError Instr :=
  if op = 0x040 then .ok (.isetp (FmtA3.ofWord w))
  else if op = 0x041 then .ok (.sel (FmtA3.ofWord w))
  else if op = 0x042 then .ok (.mov (FmtA3.ofWord w))
  else if op = 0x043 then .ok (.nop (FmtA3.ofWord w))
  else if op = 0x050 then .ok (.psetp (FmtA3.ofWord w))
  else if op = 0x051 then .ok (.p2v (FmtA3.ofWord w))
  else if op = 0x052 then .ok (.v2p (FmtA3.ofWord w))
  else if op = 0x060 then .ok (.vote (FmtA3.ofWord w))
  else if op = 0x061 then .ok (.matchOp (FmtA3.ofWord w))
  else if op = 0x062 then .ok (.syncw (FmtAI.ofWord w))
  else if op = 0x063 then .ok (.srd (FmtX.ofWord w))
  else if op = 0x064 then .ok (.clock (FmtX.ofWord w))
  else if op = 0x070 then .ok (.shfl (FmtA3.ofWord w))
  else .error .illegalOpcode

/-- The opcodes 0x080 to 0x0BF (R218). -/
def cell2 (op : Nat) (w : DWord) : Except DecodeError Instr :=
  if op = 0x080 then .ok (.iaddImm (FmtAI.ofWord w))
  else if op = 0x081 then .ok (.iaddImm64 (FmtAI.ofWord w))
  else if op = 0x082 then .ok (.imulImm (FmtAI.ofWord w))
  else if op = 0x083 then .ok (.andImm (FmtAI.ofWord w))
  else if op = 0x084 then .ok (.orImm (FmtAI.ofWord w))
  else if op = 0x085 then .ok (.xorImm (FmtAI.ofWord w))
  else if op = 0x090 then .ok (.movi (FmtAI.ofWord w))
  else if op = 0x091 then .ok (.moviI64 (FmtAI.ofWord w))
  else if op = 0x092 then .ok (.moviF64 (FmtAI.ofWord w))
  else if op = 0x093 then .ok (.lea (FmtAI.ofWord w))
  else .error .illegalOpcode

/-- The opcodes 0x0C0 to 0x0FF (R218). -/
def cell3 (op : Nat) (w : DWord) : Except DecodeError Instr :=
  if op = 0x0C0 then .ok (.bra (FmtB.ofWord w))
  else if op = 0x0C1 then .ok (.brx (FmtB.ofWord w))
  else if op = 0x0C2 then .ok (.call (FmtB.ofWord w))
  else if op = 0x0C3 then .ok (.ret (FmtB.ofWord w))
  else if op = 0x0C4 then .ok (.exitOp (FmtB.ofWord w))
  else if op = 0x0C5 then .ok (.yield (FmtB.ofWord w))
  else .error .illegalOpcode

/-- The opcodes 0x100 to 0x13F (R218). -/
def cell4 (op : Nat) (w : DWord) : Except DecodeError Instr :=
  if op = 0x100 then .ok (.fadd (FmtA3.ofWord w))
  else if op = 0x101 then .ok (.fsub (FmtA3.ofWord w))
  else if op = 0x102 then .ok (.fmul (FmtA3.ofWord w))
  else if op = 0x103 then .ok (.ffma (FmtA3.ofWord w))
  else if op = 0x110 then .ok (.fabs (FmtA3.ofWord w))
  else if op = 0x111 then .ok (.fneg (FmtA3.ofWord w))
  else if op = 0x120 then .ok (.fdiv (FmtA3.ofWord w))
  else if op = 0x121 then .ok (.fsqrt (FmtA3.ofWord w))
  else if op = 0x122 then .ok (.frsq (FmtA3.ofWord w))
  else if op = 0x123 then .ok (.fexp2 (FmtA3.ofWord w))
  else if op = 0x124 then .ok (.flog2 (FmtA3.ofWord w))
  else if op = 0x130 then .ok (.fscale (FmtA3.ofWord w))
  else if op = 0x131 then .ok (.fgetexp (FmtA3.ofWord w))
  else if op = 0x132 then .ok (.fcopysign (FmtA3.ofWord w))
  else .error .illegalOpcode

/-- The opcodes 0x140 to 0x17F (R218). -/
def cell5 (op : Nat) (w : DWord) : Except DecodeError Instr :=
  if op = 0x140 then .ok (.fmin (FmtA3.ofWord w))
  else if op = 0x141 then .ok (.fmax (FmtA3.ofWord w))
  else if op = 0x142 then .ok (.fminm (FmtA3.ofWord w))
  else if op = 0x143 then .ok (.fmaxm (FmtA3.ofWord w))
  else if op = 0x144 then .ok (.fsetp (FmtA3.ofWord w))
  else if op = 0x145 then .ok (.fclass (FmtA3.ofWord w))
  else if op = 0x150 then .ok (.frnd (FmtA3.ofWord w))
  else if op = 0x160 then .ok (.fcvt (FmtA3.ofWord w))
  else if op = 0x161 then .ok (.fcvtSat (FmtA3.ofWord w))
  else if op = 0x170 then .ok (.fcvti .i8 (FmtA3.ofWord w))
  else if op = 0x171 then .ok (.fcvti .i16 (FmtA3.ofWord w))
  else if op = 0x172 then .ok (.fcvti .i32 (FmtA3.ofWord w))
  else if op = 0x173 then .ok (.fcvti .i64 (FmtA3.ofWord w))
  else if op = 0x174 then .ok (.fcvti .n8 (FmtA3.ofWord w))
  else if op = 0x175 then .ok (.fcvti .n16 (FmtA3.ofWord w))
  else if op = 0x176 then .ok (.fcvti .n32 (FmtA3.ofWord w))
  else if op = 0x177 then .ok (.fcvti .n64 (FmtA3.ofWord w))
  else if op = 0x178 then .ok (.fcvti .i4 (FmtA3.ofWord w))
  else if op = 0x17F then .ok (.icvtf (FmtA3.ofWord w))
  else .error .illegalOpcode

/-- The opcodes 0x180 to 0x1BF (R218). -/
def cell6 (op : Nat) (w : DWord) : Except DecodeError Instr :=
  if op = 0x180 then .ok (.fpack (FmtA3.ofWord w))
  else if op = 0x181 then .ok (.funpk (FmtA3.ofWord w))
  else if op = 0x190 then .ok (.fdot2 (FmtA3.ofWord w))
  else if op = 0x191 then .ok (.fqblk (FmtA3.ofWord w))
  else if op = 0x192 then .ok (.fnxenc (FmtA3.ofWord w))
  else if op = 0x193 then .ok (.fnxdec (FmtA3.ofWord w))
  else .error .illegalOpcode

/-- The opcodes 0x1C0 to 0x1FF (R218). -/
def cell7 (op : Nat) (w : DWord) : Except DecodeError Instr :=
  if op = 0x1C0 then .ok (.ldGlobal (FmtM.ofWord w))
  else if op = 0x1C1 then .ok (.ldGlobalSigned (FmtM.ofWord w))
  else if op = 0x1C2 then .ok (.stGlobal (FmtM.ofWord w))
  else if op = 0x1C4 then .ok (.ldScratch (FmtM.ofWord w))
  else if op = 0x1C5 then .ok (.ldScratchSigned (FmtM.ofWord w))
  else if op = 0x1C6 then .ok (.stScratch (FmtM.ofWord w))
  else if op = 0x1C8 then .ok (.ldWeight (FmtM.ofWord w))
  else if op = 0x1C9 then .ok (.ldActivation (FmtM.ofWord w))
  else if op = 0x1CA then .ok (.ldAccumulator (FmtM.ofWord w))
  else if op = 0x1CB then .ok (.stWeight (FmtM.ofWord w))
  else if op = 0x1CC then .ok (.stActivation (FmtM.ofWord w))
  else if op = 0x1CD then .ok (.stAccumulator (FmtM.ofWord w))
  else if op = 0x1D0 then .ok (.ldn (FmtM.ofWord w))
  else if op = 0x1D1 then .ok (.stn (FmtM.ofWord w))
  else if op = 0x1D2 then .ok (.padd (FmtA3.ofWord w))
  else if op = 0x1D3 then .ok (.psub (FmtA3.ofWord w))
  else if op = 0x1D4 then .ok (.peq (FmtA3.ofWord w))
  else if op = 0x1D5 then .ok (.plt (FmtA3.ofWord w))
  else if op = 0x1D6 then .ok (.ple (FmtA3.ofWord w))
  else if op = 0x1D7 then .ok (.pname (FmtA3.ofWord w))
  else if op = 0x1D8 then .ok (.pext (FmtA3.ofWord w))
  else if op = 0x1E0 then .ok (.atomAdd (FmtM.ofWord w))
  else if op = 0x1E1 then .ok (.atomMin (FmtM.ofWord w))
  else if op = 0x1E2 then .ok (.atomMinUnsigned (FmtM.ofWord w))
  else if op = 0x1E3 then .ok (.atomMax (FmtM.ofWord w))
  else if op = 0x1E4 then .ok (.atomMaxUnsigned (FmtM.ofWord w))
  else if op = 0x1E5 then .ok (.atomAnd (FmtM.ofWord w))
  else if op = 0x1E6 then .ok (.atomOr (FmtM.ofWord w))
  else if op = 0x1E7 then .ok (.atomXor (FmtM.ofWord w))
  else if op = 0x1E8 then .ok (.atomExch (FmtM.ofWord w))
  else if op = 0x1E9 then .ok (.atomCas (FmtM.ofWord w))
  else if op = 0x1EA then .ok (.atomInc (FmtM.ofWord w))
  else if op = 0x1EB then .ok (.atomDec (FmtM.ofWord w))
  else if op = 0x1EC then .ok (.atomFadd (FmtM.ofWord w))
  else if op = 0x1ED then .ok (.atomFmin (FmtM.ofWord w))
  else if op = 0x1EE then .ok (.atomFmax (FmtM.ofWord w))
  else if op = 0x1F0 then .ok (.redAdd (FmtM.ofWord w))
  else if op = 0x1F1 then .ok (.redMin (FmtM.ofWord w))
  else if op = 0x1F2 then .ok (.redMinUnsigned (FmtM.ofWord w))
  else if op = 0x1F3 then .ok (.redMax (FmtM.ofWord w))
  else if op = 0x1F4 then .ok (.redMaxUnsigned (FmtM.ofWord w))
  else if op = 0x1F5 then .ok (.redAnd (FmtM.ofWord w))
  else if op = 0x1F6 then .ok (.redOr (FmtM.ofWord w))
  else if op = 0x1F7 then .ok (.redXor (FmtM.ofWord w))
  else if op = 0x1FA then .ok (.redInc (FmtM.ofWord w))
  else if op = 0x1FB then .ok (.redDec (FmtM.ofWord w))
  else if op = 0x1FC then .ok (.redFadd (FmtM.ofWord w))
  else if op = 0x1FD then .ok (.redFmin (FmtM.ofWord w))
  else if op = 0x1FE then .ok (.redFmax (FmtM.ofWord w))
  else .error .illegalOpcode

/-- The opcodes 0x200 to 0x23F (R218). -/
def cell8 (op : Nat) (w : DWord) : Except DecodeError Instr :=
  if op = 0x200 then .ok (.ldg2l (FmtM.ofWord w))
  else if op = 0x201 then .ok (.prefetch (FmtM.ofWord w))
  else if op = 0x202 then .ok (.cinv (FmtM.ofWord w))
  else if op = 0x203 then .ok (.cclean (FmtM.ofWord w))
  else if op = 0x210 then .ok (.fence (FmtM.ofWord w))
  else if op = 0x211 then .ok (.fenceSc (FmtM.ofWord w))
  else if op = 0x220 then .ok (.qpush (FmtM.ofWord w))
  else if op = 0x221 then .ok (.qpop (FmtM.ofWord w))
  else if op = 0x222 then .ok (.qstat (FmtX.ofWord w))
  else .error .illegalOpcode

/-- The opcodes 0x280 to 0x2BF (R218). -/
def cell10 (op : Nat) (w : DWord) : Except DecodeError Instr :=
  if op = 0x280 then .ok (.cairn (FmtA3.ofWord w))
  else if op = 0x281 then .ok (.cairnq (FmtX.ofWord w))
  else if op = 0x282 then .ok (.cairnx (FmtX.ofWord w))
  else if op = 0x290 then .ok (.mma (FmtE.ofWord w))
  else if op = 0x291 then .ok (.mzero (FmtA3.ofWord w))
  else if op = 0x292 then .ok (.mdrain (FmtE.ofWord w))
  else if op = 0x293 then .ok (.dpload (FmtE.ofWord w))
  else if op = 0x2A0 then .ok (.tktake (FmtX.ofWord w))
  else if op = 0x2A1 then tkpassWord (FmtX.ofWord w)
  else if op = 0x2A2 then .ok (.mstat (FmtX.ofWord w))
  else .error .illegalOpcode

/-- The opcodes 0x2C0 to 0x2FF (R218). -/
def cell11 (op : Nat) (w : DWord) : Except DecodeError Instr :=
  if op = 0x2E0 then .ok (.xcopy (FmtE.ofWord w))
  else if op = 0x2E1 then .ok (.xgather (FmtE.ofWord w))
  else if op = 0x2E2 then .ok (.xlevel (FmtE.ofWord w))
  else if op = 0x2F0 then .ok (.xstat (FmtX.ofWord w))
  else if op = 0x2F1 then .ok (.waitc (FmtE.ofWord w))
  else .error .illegalOpcode

/-- The opcodes 0x300 to 0x33F (R218). -/
def cell12 (op : Nat) (w : DWord) : Except DecodeError Instr :=
  if op = 0x300 then .ok (.sring (FmtA3.ofWord w))
  else if op = 0x301 then sawaitWord (FmtA3.ofWord w)
  else if op = 0x302 then .ok (.spub (FmtA3.ofWord w))
  else if op = 0x303 then .ok (.srel (FmtA3.ofWord w))
  else if op = 0x320 then .ok (.rbegin (FmtE.ofWord w))
  else if op = 0x321 then .ok (.rchild (FmtX.ofWord w))
  else if op = 0x322 then .ok (.rdone (FmtX.ofWord w))
  else if op = 0x323 then .ok (.rframe (FmtX.ofWord w))
  else if op = 0x324 then .ok (.rres (FmtX.ofWord w))
  else .error .illegalOpcode

/-- The opcodes 0x340 to 0x37F (R218). -/
def cell13 (op : Nat) (w : DWord) : Except DecodeError Instr :=
  if op = 0x340 then .ok (.rarriveM (FmtAI.ofWord w))
  else if op = 0x341 then .ok (.rarriveK (FmtAI.ofWord w))
  else if op = 0x342 then .ok (.rsyncM (FmtAI.ofWord w))
  else if op = 0x343 then .ok (.rsyncK (FmtAI.ofWord w))
  else if op = 0x344 then .ok (.rwait (FmtAI.ofWord w))
  else if op = 0x345 then .ok (.rquery (FmtX.ofWord w))
  else if op = 0x346 then .ok (.lower (FmtX.ofWord w))
  else if op = 0x350 then .ok (.trap (FmtX.ofWord w))
  else if op = 0x351 then .ok (.bkpt (FmtX.ofWord w))
  else if op = 0x360 then .ok (.svret (FmtX.ofWord w))
  else if op = 0x361 then .ok (.srdp (FmtX.ofWord w))
  else if op = 0x362 then swrpWord (FmtX.ofWord w)
  else if op = 0x363 then tlbiWord (FmtX.ofWord w)
  else if op = 0x364 then wsetWord (FmtX.ofWord w)
  else if op = 0x365 then haltcWord (FmtX.ofWord w)
  else .error .illegalOpcode

/-- The instruction a 64-bit word encodes (R208, R218, R219): the opcode is bits [63:54]. Header space is
malformed where an instruction is expected; every unassigned or reserved opcode is illegal. -/
def decodeWord (w : DWord) : Except DecodeError Instr :=
  let op := field w 54 10
  match op / 64 with
  | 0 => cell0 op w
  | 1 => cell1 op w
  | 2 => cell2 op w
  | 3 => cell3 op w
  | 4 => cell4 op w
  | 5 => cell5 op w
  | 6 => cell6 op w
  | 7 => cell7 op w
  | 8 => cell8 op w
  | 10 => cell10 op w
  | 11 => cell11 op w
  | 12 => cell12 op w
  | 13 => cell13 op w
  | 15 => if op < 0x3E0 then .error .illegalOpcode else .error .malformedClause
  | _ => .error .illegalOpcode

/-- The opcode of FCVTI's destination types (R262). -/
def cvtIndex : CvtInt → Nat
  | .i8 => 0
  | .i16 => 1
  | .i32 => 2
  | .i64 => 3
  | .n8 => 4
  | .n16 => 5
  | .n32 => 6
  | .n64 => 7
  | .i4 => 8

/-- The word of an instruction, from the same tables. An event has none; nor have the rows QUEUE_BIND,
QUEUE_STOP, QUEUE_REACTIVATE and QUEUE_UNBIND, whose words are SWRPs to SV_QUEUESTATE (R348). -/
def encode : Instr → Option DWord
  | .iadd f => some (f.toWord 0x000)
  | .isub f => some (f.toWord 0x001)
  | .imul f => some (f.toWord 0x002)
  | .imulh f => some (f.toWord 0x003)
  | .imad f => some (f.toWord 0x004)
  | .imadw f => some (f.toWord 0x005)
  | .idiv f => some (f.toWord 0x006)
  | .irem f => some (f.toWord 0x007)
  | .imin f => some (f.toWord 0x010)
  | .imax f => some (f.toWord 0x011)
  | .iabs f => some (f.toWord 0x012)
  | .ineg f => some (f.toWord 0x013)
  | .iadds f => some (f.toWord 0x014)
  | .isubs f => some (f.toWord 0x015)
  | .andOp f => some (f.toWord 0x020)
  | .orOp f => some (f.toWord 0x021)
  | .xorOp f => some (f.toWord 0x022)
  | .andn f => some (f.toWord 0x023)
  | .shl f => some (f.toWord 0x024)
  | .shr f => some (f.toWord 0x025)
  | .sar f => some (f.toWord 0x026)
  | .shf f => some (f.toWord 0x027)
  | .bfe f => some (f.toWord 0x030)
  | .bfi f => some (f.toWord 0x031)
  | .popc f => some (f.toWord 0x032)
  | .clz f => some (f.toWord 0x033)
  | .ctz f => some (f.toWord 0x034)
  | .brev f => some (f.toWord 0x035)
  | .permb f => some (f.toWord 0x036)
  | .isetp f => some (f.toWord 0x040)
  | .sel f => some (f.toWord 0x041)
  | .mov f => some (f.toWord 0x042)
  | .nop f => some (f.toWord 0x043)
  | .psetp f => some (f.toWord 0x050)
  | .p2v f => some (f.toWord 0x051)
  | .v2p f => some (f.toWord 0x052)
  | .iaddImm f => some (f.toWord 0x080)
  | .iaddImm64 f => some (f.toWord 0x081)
  | .imulImm f => some (f.toWord 0x082)
  | .andImm f => some (f.toWord 0x083)
  | .orImm f => some (f.toWord 0x084)
  | .xorImm f => some (f.toWord 0x085)
  | .movi f => some (f.toWord 0x090)
  | .moviI64 f => some (f.toWord 0x091)
  | .moviF64 f => some (f.toWord 0x092)
  | .lea f => some (f.toWord 0x093)
  | .vote f => some (f.toWord 0x060)
  | .matchOp f => some (f.toWord 0x061)
  | .shfl f => some (f.toWord 0x070)
  | .syncw f => some (f.toWord 0x062)
  | .srd f => some (f.toWord 0x063)
  | .clock f => some (f.toWord 0x064)
  | .bra f => some (f.toWord 0x0C0)
  | .brx f => some (f.toWord 0x0C1)
  | .call f => some (f.toWord 0x0C2)
  | .ret f => some (f.toWord 0x0C3)
  | .exitOp f => some (f.toWord 0x0C4)
  | .yield f => some (f.toWord 0x0C5)
  | .fadd f => some (f.toWord 0x100)
  | .fsub f => some (f.toWord 0x101)
  | .fmul f => some (f.toWord 0x102)
  | .ffma f => some (f.toWord 0x103)
  | .fabs f => some (f.toWord 0x110)
  | .fneg f => some (f.toWord 0x111)
  | .fdiv f => some (f.toWord 0x120)
  | .fsqrt f => some (f.toWord 0x121)
  | .frsq f => some (f.toWord 0x122)
  | .fexp2 f => some (f.toWord 0x123)
  | .flog2 f => some (f.toWord 0x124)
  | .fscale f => some (f.toWord 0x130)
  | .fgetexp f => some (f.toWord 0x131)
  | .fcopysign f => some (f.toWord 0x132)
  | .fmin f => some (f.toWord 0x140)
  | .fmax f => some (f.toWord 0x141)
  | .fminm f => some (f.toWord 0x142)
  | .fmaxm f => some (f.toWord 0x143)
  | .fsetp f => some (f.toWord 0x144)
  | .fclass f => some (f.toWord 0x145)
  | .frnd f => some (f.toWord 0x150)
  | .fcvt f => some (f.toWord 0x160)
  | .fcvtSat f => some (f.toWord 0x161)
  | .fcvti t f => some (f.toWord (0x170 + cvtIndex t))
  | .icvtf f => some (f.toWord 0x17F)
  | .fpack f => some (f.toWord 0x180)
  | .funpk f => some (f.toWord 0x181)
  | .fdot2 f => some (f.toWord 0x190)
  | .fqblk f => some (f.toWord 0x191)
  | .fnxenc f => some (f.toWord 0x192)
  | .fnxdec f => some (f.toWord 0x193)
  | .ldGlobal f => some (f.toWord 0x1C0)
  | .ldGlobalSigned f => some (f.toWord 0x1C1)
  | .ldScratch f => some (f.toWord 0x1C4)
  | .ldScratchSigned f => some (f.toWord 0x1C5)
  | .ldWeight f => some (f.toWord 0x1C8)
  | .ldActivation f => some (f.toWord 0x1C9)
  | .ldAccumulator f => some (f.toWord 0x1CA)
  | .stGlobal f => some (f.toWord 0x1C2)
  | .stScratch f => some (f.toWord 0x1C6)
  | .stWeight f => some (f.toWord 0x1CB)
  | .stActivation f => some (f.toWord 0x1CC)
  | .stAccumulator f => some (f.toWord 0x1CD)
  | .ldn f => some (f.toWord 0x1D0)
  | .stn f => some (f.toWord 0x1D1)
  | .padd f => some (f.toWord 0x1D2)
  | .psub f => some (f.toWord 0x1D3)
  | .peq f => some (f.toWord 0x1D4)
  | .plt f => some (f.toWord 0x1D5)
  | .ple f => some (f.toWord 0x1D6)
  | .pname f => some (f.toWord 0x1D7)
  | .pext f => some (f.toWord 0x1D8)
  | .atomAdd f => some (f.toWord 0x1E0)
  | .atomMin f => some (f.toWord 0x1E1)
  | .atomMinUnsigned f => some (f.toWord 0x1E2)
  | .atomMax f => some (f.toWord 0x1E3)
  | .atomMaxUnsigned f => some (f.toWord 0x1E4)
  | .atomAnd f => some (f.toWord 0x1E5)
  | .atomOr f => some (f.toWord 0x1E6)
  | .atomXor f => some (f.toWord 0x1E7)
  | .atomExch f => some (f.toWord 0x1E8)
  | .atomCas f => some (f.toWord 0x1E9)
  | .atomInc f => some (f.toWord 0x1EA)
  | .atomDec f => some (f.toWord 0x1EB)
  | .atomFadd f => some (f.toWord 0x1EC)
  | .atomFmin f => some (f.toWord 0x1ED)
  | .atomFmax f => some (f.toWord 0x1EE)
  | .redAdd f => some (f.toWord 0x1F0)
  | .redMin f => some (f.toWord 0x1F1)
  | .redMinUnsigned f => some (f.toWord 0x1F2)
  | .redMax f => some (f.toWord 0x1F3)
  | .redMaxUnsigned f => some (f.toWord 0x1F4)
  | .redAnd f => some (f.toWord 0x1F5)
  | .redOr f => some (f.toWord 0x1F6)
  | .redXor f => some (f.toWord 0x1F7)
  | .redInc f => some (f.toWord 0x1FA)
  | .redDec f => some (f.toWord 0x1FB)
  | .redFadd f => some (f.toWord 0x1FC)
  | .redFmin f => some (f.toWord 0x1FD)
  | .redFmax f => some (f.toWord 0x1FE)
  | .ldg2l f => some (f.toWord 0x200)
  | .prefetch f => some (f.toWord 0x201)
  | .cinv f => some (f.toWord 0x202)
  | .cclean f => some (f.toWord 0x203)
  | .fence f => some (f.toWord 0x210)
  | .fenceSc f => some (f.toWord 0x211)
  | .qpush f => some (f.toWord 0x220)
  | .qpop f => some (f.toWord 0x221)
  | .qstat f => some (f.toWord 0x222)
  | .cairn f => some (f.toWord 0x280)
  | .cairnq f => some (f.toWord 0x281)
  | .cairnx f => some (f.toWord 0x282)
  | .mma f => some (f.toWord 0x290)
  | .mzero f => some (f.toWord 0x291)
  | .mdrain f => some (f.toWord 0x292)
  | .dpload f => some (f.toWord 0x293)
  | .tktake f => some (f.toWord 0x2A0)
  | .tkpass f => some (f.toWord 0x2A1)
  | .tkpassEnd f => some (f.toWord 0x2A1)
  | .mstat f => some (f.toWord 0x2A2)
  | .xcopy f => some (f.toWord 0x2E0)
  | .xgather f => some (f.toWord 0x2E1)
  | .xlevel f => some (f.toWord 0x2E2)
  | .xstat f => some (f.toWord 0x2F0)
  | .waitc f => some (f.toWord 0x2F1)
  | .sring f => some (f.toWord 0x300)
  | .sawaitFree f => some (f.toWord 0x301)
  | .sawaitFull f => some (f.toWord 0x301)
  | .spub f => some (f.toWord 0x302)
  | .srel f => some (f.toWord 0x303)
  | .rbegin f => some (f.toWord 0x320)
  | .rchild f => some (f.toWord 0x321)
  | .rdone f => some (f.toWord 0x322)
  | .rframe f => some (f.toWord 0x323)
  | .rres f => some (f.toWord 0x324)
  | .rarriveM f => some (f.toWord 0x340)
  | .rarriveK f => some (f.toWord 0x341)
  | .rsyncM f => some (f.toWord 0x342)
  | .rsyncK f => some (f.toWord 0x343)
  | .rwait f => some (f.toWord 0x344)
  | .rquery f => some (f.toWord 0x345)
  | .lower f => some (f.toWord 0x346)
  | .trap f => some (f.toWord 0x350)
  | .bkpt f => some (f.toWord 0x351)
  | .svret f => some (f.toWord 0x360)
  | .srdp f => some (f.toWord 0x361)
  | .swrp f => some (f.toWord 0x362)
  | .tlbiWorld f => some (f.toWord 0x363)
  | .tlbiPage f => some (f.toWord 0x363)
  | .tlbiAll f => some (f.toWord 0x363)
  | .wsetResume f => some (f.toWord 0x364)
  | .wsetRestart f => some (f.toWord 0x364)
  | .wsetCancel f => some (f.toWord 0x364)
  | .wsetKill f => some (f.toWord 0x364)
  | .wsetPause f => some (f.toWord 0x364)
  | .wsetUnpause f => some (f.toWord 0x364)
  | .wsetReset f => some (f.toWord 0x364)
  | .haltcDrain f => some (f.toWord 0x365)
  | .haltcImm f => some (f.toWord 0x365)
  | .haltcResume f => some (f.toWord 0x365)
  | .haltcStep f => some (f.toWord 0x365)
  | .svRangeStage f => some (f.toWord 0x362)
  | .svRangeApply f => some (f.toWord 0x362)
  | _ => none

/-- A 64-bit word's eight bytes, in the order of the hardware: the least significant first (R5). -/
def wordBytes (w : DWord) : List Byte := (List.range 8).map (fun i => w.extractLsb' (8 * i) 8)

/-- The 64-bit word of eight bytes, the least significant first (R5). -/
def bytesWord (bs : List Byte) : DWord :=
  bs.foldr (fun b (acc : DWord) => (acc <<< 8) ||| b.setWidth 64) 0#64

/-- The instruction the decoder reads from bytes: the first eight, little-endian (R5, R203); fewer are no word. -/
def decodeBytes (bs : List Byte) : Except DecodeError (Instr × List Byte) :=
  if bs.length < 8 then .error .tooShort
  else match decodeWord (bytesWord (bs.take 8)) with
    | .ok i => .ok (i, bs.drop 8)
    | .error e => .error e

/-- What the decoder reads from an instruction whose bits are `w`, numbered as the opcode table numbers them:
the instruction word is the first and only word, and the bits above `nbits` are 0. -/
def decodeTableWord (nbits w : Nat) : Option Instr :=
  match decodeBytes (wordBytes (BitVec.ofNat 64 (w % 2 ^ (min nbits 64)))) with
  | .ok (i, _) => some i
  | .error _ => none

end Sys2Proof
end

