-- ==== Sys2Proof/Config.lean ====
section
/-! DEFINITION. What an implementation fixes and the free values of the model.
Every opaque constant here is a value the manual leaves open: nothing in Lean can evaluate one or prove a value of one. -/

namespace Sys2Proof.Config

/-- FREE VALUE (log 2, DESIGN CHOICE): the n-th undefined 32-bit word the machine produces (R11, R22, R57, R194). -/
opaque freeWord : Nat → Word

/-- FREE VALUE (log 2, DESIGN CHOICE): the n-th undefined byte the machine produces (R157, R177, R199, R322). -/
opaque freeByte : Nat → Byte

/-- FREE VALUE (log 5, DESIGN CHOICE): the die-cache set of a 128-byte line; the hash is fixed and not given (R75). -/
opaque setOf : Nat → Fin 16384

/-- The die-cache slice of a 128-byte line: set i is held in the slice of cluster i mod 5 (R75). -/
def sliceOf (line : Nat) : Fin 5 := ⟨(setOf line).val % 5, Nat.mod_lt _ (by decide)⟩

/-- FREE VALUE (log 15, DESIGN CHOICE): the way that the n-th eviction of a full set takes; the spec gives no replacement (R75). -/
opaque victim : Nat → Fin 16

/-- FREE VALUE (log 5, DESIGN CHOICE): the pseudo-channel (stack × 96 + channel) of a 512-byte grain; the hash is not given (R100). -/
opaque channelOf : Nat → Fin 768

/-- FREE VALUE (log 5, DESIGN CHOICE): the data layer of a stack that holds a 512-byte grain; the spec gives no rule (R100, R400). -/
opaque layerOf : Nat → Fin 16

/-- FREE VALUE (log 5, DESIGN CHOICE): the import table's first byte within the device-private region; the spec gives no place (R380). -/
opaque importOffset : Nat

/-- FREE VALUE (log 18, DESIGN CHOICE): the first byte of the resident object table within the device-private region (R32, R87). -/
opaque rotOffset : Nat

/-- FREE VALUE (log 18, DESIGN CHOICE): the first byte of the tier map of a world's range within the device-private region (R87, R89). -/
opaque tierOffset : Nat → Nat → Nat

/-- FREE VALUE (log 18, DESIGN CHOICE): the first byte, within the device-private region, of the device's counters that have no
selector: ROT-exhausted (R36), pool-exhausted of each world (R94), missed deadlines of the I/O dies (R106). -/
opaque counterOffset : Nat

/-- FREE VALUE (log 13, DESIGN CHOICE): the physical byte from which the firmware's code lies in device DRAM; the spec gives no place (R395). -/
opaque firmwareBase : Nat

/-- FREE VALUE (log 13, DESIGN CHOICE): SHA-512 of bytes, as the measurements hold it (R388). -/
opaque sha512 : List Byte → BitVec 512

/-- FREE VALUE (log 13, DESIGN CHOICE): the SPDM measurement of a list of numbers; the spec gives no encoding (R388). -/
opaque measure : List Nat → BitVec 512

/-- FREE VALUE (log 13, DESIGN CHOICE): the device's identity key, and the certificate chain over it (R388). -/
opaque identityKey : BitVec 4096
@[inherit_doc identityKey] opaque certChain : BitVec 4096 → List Byte

/-- FREE VALUE (log 13, DESIGN CHOICE): the hash of a public key that is fused in the device, and whether a signature of bytes verifies
under the key of a hash: RSASSA-PSS, RSA-4096 over SHA-512 (R395). -/
opaque fusedKeyHash : BitVec 512
@[inherit_doc fusedKeyHash] opaque pssValid : BitVec 512 → List Byte → BitVec 4096 → Bool

/-- FREE VALUE (log 13, DESIGN CHOICE): SHA-512 of the boot ROM (R388). -/
opaque romDigest : BitVec 512

/-- FREE VALUE (log 6, DESIGN CHOICE): for FEXP2 and FLOG2 in .f64 under a to-nearest mode, whether the upper of the two
representable neighbours of the exact value is returned (R255: faithfully rounded). -/
opaque faithfulUp : DWord → Bool

/-- Logical cores of the device (R2). -/
def cores : Nat := 320
/-- Service cores: 16 on each of two I/O dies (R2). They are numbered 320 to 351 after the logical cores. -/
def serviceCores : Nat := 32
/-- Bytes of scratchpad of a core (R58). -/
def lBytes : Nat := 2097152
/-- Bytes of the weight buffer of a core (R58). -/
def wBytes : Nat := 8388608
/-- Bytes of the activation buffer of a core (R58). -/
def aBytes : Nat := 6291456
/-- Bytes of the accumulator store of a core (R58). -/
def cBytes : Nat := 8388608
/-- Entries of the resident object table (R32). -/
def rotEntries : Nat := 1048576
/-- Entries of one wave's store queue (R125). -/
def storeQueueLen : Nat := 16
/-- Host-visible queues (R2). -/
def queues : Nat := 65536
/-- Queue windows on chip (R350). -/
def windows : Nat := 1024
/-- Entries of a fault queue or a request ring (R361). -/
def faultQueueLen : Nat := 4096
/-- Bytes of the SRAM of an I/O die (R2). -/
def ioSramBytes : Nat := 8388608
/-- Entries of the RAS ring (R400). -/
def rasLen : Nat := 1024
/-- First byte of the phase records within the device-private region (log 7, DESIGN CHOICE): each takes 64 KiB from here upward. -/
def recordOffset : Nat := 67108864
/-- Ways of a set of a die cache (R75). -/
def cacheWays : Nat := 16
/-- Cached translations of a quadrant and of a cluster, and stage-1 table entries of a cluster (R98). -/
def quadTlb : Nat := 64
@[inherit_doc quadTlb] def clusterTlb : Nat := 2048
@[inherit_doc quadTlb] def clusterTables : Nat := 256

end Sys2Proof.Config
end

