-- ==== Sys2Proof/Machine/State.lean ====
section
/-! DEFINITION. The state of one JN72 as plain data: everything the spec gives the machine, and the model's own
bookkeeping (`agenda`, `arg`, `free`, `bg`, `cur`, `nextId`). INVENTORY.md lists every piece with its rule. -/

namespace Sys2Proof.Machine

/-- Bytes by address, strictly rising, none equal to what an unlisted address reads as: zero (log 4, DESIGN CHOICE). -/
abbrev Memory := List Host.Cell

/-- A table by number, strictly rising. -/
abbrev Tab (α : Type) := List (Nat × α)

/-- A fetched clause: its PC, header and instruction words (R203 to R205). -/
structure Clause where
  pc : Word
  header : DWord
  words : List DWord
  /-- The clause's wait is over, or has not been taken yet (R150, R205). -/
  waited : Bool := true
  deriving DecidableEq, Repr

/-- How far the clause of a bundle has come that a remote access holds while other entries issue (R423): the clause, and what
its control instructions have done (R182, R185). -/
structure Mid where
  clause : Option Clause
  ctl : Bool
  yielded : Mask
  deriving DecidableEq, Repr

/-- A frontier entry (R180, R186). `bwt` names the ridge and the phase of a barrier it waits at; `passed` says that
the phase has completed and the entry goes on after the barrier in its clause (log 11, DEDUCED). -/
structure Entry where
  pc : Word
  prio : BitVec 16
  ridx : Nat
  yld : Bool
  hld : Bool
  bwt : Option (Nat × Bool)
  passed : Bool
  mask : Mask
  /-- Instruction words of the clause whose barrier the entry waits at, as its fetch read them. -/
  words : Nat := 0
  /-- The bundle is held in its clause by a remote access, and other entries issue (R423; log 29, DEDUCED): its lanes with
  the requests that they wait for, and its clause. -/
  wait : List (Nat × Nat) := []
  mid : Option Mid := none
  deriving DecidableEq, Repr

/-- The registers of a wave (R22, R54, R55, R222). Keys of `v` are 32·register + lane. A register that `v`, `s` or
`p` does not list holds zero where `fill` is none, and a free value from `fill` on where it is some (log 2, DESIGN CHOICE).
`vEmpty` and `sEmpty` list the empty full/empty bits, `vBusy` and `sBusy` the destinations of on-chip loads whose
data is not written yet (R56), `vBad`, `sBad` and `pBad` the words with an uncorrectable error (R402). -/
structure Regs where
  fill : Option Nat
  v : Tab Word
  s : Tab Word
  p : Tab Mask
  vEmpty : List Nat
  sEmpty : List Nat
  vBusy : List Nat := []
  sBusy : List Nat := []
  vBad : List Nat := []
  sBad : List Nat := []
  pBad : List Nat := []
  deriving DecidableEq, Repr

/-- A fault record (R360), without its reserved fields. -/
structure FaultRec where
  code : BitVec 8
  step : BitVec 3
  rst : Bool
  cls : BitVec 3
  seq : BitVec 16
  lane : BitVec 5
  level : BitVec 3
  info : BitVec 16
  addr : DWord
  restart : Word
  mask : Mask
  pc : Word
  ridx : BitVec 4
  deriving DecidableEq, Repr

/-- A ridge record of a wave (R189). -/
structure RidgeRec where
  num : Nat
  pending : Bool
  phase : Bool
  deriving DecidableEq, Repr

/-- Whose request it is to DRAM: service class, requester index of SV_DLMISS with its core, deadline (R102, R106). The
indexes 8 and 9 stand for the service cores and for the fault unit of an I/O die. `wg` and `num` name the wave, and `op` the class
and sequence number of an engine operation that no wait of its wave has covered yet (R132). -/
structure Stamp where
  cls : Nat
  core : Nat
  index : Nat
  deadline : Option Word
  wg : Nat := 0
  num : Nat := 0
  op : Option (Nat × Nat) := none
  deriving DecidableEq, Repr

/-- One lane's part of a store-queue entry: its physical address, and the bytes it stores or the operand and the
comparand of its atomic. `posted` is the fabric request of a write to another node. -/
structure QLane where
  lane : Nat
  pa : Nat
  bytes : List Byte
  b : DWord
  cmp : DWord
  posted : Bool
  /-- The address that a refusal of a posted write names (R360, R382). -/
  va : Nat
  /-- A lane of an ATOM to another node, which holds the bundle: it has been sent, and its answer ends it (R423). -/
  away : Bool := false
  deriving DecidableEq, Repr

/-- What a store-queue entry does at the point of coherence. -/
inductive QKind where
  | store
  | atomic (op : AtomOp) (width : Nat) (ret : Option Operand)
  /-- CINV and CCLEAN's place in the order of stores (R283). -/
  | clean (lines : List Nat) (invalidate : Bool)
  deriving DecidableEq, Repr

/-- An entry of a wave's store queue (R125). `stamp` is its place in the issue order of the device's accesses;
`remoteOp` the operation that counts its posted writes (R127, R149). `engine` marks writes of an engine operation on
the core's outbound path (R153), which take no entry of the sixteen, with the operation's class and sequence number;
`covered` says that a wait of the wave has covered that operation (R132). `who` stamps the requests of its fills (R102).
`whole` lists lines that the operation has now
written in full (R275). `after` is the stamp up to which accesses of the core may happen before the entry (R122, R123), and `unit` the
bytes that no other party sees apart (R112). -/
structure QEntry where
  stamp : Nat
  kind : QKind
  lanes : List QLane
  remoteOp : Option Nat
  engine : Bool
  whole : List Nat
  cls : Nat := 0
  seq : Nat := 0
  covered : Bool := false
  who : Stamp := { cls := 0, core := 0, index := 0, deadline := none }
  after : Nat := 0
  unit : Nat := 8
  deriving DecidableEq, Repr

/-- Where a lane of an outstanding load finds its value. -/
inductive LoadSrc where
  | phys (pa : Nat)
  /-- Sixteen bytes of which one half has its value, the low one or the high one (R112). -/
  | half (pa : Nat) (low : Bool) (bytes : List Byte)
  /-- An address of another node, whose answer holds the bundle (R423). -/
  | away (pa : Nat)
  /-- A value already known: what another node has answered, PNAME's words. -/
  | known (bytes : List Byte)
  /-- An on-chip address: none for `l:`, else the typed buffer, and the physical address in it (R56, R123). -/
  | chip (buf : Option Nat) (addr : Nat)
  /-- Data of the host beyond the cut of a transfer: it arrives poisoned (R393). -/
  | cut
  deriving DecidableEq, Repr

/-- An outstanding load, LDN or PNAME (R55). -/
structure LoadOp where
  stamp : Nat
  dst : Operand
  width : Nat
  signed : Bool
  inv : Bool
  lanes : List (Nat × LoadSrc)
  /-- The requests of the die-cache fills carry this class, requester and deadline (R102). -/
  who : Stamp
  /-- It still holds its bundle (R423). -/
  held : Bool := false
  deriving DecidableEq, Repr

/-- What later accesses of a wave wait for (R119, R126). -/
inductive Gate where
  /-- An acquire whose value has not returned: the access's stamp and its scope. -/
  | acquire (stamp scope : Nat)
  /-- The fence after an sc store or atomic, at its scope. -/
  | fence (scope : Nat)
  deriving DecidableEq, Repr

/-- Why a wave leaves its slot (R194, R195, R340, R364). -/
inductive Leave where
  | barrier
  | park (units : List MissUnit)
  | fault (r : FaultRec)
  | trap (r : FaultRec)
  | preempt
  deriving DecidableEq, Repr

/-- Where a wave stands. -/
inductive Status where
  /-- On its slot, and issuing when its summit can. -/
  | slot
  /-- It has stopped; the outstanding fills of its registers land before its record is written (R57). -/
  | leaving (why : Leave)
  /-- Lowered at a barrier to a carry record (R194). -/
  | lowered
  /-- Parked on missing units (R95). -/
  | parked (units : List MissUnit)
  /-- Lowered with a delivered condition, or by TRAP, until its supervisor resumes it (R359, R340). -/
  | faulted
  /-- Written to a full record by a pre-emption (R364). -/
  | preempted
  /-- Its condition has cleared, and it waits for room on its core (R201). -/
  | cleared
  /-- Its frontier is empty and its counters are 0 (R184). -/
  | ended
  deriving DecidableEq, Repr

/-- The registers of a supervisor wave (R224, R225). `handling` says that it handles an entry (R361). -/
structure SupRegs where
  trapBase : DWord
  cause : DWord
  epc : DWord
  faultAddr : DWord
  world : DWord
  coreSel : DWord
  staging : DWord
  handling : Bool
  deriving DecidableEq, Repr

/-- A QPUSH that has passed its checks and waits for room (R286, R349): its queue, its place among pushes, the records still to
enter, and the positions of those that have. A push `failed` when its queue left service. -/
structure Push where
  queue : Nat
  stamp : Nat
  left : List (List Byte)
  places : List Nat := []
  failed : Bool := false
  deriving DecidableEq, Repr

/-- A wave, ordinary or supervisor, on a slot or in its phase record (R180 to R195). -/
structure Wave where
  sup : Bool
  core : Nat
  wg : Nat
  num : Nat
  world : Nat
  launch : Word
  nv : Nat
  depth : Nat
  svc : Nat
  codeBase : Nat
  extent : Nat
  valid : Mask
  regs : Regs
  fpflags : BitVec 7
  fpmode : BitVec 3
  /-- The issuing entry; none when no entry can issue. -/
  bundle : Option Entry
  others : List Entry
  exited : Mask
  /-- The frontier as the hardware last wrote it to the frontier registers, at a clause boundary (R186). -/
  snap : List Entry
  clause : Option Clause
  /-- Lanes that left the clause by a taken transfer, with their targets (R182). -/
  left : List (Word × Mask)
  /-- A control instruction of the clause has acted: the boundary chooses the summit afresh (R182). -/
  ctl : Bool
  yielded : Mask
  /-- Outstanding operations and next sequence numbers of the five classes (R146). -/
  cnt : List Nat
  seq : List Nat
  ridges : List RidgeRec
  lowerReq : Bool
  storeQ : List QEntry
  loads : List LoadOp
  gates : List Gate
  status : Status
  stalled : Bool
  /-- The remote access that holds the bundle (R423): its lanes and the requests they wait for. -/
  hold : List (Nat × Nat)
  /-- The phase record's KIND, CNT, SEQ and CAUSE as written at the last spill (R195). -/
  recKind : BitVec 2
  recCnt : List Nat
  recSeq : List Nat
  cause : Option FaultRec
  /-- Pages whose request the supervisor denied, until the replay (R83). -/
  denied : List Nat
  /-- Lanes for which a refused remote ATOM replays (R423). -/
  replay : Option Mask
  /-- Words of the frontier registers that a supervisor has edited in the record: key 3·entry + word (R186, R362). -/
  edits : Tab Word
  /-- The clock since which the wave is charged; none while it is lowered (R355). -/
  slotSince : Option Nat
  charge : Nat
  sv : SupRegs
  /-- The place of the wave's phase record in the device-private region (R87, R195). -/
  recSlot : Nat := 0
  /-- What the fetch of the summit's header still decides: 1 whether it carries E, 2 its rank (R180, R182). -/
  judge : Nat := 0
  /-- The clause just fetched carries Y: a clause of another ready wave of the quadrant issues first (R185). -/
  behind : Bool := false
  /-- An LDN holds the bundle: the names whose resolution it waits for (R39, R40). -/
  ldn : Option (List (BitVec 16 × BitVec 64)) := none
  /-- A QPUSH waits for room in its queue (R286). -/
  push : Option Push := none
  /-- The stamp up to which accesses of its core's other waves may have come to its knowledge (R118, R123, R126). -/
  seen : Nat := 0
  /-- FLAGS and RIDGES of the phase record, as written at the last spill (R195). -/
  recFlags : BitVec 7 := 0#7
  recRidges : List RidgeRec := []
  /-- Its last try to issue has ended in a wait (R364, R368). -/
  waits : Bool := false
  /-- Lanes that have run a routine of an unfolding since their barrier began to wait (R197). -/
  routines : Mask := 0#32
  deriving DecidableEq, Repr

/-- A ridge-table entry (R188). -/
structure Ridge where
  members : BitVec 48
  num : Nat
  owner : Nat
  arrived : Nat
  expect : Nat
  expset : Bool
  phase : Bool
  hold : Bool
  deriving DecidableEq, Repr

/-- An `l:` granule's tag and valid bit (R62). -/
structure Gran where
  tag : Nat
  v : Bool
  deriving DecidableEq, Repr

/-- A line tag of `w:`, `a:` or `c:` (R70). -/
structure LineTag where
  v : Bool
  s : Bool
  swz : BitVec 3
  deriving DecidableEq, Repr

/-- The ownership token of a core (R304). -/
structure Token where
  wg : Nat
  ridge : Nat
  holder : Nat
  deriving DecidableEq, Repr

/-- The two halts of a debugger (R159). -/
inductive HaltMode where
  | drain
  | immediate
  deriving DecidableEq, Repr

/-- Power states of a core (R398). -/
inductive CorePower where
  | on
  | clockGated
  | powerGated
  deriving DecidableEq, Repr

/-- A logical core (R58 to R70, R188, R304, R344). -/
structure CoreSt where
  lmem : Memory
  gran : Tab Gran
  tagCtr : Nat
  wbuf : Memory
  abuf : Memory
  cbuf : Memory
  wtag : Tab LineTag
  atag : Tab LineTag
  ctag : Tab LineTag
  cairns : Tab (BitVec 128)
  ridges : Tab Ridge
  token : Option Token
  tkWait : List Nat
  lmdrop : Word
  dlmiss : Tab Word
  halt : Option HaltMode
  /-- The wave that a `haltc.step` lets issue one clause (R369). -/
  stepping : Option Nat
  power : CorePower
  /-- A spare takes over the core's number: its waves stop and its workgroups are saved first (R367). -/
  retiring : Bool
  /-- The core has lost its last spare and places no work (R367). -/
  stranded : Bool
  /-- The supervisor wave and the address of a halt report still to be written (R344). -/
  report : Option (Nat × Nat)
  /-- The clock at which a wave last left the core, or an operation of it last retired (R398). -/
  lastWork : Nat
  /-- 64-bit words with an uncorrectable error: space (0 `w:`, 1 `a:`, 2 `c:`, 3 `l:`) and word (R402). -/
  badWords : List (Nat × Nat) := []
  /-- The supervisor wave whose `haltc.step` runs, and whether its clause has issued an instruction (R345, R369). -/
  stepBy : Option Nat := none
  stepGo : Bool := false
  /-- The clock at which the power-gated core began to wake (R398). -/
  waking : Option Nat := none
  deriving DecidableEq, Repr

/-- A workgroup (R187). `ridgeMap` maps ridge numbers of the kernel to entries of the core's table. -/
structure Wg where
  core : Nat
  slot : Nat
  launch : Nat
  world : Nat
  x : Nat
  y : Nat
  z : Nat
  nwaves : Nat
  lbase : Nat
  lsize : Nat
  tag : Nat
  ridgeMap : List (Nat × Nat)
  cairnRes : Nat
  drain : Tab (List Word)
  reruns : Word
  charge : Nat
  /-- The context record while the workgroup is saved (R365): `l:` bytes and tags, cairns, lines, ridges, token. -/
  saved : Option CoreSt
  /-- It was saved because its core retires: no value may change by that (R367). -/
  moved : Bool := false
  deriving DecidableEq, Repr

/-- A carry site of a kernel (R353): its PC and the masks of v, s and p registers. -/
structure CarrySite where
  pc : Word
  v : BitVec 256
  s : BitVec 64
  p : BitVec 7
  deriving DecidableEq, Repr

/-- A launch, or a record that has started (R34, R103, R346 to R354). -/
structure Launch where
  seq : Option Word
  world : Nat
  queue : Nat
  pos : Nat
  marker : Bool
  args : DWord
  shx : Nat
  shy : Nat
  shz : Nat
  svc : Nat
  sysrel : Bool
  donesig : Nat
  sigbase : Nat
  codeBase : Nat
  extent : Nat
  depth : Nat
  entry : Word
  wgsize : Nat
  vunits : Nat
  cairns : Nat
  px : Nat
  py : Nat
  pz : Nat
  lmem : Nat
  ridges : List (Nat × BitVec 48)
  carry : List CarrySite
  budget : DWord
  chans : Tab DWord
  next : Nat
  live : Nat
  /-- Killed, or its queue was unbound: nothing more is placed and it does not complete (R343, R348). -/
  dropped : Bool
  /-- Killed (R343): its waves end, those of a halted core when it resumes (R345). -/
  killed : Bool
  /-- Its completion release is performed, before its world left RUN (R393). -/
  released : Bool := false
  /-- Handles of the records of its queue's binding that had not completed when it started (R351). -/
  earlier : List Nat := []
  deriving DecidableEq, Repr

/-- A task of a lane of an unfolding after the switch-over (R198). -/
inductive Task where
  | visit (f : Nat)
  | combine (f : Nat)
  deriving DecidableEq, Repr

/-- A frame of an unfolding (R334). `stage` as in the header; `dirty` says that the header is still to be written. -/
structure Frame where
  off : Nat
  depth : Nat
  parent : Option Nat
  cidx : Nat
  children : List Nat
  stage : Nat
  dirty : Bool
  deriving DecidableEq, Repr

/-- A routine that runs in a pool lane: 0 divide, 1 base, 2 combine (R197, R336). `home` and `phase` name the entry at the
barrier to which the lane returns. -/
structure Running where
  pool : Nat
  wave : Nat
  lane : Nat
  frame : Nat
  routine : Nat
  home : Word
  phase : Bool
  /-- Instruction words of the barrier's clause. -/
  words : Nat := 0
  deriving DecidableEq, Repr

/-- The phase of an unfolding (R198). -/
inductive UnfoldPhase where
  /-- Divides of the last level: the next frame of the level to divide. -/
  | levels (next : Nat)
  /-- Depth-first work on the lane stacks, after the switch-over. -/
  | depthFirst
  /-- Bottom-up combines of a level. -/
  | combines (level : Nat)
  /-- The root's result is to be copied to the result slot. -/
  | result
  deriving DecidableEq, Repr

/-- An unfolding (R196 to R199, R333 to R336): the object's fields and the frame tree. -/
structure Unfold where
  ridge : Nat
  objAddr : DWord
  divOff : Word
  baseOff : Word
  combOff : Word
  frameSz : Nat
  resSz : Nat
  fanout : Nat
  maxDepth : Nat
  budget : Nat
  heap : DWord
  heapSz : Nat
  result : DWord
  frames : List Frame
  levels : List (List Nat)
  phase : UnfoldPhase
  /-- Base routines due on leaves, by pool index. -/
  leaves : List (Nat × Nat)
  tasks : List (List Task)
  /-- First heap byte and capacity in frames of the lane stacks, and the frames in use on each. -/
  stackBase : Nat
  stackCap : Nat
  stackUse : List Nat
  running : List Running
  /-- A condition at an RCHILD has stopped it (R199), and the waves whose replay is to thaw it. -/
  stopped : Bool
  stoppers : List Nat := []
  deriving DecidableEq, Repr

/-- The kinds of engine operation, and the class-3 count of posted writes (R146). -/
inductive OpKind where
  | xcopy | xgather | xlevel | mma | mzero | mdrain | dpload | ldg2l | rbegin | posted
  deriving DecidableEq, Repr

/-- Where an operation stands. -/
inductive OpState where
  /-- Its block is still to be fetched from `g:` (R295). -/
  | fetch
  /-- Its block is in; the checks come next. -/
  | check
  | run
  | wait (u : MissUnit)
  /-- A condition is due: the operation freezes next (R156). -/
  | due (r : FaultRec)
  | frozen (r : FaultRec)
  /-- Suspended by a pre-emption (R364). -/
  | suspended
  /-- Every unit is performed; the operation completes next. -/
  | finished
  /-- Complete; its notice is to retire (R148). -/
  | complete
  deriving DecidableEq, Repr

/-- A destination of a multicast as its issue finds it (R323): the core, the workgroup, its allocation's tag, first byte and
length. -/
structure McDest where
  core : Nat
  wg : Nat
  tag : Nat
  base : Nat
  size : Nat
  deriving DecidableEq, Repr

/-- An engine operation (R146 to R158). Its number in the table of operations is its place in issue order, which the
matrix sequencer follows (R296). -/
structure EngOp where
  kind : OpKind
  wave : Nat
  wg : Nat
  /-- The number of its wave. -/
  num : Nat := 0
  core : Nat
  world : Nat
  lane : Nat
  cls : Nat
  seq : Nat
  svc : Nat
  deadline : Word
  blockAddr : DWord
  blockLen : Nat
  block : List Byte
  progress : Nat
  state : OpState
  flags : BitVec 7
  /-- The slot of DPLOAD, the record, line and count of MZERO, the width of LDG2L. -/
  args : List Nat
  /-- LDG2L's lanes: lane, `l:` address, `g:` address. -/
  lanes : List (Nat × Nat × DWord)
  /-- Multicast destinations (R323). -/
  dests : List McDest
  cairns : List Nat
  amax : DWord
  /-- Unacknowledged writes to other nodes, and a refusal among them (R127, R149, R382). -/
  unacked : Nat
  denied : List Nat
  /-- Bytes of poisoned lines that the operation has written, a 64-bit map a line (R275). -/
  cover : Tab Nat
  /-- Source rows in the line buffers of a window copy (R320). -/
  lines : Tab (List Byte)
  unfold : Option Unfold
  /-- Pages whose request the supervisor denied, until the unit is performed or fails (R83, R158). -/
  noPages : List Nat
  /-- Source bytes as they stood before the operation wrote its own destination over them, by offset from SRC (R322). -/
  kept : Tab Byte := []
  deriving DecidableEq, Repr

/-- The sideband of a DRAM line (R109). `owner` is the world and key generation whose MAC the line carries; none
stands for a line as bring-up left it, which verifies for every world (log 4, DESIGN CHOICE). `errs` is the ECC class: 0 none,
1 correctable, 2 uncorrectable; `macBad` a MAC that no longer matches. -/
structure Side where
  owner : Option (Nat × Nat)
  sp : Bool
  pz : Bool
  errs : Nat
  macBad : Bool
  deriving DecidableEq, Repr

/-- A die-cache line (R75, R76). `data` is none while the line is coherent, and holds the die's own bytes for a copy
that writes elsewhere do not reach: a copy whose invalidation is not yet acknowledged (R125), a remote-marked copy
(R128), an invariant copy of a launch (R130). Bit i of `valid` and `dirty` is that of the 64-byte sector i. -/
structure DieLine where
  die : Nat
  line : Nat
  world : Nat
  remote : Bool
  inv : Option Word
  valid : BitVec 2
  dirty : BitVec 2
  data : Option (List Byte)
  deriving DecidableEq, Repr

/-- A wave or an engine operation that has written or read an unconfirmed line (R126, R132), as in its stamp, and the model's
stamp at that time. -/
structure User where
  core : Nat
  wg : Nat
  num : Nat
  op : Option (Nat × Nat)
  stamp : Nat
  deriving DecidableEq, Repr

/-- A line that is not yet confirmed (R125): the dies still to acknowledge, and who wrote or read it. -/
structure Unconf where
  line : Nat
  waiting : List Nat
  users : List User
  deriving DecidableEq, Repr

/-- ROT states (R32). -/
inductive RotState where
  | absent | arriving | resident | departed | gone
  deriving DecidableEq, Repr

/-- An entry of the resident object table (R32). -/
structure RotEnt where
  state : RotState
  gen : BitVec 3
  world : Nat
  doomed : Bool
  realm : BitVec 16
  serial : BitVec 64
  extent : Nat
  home : Nat
  epoch : Word
  map : Nat
  deriving DecidableEq, Repr

/-- A cached translation (R98): of a cluster, or of a quadrant, which stands as 64 + 4·core + quadrant. `obj` is none for
a flat address, or the object's handle; then `base` is an offset. `pa` is the final physical address of `base`, and
`range` the stage-2 entry that it went through. -/
structure Tlb where
  place : Nat
  world : Nat
  obj : Option Nat
  base : Nat
  size : Nat
  pa : Nat
  range : Nat
  r : Bool
  w : Bool
  x : Bool
  d : Bool
  deriving DecidableEq, Repr

/-- A tier-map entry (R89). -/
structure Tier where
  res : Bool
  m : Bool
  dt : Bool
  frame : Nat
  cnt : BitVec 16
  deriving DecidableEq, Repr

/-- A cached stage-1 table entry of a cluster (R98): the world, the entry's IA and its value. -/
structure TableEnt where
  cluster : Nat
  world : Nat
  ia : Nat
  entry : Nat
  deriving DecidableEq, Repr

/-- What a departed object's home holds (R35): the object, the world that owned it, and pages with their bytes. -/
structure Departed where
  realm : BitVec 16
  serial : BitVec 64
  world : Nat
  pages : Tab (List (Nat × Byte))
  deriving DecidableEq, Repr

/-- Translation beside the worlds' own context: caches, page requests, tier maps, migrations (R79 to R98). Keys of
`tiers` name the world, the range and the page in it (R89). -/
structure Xlat where
  tlb : List Tlb
  tables : List TableEnt
  requests : List (Nat × Nat)
  tiers : Tab Tier
  /-- Pending entries of the fault unit: unit, and the stamp of its first access (R96, R102). -/
  pending : List (MissUnit × Stamp)
  /-- Pages in demotion. -/
  demoting : List Nat
  /-- Frames of the migration pools in use, with the key of the tier page they hold. -/
  frames : Tab Nat
  /-- Tier pages whose wait for a free frame has been counted (R94). -/
  starved : List Nat
  /-- The departing images of objects (R35); they outlive the objects' entries. -/
  images : List Departed
  rotExhausted : Nat
  resolved : List (Nat × BitVec 16 × BitVec 64 × NameRes)
  /-- The range through which a world last reached a tier page that several of its ranges give, by world and page (R91). -/
  links : Tab Nat := []
  deriving DecidableEq, Repr

/-- An entry of a fault queue or a request ring (R361). KIND 0 fault, 1 TRAP request, 2 queue error. -/
structure Post where
  record : FaultRec
  prec : Nat
  launch : Word
  world : Nat
  core : Nat
  wgslot : Nat
  wave : Nat
  kind : Nat
  deriving DecidableEq, Repr

/-- TDISP states of a world's TDI (R389, R393). -/
inductive Tdisp where
  | configUnlocked | configLocked | run | error
  deriving DecidableEq, Repr

/-- A world (R79, R84, R103, R343, R355, R361, R384 to R393). -/
structure World where
  s1root : DWord
  budget : DWord
  ranges : Tab (BitVec 128)
  paused : Bool
  /-- Paused by a thermal trip of a die (R390). -/
  tripped : List Nat
  deficit : Int
  poolExhausted : Nat
  faultQ : List Post
  reqRing : List Post
  toPost : List Post
  serving : List Nat
  tdisp : Tdisp
  session : Option Nat
  fn : Option Nat
  ld : Option Nat
  bound : Bool
  keyGen : Nat
  groupKeys : Tab (Word × BitVec 256)
  sendSlot : Option Nat
  cores : List Nat
  slice : Nat
  /-- The supervisor wave whose WSET `.reset` of the world is under way (R345). -/
  resetBy : Option Nat := none
  /-- The TDI has left RUN, and its waves and operations are still being stopped (R393, steps 1 to 3). -/
  leaving : Bool := false
  deriving DecidableEq, Repr

/-- A host-visible queue (R347 to R350, R375). -/
structure Queue where
  base : DWord
  size : DWord
  state : BitVec 3
  world : Nat
  waves : Bool
  win : Bool
  weight : BitVec 8
  sigbase : BitVec 45
  svcmin : DWord
  chans : Tab DWord
  rc : Nat
  wc : Nat
  window : List (List Byte)
  vec : BitVec 11
  ce : Bool
  ee : Bool
  /-- Started records that have not completed: position and launch handle. -/
  started : List (Nat × Nat)
  emptySince : Nat
  /-- The clock of each push, by its first position (R350). -/
  pushes : Tab Nat
  /-- The page that the scheduler waits for in this queue's memory, and pages denied to it (R83, R357). -/
  missed : Option Nat
  denied : List Nat
  /-- RC is still to be written behind the ring (R350). -/
  rcDue : Bool := false
  /-- Positions whose records a failed QPUSH has taken back (R286). -/
  gone : List Nat := []
  deriving DecidableEq, Repr

/-- A request that this device has sent over the fabric (R379, R381). -/
structure Request where
  wave : Nat
  world : Nat
  lane : Nat
  die : Nat
  addr : Nat
  width : Nat
  /-- The address that a refusal of a posted write names (R360, R382). -/
  va : Nat
  /-- The fill may leave a remote-marked copy in the die (R128). -/
  install : Bool
  answer : Option RemoteAns
  /-- The operation that a posted write counts on (R127, R149). -/
  op : Option Nat
  /-- A posted write; its sector stays unacknowledged for the die until the acknowledgement. -/
  posted : Bool
  sent : Nat
  /-- The bytes of a write, the operation of an atomic. -/
  bytes : List Byte
  atomic : Option AtomOp
  /-- A walk's access to a stage-1 entry on another node (R80, R82), or the queue scheduler's to a queue's memory there (R357). -/
  walk : Bool := false
  /-- The slot of the group key under which a protected world's flits go (R392). -/
  slot : Option Nat := none
  deriving DecidableEq, Repr

/-- A multicast write in flight (R63). -/
structure McWrite where
  core : Nat
  tag : Nat
  /-- Physical scratchpad address and bytes. -/
  addr : Nat
  bytes : List Byte
  op : Nat
  sent : Nat
  deriving DecidableEq, Repr

/-- A Nymnik port (R378). -/
structure Port where
  up : Bool
  failed : Nat
  nodes : List Nat
  deriving DecidableEq, Repr

/-- The fabric side (R378 to R383): requests, multicasts, ports, and the import table as last loaded. -/
structure Fabric where
  requests : Tab Request
  multicasts : Tab McWrite
  ports : Tab Port
  imports : Tab (BitVec 128)
  /-- The answer to the last request from another node (R380 to R382). -/
  answered : Option RemoteAns
  /-- Answers to other nodes that wait for the confirmation of lines (R373, R381). -/
  owed : List (List Nat × RemoteAns) := []
  deriving DecidableEq, Repr

/-- An HDM decoder (R372): base, size, first physical byte and the world. -/
structure Hdm where
  base : Nat
  size : Nat
  pa : Nat
  world : Nat
  deriving DecidableEq, Repr

/-- A logical device (R371). -/
structure Ld where
  host : Option Nat
  hdm : List Hdm
  /-- Bytes of the capacity window that the host assigned. -/
  capacity : Nat
  /-- The CXL port that leads to the host (R370, R388). -/
  port : Nat := 0
  deriving DecidableEq, Repr

/-- A CXL function (R375, R377). `masked` lists its masked vectors, `pending` the pending bits, `sent` the messages. -/
structure Fn where
  world : Nat
  ndrop : DWord
  vectors : Nat
  masked : List Nat
  pending : List Nat
  sent : List Nat
  /-- The function's logical device (R384). -/
  ld : Nat := 0
  deriving DecidableEq, Repr

/-- The host side: functions, logical devices, CXL ports (rate, width), and the answer of the last host read. -/
structure HostSide where
  fns : Tab Fn
  lds : Tab Ld
  cxl : Tab (Nat × Nat)
  lastRead : Option (List Byte × Bool)
  /-- CXL ports that lead to a switch (R370). -/
  switched : List Nat := []
  /-- IDE settings of a CXL port, as numbers (R370, R388; log 13, DESIGN CHOICE). -/
  ide : Tab (List Nat) := []
  /-- Host writes whose lines are not all confirmed, with those lines; and those whose completion has been sent (R373). -/
  writes : Tab (List Nat) := []
  completed : List Nat := []
  deriving DecidableEq, Repr

/-- A DRAM request (R102): its stamp, its 64-byte sector, and whether it writes. -/
structure DramReq where
  who : Stamp
  sector : Nat
  write : Bool
  deriving DecidableEq, Repr

/-- A pseudo-channel (R104). Requests stand in arrival order. -/
structure Chan where
  slot : Nat
  guard : Nat
  pending : List DramReq
  deriving DecidableEq, Repr

/-- A DRAM stack (R107, R108, R395, R398). -/
structure Stack where
  out : Bool
  retired : List Nat
  rebuild : Option Nat
  selfRefresh : Bool
  /-- The clock of the last request of its pseudo-channels (R398). -/
  lastReq : Nat
  deriving DecidableEq, Repr

/-- A RAS record (R400). -/
structure Ras where
  type : Nat
  unit : Nat
  loc : Nat
  count : Word
  addr : DWord
  clock : DWord
  seq : Word
  deriving DecidableEq, Repr

/-- Boot phases (R395, R397). -/
inductive Boot where
  /-- Out of power-on, before the boot ROM has run. -/
  | off
  /-- The boot ROM programs fuses (R394). -/
  | rom
  /-- The firmware runs; the bring-up parameters are still to be set. -/
  | firmware
  /-- The compute dies have left reset. -/
  | running
  | recovery
  /-- Power has failed. -/
  | lost
  deriving DecidableEq, Repr

/-- The platform: boot, fuses, measurements, parameters, DRAM, RAS, thermal state (R388, R394 to R403). -/
structure Platform where
  boot : Boot
  fuseBit : BitVec 64
  fuseConfirm : BitVec 64
  flash : Option Image
  meas : Tab (BitVec 512)
  node : Nat
  privateGiB : Nat
  protBlock : Option Nat
  cethr : Nat
  ttrip : Nat
  trel : Nat
  ras : Tab Ras
  rasNext : Nat
  rasIdx : DWord
  queueSel : DWord
  dram : Tab Stack
  chans : Tab Chan
  ioMiss : Tab Word
  throttled : List Nat
  launchSeq : Word
  /-- The last world that took a scheduling turn, and the last queue of each world. -/
  turn : Nat
  qturn : Tab Nat
  /-- Physical cores retired on each die. -/
  retired : Tab Nat
  /-- Heartbeat periods of the SPDM sessions, in seconds (R388, R393). -/
  spdmSessions : Tab Nat
  /-- The responder's last answer; none is an error (R388). -/
  spdmAnswer : Option (BitVec 512)
  /-- The certificate chain that the responder has last returned (R388). -/
  spdmChain : Option (List Byte) := none
  /-- The answer to the last LOCK_INTERFACE request: its world, and whether it failed with a TDISP error (R389). -/
  tdispAnswer : Option (Nat × Bool) := none
  /-- The SRAM of the I/O dies 8 and 9, 8 MiB each (R2), and its 64-bit words with an uncorrectable error, as die and word (R402). -/
  ioSram : Tab Memory
  ioBad : List (Nat × Nat) := []
  /-- Corrected errors by layer, as 16 · stack + layer: the clock at which the layer's hour began, and the count (R107, R397). -/
  corrects : Tab (Nat × Nat) := []
  /-- Layers that an uncorrectable error or the rate of corrected ones has condemned, as 16 · stack + layer (R107, R108). -/
  failing : List Nat := []
  /-- Fuse bits that the boot ROM still programs, in order, as 2 · pair, or 2 · pair + 1 for the confirm bit; and the image that it
  boots, with the stacks that fail training (R394, R395). -/
  blowing : List Nat := []
  booting : Option (Image × List Nat) := none
  /-- Ports that the firmware has tried to train (CXL port k as k, Nymnik port k as 2 + k), and that the bring-up parameters are set
  (R395). -/
  portsTried : List Nat := []
  paramsSet : Bool := false
  /-- What the sensors have last shown: degrees of each die, and watts of the module (R399). -/
  temps : Tab Nat := []
  power : Nat := 0
  deriving DecidableEq, Repr

/-- The state of the machine. -/
structure State where
  /-- The model's own: the events that land next, in order, with their operands (log 1, DESIGN CHOICE). -/
  agenda : List (Instr × Arg)
  /-- The model's own: the operands of the event that runs. -/
  arg : Arg
  /-- The model's own: free values drawn so far (log 2, DESIGN CHOICE). -/
  free : Nat
  /-- The model's own: the next step is a background step (log 1, DESIGN CHOICE). -/
  bg : Bool
  /-- The model's own: the wave that issues. -/
  cur : Nat
  /-- The model's own: the next handle and stamp. -/
  nextId : Nat
  clock : DWord
  waves : Tab Wave
  wgs : Tab Wg
  launches : Tab Launch
  ops : Tab EngOp
  cores : Tab CoreSt
  /-- Bytes by physical address; those of kind 1 and 2 stand above it by their host, as State.hostPa gives them (R87, R371). -/
  mem : Memory
  side : Tab Side
  /-- Scrub-pending ranges as world resets have set them: first line, lines, world (R110). A line in `side` is out. -/
  scrub : List (Nat × Nat × Nat)
  cache : List DieLine
  unconf : List Unconf
  rot : Tab RotEnt
  xl : Xlat
  worlds : Tab World
  queues : Tab Queue
  fab : Fabric
  host : HostSide
  plat : Platform
  deriving DecidableEq, Repr

/-- Why the machine stops. -/
inductive Fault where
  /-- Raised by `step` once power has failed and no event is left to land (R394): safe, the device does nothing. -/
  | powerOff
  deriving DecidableEq, Repr

/-- Why the model gives no meaning. -/
inductive Refusal where
  /-- Raised by an arm of `exec` whose instruction has no meaning yet: safe, a run stops where the device goes on. -/
  | notModelled (mnemonic : String)
  deriving DecidableEq, Repr

/-- A core as it leaves reset: nothing listed, tag counter 0 (log 3, DESIGN CHOICE). -/
def CoreSt.init : CoreSt :=
  { lmem := [], gran := [], tagCtr := 0, wbuf := [], abuf := [], cbuf := [], wtag := [], atag := [], ctag := []
    cairns := [], ridges := [], token := none, tkWait := [], lmdrop := 0#32, dlmiss := [], halt := none
    stepping := none, power := .on, retiring := false, stranded := false, report := none, lastWork := 0 }

/-- A world as it leaves reset: the values of R103, R225 and, where no reset value is given, log 3. -/
def World.init : World :=
  { s1root := 0#64, budget := 0x1000040001000040#64, ranges := [], paused := false, tripped := [], deficit := 0
    poolExhausted := 0, faultQ := [], reqRing := [], toPost := [], serving := []
    tdisp := .configUnlocked, session := none, fn := none, ld := none, bound := false, keyGen := 0
    groupKeys := [], sendSlot := none, cores := [], slice := 0 }

/-- A queue as it leaves reset: UNBOUND, all fields 0 (R347, R375). -/
def Queue.init : Queue :=
  { base := 0#64, size := 0#64, state := 0#3, world := 0, waves := false, win := false, weight := 0#8
    sigbase := 0#45, svcmin := 0#64, chans := [], rc := 0, wc := 0, window := [], vec := 0#11
    ce := false, ee := false, started := [], emptySince := 0, pushes := [], missed := none
    denied := [] }

/-- A ROT entry at reset (R32). -/
def RotEnt.init : RotEnt :=
  { state := .absent, gen := 0#3, world := 0, doomed := false, realm := 0#16, serial := 0#64, extent := 0
    home := 0, epoch := 0#32, map := 0 }

/-- A tier-map entry at reset (R89). -/
def Tier.init : Tier := { res := false, m := false, dt := false, frame := 0, cnt := 0#16 }

/-- A DRAM line as bring-up leaves it (R395, log 4, DESIGN CHOICE). -/
def Side.init : Side := { owner := none, sp := false, pz := false, errs := 0, macBad := false }

/-- A supervisor wave's registers at reset (R225); the staging word by log 3. -/
def SupRegs.init : SupRegs :=
  { trapBase := 0#64, cause := 0#64, epc := 0#64, faultAddr := 0#64, world := 0#64, coreSel := 0#64
    staging := 0#64, handling := false }

/-- The platform at power-on: the boot ROM is about to run (R395); parameters at their defaults (R397). -/
def Platform.init : Platform :=
  { boot := .off, fuseBit := 0#64, fuseConfirm := 0#64, flash := none, meas := [], node := 0, privateGiB := 2
    protBlock := none, cethr := 256, ttrip := 105, trel := 95, ras := [], rasNext := 0, rasIdx := 0#64
    queueSel := 0#64, dram := [], chans := [], ioMiss := [], throttled := [], launchSeq := 0#32, turn := 0
    qturn := [], retired := [], spdmSessions := [], spdmAnswer := none, ioSram := [] }

/-- The machine right after power-on or a fundamental reset (R395): no wave, no launch, memory with nothing listed. -/
def State.reset : State :=
  { agenda := [], arg := {}, free := 0, bg := false, cur := 0, nextId := 1, clock := 0#64, waves := [], wgs := []
    launches := [], ops := [], cores := [], mem := [], side := [], scrub := [], cache := [], unconf := [], rot := []
    xl := { tlb := [], tables := [], requests := [], tiers := [], pending := [], demoting := [], frames := [], starved := []
            images := [], rotExhausted := 0, resolved := [] }
    worlds := [], queues := []
    fab := { requests := [], multicasts := [], ports := [], imports := [], answered := none }
    host := { fns := [], lds := [], cxl := [], lastRead := none }
    plat := Platform.init }

end Sys2Proof.Machine
end

