-- ==== Sys2Proof/Machine/Assoc.lean ====
section
/-! DEFINITION. Tables by number, memories by address, and the little-endian order of bytes (R5). Every table and
memory of the state is read and written through these operations only. -/

namespace Sys2Proof.Machine

/-- The entry of a table at a number. -/
def tget {α : Type} : Tab α → Nat → Option α
  | [], _ => none
  | (j, b) :: t, k => if j = k then some b else tget t k

/-- The entry of a table, or a default. -/
def tgetD {α : Type} (t : Tab α) (k : Nat) (d : α) : α := (tget t k).getD d

/-- Puts an entry into a table, in rising order, in place of the one at its number. -/
def tset {α : Type} : Tab α → Nat → α → Tab α
  | [], k, a => [(k, a)]
  | (j, b) :: t, k, a =>
    if k < j then (k, a) :: (j, b) :: t
    else if k = j then (k, a) :: t
    else (j, b) :: tset t k a

/-- Takes an entry out of a table. -/
def tdel {α : Type} (t : Tab α) (k : Nat) : Tab α := t.filter (fun e => decide (e.1 ≠ k))

/-- A table's numbers rise strictly. -/
def risesFrom {α : Type} : Nat → List (Nat × α) → Bool
  | _, [] => true
  | lo, (k, _) :: t => decide (lo ≤ k) && risesFrom (k + 1) t

/-- The byte at an address; an unlisted address reads as zero (log 4, DESIGN CHOICE). -/
def cget : Memory → Nat → Byte
  | [], _ => 0#8
  | (j, b) :: t, a => if j = a then b else cget t a

/-- Writes one byte; writing zero takes the cell out, so that equal memories are equal lists. -/
def cset : Memory → Nat → Byte → Memory
  | [], a, b => if b = 0#8 then [] else [(a, b)]
  | (j, c) :: t, a, b =>
    if a < j then (if b = 0#8 then (j, c) :: t else (a, b) :: (j, c) :: t)
    else if a = j then (if b = 0#8 then t else (a, b) :: t)
    else (j, c) :: cset t a b

/-- The canonical form of a memory: addresses rise strictly and no cell holds zero. -/
def Memory.wf (m : Memory) : Bool := risesFrom 0 m && m.all (fun e => decide (e.2 ≠ 0#8))

/-- Reads `n` bytes from an address upward. -/
def cread (m : Memory) (a : Nat) : Nat → List Byte
  | 0 => []
  | n + 1 => cget m a :: cread m (a + 1) n

/-- Writes bytes from an address upward. -/
def cwrite (m : Memory) (a : Nat) : List Byte → Memory
  | [] => m
  | b :: bs => cwrite (cset m a b) (a + 1) bs

/-- Zeroes the `n` bytes from an address upward. -/
def czero (m : Memory) (a n : Nat) : Memory := m.filter (fun e => decide (e.1 < a ∨ a + n ≤ e.1))

/-- The number of little-endian bytes (R5). -/
def leNat : List Byte → Nat
  | [] => 0
  | b :: bs => b.toNat + 256 * leNat bs

/-- The `n` little-endian bytes of a number (R5). -/
def leBytes (n v : Nat) : List Byte :=
  match n with
  | 0 => []
  | n + 1 => BitVec.ofNat 8 v :: leBytes n (v / 256)

/-- Bits [lo+len-1 : lo] of a number. -/
def bits (v lo len : Nat) : Nat := v / 2 ^ lo % 2 ^ len

/-- The number with bits [lo+len-1 : lo] replaced. -/
def setBits (v lo len x : Nat) : Nat := v - bits v lo len * 2 ^ lo + (x % 2 ^ len) * 2 ^ lo

/-- A bit of a number. -/
def bit (v i : Nat) : Bool := v.testBit i

/-- A Bool as a number. -/
def b2n (b : Bool) : Nat := if b then 1 else 0

/-- A number below 2^w read as two's complement. -/
def sextN (w v : Nat) : Int := if 2 ^ (w - 1) ≤ v % 2 ^ w then (v % 2 ^ w : Nat) - (2 ^ w : Nat) else (v % 2 ^ w : Nat)

/-- An integer taken modulo 2^w, as a number. -/
def wrapN (w : Nat) (x : Int) : Nat := (x % (2 ^ w : Nat)).toNat

/-- The difference of two 32-bit values, modulo 2^32 and read as signed (R37, R154). -/
def sdiff32 (a b : Nat) : Int := sextN 32 (wrapN 32 ((a : Int) - (b : Int)))

/-- Replaces the element at a place of a list. -/
def lset {α : Type} : List α → Nat → α → List α
  | [], _, _ => []
  | _ :: t, 0, x => x :: t
  | h :: t, n + 1, x => h :: lset t n x

/-- The least number below `n` that satisfies a test. -/
def firstBelow (n : Nat) (p : Nat → Bool) : Option Nat := (List.range n).find? p

/-- Quotient rounded up. -/
def ceilDiv (a b : Nat) : Nat := (a + b - 1) / b

end Sys2Proof.Machine
end

