-- ==== Sys2Proof/Machine/Operands.lean ====
section
/-! DEFINITION. Operands: register reads and writes with their views (R22, R30, R186, R211, R213, R222), predicates
and active lanes (R209), full/empty bits (R55, R217). -/

namespace Sys2Proof.Machine

/-- Free values of a register file: 8,192 vector words, 64 scalars, 6 predicates. -/
def regFree : Nat := 8262

/-- The free value at a place of a register file, or zero. -/
def freeAt (fill : Option Nat) (k : Nat) : Word :=
  match fill with
  | none => 0#32
  | some b => Config.freeWord (b + k)

/-- Vector register `r` in a lane. -/
def Regs.readV (g : Regs) (r lane : Nat) : Word :=
  match tget g.v (32 * r + lane) with
  | some x => x
  | none => freeAt g.fill (32 * r + lane)

/-- Scalar register `r`. -/
def Regs.readS (g : Regs) (r : Nat) : Word :=
  match tget g.s r with
  | some x => x
  | none => freeAt g.fill (8192 + r)

/-- Predicate register `r`, p0 to p5, as a lane mask. -/
def Regs.readP (g : Regs) (r : Nat) : Mask :=
  match tget g.p r with
  | some x => x
  | none => freeAt g.fill (8256 + r)

/-- Writes vector register `r` in a lane; the word is sound again (R402). -/
def Regs.writeV (g : Regs) (r lane : Nat) (x : Word) : Regs :=
  { g with v := tset g.v (32 * r + lane) x, vBad := g.vBad.filter (fun k => decide (k ≠ 32 * r + lane)) }

/-- Writes scalar register `r`; the word is sound again (R402). -/
def Regs.writeS (g : Regs) (r : Nat) (x : Word) : Regs :=
  { g with s := tset g.s r x, sBad := g.sBad.filter (fun k => decide (k ≠ r)) }

/-- Writes predicate register `r` in the lanes of a mask; written whole, it is sound again (R402). -/
def Regs.writeP (g : Regs) (r : Nat) (m x : Mask) : Regs :=
  { g with p := tset g.p r ((g.readP r &&& ~~~m) ||| (x &&& m))
           pBad := if m = 0xFFFFFFFF#32 then g.pBad.filter (fun k => decide (k ≠ r)) else g.pBad }

/-- The registers that hold the frontier: the highest ⌈D/10⌉ of the declared ones (R186). -/
def Wave.firstFrontier (w : Wave) : Nat := w.nv - ceilDiv w.depth 10

/-- The rank of R181: unyielded before yielded, then priority, then PC. -/
def Entry.rank (e : Entry) : Nat := b2n e.yld * 2 ^ 48 + e.prio.toNat * 2 ^ 32 + e.pc.toNat

/-- Puts an entry into a list sorted by rank. Between entries of equal rank (a waiting entry beside a separate one at its
PC) the spec gives no key, and the earlier in the list goes first (log 11, DESIGN CHOICE). -/
def insertEntry (e : Entry) : List Entry → List Entry
  | [] => [e]
  | h :: t => if e.rank ≤ h.rank then e :: h :: t else h :: insertEntry e t

/-- The entries sorted by rank (R181). -/
def sortEntries (l : List Entry) : List Entry := l.foldr insertEntry []

/-- The whole frontier in sorted order: the issuing entry and the others (R181). -/
def Wave.frontier (w : Wave) : List Entry := sortEntries (w.bundle.toList ++ w.others)

/-- The three words of an entry in the frontier registers (R186). -/
def entryWord (e : Entry) (k : Nat) : Word :=
  if k = 0 then e.pc
  else if k = 1 then
    BitVec.ofNat 32 (e.prio.toNat + e.ridx % 16 * 2 ^ 16 + b2n e.yld * 2 ^ 20 + b2n e.hld * 2 ^ 21
      + b2n e.bwt.isSome * 2 ^ 22)
  else e.mask

/-- Word `i` of the frontier registers, counted 3 to an entry, with a supervisor's edits as it wrote them. -/
def frontierWord (w : Wave) (i : Nat) : Word :=
  match tget w.edits i with
  | some x => x
  | none =>
    match w.snap[i / 3]? with
    | some e => entryWord e (i % 3)
    | none => 0#32

/-- Word `i` of the frontier registers as it reads: the reserved bits of word 1 read 0 (R10, R186). -/
def frontierShown (w : Wave) (i : Nat) : Word := if i % 3 = 1 then frontierWord w i &&& 0x7FFFFF#32 else frontierWord w i

/-- A lane of a frontier register: entry e lies in v(n - 1 - ⌊e/10⌋), lanes 3(e mod 10) onward; lanes 30 and 31
read as zero (R186). -/
def frontierLane (w : Wave) (r lane : Nat) : Word :=
  if lane < 30 then frontierShown w (3 * (10 * (w.nv - 1 - r)) + lane) else 0#32

/-- A vector register as an instruction reads it; a frontier register returns what R186 describes. -/
def Wave.readV (w : Wave) (r lane : Nat) : Word :=
  if w.firstFrontier ≤ r ∧ r < w.nv then frontierLane w r lane else w.regs.readV r lane

/-- A predicate as an instruction reads it: p6 is lane valid, p7 is true (R22). -/
def Wave.readP (w : Wave) (r : Nat) : Mask :=
  if r = 6 then w.valid else if r = 7 then 0xFFFFFFFF#32 else w.regs.readP r

/-- `n` vector registers as one number, vN lowest (R30, R222). -/
def Wave.readVs (w : Wave) (r lane : Nat) : Nat → Nat
  | 0 => 0
  | n + 1 => (w.readV r lane).toNat + 2 ^ 32 * w.readVs (r + 1) lane n

/-- `n` scalar registers as one number, sN lowest. -/
def Wave.readSs (w : Wave) (r : Nat) : Nat → Nat
  | 0 => 0
  | n + 1 => (w.regs.readS r).toNat + 2 ^ 32 * w.readSs (r + 1) n

/-- The value of a source of `n` words in a lane, as an unsigned number; an integer constant is sign-extended to the
width (R213), a predicate reads as 0 or 1 (R211). A floating constant has no integer value and reads as 0. -/
def Wave.src (w : Wave) (o : Operand) (n lane : Nat) : Nat :=
  match o with
  | .v r => w.readVs r.toNat lane n
  | .s r => w.readSs r.toNat n
  | .p r => b2n ((w.readP r.toNat).has lane)
  | .pos k => k.toNat
  | .neg k => 2 ^ (32 * n) - 32 + k.toNat
  | .flt _ => 0
  | .rsv _ => 0

/-- Writes a number into `n` vector registers of a lane. -/
def Regs.writeVs (g : Regs) (r lane : Nat) (x : Nat) : Nat → Regs
  | 0 => g
  | n + 1 => (g.writeV r lane (BitVec.ofNat 32 x)).writeVs (r + 1) lane (x / 2 ^ 32) n

/-- Writes a number into `n` scalar registers. -/
def Regs.writeSs (g : Regs) (r : Nat) (x : Nat) : Nat → Regs
  | 0 => g
  | n + 1 => (g.writeS r (BitVec.ofNat 32 x)).writeSs (r + 1) (x / 2 ^ 32) n

/-- Writes a destination of `n` words in one lane; a scalar destination is written whole (R209), a predicate in the
lane, from bit 0. -/
def Regs.writeLane (g : Regs) (o : Operand) (n lane x : Nat) : Regs :=
  match o with
  | .v r => g.writeVs r.toNat lane x n
  | .s r => g.writeSs r.toNat x n
  | .p r => g.writeP r.toNat (Mask.single lane) (if x % 2 = 1 then Mask.single lane else 0#32)
  | _ => g

/-- Writes a destination in every lane of a mask, from a function of the lane. -/
def Regs.writeLanes (g : Regs) (o : Operand) (n : Nat) (m : Mask) (f : Nat → Nat) : Regs :=
  (Mask.lanes m).foldl (fun g l => g.writeLane o n l (f l)) g

/-- The lanes in which an instruction's predicate is true (R209): the high bit negates, the low bits select. -/
def Wave.predMask (w : Wave) (p : BitVec 4) : Mask :=
  let m := w.readP (p.toNat % 8)
  if 8 ≤ p.toNat then ~~~m else m

/-- The lanes of the issuing bundle. -/
def Wave.bundleMask (w : Wave) : Mask :=
  match w.bundle with
  | some e => e.mask
  | none => 0#32

/-- The active lanes of an instruction: lanes of the bundle whose predicate is true. -/
def Wave.active (w : Wave) (i : Instr) : Mask := w.bundleMask &&& w.predMask (predOf i)

/-- The lowest lane of a mask, 0 for an empty one. -/
def Mask.first (m : Mask) : Nat := (Mask.lanes m).headD 0

/-- Some register of a group is listed: a v register by register and lane, an s register by its number. -/
def listed (v sc : List Nat) (o : Operand) (n : Nat) (m : Mask) : Bool :=
  match o with
  | .v r => (List.range n).any (fun k => (Mask.lanes m).any (fun l => v.contains (32 * (r.toNat + k) + l)))
  | .s r => (List.range n).any (fun k => sc.contains (r.toNat + k))
  | _ => false

/-- A group of registers is empty in some lane of a mask: a v register a lane, an s register once (R55, R217). -/
def Regs.empty (g : Regs) (o : Operand) (n : Nat) (m : Mask) : Bool := listed g.vEmpty g.sEmpty o n m

/-- The data of an on-chip load for a group of registers is not written yet (R56). -/
def Regs.busy (g : Regs) (o : Operand) (n : Nat) (m : Mask) : Bool := listed g.vBusy g.sBusy o n m

/-- A group of registers holds a word with an uncorrectable error (R402). -/
def Regs.bad (g : Regs) (o : Operand) (n : Nat) (m : Mask) : Bool :=
  listed g.vBad g.sBad o n m || (match o with
    | .p r => g.pBad.contains r.toNat
    | _ => false)

/-- The keys of a group of vector registers in the lanes of a mask, put before a list. -/
def keysV (r n : Nat) (m : Mask) (e : List Nat) : List Nat :=
  (List.range n).foldl (fun e k => (Mask.lanes m).foldl (fun e l => (32 * (r + k) + l) :: e) e) e

/-- Clears the full/empty bits of a destination in the lanes of a mask (R55). -/
def Regs.clearFull (g : Regs) (o : Operand) (n : Nat) (m : Mask) : Regs :=
  match o with
  | .v r => { g with vEmpty := keysV r.toNat n m g.vEmpty }
  | .s r => { g with sEmpty := (List.range n).foldl (fun e k => (r.toNat + k) :: e) g.sEmpty }
  | _ => g

/-- Marks a destination as waiting for on-chip data in the lanes of a mask (R56). -/
def Regs.setBusy (g : Regs) (o : Operand) (n : Nat) (m : Mask) : Regs :=
  match o with
  | .v r => { g with vBusy := keysV r.toNat n m g.vBusy }
  | .s r => { g with sBusy := (List.range n).foldl (fun e k => (r.toNat + k) :: e) g.sBusy }
  | _ => g

/-- Sets the full/empty bits of a destination in one lane, which fills it (R55); on-chip data is there as well (R56). -/
def Regs.setFull (g : Regs) (o : Operand) (n lane : Nat) : Regs :=
  match o with
  | .v r =>
    let out (k : Nat) : Bool := !((List.range n).any (fun j => decide (k = 32 * (r.toNat + j) + lane)))
    { g with vEmpty := g.vEmpty.filter out, vBusy := g.vBusy.filter out }
  | .s r =>
    let out (k : Nat) : Bool := decide (k < r.toNat ∨ r.toNat + n ≤ k)
    { g with sEmpty := g.sEmpty.filter out, sBusy := g.sBusy.filter out }
  | _ => g

/-- A destination is filled with poisoned data in one lane (R393, R402). -/
def Regs.setBad (g : Regs) (o : Operand) (n lane : Nat) : Regs :=
  match o with
  | .v r => { g with vBad := keysV r.toNat n (Mask.single lane) g.vBad }
  | .s r => { g with sBad := (List.range n).foldl (fun e k => (r.toNat + k) :: e) g.sBad }
  | _ => g

/-- What the register-state step finds (R217): the sources and destinations are full, the wave stalls, or a marked
empty source raises EMPTY_READ in its lowest lane. -/
inductive RegState where
  | full
  | stall
  | emptyRead (lane : Nat)
  deriving DecidableEq, Repr

/-- The lowest lane of a mask in which a vector source is empty. -/
def Regs.emptyLane (g : Regs) (o : Operand) (n : Nat) (m : Mask) : Option Nat :=
  (Mask.lanes m).find? (fun l => g.empty o n (Mask.single l))

/-- The register-state step of an instruction's slots over its active lanes (R55, R217, R221): a marked empty source
raises EMPTY_READ in the lowest such lane, else an empty source or destination stalls. With no active lane nothing
is read (R18). -/
def regState (g : Regs) (m : Mask) (l : List Slot) : RegState :=
  if m = 0#32 then .full
  else
    match (Mask.lanes m).find? (fun lane =>
        l.any (fun x => x.mark && x.isSrc && g.empty x.op x.count (Mask.single lane))) with
    | some lane => .emptyRead lane
    | none =>
      if l.any (fun x => (x.isSrc || x.isDst) && (g.empty x.op x.count m || g.busy x.op x.count m)) then .stall else .full

/-- The lanes in which a source of the list, and the predicate, are free of uncorrectable errors (R402). -/
def Regs.goodLanes (g : Regs) (p : BitVec 4) (m : Mask) (l : List Slot) : Mask :=
  if g.pBad.contains (p.toNat % 8) then 0#32
  else (Mask.lanes m).foldl (fun a k =>
    if l.any (fun x => x.isSrc && g.bad x.op x.count (Mask.single k)) then a else a ||| Mask.single k) 0#32

/-- The lowest lane in which a source of an instruction, or the predicate over the bundle, is a word with an uncorrectable
error (R402). -/
def badLane (g : Regs) (p : BitVec 4) (bundle m : Mask) (l : List Slot) : Option Nat :=
  if g.vBad = [] ∧ g.sBad = [] ∧ g.pBad = [] then none
  else if g.pBad.contains (p.toNat % 8) then (Mask.lanes bundle).head?
  else (Mask.lanes m).find? (fun lane => l.any (fun x => x.isSrc && g.bad x.op x.count (Mask.single lane)))

end Sys2Proof.Machine
end

