-- ==== Sys2Proof/Machine/Flags.lean ====
section
/-! DEFINITION. Number formats (R160 to R162), the five rounding modes with overflow and tininess (R168, R169, R176),
and the flags of %fpflags (R171, R172). Arithmetic is exact on dyadic numbers until one rounding. -/

namespace Sys2Proof.Machine

/-- The seven bits of %fpflags (R171). -/
abbrev Flags := BitVec 7

/-- Invalid. -/
def fNV : Flags := 1#7
/-- Divide by zero. -/
def fDZ : Flags := 2#7
/-- Overflow. -/
def fOF : Flags := 4#7
/-- Underflow. -/
def fUF : Flags := 8#7
/-- Inexact. -/
def fNX : Flags := 16#7
/-- N4 marker at slot 30 or 31. -/
def fNOTCH : Flags := 32#7
/-- NaN scale in integer accumulation. -/
def fBADSCALE : Flags := 64#7

/-- A flag where a test holds. -/
def flagIf (c : Bool) (f : Flags) : Flags := if c then f else 0#7

/-- Flags are sticky: an instruction ORs its own in (R172). -/
def Wave.orFlags (w : Wave) (f : Flags) : Wave := { w with fpflags := w.fpflags ||| f }

/-- How a format encodes NaN and infinity (R160). -/
inductive Special where
  /-- As IEEE 754: exponent all ones. -/
  | ieee
  /-- E4M3: no infinity, one NaN of each sign. -/
  | e4m3
  /-- E2M1: neither. -/
  | none
  deriving DecidableEq, Repr

/-- A floating format: exponent and mantissa widths, bias and special encodings (R160). -/
structure Fmt where
  eb : Nat
  mb : Nat
  bias : Nat
  special : Special
  deriving DecidableEq, Repr

/-- binary64. -/
def f64 : Fmt := { eb := 11, mb := 52, bias := 1023, special := .ieee }
/-- binary32. -/
def f32 : Fmt := { eb := 8, mb := 23, bias := 127, special := .ieee }
/-- binary16. -/
def f16 : Fmt := { eb := 5, mb := 10, bias := 15, special := .ieee }
/-- BF16. -/
def bf16 : Fmt := { eb := 8, mb := 7, bias := 127, special := .ieee }
/-- E5M2. -/
def e5m2 : Fmt := { eb := 5, mb := 2, bias := 15, special := .ieee }
/-- E4M3. -/
def e4m3 : Fmt := { eb := 4, mb := 3, bias := 7, special := .e4m3 }
/-- E2M1. -/
def e2m1 : Fmt := { eb := 2, mb := 1, bias := 1, special := .none }

/-- The format of an F-table type code (R214); packed types name their element's. -/
def fmtF (ty : Nat) : Fmt :=
  if ty = 0 ∨ ty = 8 then f16
  else if ty = 1 ∨ ty = 9 then bf16
  else if ty = 2 then f32
  else if ty = 3 then f64
  else if ty = 4 then e4m3
  else if ty = 5 then e5m2
  else e2m1

/-- Bits of an element. -/
def Fmt.width (f : Fmt) : Nat := 1 + f.eb + f.mb

/-- A decoded element: a NaN with sign, quiet bit and payload below the quiet bit; an infinity; or the exact value
(-1)^sign × m × 2^e. -/
inductive FVal where
  | nan (sign quiet : Bool) (payload : Nat)
  | inf (sign : Bool)
  | fin (sign : Bool) (m : Nat) (e : Int)
  deriving DecidableEq, Repr

/-- The value of an element's bits (R160). -/
def Fmt.decode (f : Fmt) (x : Nat) : FVal :=
  let sign := bit x (f.eb + f.mb)
  let ex := bits x f.mb f.eb
  let man := bits x 0 f.mb
  let emax := 2 ^ f.eb - 1
  match f.special with
  | .ieee =>
    if ex = emax then
      if man = 0 then .inf sign else .nan sign (bit man (f.mb - 1)) (man % 2 ^ (f.mb - 1))
    else if ex = 0 then .fin sign man (1 - (f.bias : Int) - f.mb)
    else .fin sign (2 ^ f.mb + man) ((ex : Int) - f.bias - f.mb)
  | .e4m3 =>
    if ex = emax ∧ man = 2 ^ f.mb - 1 then .nan sign true 0
    else if ex = 0 then .fin sign man (1 - (f.bias : Int) - f.mb)
    else .fin sign (2 ^ f.mb + man) ((ex : Int) - f.bias - f.mb)
  | .none =>
    if ex = 0 then .fin sign man (1 - (f.bias : Int) - f.mb)
    else .fin sign (2 ^ f.mb + man) ((ex : Int) - f.bias - f.mb)

/-- The sign bit of a format. -/
def Fmt.signBit (f : Fmt) (s : Bool) : Nat := if s then 2 ^ (f.eb + f.mb) else 0

/-- The largest finite code, without the sign (R160). -/
def Fmt.maxCode (f : Fmt) : Nat :=
  match f.special with
  | .ieee => (2 ^ f.eb - 1) * 2 ^ f.mb - 1
  | .e4m3 => 2 ^ (f.eb + f.mb) - 2
  | .none => 2 ^ (f.eb + f.mb) - 1

/-- Infinity's bits in an IEEE format. -/
def Fmt.infBits (f : Fmt) (s : Bool) : Nat := f.signBit s + (2 ^ f.eb - 1) * 2 ^ f.mb

/-- The default NaN with a sign (R162); a format without NaN has none, and 0 stands. -/
def Fmt.nanBits (f : Fmt) (s : Bool) : Nat :=
  match f.special with
  | .ieee => f.infBits s + 2 ^ (f.mb - 1)
  | .e4m3 => f.signBit s + (2 ^ (f.eb + f.mb) - 1)
  | .none => 0

/-- The default NaN (R162). -/
def Fmt.defNaN (f : Fmt) : Nat := f.nanBits false

/-- A quieted NaN of the format with a payload. -/
def Fmt.nanWith (f : Fmt) (s : Bool) (payload : Nat) : Nat :=
  match f.special with
  | .ieee => f.nanBits s + payload % 2 ^ (f.mb - 1)
  | _ => f.nanBits s

/-- Bits in a number: the place of its highest one bit plus 1, 0 for 0. -/
def bitLen (n : Nat) : Nat := if n = 0 then 0 else Nat.log2 n + 1

/-- The rounding modes (R168), as the round field codes them (R215). -/
inductive Rnd where
  | rne | rtz | rdn | rup | rna
  deriving DecidableEq, Repr

/-- The mode of a code. -/
def rndOf (c : Nat) : Rnd :=
  if c = 1 then .rtz else if c = 2 then .rdn else if c = 3 then .rup else if c = 4 then .rna else .rne

/-- The mode of a round field: 5 takes %fpmode (R215, R252). -/
def Wave.mode (w : Wave) (r : BitVec 3) : Rnd := if r = 5#3 then rndOf w.fpmode.toNat else rndOf r.toNat

/-- Whether to step away from zero: `rem` of `den` lies beyond the kept digits, and more where `sticky`. -/
def roundUp (mode : Rnd) (sign odd : Bool) (rem den : Nat) (sticky : Bool) : Bool :=
  let inexact := decide (rem ≠ 0) || sticky
  match mode with
  | .rtz => false
  | .rdn => sign && inexact
  | .rup => !sign && inexact
  | .rna => decide (den ≤ 2 * rem)
  | .rne => decide (den < 2 * rem) || (decide (2 * rem = den) && (sticky || odd))

/-- m × 2^e (and a little more where `sticky`) as a multiple of 2^q: the multiple, and whether it is inexact. -/
def roundAt (mode : Rnd) (sign : Bool) (m : Nat) (e q : Int) (sticky : Bool) : Nat × Bool :=
  if q ≤ e then (m * 2 ^ (e - q).toNat, sticky)
  else
    let d := (q - e).toNat
    let n := m / 2 ^ d
    let r := m % 2 ^ d
    (if roundUp mode sign (decide (n % 2 = 1)) r (2 ^ d) sticky then n + 1 else n, decide (r ≠ 0) || sticky)

/-- What a mode gives on overflow: true for infinity, false for the largest finite value (R168). -/
def toInf (mode : Rnd) (sign : Bool) : Bool :=
  match mode with
  | .rne | .rna => true
  | .rtz => false
  | .rdn => sign
  | .rup => !sign

/-- The result of an overflow (R168, R176, R261): bits and flags. -/
def Fmt.overflow (f : Fmt) (mode : Rnd) (sat sign : Bool) : Nat × Flags :=
  if sat || !toInf mode sign then (f.signBit sign + f.maxCode, fOF ||| fNX)
  else match f.special with
    | .ieee => (f.infBits sign, fOF ||| fNX)
    | .e4m3 => (f.nanBits sign, fNV)
    | .none => (f.signBit sign + f.maxCode, fOF ||| fNX)

/-- Rounds a non-zero magnitude m × 2^e (and a little more where `sticky`) into a format (R168, R169): bits and flags.
Tininess is detected after rounding with unbounded exponent. A sticky magnitude comes with at least mb + 3 bits. -/
def Fmt.round (f : Fmt) (mode : Rnd) (sat sign : Bool) (m : Nat) (e : Int) (sticky : Bool) : Nat × Flags :=
  let top : Int := e + bitLen m - 1
  let emin : Int := 1 - (f.bias : Int)
  let q : Int := (if top < emin then emin else top) - f.mb
  let (n, inexact) := roundAt mode sign m e q sticky
  let code : Nat := (q + f.mb + f.bias - 1).toNat * 2 ^ f.mb + n
  if f.maxCode < code then f.overflow mode sat sign
  else
    let unb := (roundAt mode sign m e (top - f.mb) sticky).1
    let tiny := decide (top < emin) && !(decide (top = emin - 1) && decide (2 ^ (f.mb + 1) ≤ unb))
    (f.signBit sign + code, flagIf inexact fNX ||| flagIf (tiny && inexact) fUF)

/-- Rounds an exact value into a format; `zero` is the sign of an exact zero. -/
def Fmt.roundInt (f : Fmt) (mode : Rnd) (sat : Bool) (x : Int) (e : Int) (zero : Bool) : Nat × Flags :=
  if x = 0 then (f.signBit zero, 0#7) else f.round mode sat (decide (x < 0)) x.natAbs e false

/-- The exact value of an element as a signed multiple of 2^e. -/
def signedMan (s : Bool) (m : Nat) : Int := if s then -(m : Int) else m

/-- The sign of a value. -/
def FVal.sign : FVal → Bool
  | .nan s _ _ => s
  | .inf s => s
  | .fin s _ _ => s

/-- A NaN. -/
def FVal.isNaN : FVal → Bool
  | .nan _ _ _ => true
  | _ => false

/-- A signalling NaN. -/
def FVal.isSNaN : FVal → Bool
  | .nan _ q _ => !q
  | _ => false

/-- An infinity. -/
def FVal.isInf : FVal → Bool
  | .inf _ => true
  | _ => false

/-- A zero. -/
def FVal.isZero : FVal → Bool
  | .fin _ 0 _ => true
  | _ => false

/-- The value of a floating constant code (R213). -/
def fltConst (k : Nat) : FVal :=
  let s := decide (k % 2 = 1)
  if k < 2 then .fin s 1 (-1)
  else if k < 4 then .fin s 1 0
  else if k < 6 then .fin s 1 1
  else if k < 8 then .fin s 1 2
  else if k < 10 then .fin s 1 3
  else if k < 12 then .fin s 1 (-2)
  else if k < 14 then .fin s 1 (-3)
  else .inf s

/-- Encodes a value that the format holds exactly. -/
def Fmt.encode (f : Fmt) (v : FVal) : Nat :=
  match v with
  | .nan s _ p => f.nanWith s p
  | .inf s => f.infBits s
  | .fin s m e => (f.roundInt .rne false (signedMan s m) e s).1

/-- The bits of a source of a float type in a lane (R213, R252): a register's low bits, or a constant's exact value,
in both elements of a packed type. A predicate gives the pattern of the number 0 or 1, as any register of that number would (log 27,
DEDUCED). -/
def Wave.fsrc (w : Wave) (o : Operand) (ty lane : Nat) : Nat :=
  let f := fmtF ty
  let rep (x : Nat) : Nat := if ty = 8 ∨ ty = 9 then x + x * 2 ^ 16 else x
  let wid := if ty = 8 ∨ ty = 9 then 32 else f.width
  match o with
  | .pos k => rep (f.encode (.fin false k.toNat 0))
  | .neg k => rep (f.encode (.fin true (32 - k.toNat) 0))
  | .flt k => rep (f.encode (fltConst k.toNat))
  | _ => w.src o (if ty = 3 then 2 else 1) lane % 2 ^ wid

end Sys2Proof.Machine
end

