-- ==== Sys2Proof/Machine/Float.lean ====
section
/-! DEFINITION. Floating arithmetic on elements of a format: each result is the exact result rounded once, with flags
by R169 and NaNs by R170. A result is a pair of bits and flags. -/

namespace Sys2Proof.Machine

/-- The result of an operation with a NaN operand: the first NaN in operand order, quieted; NV if one is signalling
(R169, R170). None where no operand is a NaN. -/
def nanResult (f : Fmt) (l : List FVal) : Option (Nat × Flags) :=
  match l.find? FVal.isNaN with
  | some (.nan s _ p) => some (f.nanWith s p, flagIf (l.any FVal.isSNaN) fNV)
  | _ => none

/-- A generated NaN (R169, R170). -/
def invalid (f : Fmt) : Nat × Flags := (f.defNaN, fNV)

/-- The exact sum of two finite values: a signed multiple of the lower exponent. -/
def addExact (s1 : Bool) (m1 : Nat) (e1 : Int) (s2 : Bool) (m2 : Nat) (e2 : Int) : Int × Int :=
  let e := if e1 ≤ e2 then e1 else e2
  (signedMan s1 m1 * 2 ^ (e1 - e).toNat + signedMan s2 m2 * 2 ^ (e2 - e).toNat, e)

/-- The sign of an exact zero sum of terms (R254): the terms' own where they are zeros of one sign, else + but for
RDN. -/
def zeroSign (mode : Rnd) (bothZero : Bool) (s1 s2 : Bool) : Bool :=
  if bothZero && s1 == s2 then s1 else decide (mode = .rdn)

/-- a + b (R254). -/
def fAdd (f : Fmt) (mode : Rnd) (a b : FVal) : Nat × Flags :=
  match nanResult f [a, b] with
  | some r => r
  | none =>
    match a, b with
    | .inf s, .inf t => if s = t then (f.infBits s, 0#7) else invalid f
    | .inf s, _ => (f.infBits s, 0#7)
    | _, .inf t => (f.infBits t, 0#7)
    | .fin s1 m1 e1, .fin s2 m2 e2 =>
      let x := addExact s1 m1 e1 s2 m2 e2
      f.roundInt mode false x.1 x.2 (zeroSign mode (m1 == 0 && m2 == 0) s1 s2)
    | _, _ => invalid f

/-- A value with its sign inverted. -/
def FVal.neg : FVal → FVal
  | .nan s q p => .nan s q p
  | .inf s => .inf (!s)
  | .fin s m e => .fin (!s) m e

/-- a - b; a NaN b keeps its own sign (R254). -/
def fSub (f : Fmt) (mode : Rnd) (a b : FVal) : Nat × Flags := fAdd f mode a b.neg

/-- a × b (R254). -/
def fMul (f : Fmt) (mode : Rnd) (a b : FVal) : Nat × Flags :=
  match nanResult f [a, b] with
  | some r => r
  | none =>
    let s := a.sign != b.sign
    match a, b with
    | .fin _ m1 e1, .fin _ m2 e2 => f.roundInt mode false (signedMan s (m1 * m2)) (e1 + e2) s
    | .inf _, .fin _ m _ => if m = 0 then invalid f else (f.infBits s, 0#7)
    | .fin _ m _, .inf _ => if m = 0 then invalid f else (f.infBits s, 0#7)
    | _, _ => (f.infBits s, 0#7)

/-- a × b is ∞ × 0. -/
def infTimesZero (a b : FVal) : Bool := (a.isInf && b.isZero) || (a.isZero && b.isInf)

/-- a × b + c with one rounding (R170, R254). -/
def fFma (f : Fmt) (mode : Rnd) (a b c : FVal) : Nat × Flags :=
  match nanResult f [a, b, c] with
  | some r => (r.1, r.2 ||| flagIf (infTimesZero a b) fNV)
  | none =>
    if infTimesZero a b then invalid f
    else
      let s := a.sign != b.sign
      if a.isInf || b.isInf then
        if c.isInf && c.sign != s then invalid f else (f.infBits s, 0#7)
      else match a, b, c with
        | .fin _ m1 e1, .fin _ m2 e2, .fin s3 m3 e3 =>
          let x := addExact s (m1 * m2) (e1 + e2) s3 m3 e3
          f.roundInt mode false x.1 x.2 (zeroSign mode (m1 * m2 == 0 && m3 == 0) s s3)
        | _, _, c => (f.infBits c.sign, 0#7)

/-- a / b (R255). -/
def fDiv (f : Fmt) (mode : Rnd) (a b : FVal) : Nat × Flags :=
  match nanResult f [a, b] with
  | some r => r
  | none =>
    let s := a.sign != b.sign
    match a, b with
    | .inf _, .inf _ => invalid f
    | .inf _, _ => (f.infBits s, 0#7)
    | _, .inf _ => (f.signBit s, 0#7)
    | .fin _ m1 e1, .fin _ m2 e2 =>
      if m2 = 0 then if m1 = 0 then invalid f else (f.infBits s, fDZ)
      else if m1 = 0 then (f.signBit s, 0#7)
      else
        let k := f.mb + 4 + bitLen m2
        f.round mode false s (m1 * 2 ^ k / m2) (e1 - e2 - k) (decide (m1 * 2 ^ k % m2 ≠ 0))
    | _, _ => invalid f

/-- One step of the integer square root: the root of the high bits, refined by bit `k`. -/
def isqrtGo (n : Nat) : Nat → Nat → Nat
  | 0, r => if (r + 1) * (r + 1) ≤ n then r + 1 else r
  | k + 1, r =>
    let r' := r + 2 ^ (k + 1)
    isqrtGo n k (if r' * r' ≤ n then r' else r)

/-- The integer square root. -/
def isqrt (n : Nat) : Nat := isqrtGo n (bitLen n / 2 + 1) 0

/-- √a (R255). -/
def fSqrt (f : Fmt) (mode : Rnd) (a : FVal) : Nat × Flags :=
  match nanResult f [a] with
  | some r => r
  | none =>
    match a with
    | .fin s 0 _ => (f.signBit s, 0#7)
    | .inf false => (f.infBits false, 0#7)
    | .fin false m e =>
      let k : Nat := 2 * (f.mb + 4) + (e % 2).toNat
      let n := m * 2 ^ k
      let r := isqrt n
      f.round mode false false r ((e - k) / 2) (decide (r * r ≠ n))
    | _ => invalid f

/-- 1/√a (R255). -/
def fRsq (f : Fmt) (mode : Rnd) (a : FVal) : Nat × Flags :=
  match nanResult f [a] with
  | some r => r
  | none =>
    match a with
    | .fin s 0 _ => (f.infBits s, fDZ)
    | .inf false => (f.signBit false, 0#7)
    | .fin false m e =>
      let m' := if e % 2 = 0 then m else 2 * m
      let e' := if e % 2 = 0 then e else e - 1
      let k := f.mb + 4 + bitLen m'
      let r := isqrt (2 ^ (2 * k) / m')
      f.round mode false false r (-(k : Int) - e' / 2) (decide (r * r * m' ≠ 2 ^ (2 * k)))
    | _ => invalid f

/-- Fraction bits of the exponential's working precision. -/
def expP : Nat := 320

/-- 2^(fraction) in units of 2^-P, from below: `fr` holds the fraction's bits below `k`, `root` is 2^(2^-j) in units
of 2^-P for the next bit; the roots come by repeated square roots. -/
def exp2Frac (fr : Nat) : Nat → Nat → Nat → Nat
  | 0, _, acc => acc
  | k + 1, root, acc =>
    let root' := isqrt (root * 2 ^ expP)
    exp2Frac fr k root' (if bit fr k then acc * root' / 2 ^ expP else acc)

/-- The mode of a faithful rounding: in binary64 to nearest, the choice of R255 (log 6, DESIGN CHOICE); else the mode itself. -/
def faithful (f : Fmt) (mode : Rnd) (x : Nat) : Rnd :=
  if f.mb = 52 ∧ (mode = .rne ∨ mode = .rna) then
    if Config.faithfulUp (BitVec.ofNat 64 x) then .rup else .rdn
  else mode

/-- Rounds the magnitude of FEXP2 and FLOG2: in binary64 to nearest by the faithful choice (R255), but where the exact
value is representable, and for an overflow, which R168 decides. -/
def roundIrr (f : Fmt) (mode : Rnd) (x : Nat) (sign : Bool) (m : Nat) (e : Int) (sticky : Bool) : Nat × Flags :=
  let r := f.round mode false sign m e sticky
  if r.2 &&& fOF ≠ 0#7 ∨ r.2 = 0#7 then r else f.round (faithful f mode x) false sign m e sticky

/-- 2^a (R255). `x` is the operand's bits. -/
def fExp2 (f : Fmt) (mode : Rnd) (x : Nat) : Nat × Flags :=
  let a := f.decode x
  match nanResult f [a] with
  | some r => r
  | none =>
    match a with
    | .inf true => (f.signBit false, 0#7)
    | .inf false => (f.infBits false, 0#7)
    | .fin s m e =>
      if m = 0 then (f.encode (.fin false 1 0), 0#7)
      else if 20 < e + bitLen m then
        roundIrr f mode x false (2 ^ 60) (if s then -5000 else 5000) true
      else if 0 ≤ e then
        roundIrr f mode x false 1 (signedMan s (m * 2 ^ e.toNat)) false
      else
        let d := (-e).toNat
        let y := signedMan s m
        let n := y.fdiv (2 ^ d : Nat)
        let fr := (y.fmod (2 ^ d : Nat)).toNat
        if fr = 0 then roundIrr f mode x false 1 n false
        else roundIrr f mode x false (exp2Frac fr d (2 * 2 ^ expP) (2 ^ expP)) (n - expP) true
    | .nan _ _ _ => invalid f

/-- Fraction bits of the logarithm, and its working precision. -/
def logK : Nat := 200
@[inherit_doc logK] def logP : Nat := 560

/-- The bits of log₂ of a number in [1, 2) in units of 2^-P, by repeated squaring, from below. -/
def log2Frac : Nat → Nat → Nat → Nat
  | 0, _, acc => acc
  | k + 1, x, acc =>
    let y := x * x / 2 ^ logP
    if 2 * 2 ^ logP ≤ y then log2Frac k (y / 2) (2 * acc + 1) else log2Frac k y (2 * acc)

/-- log₂ a (R255). `x` is the operand's bits. -/
def fLog2 (f : Fmt) (mode : Rnd) (x : Nat) : Nat × Flags :=
  let a := f.decode x
  match nanResult f [a] with
  | some r => r
  | none =>
    match a with
    | .inf false => (f.infBits false, 0#7)
    | .fin _ 0 _ => (f.infBits true, fDZ)
    | .fin false m e =>
      let k := bitLen m - 1
      let top : Int := e + k
      if m = 2 ^ k then f.roundInt mode false top 0 false
      else
        let fr := log2Frac logK (m * 2 ^ (logP - k)) 0
        let y : Int := top * 2 ^ logK + fr
        if 0 ≤ y then roundIrr f mode x false y.toNat (-(logK : Int)) true
        else roundIrr f mode x true ((-y).toNat - 1) (-(logK : Int)) true
    | _ => invalid f

/-- a × 2^n (R256). -/
def fScale (f : Fmt) (mode : Rnd) (a : FVal) (n : Int) : Nat × Flags :=
  match nanResult f [a] with
  | some r => r
  | none =>
    match a with
    | .fin s m e =>
      let n' := if n < -5000 then -5000 else if 5000 < n then 5000 else n
      f.roundInt mode false (signedMan s m) (e + n') s
    | .inf s => (f.infBits s, 0#7)
    | .nan _ _ _ => invalid f

/-- ⌊log₂ |a|⌋ as a 32-bit integer (R256). -/
def fGetexp (a : FVal) : Nat × Flags :=
  match a with
  | .fin _ 0 _ => (0x80000000, fNV)
  | .fin _ m e => (wrapN 32 (e + bitLen m - 1), 0#7)
  | _ => (0x7FFFFFFF, fNV)

/-- The order of two non-NaN values, with -0 below +0 where `zeros` (R170): a < b. -/
def fLt (zeros : Bool) (a b : FVal) : Bool :=
  match a, b with
  | .inf s, .inf t => s && !t
  | .inf s, _ => s
  | _, .inf t => !t
  | .fin s1 m1 e1, .fin s2 m2 e2 =>
    let x := addExact s1 m1 e1 (!s2) m2 e2
    decide (x.1 < 0) || (zeros && m1 == 0 && m2 == 0 && s1 && !s2)
  | _, _ => false

/-- Equality of non-NaN values; -0 = +0 (R258). -/
def fEq (a b : FVal) : Bool := !a.isNaN && !b.isNaN && !fLt false a b && !fLt false b a

/-- Minimum and maximum (R170, R257): `number` returns the non-NaN operand where exactly one is a NaN; else NaNs
propagate. `x` and `y` are the operands' bits. -/
def fMinMax (f : Fmt) (max number : Bool) (x y : Nat) : Nat × Flags :=
  let a := f.decode x
  let b := f.decode y
  let nv := flagIf (a.isSNaN || b.isSNaN) fNV
  if a.isNaN || b.isNaN then
    if number && !b.isNaN then (y, nv)
    else if number && !a.isNaN then (x, nv)
    else match nanResult f [a, b] with
      | some r => r
      | none => invalid f
  else if max then (if fLt true a b then y else x, 0#7)
  else (if fLt true b a then y else x, 0#7)

/-- The tests of FSETP (R258): the truth value and the flags. -/
def fTest (t : Nat) (a b c : FVal) : Bool × Flags :=
  let nan := a.isNaN || b.isNaN
  let snan := flagIf (a.isSNaN || b.isSNaN) fNV
  let any := flagIf nan fNV
  if t = 0 then (fEq a b, snan)
  else if t = 1 then (!fEq a b, snan)
  else if t = 2 then (!nan && fLt false a b, any)
  else if t = 3 then (!nan && !fLt false b a, any)
  else if t = 4 then (!nan && fLt false b a, any)
  else if t = 5 then (!nan && !fLt false a b, any)
  else if t = 6 then (nan, snan)
  else if t = 7 then (!nan, snan)
  else (!nan && !c.isNaN && !fLt false a b && fLt false a c, flagIf (nan || c.isNaN) fNV)

/-- The class bit of a value (R259). -/
def fClass (f : Fmt) (a : FVal) : Nat :=
  match a with
  | .nan _ q _ => if q then 2 else 1
  | .inf s => if s then 4 else 512
  | .fin s m e =>
    if m = 0 then (if s then 32 else 64)
    else if e + bitLen m - 1 < 1 - (f.bias : Int) then (if s then 16 else 128)
    else if s then 8 else 256

/-- Rounds to an integral value in the same format (R260). -/
def fRound (f : Fmt) (mode : Rnd) (exact : Bool) (x : Nat) : Nat × Flags :=
  let a := f.decode x
  match nanResult f [a] with
  | some r => r
  | none =>
    match a with
    | .fin s m e =>
      let (n, inexact) := roundAt mode s m e 0 false
      if inexact then ((f.roundInt .rne false (signedMan s n) 0 s).1, flagIf exact fNX) else (x, 0#7)
    | _ => (x, 0#7)

/-- One format holds every value of another (R261). -/
def Fmt.holds (d f : Fmt) : Bool :=
  decide (f.mb ≤ d.mb) && decide (f.bias + f.mb ≤ d.bias + d.mb)
    && decide (2 ^ f.eb - 1 - f.bias ≤ 2 ^ d.eb - 1 - d.bias) && decide (f.eb ≤ d.eb)

/-- A NaN converted to another format (R170, R261): its sign, the top of its payload, quieted. -/
def cvtNaN (d f : Fmt) (s : Bool) (payload : Nat) : Nat :=
  match f.special with
  | .ieee =>
    if f.mb ≤ d.mb then d.nanWith s (payload * 2 ^ (d.mb - f.mb)) else d.nanWith s (payload / 2 ^ (f.mb - d.mb))
  | _ => d.nanBits s

/-- FCVT (R261): from format `f` into format `d`. -/
def fCvt (d f : Fmt) (mode : Rnd) (sat : Bool) (x : Nat) : Nat × Flags :=
  match f.decode x with
  | .nan s q p => if d.special = .none then (0, fNV) else (cvtNaN d f s p, flagIf (!q) fNV)
  | .inf s =>
    if sat then (d.signBit s + d.maxCode, fOF ||| fNX)
    else match d.special with
      | .ieee => (d.infBits s, 0#7)
      | .e4m3 => (d.nanBits s, fNV)
      | .none => (d.signBit s + d.maxCode, fNV)
  | .fin s m e => d.roundInt mode sat (signedMan s m) e s

/-- FCVTI (R262): into an integer of `w` bits, signed or not; the result modulo 2^w. -/
def fCvtInt (f : Fmt) (mode : Rnd) (w : Nat) (sgn : Bool) (x : Nat) : Int × Flags :=
  let least : Int := if sgn then -(2 ^ (w - 1) : Nat) else 0
  let greatest : Int := if sgn then (2 ^ (w - 1) : Nat) - 1 else (2 ^ w : Nat) - 1
  match f.decode x with
  | .nan _ _ _ => (0, fNV)
  | .inf s => if s then (least, fNV) else (greatest, fNV)
  | .fin s m e =>
    let (n, inexact) := roundAt mode s m e 0 false
    let y := signedMan s n
    if y < least then (least, fNV) else if greatest < y then (greatest, fNV) else (y, flagIf inexact fNX)

/-- ICVTF (R263): an integer rounded once into a format. -/
def iCvtF (d : Fmt) (mode : Rnd) (x : Int) : Nat × Flags := d.roundInt mode false x 0 false

/-- The exact product of two values as a term of a sum: a NaN, an infinity, or a finite value. -/
def mulTerm (a b : FVal) : FVal :=
  if a.isNaN || b.isNaN || infTimesZero a b then .nan false true 0
  else match a, b with
    | .fin s m e, .fin t n g => .fin (s != t) (m * n) (e + g)
    | _, _ => .inf (a.sign != b.sign)

/-- The exact sum of finite terms: a signed multiple of 2^e, with the least exponent. -/
def sumExact : List FVal → Int × Int
  | [] => (0, 0)
  | [.fin s m e] => (signedMan s m, e)
  | .fin s m e :: t =>
    let x := sumExact t
    let g := if e ≤ x.2 then e else x.2
    (signedMan s m * 2 ^ (e - g).toNat + x.1 * 2 ^ (x.2 - g).toNat, g)
  | _ :: t => sumExact t

/-- FDOT2 (R265): exact sum of two products and an addend, rounded once into binary32. -/
def fDot2 (f : Fmt) (mode : Rnd) (x y z : Nat) : Nat × Flags :=
  let a0 := f.decode (x % 2 ^ 16)
  let a1 := f.decode (x / 2 ^ 16 % 2 ^ 16)
  let b0 := f.decode (y % 2 ^ 16)
  let b1 := f.decode (y / 2 ^ 16 % 2 ^ 16)
  let c := f32.decode z
  let l := [a0, a1, b0, b1, c]
  let nv := flagIf (l.any FVal.isSNaN || infTimesZero a0 b0 || infTimesZero a1 b1) fNV
  match [a0, a1, b0, b1].find? FVal.isNaN, c with
  | some (.nan s _ p), _ => (cvtNaN f32 f s p, nv)
  | _, .nan s _ p => (f32.nanWith s p, nv)
  | _, _ =>
    let t0 := mulTerm a0 b0
    let t1 := mulTerm a1 b1
    let ts := [t0, t1, c]
    if ts.any FVal.isNaN then invalid f32
    else if ts.any FVal.isInf then
      if ts.any (fun t => t.isInf && t.sign) && ts.any (fun t => t.isInf && !t.sign) then invalid f32
      else (f32.infBits (ts.any (fun t => t.isInf && t.sign)), 0#7)
    else
      let x := sumExact ts
      let same := ts.all FVal.isZero && (ts.all FVal.sign || !(ts.any FVal.sign))
      f32.roundInt mode false x.1 x.2 (if same then c.sign else decide (mode = .rdn))

end Sys2Proof.Machine
end

