-- ==== Sys2Proof/Machine/Base.lean ====
section
/-! DEFINITION. Named reads and updates of the state's tables, free values, RAS records (R400), and the places of
cores in dies and clusters (R115, R223). -/

namespace Sys2Proof.Machine

/-- What a meaning answers. -/
abbrev Out := Host.Outcome State Fault Refusal

/-- Puts a wave. -/
def State.putWave (s : State) (id : Nat) (w : Wave) : State := { s with waves := tset s.waves id w }
/-- Updates a wave, where there is one. -/
def State.updWave (s : State) (id : Nat) (f : Wave → Wave) : State :=
  match tget s.waves id with
  | some w => s.putWave id (f w)
  | none => s

/-- The state of a logical core. -/
def State.core (s : State) (k : Nat) : CoreSt := tgetD s.cores k CoreSt.init
/-- Puts a core. -/
def State.putCore (s : State) (k : Nat) (c : CoreSt) : State := { s with cores := tset s.cores k c }
/-- The state of a world. -/
def State.world (s : State) (k : Nat) : World := tgetD s.worlds k World.init
/-- Puts a world. -/
def State.putWorld (s : State) (k : Nat) (c : World) : State := { s with worlds := tset s.worlds k c }
/-- The state of a queue. -/
def State.queue (s : State) (k : Nat) : Queue := tgetD s.queues k Queue.init
/-- Puts a queue. -/
def State.putQueue (s : State) (k : Nat) (c : Queue) : State := { s with queues := tset s.queues k c }
/-- An entry of the ROT. -/
def State.rotAt (s : State) (h : Nat) : RotEnt := tgetD s.rot h RotEnt.init
/-- Puts an entry of the ROT. -/
def State.putRot (s : State) (h : Nat) (e : RotEnt) : State := { s with rot := tset s.rot h e }
/-- Puts a workgroup. -/
def State.putWg (s : State) (k : Nat) (g : Wg) : State := { s with wgs := tset s.wgs k g }
/-- Puts a launch. -/
def State.putLaunch (s : State) (k : Nat) (l : Launch) : State := { s with launches := tset s.launches k l }
/-- Puts an engine operation. -/
def State.putOp (s : State) (k : Nat) (o : EngOp) : State := { s with ops := tset s.ops k o }
/-- A line of a scrub-pending range (R110). -/
def State.inScrub (s : State) (l : Nat) : Bool := s.scrub.any (fun r => decide (r.1 ≤ l ∧ l < r.1 + r.2.1))
/-- A line's sideband. -/
def State.sideAt (s : State) (l : Nat) : Side := tgetD s.side l { Side.init with sp := s.inScrub l }
/-- Puts a line's sideband. -/
def State.putSide (s : State) (l : Nat) (x : Side) : State := { s with side := tset s.side l x }
/-- Takes the next handle or stamp. -/
def State.bump (s : State) : State := { s with nextId := s.nextId + 1 }
/-- Advances the counter of free values. -/
def State.draw (s : State) (n : Nat) : State := { s with free := s.free + n }

/-- The wave that issues. -/
def State.curWave (s : State) : Option Wave := tget s.waves s.cur

/-- The workgroup of a wave. -/
def State.wgOf (s : State) (w : Wave) : Option Wg := tget s.wgs w.wg

/-- The die of a logical or service core: 40 logical cores a compute die, dies 8 and 9 the I/O dies (R223). -/
def dieOf (core : Nat) : Nat := if core < Config.cores then core / 40 else 8 + (core - Config.cores) / 16
/-- The cluster of a core: 8 cores; clusters 40 and 41 stand for the I/O dies (R223). -/
def clusterOf (core : Nat) : Nat := if core < Config.cores then core / 8 else 40 + (core - Config.cores) / 16

/-- Clocks of one second (R7). -/
def second : Nat := 1100000000

/-- Appends a RAS record (R400). A corrected-error event joins a record of its type, unit and place of the last second. -/
def State.ras (s : State) (type unit loc : Nat) (addr : Nat) : State :=
  let n := s.plat.rasNext
  let same (r : Ras) : Bool := decide (r.type = type) && decide (r.unit = unit) && decide (r.loc = loc)
    && decide (s.clock.toNat < r.clock.toNat + second)
  match (if type = 1 ∨ type = 6 then s.plat.ras.find? (fun e => same e.2) else none) with
  | some e =>
    let r := e.2
    let r' : Ras := { r with count := if r.count = 0xFFFFFFFF#32 then r.count else r.count + 1#32 }
    { s with plat := { s.plat with ras := tset s.plat.ras e.1 r' } }
  | none =>
    { s with plat := { s.plat with
        ras := tset s.plat.ras (n % Config.rasLen)
          { type := type, unit := unit, loc := loc, count := 1#32, addr := BitVec.ofNat 64 addr, clock := s.clock
            seq := BitVec.ofNat 32 n }
        rasNext := n + 1 } }

/-- The stack of a pseudo-channel, and its state. -/
def State.stackAt (s : State) (k : Nat) : Stack :=
  tgetD s.plat.dram k { out := false, retired := [], rebuild := none, selfRefresh := false, lastReq := 0 }
/-- Puts a stack. -/
def State.putStack (s : State) (k : Nat) (x : Stack) : State := { s with plat := { s.plat with dram := tset s.plat.dram k x } }

/-- The pseudo-channel of a 512-byte grain. A stack that failed training is out of the address map, and its grains lie in the others
(R395; log 5, DESIGN CHOICE). -/
def State.channelOf (s : State) (grain : Nat) : Nat :=
  let c := (Config.channelOf grain).val
  let live := (List.range 8).filter (fun k => !(s.stackAt k).out)
  if (s.stackAt (c / 96)).out ∧ live ≠ [] then live.getD (c / 96 % live.length) 0 * 96 + c % 96 else c

/-- A RAS record of a DRAM line: its stack and layer come from the hash (log 5, DESIGN CHOICE). -/
def State.rasLine (s : State) (type line : Nat) : State :=
  s.ras type (s.channelOf (line / 8) / 96) (Config.layerOf (line / 8)).val (line * 64)

/-- The core has had work up to now (R398). -/
def State.touch (s : State) (core : Nat) : State := s.putCore core { s.core core with lastWork := s.clock.toNat }

/-- A wave leaves its slot: the core has had work up to now (R398), and the wave waits for the token no longer (R364). -/
def State.quit (s : State) (core id : Nat) : State :=
  let c := s.core core
  s.putCore core { c with lastWork := s.clock.toNat, tkWait := c.tkWait.filter (fun k => decide (k ≠ id)) }

/-- The 256 bits of a RAS record (R400). -/
def Ras.toNat (r : Ras) : Nat :=
  r.type % 2 ^ 8 + r.unit % 2 ^ 8 * 2 ^ 8 + r.loc % 2 ^ 16 * 2 ^ 16 + r.count.toNat * 2 ^ 32 + r.addr.toNat * 2 ^ 64
    + r.clock.toNat * 2 ^ 128 + r.seq.toNat * 2 ^ 192

/-- Launch sequence numbers of launches that have taken one and have not ended. -/
def State.liveSeqs (s : State) : List Word := s.launches.filterMap (fun e => e.2.seq)

/-- The oldest live number: the smallest by the signed comparison of R37. -/
def oldestOf : List Word → Option Word
  | [] => none
  | x :: t =>
    match oldestOf t with
    | none => some x
    | some y => if sdiff32 x.toNat y.toNat < 0 then some x else some y

/-- An epoch has ended: no launch is live, or the oldest live number is past it (R34, R37). -/
def State.epochOver (s : State) (epoch : Word) : Bool :=
  match oldestOf s.liveSeqs with
  | none => true
  | some o => decide (0 < sdiff32 o.toNat epoch.toNat)

/-- The current sequence number: the one most recently given out (R34). -/
def State.currentSeq (s : State) : Word := s.plat.launchSeq - 1#32

/-- The 256 bits of a fault record (R360). -/
def FaultRec.toNat (r : FaultRec) : Nat :=
  r.code.toNat + r.step.toNat * 2 ^ 8 + b2n r.rst * 2 ^ 11 + r.cls.toNat * 2 ^ 12 + r.seq.toNat * 2 ^ 16
    + r.lane.toNat * 2 ^ 32 + r.level.toNat * 2 ^ 40 + r.info.toNat * 2 ^ 48 + r.addr.toNat * 2 ^ 64
    + r.restart.toNat * 2 ^ 128 + r.mask.toNat * 2 ^ 160 + r.pc.toNat * 2 ^ 192 + r.ridx.toNat * 2 ^ 224

/-- The 512 bits of a fault-queue entry (R361). -/
def Post.toNat (p : Post) : Nat :=
  p.record.toNat + p.prec % 2 ^ 52 * 2 ^ 256 + p.launch.toNat * 2 ^ 320 + p.world % 64 * 2 ^ 352
    + p.core % 512 * 2 ^ 358 + p.wgslot % 128 * 2 ^ 367 + p.wave % 64 * 2 ^ 374 + p.kind % 16 * 2 ^ 380

/-- A world is protected while its TDI is locked or running (R389). -/
def World.protected (w : World) : Bool := decide (w.tdisp = .configLocked) || decide (w.tdisp = .run)

/-- The world's TDI has left RUN: step 1 of R393 has taken effect. -/
def World.left (w : World) : Bool := w.leaving || decide (w.tdisp = .error)

end Sys2Proof.Machine
end

