-- ==== Sys2Proof/Machine/Phys.lean ====
section
/-! DEFINITION. Physical memory (R87), the sideband of DRAM lines (R109, R110, R275, R387), and the die caches with
early grant and confirmation (R75, R76, R125, R128, R130). `mem` holds the newest coherent value of every byte. -/

namespace Sys2Proof.Machine

/-- The kind of a physical address (R87). -/
def paKind (pa : Nat) : Nat := pa / 2 ^ 50 % 4
/-- The node of a kind-3 address (R87). -/
def paNode (pa : Nat) : Nat := pa / 2 ^ 39 % 2048

/-- A kind-3 address that names this device's own node is its kind-0 DRAM byte (R379). -/
def State.ownPa (s : State) (pa : Nat) : Nat :=
  if paKind pa = 3 ∧ paNode pa = s.plat.node then pa % 2 ^ 39 else pa

/-- A logical device. -/
def State.ldAt (s : State) (k : Nat) : Ld := tgetD s.host.lds k { host := none, hdm := [], capacity := 0 }

/-- A world's kind-2 address names memory of the host bound to its logical device, and a kind-1 address lies in the window that
this host assigns (R371): memory holds the bytes of host h and logical device k from 2^52 times h, or times 16 h + k, on. A
world without a logical device has number 0's (log 63, DESIGN CHOICE). -/
def State.hostPa (s : State) (world pa : Nat) : Nat :=
  let k := (s.world world).ld.getD 0
  let h := (s.ldAt k).host.getD 0
  if paKind pa = 1 then pa + 2 ^ 52 * (16 * h + k) else if paKind pa = 2 then pa + 2 ^ 52 * h else pa

/-- An address of another node. -/
def State.isRemote (s : State) (pa : Nat) : Bool := decide (paKind pa = 3) && decide (paNode pa ≠ s.plat.node)

/-- Fields of a stage-2 range entry (R84). -/
structure Range where
  n : Nat
  r : Bool
  w : Bool
  x : Bool
  pol : Bool
  mp : Bool
  base : Nat
  size : Nat
  out : Nat
  deriving DecidableEq, Repr

/-- A range entry's fields, where V is set (R84). -/
def rangeOf (n : Nat) (e : BitVec 128) : Option Range :=
  let v := e.toNat
  if bit v 0 then
    some { n := n, r := bit v 1, w := bit v 2, x := bit v 3, pol := bit v 4, mp := bit v 5
           base := bits v 16 31 * 2 ^ 21, size := bits v 64 31 * 2 ^ 21, out := bits v 96 31 * 2 ^ 21 }
  else none

/-- The valid ranges of a world, lowest-numbered first. -/
def World.valids (w : World) : List Range := w.ranges.filterMap (fun e => rangeOf e.1 e.2)

/-- The lowest-numbered valid range that matches an IA (R85). -/
def World.match2 (w : World) (ia : Nat) : Option Range :=
  w.valids.find? (fun r => decide (r.base ≤ ia ∧ ia < r.base + r.size))

/-- The physical address of an IA through a range (R85). -/
def Range.pa (r : Range) (ia : Nat) : Nat := r.out + (ia - r.base)

/-- Bytes of DRAM that usable stacks give: 64 GiB less for each failed stack (R395). -/
def State.dramBytes (s : State) : Nat :=
  (8 - (s.plat.dram.filter (fun e => e.2.out)).length) * (64 * 2 ^ 30)

/-- First byte of the device-private region, carved from the top of DRAM (R87). -/
def State.privBase (s : State) : Nat := s.dramBytes - s.plat.privateGiB * 2 ^ 30

/-- What the checks of a kind-0 line find (R387). -/
inductive LineCheck where
  | data
  /-- A scrub-pending line reads as zeros (R110). -/
  | zeros
  | poison
  /-- The MAC does not match: PZ is set and a RAS record made. -/
  | macFail
  deriving DecidableEq, Repr

/-- The checks of R387 on a line for a reading world; a device access (no world) skips the MAC. -/
def State.checkLine (s : State) (world : Option Nat) (line : Nat) : LineCheck :=
  let x := s.sideAt line
  if x.sp then .zeros
  else if x.pz then .poison
  else if x.errs = 2 then .poison
  else match world with
    | none => .data
    | some w =>
      if x.macBad then .macFail
      else match x.owner with
        | none => .data
        | some o => if o = (w, (s.world w).keyGen) then .data else .macFail

/-- Lines of 64 bytes that an access of `n` bytes touches. -/
def linesOf (pa n : Nat) : List Nat :=
  if n = 0 then [] else (List.range ((pa + n - 1) / 64 - pa / 64 + 1)).map (· + pa / 64)

/-- The bytes at a physical address: zeros on scrub-pending lines (R110). -/
def State.peek (s : State) (pa n : Nat) : List Byte :=
  (List.range n).map (fun i =>
    if paKind pa = 0 ∧ (s.sideAt ((pa + i) / 64)).sp then 0#8 else cget s.mem (pa + i))

/-- The layer of a DRAM line, as 16 · stack + layer (log 5, DESIGN CHOICE). -/
def State.lineLayer (s : State) (line : Nat) : Nat := 16 * (s.channelOf (line / 8) / 96) + (Config.layerOf (line / 8)).val

/-- A layer is condemned (R107, R108). -/
def State.condemn (s : State) (k : Nat) : State :=
  if s.plat.failing.contains k then s else { s with plat := { s.plat with failing := s.plat.failing ++ [k] } }

/-- Clocks of one hour (R7). -/
def hour : Nat := 3600 * second

/-- A corrected error counts against its layer: more than CETHR of them within an hour condemn it (R107, R397, R403). An hour
begins with the first error after the last hour is over (log 60, DESIGN CHOICE). -/
def State.countCorrected (s : State) (line : Nat) : State :=
  let k := s.lineLayer line
  let now := s.clock.toNat
  let c := tgetD s.plat.corrects k (now, 0)
  let c : Nat × Nat := if c.1 + hour ≤ now then (now, 1) else (c.1, c.2 + 1)
  let s := { s with plat := { s.plat with corrects := tset s.plat.corrects k c } }
  if s.plat.cethr < c.2 then s.condemn k else s

/-- Marks a line poisoned after a MAC mismatch, and records it (R387, R400). -/
def State.markBad (s : State) (line : Nat) : State :=
  (s.putSide line { s.sideAt line with pz := true }).rasLine 13 line

/-- Counts a corrected error and repairs the line (R387, R402). -/
def State.corrected (s : State) (line : Nat) : State :=
  let x := s.sideAt line
  if x.errs = 1 ∧ x.sp = false then ((s.putSide line { x with errs := 0 }).rasLine 1 line).countCorrected line else s

/-- Transfers between a world and its host's memory are cut, because its TDI has left RUN (R393). -/
def State.cutOff (s : State) (world pa : Nat) : Bool := decide (paKind pa = 2) && (s.world world).left

/-- Runs the checks of every kind-0 line of a read; true where some line is poisoned. A sector that ECC cannot correct
makes a record at each read (R108, R400). A line of another kind is poisoned where a move has taken a poisoned one there, and one
of the host's memory once the world has left RUN (R393). -/
def State.checkRead (s : State) (world : Option Nat) (pa n : Nat) : State × Bool :=
  if paKind pa ≠ 0 then (s, (linesOf pa n).any (fun line => (s.sideAt line).pz) || (match world with
    | some w => s.cutOff w pa
    | none => false))
  else (linesOf pa n).foldl (fun (acc : State × Bool) line =>
    match acc.1.checkLine world line with
    | .data => (acc.1.corrected line, acc.2)
    | .zeros => acc
    | .poison => (if (acc.1.sideAt line).pz then acc.1 else (acc.1.rasLine 2 line).condemn (s.lineLayer line), true)
    | .macFail => (acc.1.markBad line, true)) (s, false)

/-- The cells of one instruction or engine unit that fall in a line, as a map of its 64 bytes. -/
def coverOf (cells : List (Nat × Byte)) (line : Nat) : Nat :=
  cells.foldl (fun m c => if c.1 / 64 = line then m ||| 2 ^ (c.1 % 64) else m) 0

/-- Distinct numbers of a list, in order of first appearance. -/
def dedupN (l : List Nat) : List Nat := l.foldl (fun acc x => if acc.contains x then acc else acc ++ [x]) []

/-- The sideband of a kind-0 line before a write by a world that covers the bytes of `map` (R110, R275, R386, R387): the line's
world, MAC and ECC are written anew; a scrub-pending line's other bytes become zeros; a poisoned line stays so unless the whole line
is written; a line that fails the writer's read for a partial write becomes poisoned. -/
def State.sideWrite (s : State) (world : Nat) (line map : Nat) : State :=
  let x := s.sideAt line
  let whole := decide (map = 2 ^ 64 - 1)
  let own := some (world, (s.world world).keyGen)
  if x.sp then
    { s with mem := czero s.mem (line * 64) 64
             side := tset s.side line { owner := own, sp := false, pz := false, errs := 0, macBad := false } }
  else if whole then
    { s with side := tset s.side line { owner := own, sp := false, pz := false, errs := 0, macBad := false } }
  else
    let y : Side := { owner := own, sp := false, pz := x.pz, errs := 0, macBad := false }
    if x.pz then s.putSide line y
    else match s.checkLine (some world) line with
      | .macFail => (s.putSide line { y with pz := true }).rasLine 13 line
      | .poison => ((s.putSide line { y with pz := true }).rasLine 2 line).condemn (s.lineLayer line)
      | _ => (s.corrected line).putSide line y

/-- Prepares a line for a write of cells: its sideband where it is a kind-0 line; a line of another kind that a move has poisoned
is sound again once it is written whole. -/
def State.prepLine (s : State) (world : Nat) (cells : List (Nat × Byte)) (line : Nat) : State :=
  if paKind (line * 64) = 0 then s.sideWrite world line (coverOf cells line)
  else if (s.sideAt line).pz && decide (coverOf cells line = 2 ^ 64 - 1) then { s with side := tdel s.side line }
  else s

/-- Bytes of device DRAM are written: a resident tier page whose frame holds one of them counts as written (R89). -/
def State.markFrames (s : State) (pas : List Nat) : State :=
  s.xl.frames.foldl (fun (s : State) f =>
    if pas.any (fun a => decide (a / 65536 = f.1)) then
      let t := tgetD s.xl.tiers f.2 Tier.init
      if t.res then { s with xl := { s.xl with tiers := tset s.xl.tiers f.2 { t with dt := true } } } else s
    else s) s

/-- Writes cells of one instruction by a world: sidebands first, then the bytes, later cells over earlier ones. -/
def State.pokeCells (s : State) (world : Nat) (cells : List (Nat × Byte)) : State :=
  let s := s.markFrames (cells.map (fun c => c.1))
  let s := (dedupN (cells.map (fun c => c.1 / 64))).foldl (fun (s : State) line => s.prepLine world cells line) s
  { s with mem := cells.foldl (fun m c => cset m c.1 c.2) s.mem }

/-- The cells of bytes from an address upward. -/
def cellsOf (a : Nat) : List Byte → List (Nat × Byte)
  | [] => []
  | b :: bs => (a, b) :: cellsOf (a + 1) bs

/-- The world under which the device itself reads or writes a line of stage-1 tables or of page maps for a world (log 8, DEDUCED):
the world itself, or world 0 for what a supervisor has written. -/
def State.keeper (s : State) (world line : Nat) : Nat :=
  if (s.sideAt line).owner = some (0, (s.world 0).keyGen) then 0 else world

/-- A write by the device itself for a world (a walk's A and D, a page map's entry), as a part of the line that its keeper writes;
a line that nothing has written becomes world 0's (log 8, DEDUCED). -/
def State.pokeRaw (s : State) (world pa : Nat) (bs : List Byte) : State :=
  let s := (linesOf pa bs.length).foldl (fun (s : State) line =>
    if paKind pa ≠ 0 then s
    else s.sideWrite (if (s.sideAt line).owner.isNone then 0 else s.keeper world line) line 0) s
  { s.markFrames [pa] with mem := cwrite s.mem pa bs }

/-- A die's copy of a 128-byte line for a world. -/
def State.copyOf (s : State) (die world line : Nat) (inv : Option Word) : Option DieLine :=
  s.cache.find? (fun c => decide (c.die = die ∧ c.line = line ∧ c.world = world ∧ c.inv = inv))

/-- The wave or the operation of a stamp among those that have used a line; an earlier use stands (R126, R132). -/
def addUser (who : Stamp) (stamp : Nat) (l : List User) : List User :=
  let same (x : User) : Bool := decide (x.core = who.core ∧ x.wg = who.wg ∧ x.num = who.num ∧ x.op = who.op)
  if l.any same then l else { core := who.core, wg := who.wg, num := who.num, op := who.op, stamp := stamp } :: l

/-- An unconfirmed line has been read or written (R125, R126, R132). -/
def State.useLine (s : State) (who : Stamp) (line : Nat) : State :=
  { s with unconf := s.unconf.map (fun u => if u.line = line then { u with users := addUser who s.nextId u.users } else u) }

/-- A request to the pseudo-channel of a kind-0 sector (R102). -/
def State.request (s : State) (pa : Nat) (who : Stamp) (write : Bool) : State :=
  if paKind pa ≠ 0 then s
  else
    let k := s.channelOf (pa / 512)
    let ch := tgetD s.plat.chans k { slot := 0, guard := 0, pending := [] }
    let s := s.putStack (k / 96) { s.stackAt (k / 96) with lastReq := s.clock.toNat }
    let ch : Chan := { ch with pending := ch.pending ++ [{ who := who, sector := pa / 64, write := write }] }
    { s with plat := { s.plat with chans := tset s.plat.chans k ch } }

/-- The bit of an address's sector in its line (R75). -/
def sectorBit (pa : Nat) : BitVec 2 := if pa / 64 % 2 = 0 then 1#2 else 2#2

/-- The bits of the sectors that `n` bytes touch in the line of their first byte. -/
def sectorBits (pa n : Nat) : BitVec 2 := if 64 < pa % 64 + n then 3#2 else sectorBit pa

/-- A line leaves a die cache: its dirty sectors are written back, under the stamp of the access whose fill evicts it
(R75, R102). -/
def State.writeBack (s : State) (c : DieLine) (who : Stamp) : State :=
  if c.remote ∨ c.dirty = 0#2 then s
  else (List.range 2).foldl (fun (s : State) i =>
    if c.dirty.getLsbD i then s.request (c.line * 128 + 64 * i) who true else s) s

/-- Installs a die's copy, in place of the one it has. Where the set's 16 ways are taken, a line leaves (R75, log 15,
DESIGN CHOICE for which one). -/
def State.install (s : State) (who : Stamp) (c : DieLine) : State :=
  let rest := s.cache.filter (fun d => !decide (d.die = c.die ∧ d.line = c.line ∧ d.world = c.world ∧ d.inv = c.inv))
  let own := rest.filter (fun d => decide (d.die = c.die))
  if own.length < Config.cacheWays then { s with cache := c :: rest }
  else
    let mates := own.filter (fun d => decide (Config.setOf d.line = Config.setOf c.line))
    if mates.length < Config.cacheWays then { s with cache := c :: rest }
    else match mates[(Config.victim s.free).val]? with
      | some v => (({ s with cache := c :: rest.filter (fun d => decide (d ≠ v)) } : State).draw 1).writeBack v who
      | none => { s with cache := c :: rest }

/-- The key of a tier-map entry: its world, its range, and the page in the range (R89). -/
def tierKey (world range page : Nat) : Nat := (world * 48 + range) * 2 ^ 40 + page

/-- The tier-map key of a tier address in a range (R89). -/
def Range.tierKey (r : Range) (world pa : Nat) : Nat := Machine.tierKey world r.n ((pa - r.out) / 65536)

/-- The ranges of a world that give a tier address. -/
def World.outs (w : World) (pa : Nat) : List Range := w.valids.filter (fun r => decide (r.out ≤ pa % 2 ^ 52 ∧ pa % 2 ^ 52 < r.out + r.size))

/-- An access has passed translation to a tier address through a range (R91). -/
def State.noteLink (s : State) (world n pa : Nat) : State :=
  if paKind pa ≠ 1 ∧ paKind pa ≠ 2 then s
  else if ((s.world world).outs pa).length ≤ 1 then s
  else { s with xl := { s.xl with links := tset s.xl.links (world * 2 ^ 40 + pa % 2 ^ 52 / 65536) n } }

/-- A line fetched over the link adds 1 to CNT of its page, in the range through which the world has reached it (R91; log 51, DESIGN
CHOICE, where accesses through two ranges to one page are under way at once). -/
def State.countLink (s : State) (world line : Nat) : State :=
  let pa := line * 128 % 2 ^ 52
  let l := (s.world world).outs pa
  if paKind pa ≠ 1 ∧ paKind pa ≠ 2 then s
  else match (match l.find? (fun r => decide (some r.n = tget s.xl.links (world * 2 ^ 40 + pa / 65536))) with
      | some r => some r
      | none => l.head?) with
    | none => s
    | some r =>
      let k := r.tierKey world pa
      let t := tgetD s.xl.tiers k Tier.init
      { s with xl := { s.xl with tiers := tset s.xl.tiers k { t with cnt := if t.cnt = 0xFFFF#16 then t.cnt else t.cnt + 1#16 } } }

/-- A read that leaves no line in the die: it takes a sector that the die does not hold from DRAM, or over the link (R91, R102). -/
def State.probe (s : State) (die world pa : Nat) (who : Stamp) : State :=
  if s.cache.any (fun c => decide (c.die = die ∧ c.line = pa / 128 ∧ c.world = world) && decide (c.valid &&& sectorBit pa ≠ 0#2)) then s
  else (s.countLink world (pa / 128)).request pa who false

/-- Sends the fill request of a sector that a die does not hold (R102). -/
def State.fill (s : State) (die world pa : Nat) (who : Stamp) : State :=
  match s.copyOf die world (pa / 128) none with
  | some c => if c.valid &&& sectorBit pa = 0#2 then s.request pa who false else s
  | none => s.request pa who false

/-- The bytes that a copy's own data hold once a sector has been fetched into it: the sectors it had stay as they are, so that no
later load of the die reads what is older (R113, R120). -/
def State.patched (s : State) (c : DieLine) (need : BitVec 2) (d : List Byte) : List Byte :=
  (s.peek (c.line * 128) 128).zipIdx.map (fun x => if (need &&& ~~~c.valid).getLsbD (x.2 / 64) then x.1 else d.getD x.2 0#8)

/-- The bytes a load of a die takes from the die cache, filling a line or a sector that misses (R75, R125, R130). `inv`
names the launch of an invariant load. -/
def State.cacheRead (s : State) (die world : Nat) (pa n : Nat) (inv : Option Word) (who : Stamp) : State × List Byte :=
  let line := pa / 128
  let need := if paKind pa = 0 then sectorBits pa n else 3#2
  match s.copyOf die world line inv with
  | some c =>
    if need &&& ~~~c.valid = 0#2 then
      (match c.data with
      | some d => (s, (d.drop (pa % 128)).take n)
      | none => (s.useLine who line, s.peek pa n))
    else
      let d := c.data.map (s.patched c need)
      (((s.countLink world line).useLine who line).install who { c with valid := c.valid ||| need, data := d }, match d with
        | some d => (d.drop (pa % 128)).take n
        | none => s.peek pa n)
  | none =>
    let c : DieLine := { die := die, line := line, world := world, remote := false, inv := inv, valid := need, dirty := 0#2
                         data := if inv.isSome then some (s.peek (line * 128) 128) else none }
    (((s.countLink world line).useLine who line).install who c, s.peek pa n)

/-- Hosts whose committed HDM decoders cover a line; each must answer a back-invalidate snoop (R373). A host stands
as 100 + LD among the parties of an unconfirmed line. -/
def State.hostsOf (s : State) (line : Nat) : List Nat :=
  (s.host.lds.filter (fun e => e.2.hdm.any (fun h => decide (h.pa ≤ line * 128 ∧ line * 128 < h.pa + h.size)))).map
    (fun e => 100 + e.1)

/-- The parties besides the dies that acknowledge a write to a line: hosts whose decoders cover it, and the CXL home of a
kind-1 or kind-2 line, which stands as 99 (R126, R129, R373). -/
def State.outerParties (s : State) (line : Nat) : List Nat :=
  if paKind (line * 128) = 1 ∨ paKind (line * 128) = 2 then [99] else s.hostsOf line

/-- A wait of a wave has covered its engine operations of a class but for the last `n`: the lines that they have used count from
now on as the wave's own (R132). -/
def State.coverUses (s : State) (w : Wave) (l : List (Nat × Nat)) : State :=
  if s.unconf.isEmpty then s
  else
    let covered (x : User) : Bool := decide (x.core = w.core ∧ x.wg = w.wg ∧ x.num = w.num) && (match x.op with
      | some (c, q) => l.any (fun y => decide (y.1 = c ∧ y.2 ≤ (w.seq.getD c 0 + 65535 - q) % 65536))
      | none => false)
    { s with unconf := s.unconf.map (fun u =>
        { u with users := u.users.map (fun x => if covered x then { x with op := none, stamp := s.nextId } else x) }) }

/-- A die (or, with none, a peer device or a host) writes sectors of a line: every other coherent copy keeps its old bytes
until its invalidation is acknowledged, and the line is unconfirmed until then: the early grant (R125, R373). -/
def State.grant (s : State) (die : Option Nat) (world : Nat) (who : Stamp) (line : Nat) (bits : BitVec 2) : State :=
  let other (c : DieLine) : Bool :=
    decide (c.line = line) && !c.remote && c.inv.isNone && c.data.isNone && decide (some c.die ≠ die)
  let old := s.peek (line * 128) 128
  let waiting := dedupN ((s.cache.filter other).map (fun c => c.die) ++ (if die.isSome then s.outerParties line else []))
  let s := { s with cache := s.cache.map (fun c => if other c then { c with data := some old } else c) }
  let s : State := match die with
    | some d =>
      let c := (s.copyOf d world line none).getD { die := d, line := line, world := world, remote := false, inv := none, valid := 0#2, dirty := 0#2, data := none }
      let s := if c.valid = 0#2 then s.countLink world line else s
      s.install who { c with valid := c.valid ||| (if paKind (line * 128) = 0 then bits else 3#2), dirty := c.dirty ||| bits, data := none }
    | none => s
  let prev := s.unconf.find? (fun u => decide (u.line = line))
  let waiting : List Nat := match prev with
    | some u => dedupN (u.waiting.filter (fun d => decide (some d ≠ die)) ++ waiting)
    | none => waiting
  let users : List User := match prev with
    | some u => u.users
    | none => []
  let users := if die.isSome then addUser who s.nextId users else users
  if waiting.isEmpty then { s with unconf := s.unconf.filter (fun u => decide (u.line ≠ line)) }
  else { s with unconf := { line := line, waiting := waiting, users := users }
           :: s.unconf.filter (fun u => decide (u.line ≠ line)) }

/-- A coherent write of one instruction's cells by a die, in a world. -/
def State.storeCells (s : State) (die : Option Nat) (world : Nat) (who : Stamp) (cells : List (Nat × Byte)) : State :=
  let s := (dedupN (cells.map (fun c => c.1 / 128))).foldl (fun (s : State) line =>
    s.grant die world who line ((cells.filter (fun c => decide (c.1 / 128 = line))).foldl (fun b c => b ||| sectorBit c.1) 0#2)) s
  s.pokeCells world cells

/-- A die drops its own copy that writes elsewhere no longer reach: a failed CAS is a load, and has read the newest value
(R120, R121). -/
def State.dropStale (s : State) (die line : Nat) : State :=
  { s with cache := s.cache.filter (fun c =>
      !(decide (c.die = die ∧ c.line = line) && !c.remote && c.inv.isNone && c.data.isSome)) }

/-- Writes through to a die's own remote-marked copies (R128). -/
def State.touchRemote (s : State) (die world : Nat) (cells : List (Nat × Byte)) : State :=
  { s with cache := s.cache.map (fun c =>
      if c.remote ∧ c.die = die ∧ c.world = world then
        { c with data := c.data.map (fun d =>
            cells.foldl (fun d x => if x.1 / 128 = c.line then lset d (x.1 % 128) x.2 else d) d) }
      else c) }

/-- Drops the remote-marked lines of a world that a test picks from a die; fills that are under way for them leave no
copy (R128). -/
def State.dropRemoteIf (s : State) (die world : Nat) (p : Nat → Bool) : State :=
  { s with
    cache := s.cache.filter (fun c => !(c.remote && decide (c.die = die ∧ c.world = world) && p c.line))
    fab := { s.fab with requests := s.fab.requests.map (fun e =>
      if e.2.die = die ∧ e.2.world = world ∧ p (e.2.addr / 128) then (e.1, { e.2 with install := false }) else e) } }

/-- Drops the remote-marked lines of a world from a die: an acquire at DOMAIN or SYSTEM scope (R126, R128). -/
def State.dropRemote (s : State) (die world : Nat) : State := s.dropRemoteIf die world (fun _ => true)

/-- A load's or a walk's device-side read: newest bytes, no check. -/
def State.peekNat (s : State) (pa n : Nat) : Nat := leNat (s.peek pa n)

end Sys2Proof.Machine
end

