-- ==== Sys2Proof/Machine/Translate.lean ====
section
/-! DEFINITION. Address formation of `g:` operands (R25), translation in its two stages, object page maps and tier
maps (R78 to R99), and the rules of the resident object table (R32 to R34). -/

namespace Sys2Proof.Machine

/-- The fault codes of R220. -/
def cIllegal : Nat := 0x01
@[inherit_doc cIllegal] def cMalformed : Nat := 0x02
@[inherit_doc cIllegal] def cReserved : Nat := 0x03
@[inherit_doc cIllegal] def cPrivilege : Nat := 0x04
@[inherit_doc cIllegal] def cEmpty : Nat := 0x05
@[inherit_doc cIllegal] def cDepth : Nat := 0x06
@[inherit_doc cIllegal] def cMask : Nat := 0x07
@[inherit_doc cIllegal] def cCount : Nat := 0x08
@[inherit_doc cIllegal] def cMember : Nat := 0x09
@[inherit_doc cIllegal] def cNoncanon : Nat := 0x10
@[inherit_doc cIllegal] def cBounds : Nat := 0x11
@[inherit_doc cIllegal] def cAlign : Nat := 0x12
@[inherit_doc cIllegal] def cPerm : Nat := 0x14
@[inherit_doc cIllegal] def cWorld : Nat := 0x15
@[inherit_doc cIllegal] def cNameCheck : Nat := 0x16
@[inherit_doc cIllegal] def cUnresolved : Nat := 0x17
@[inherit_doc cIllegal] def cGone : Nat := 0x18
@[inherit_doc cIllegal] def cStale : Nat := 0x19
@[inherit_doc cIllegal] def cPoison : Nat := 0x1A
@[inherit_doc cIllegal] def cCapability : Nat := 0x20
@[inherit_doc cIllegal] def cAllowance : Nat := 0x21
@[inherit_doc cIllegal] def cQueueState : Nat := 0x22
@[inherit_doc cIllegal] def cCairn : Nat := 0x30
@[inherit_doc cIllegal] def cSwizzle : Nat := 0x31
@[inherit_doc cIllegal] def cToken : Nat := 0x32
@[inherit_doc cIllegal] def cChecksum : Nat := 0x33
@[inherit_doc cIllegal] def cDrain : Nat := 0x34
@[inherit_doc cIllegal] def cFormat : Nat := 0x35
@[inherit_doc cIllegal] def cEngineAddr : Nat := 0x38
@[inherit_doc cIllegal] def cRecDepth : Nat := 0x40
@[inherit_doc cIllegal] def cHeap : Nat := 0x41
@[inherit_doc cIllegal] def cFanout : Nat := 0x42
@[inherit_doc cIllegal] def cBreak : Nat := 0x48

/-- The steps of the fault order (R221, R226). -/
def stDecode : Nat := 0
@[inherit_doc stDecode] def stReg : Nat := 1
@[inherit_doc stDecode] def stForm : Nat := 2
@[inherit_doc stDecode] def stXlat : Nat := 3
@[inherit_doc stDecode] def stPerm : Nat := 4
@[inherit_doc stDecode] def stData : Nat := 5
@[inherit_doc stDecode] def stDefer : Nat := 6

/-- A condition of one lane: its code, step, address and walk level (R220, R360). -/
structure Cond where
  code : Nat
  step : Nat
  addr : Nat := 0
  level : Nat := 7
  deriving DecidableEq, Repr

/-- A `g:` address that has passed address formation (R25). -/
inductive GAddr where
  | flat (a : Nat)
  | obj (h off : Nat)
  deriving DecidableEq, Repr

/-- An entry is doomed and its epoch has ended, or it is gone (R25, R34). -/
def State.objGone (s : State) (e : RotEnt) : Bool :=
  decide (e.state = .gone) || (e.doomed && s.epochOver e.epoch)

/-- Address formation of a `g:` operand in one lane (R25), in the order the rule lists the conditions. `sum` is index
plus immediate. -/
def State.formG (s : State) (world base : Nat) (sum : Int) (width : Nat) : Except Cond GAddr :=
  if bit base 63 then
    let h := bits base 40 20
    let e := s.rotAt h
    let off : Int := (bits base 0 40 : Nat) + sum
    let at' := base / 2 ^ 40 * 2 ^ 40 + (off % 2 ^ 40).toNat
    if off % (width : Int) ≠ 0 then .error { code := cAlign, step := stForm, addr := at' }
    else if e.state = .absent ∨ e.gen.toNat ≠ bits base 60 3 then
      .error { code := cStale, step := stForm, addr := at' }
    else if e.world ≠ world then .error { code := cWorld, step := stForm, addr := at' }
    else if s.objGone e then .error { code := cGone, step := stForm, addr := at' }
    else if off < 0 ∨ (e.extent : Int) < off + width then .error { code := cBounds, step := stForm, addr := at' }
    else .ok (.obj h off.toNat)
  else if bits base 57 6 ≠ 0 then .error { code := cNoncanon, step := stForm, addr := base }
  else
    let a : Int := (base : Int) + sum
    if a < 0 ∨ (2 ^ 57 : Int) ≤ a then .error { code := cNoncanon, step := stForm, addr := (a % 2 ^ 64).toNat }
    else if a % (width : Int) ≠ 0 then .error { code := cAlign, step := stForm, addr := a.toNat }
    else .ok (.flat a.toNat)

/-- The address of a formed access as a fault record holds it: flat, or a near pointer with its offset (R360). -/
def GAddr.toNat (g : GAddr) (gen : Nat) : Nat :=
  match g with
  | .flat a => a
  | .obj h off => 2 ^ 63 + gen * 2 ^ 60 + h * 2 ^ 40 + off % 2 ^ 40

/-- First indexed virtual bit and index bits of each level (R79). -/
def levelShift (l : Nat) : Nat := if l = 4 then 48 else if l = 3 then 39 else if l = 2 then 30 else if l = 1 then 21 else 16
@[inherit_doc levelShift] def levelBits (l : Nat) : Nat := if l = 0 then 5 else 9

/-- Whether permissions admit an access (R82). -/
def admits (r w x : Bool) : Access → Bool
  | .load => r
  | .store => w
  | .atomic => r && w
  | .fetch => x

/-- The access writes. -/
def accWrites : Access → Bool
  | .store | .atomic => true
  | _ => false

/-- Where an access begins translation: its cluster, its quadrant (64 + 4·core + quadrant) where a wave issues it, and its
world. A supervisor wave's flat address is physical (log 9, DEDUCED). -/
structure Path where
  cluster : Nat
  quad : Option Nat := none
  world : Nat
  phys : Bool := false
  /-- Stamps the DRAM requests of its walks (R102). -/
  who : Stamp := { cls := 3, core := 0, index := 0, deadline := none }
  deriving DecidableEq, Repr

/-- Where a wave's accesses begin translation (R78, R98). -/
def Wave.path (w : Wave) : Path :=
  { cluster := clusterOf w.core, quad := if w.sup then none else some (64 + 4 * w.core + w.num % 4), world := w.world, phys := w.sup }

/-- What translation answers for one lane (R95): a physical address with the state after the walk's own writes, a
condition, a missing unit, or a wait for a stage-1 entry that lies on another node. -/
inductive XRes where
  | ok (pa : Nat) (s : State)
  | cond (c : Cond) (s : State)
  | miss (u : MissUnit) (s : State)
  | wait (s : State)

/-- A world in protected mode reaches another node only with a group key installed (R391, R392). -/
def State.nodeOk (s : State) (world pa : Nat) : Bool :=
  !(s.isRemote pa && (s.world world).protected && (s.world world).groupKeys.isEmpty)

/-- The slot that a world's flits name: the one switched to, slot 0 before any switch (R391, R392; log 13, DESIGN CHOICE). -/
def World.flitSlot (w : World) : Option Nat := if w.protected then some (w.sendSlot.getD 0) else none

/-- The tier map's part of stage 2 (R87, R89 to R92), once permissions are checked: the final physical address. -/
def State.tierStep (s : State) (world : Nat) (r : Range) (pa : Nat) (acc : Access) (addr : Nat) : XRes :=
  if paKind pa = 3 then
    if s.nodeOk world pa then .ok (s.ownPa pa) s else .cond { code := cPerm, step := stPerm, addr := addr } s
  else if paKind pa = 0 then .ok pa s
  else
    let k := r.tierKey world pa
    let t := tgetD s.xl.tiers k Tier.init
    if t.m || (!t.res && !r.pol) then .miss (.tier world r.n (pa / 65536 * 65536)) s
    else if t.res then
      let t' := if accWrites acc then { t with dt := true } else t
      .ok (t.frame * 65536 + pa % 65536) { s with xl := { s.xl with tiers := tset s.xl.tiers k t' } }
    else .ok (s.hostPa world pa) (s.noteLink world r.n (s.hostPa world pa))

/-- Stage 2 and the tier map (R85, R87, R89 to R92). `ok1` is what the permissions of stage 1 say: a range miss belongs to
the translation step and goes before it (R78, R221). `addr` is the address a fault record names. -/
def State.stage2 (s : State) (world ia : Nat) (ok1 : Bool) (acc : Access) (addr : Nat) : XRes :=
  match (s.world world).match2 ia with
  | none => .cond { code := cWorld, step := stXlat, addr := addr } s
  | some r =>
    if !ok1 || !admits r.r r.w r.x acc then .cond { code := cPerm, step := stPerm, addr := addr } s
    else s.tierStep world r (r.pa ia) acc addr

/-! ### Cached translations (R98, R99) -/

/-- Drops the cached translations that a test picks. -/
def State.dropTlb (s : State) (p : Tlb → Bool) : State := { s with xl := { s.xl with tlb := s.xl.tlb.filter (fun t => !p t) } }

/-- Keeps the entries of a place within its bound: the oldest goes (log 51, DESIGN CHOICE). -/
def boundTlb (place cap : Nat) (l : List Tlb) : List Tlb :=
  let mine := l.filter (fun t => decide (t.place = place))
  if mine.length ≤ cap then l
  else match mine.getLast? with
    | some v => l.filter (fun t => decide (t ≠ v))
    | none => l

/-- Puts a cached translation at a place (R98). -/
def State.keepAt (s : State) (place cap : Nat) (t : Tlb) : State :=
  let t : Tlb := { t with place := place }
  { s with xl := { s.xl with tlb := boundTlb place cap (t :: s.xl.tlb.filter (fun u =>
      !decide (u.place = t.place ∧ u.world = t.world ∧ u.obj = t.obj ∧ u.base = t.base ∧ u.size = t.size))) } }

/-- Puts a cached translation in the quadrant and in the cluster of an access (R98). -/
def State.keepTlb (s : State) (p : Path) (t : Tlb) : State :=
  let s := s.keepAt p.cluster Config.clusterTlb t
  match p.quad with
  | some q => s.keepAt q Config.quadTlb t
  | none => s

/-- The cached translation that serves an address, of the quadrant first (R98). -/
def State.cached (s : State) (p : Path) (obj : Option Nat) (a : Nat) : Option Tlb :=
  (p.quad.toList ++ [p.cluster]).findSome? (fun pl => s.xl.tlb.find? (fun t =>
    decide (t.place = pl ∧ t.world = p.world ∧ t.obj = obj ∧ t.base ≤ a ∧ a < t.base + t.size)))

/-- Bytes of the piece of a page that one cached translation serves: a range and a tier page hold it whole
(log 51, DESIGN CHOICE). -/
def pieceOf (size outKind : Nat) : Nat := if outKind = 1 ∨ outKind = 2 then 65536 else min size 2097152

/-- Stage 2 of a page, with the translation then cached (R98): `d` is stage 1's D after this access. -/
def State.stage2Keep (s : State) (p : Path) (obj : Option Nat) (a size ia : Nat) (r w x d : Bool) (acc : Access) (addr : Nat) :
    XRes :=
  match s.stage2 p.world ia (admits r w x acc) acc addr with
  | .ok pa s' =>
    match (s.world p.world).match2 ia with
    | none => .ok pa s'
    | some g =>
      let piece := pieceOf size (paKind (g.pa ia))
      let t := tgetD s'.xl.tiers (g.tierKey p.world (g.pa ia)) Tier.init
      .ok pa (s'.keepTlb p { place := 0, world := p.world, obj := obj, base := a / piece * piece, size := piece
                             pa := pa - a % piece, range := g.n, r := r && g.r, w := w && g.w, x := x && g.x
                             d := d && (!t.res || t.dt) })
  | y => y

/-! ### The walk of stage 1 (R79 to R83) -/

/-- A route to a node: a Nymnik port that is up leads there (R381). -/
def State.routed (s : State) (node : Nat) : Bool := s.fab.ports.any (fun e => e.2.up && e.2.nodes.contains node)

/-- The step of a refusal's code (R220, R382). -/
def codeStep (code : Nat) : Nat := if code = cWorld then stXlat else if code = cPerm then stPerm else stData

/-- Sends a request over the fabric, under its world's slot; its number is the state's next one (R379, R392). -/
def State.send (s : State) (r : Request) : State :=
  { s with fab := { s.fab with requests := tset s.fab.requests s.nextId { r with slot := (s.world r.world).flitSlot } }, nextId := s.nextId + 1 }

/-- The die of a cluster: 5 clusters a compute die; clusters 40 and 41 stand for the I/O dies. -/
def dieOfCluster (c : Nat) : Nat := if c < 40 then c / 5 else c - 32

/-- A walk's request to a stage-1 entry of another node (R80, R379); `cas` gives the new and the old entry of R82's
compare-and-swap. -/
def State.walkReq (s : State) (p : Path) (pa : Nat) (cas : Option (Nat × Nat)) : Request :=
  { wave := 0, world := p.world, lane := 0, die := dieOfCluster p.cluster, addr := pa, width := 8
    va := 0, install := false, answer := none, op := none, posted := false, sent := s.clock.toNat
    bytes := match cas with
      | some x => leBytes 8 x.1 ++ leBytes 8 x.2
      | none => []
    atomic := cas.map (fun _ => AtomOp.cas), walk := true }

/-- What reading a stage-1 entry gives: its value and physical address, or what the access meets instead. -/
inductive TableRead where
  | val (e pa : Nat) (s : State)
  | stop (x : XRes)

/-- Reads a stage-1 entry of another node: the request's answer, where it has come (R80, R381, R382). -/
def State.remoteEntry (s : State) (p : Path) (pa va : Nat) : TableRead :=
  match s.fab.requests.find? (fun e => e.2.walk && e.2.atomic.isNone && decide (e.2.addr = pa ∧ e.2.world = p.world)) with
  | none =>
    if s.routed (paNode pa) then .stop (.wait (s.send (s.walkReq p pa none)))
    else .stop (.cond { code := cPoison, step := stData, addr := va } s)
  | some e =>
    let s' : State := { s with fab := { s.fab with requests := tdel s.fab.requests e.1 } }
    match e.2.answer with
    | none => .stop (.wait s)
    | some (.value bs) => .val (leNat bs) pa s'
    | some (.refused c) => .stop (.cond { code := c.toNat, step := codeStep c.toNat, addr := va } s')

/-- The checks of R387 on a line that the device reads for a world's translation (log 8, DEDUCED). -/
def State.tableCheck (s : State) (world pa : Nat) : State × Bool := s.checkRead (some (s.keeper world (pa / 64))) pa 8

/-- Reads the stage-1 entry at an IA, which stage 2 translates for a load (R80, R387). -/
def State.tableRead (s : State) (p : Path) (eIa va : Nat) : TableRead :=
  match s.stage2 p.world eIa true .load va with
  | .ok pa s =>
    if s.isRemote pa then s.remoteEntry p pa va
    else
      let c := (s.probe (dieOfCluster p.cluster) p.world pa p.who).tableCheck p.world pa
      if c.2 then .stop (.cond { code := cPoison, step := stData, addr := va } c.1) else .val (c.1.peekNat pa 8) pa c.1
  | y => .stop y

/-- The stage-1 entry at an IA: a cluster's cached table entry, or the one that the walk reads (R98). -/
def State.entryAt (s : State) (p : Path) (eIa va : Nat) : TableRead :=
  match s.xl.tables.find? (fun t => decide (t.cluster = p.cluster ∧ t.world = p.world ∧ t.ia = eIa)) with
  | some t => .val t.entry 0 s
  | none => s.tableRead p eIa va

/-- Keeps a table entry in the cluster's cache; beyond its bound the oldest goes (R98; log 51, DESIGN CHOICE). -/
def State.keepTable (s : State) (p : Path) (eIa e : Nat) : State :=
  if s.xl.tables.any (fun t => decide (t.cluster = p.cluster ∧ t.world = p.world ∧ t.ia = eIa)) then s
  else
    let l := { cluster := p.cluster, world := p.world, ia := eIa, entry := e } :: s.xl.tables
    let mine := l.filter (fun t => decide (t.cluster = p.cluster))
    let l := if mine.length ≤ Config.clusterTables then l
      else match mine.getLast? with
        | some v => l.filter (fun t => decide (t ≠ v))
        | none => l
    { s with xl := { s.xl with tables := l } }

/-- What a stage-1 walk finds (R79 to R83). -/
inductive Walk where
  /-- A leaf: its entry and that entry's physical address, the page's size and IA, and the state after the reads. -/
  | leaf (entry ePa size ia : Nat) (s : State)
  | invalid (s : State)
  | stop (x : XRes)

/-- The walk from the table at an IA, levels 4 down to 0 (R79 to R81). -/
def State.walk (s : State) (p : Path) (va : Nat) : Nat → Nat → Walk
  | 0, _ => .stop (.cond { code := cPerm, step := stXlat, addr := va } s)
  | fuel + 1, table =>
    let level := fuel
    let eIa := table + 8 * bits va (levelShift level) (levelBits level)
    match s.entryAt p eIa va with
    | .stop x => .stop x
    | .val e ePa s =>
      let bad : Walk := .stop (.cond { code := cPerm, step := stXlat, addr := va, level := level } s)
      let addr := bits e 8 44 * 256
      let size := 2 ^ levelShift level
      if !bit e 0 then .invalid s
      else if bit e 7 || bit e 63 then bad
      else if bit e 1 && decide (3 ≤ level) then bad
      else if !bit e 1 && decide (level = 0) then bad
      else if bit e 1 then (if addr % size ≠ 0 then bad else .leaf e ePa size addr s)
      else if addr % (if level = 1 then 256 else 4096) ≠ 0 then bad
      else (s.keepTable p eIa e).walk p va fuel addr

/-- The compare-and-swap of a walk of the world on a leaf entry of another node, and its answer where that has come (R82). -/
def State.casOut (s : State) (p : Path) : Option (Nat × Request) :=
  s.fab.requests.find? (fun e => e.2.walk && decide (e.2.atomic = some .cas ∧ e.2.width = 8 ∧ e.2.die = dieOfCluster p.cluster ∧ e.2.world = p.world))

/-- Sets A, and D for a write, in a leaf entry (R82), by a compare-and-swap at the entry's home. -/
def State.setAD (s : State) (p : Path) (ePa e : Nat) (writes : Bool) : State :=
  let e' := e ||| 2 ^ 5 ||| (if writes then 2 ^ 6 else 0)
  if e' = e then s
  else if s.isRemote ePa then s.send (s.walkReq p ePa (some (e', e)))
  else s.pokeRaw p.world ePa (leBytes 8 e')

/-- Posts a page request, which is outstanding once for a world and page (R83). -/
def State.pageRequest (s : State) (world page : Nat) : State :=
  if s.xl.requests.contains (world, page) then s
  else { s with xl := { s.xl with requests := s.xl.requests ++ [(world, page)] } }

/-- A stage-1 walk with its effects, for a flat access that no cached translation serves; `denied` lists pages whose
request the supervisor has denied. -/
def State.walkTables (s : State) (p : Path) (va : Nat) (acc : Access) (denied : List Nat) : XRes :=
  match s.walk p va 5 (s.world p.world).s1root.toNat with
  | .stop x => x
  | .invalid s =>
    if denied.contains (va / 65536) then .cond { code := cPerm, step := stXlat, addr := va } s
    else .miss (.page p.world (va / 65536)) (s.pageRequest p.world (va / 65536))
  | .leaf e ePa size ia s =>
    let t := if admits (bit e 2) (bit e 3) (bit e 4) acc then s.setAD p ePa e (accWrites acc) else s
    if (t.casOut p).isSome then .wait t
    else t.stage2Keep p none va size (ia + va % size) (bit e 2) (bit e 3) (bit e 4) (bit e 6 || accWrites acc) acc va

/-- A walk goes on after its compare-and-swap at another node has been answered: it reads the entry again from the root, which holds
the new A and D, or what has made the swap fail (R82). -/
def State.walkFlat (s : State) (p : Path) (va : Nat) (acc : Access) (denied : List Nat) : XRes :=
  match s.casOut p with
  | none => s.walkTables p va acc denied
  | some (k, r) =>
    let t : State := { s with fab := { s.fab with requests := tdel s.fab.requests k } }
    match r.answer with
    | none => .wait s
    | some (.value _) => t.walkTables p va acc denied
    | some (.refused c) => .cond { code := c.toNat, step := codeStep c.toNat, addr := va } t

/-- What a cached translation gives: none where a write must walk again, because its D is clear (R82, R98). -/
def State.hit (s : State) (p : Path) (t : Tlb) (a : Nat) (acc : Access) (addr : Nat) : Option XRes :=
  if !admits t.r t.w t.x acc then some (.cond { code := cPerm, step := stPerm, addr := addr } s)
  else if accWrites acc && !t.d then none
  else if !s.nodeOk p.world (t.pa + (a - t.base)) then some (.cond { code := cPerm, step := stPerm, addr := addr } s)
  else some (.ok (t.pa + (a - t.base)) ((s.keepTlb p t).noteLink p.world t.range (t.pa + (a - t.base))))

/-- Translation of a flat address (R78): a cached translation serves it, or the walk runs. -/
def State.xlateFlat (s : State) (p : Path) (va : Nat) (acc : Access) (denied : List Nat) : XRes :=
  match (s.cached p none va).bind (fun t => s.hit p t va acc va) with
  | some x => x
  | none => s.walkFlat p va acc denied

/-- Translation of an object access (R33, R78, R88). -/
def State.xlateObj (s : State) (p : Path) (h off : Nat) (acc : Access) : XRes :=
  let e := s.rotAt h
  let addr := GAddr.toNat (.obj h off) e.gen.toNat
  match e.state with
  | .departed => .miss (.obj h) (s.putRot h { e with state := .arriving })
  | .arriving => .miss (.obj h) s
  | _ =>
    match (s.cached p (some h) off).bind (fun t => s.hit p t off acc addr) with
    | some x => x
    | none =>
      let a := e.map + 8 * (off / 65536)
      let c := s.tableCheck p.world a
      let m := s.peekNat a 8
      if c.2 then .cond { code := cPoison, step := stData, addr := addr } c.1
      else if bit m 2 || !bit m 0 then .miss (.objPage h (off / 65536)) s
      else s.stage2Keep p (some h) off 65536 (bits m 16 36 * 65536 + off % 65536) true (bit m 1) true true acc addr

/-- Translation of a formed address (R78). A supervisor wave's flat address is the physical one; beyond 52 bits it names no
byte, as an IA that matches no range (log 9, DEDUCED). -/
def State.xlate (s : State) (p : Path) (g : GAddr) (acc : Access) (denied : List Nat) : XRes :=
  match g with
  | .flat va =>
    if p.phys then
      (if va < 2 ^ 52 then .ok (s.hostPa p.world (s.ownPa va)) s else .cond { code := cWorld, step := stXlat, addr := va } s)
    else s.xlateFlat p va acc denied
  | .obj h off => s.xlateObj p h off acc

/-- The address that a formed access has in a fault record. -/
def State.faultAddr (s : State) (g : GAddr) : Nat :=
  match g with
  | .flat a => a
  | .obj h _ => g.toNat (s.rotAt h).gen.toNat

/-- What the translation of all lanes of an instruction gives (R95): the physical addresses, the condition of the
lowest lane, the distinct missing units, or a wait for a stage-1 entry on another node. -/
inductive XAll where
  | ok (l : List (Nat × Nat)) (s : State)
  | cond (lane : Nat) (c : Cond) (s : State)
  | miss (l : List MissUnit) (s : State)
  | wait (s : State)

/-- Adds one lane's outcome to that of lower lanes: the condition of the earlier step stands, of the lowest lane within
a step, and a condition goes before missing units and waits (R95, R221). `s0` is the state before every lane. -/
def XAll.add (p : Path) (acc : Access) (denied : List Nat) (s0 : State) (r : XAll) (x : Nat × GAddr) : XAll :=
  match r with
  | .cond l c s =>
    (match s0.xlate p x.2 acc denied with
    | .cond d s' => if d.step < c.step then .cond x.1 d s' else .cond l c s
    | _ => .cond l c s)
  | .ok l s =>
    (match s.xlate p x.2 acc denied with
    | .ok pa s' => .ok (l ++ [(x.1, pa)]) s'
    | .cond c s' => .cond x.1 c s'
    | .miss u s' => .miss [u] s'
    | .wait s' => .wait s')
  | .miss us s =>
    (match s.xlate p x.2 acc denied with
    | .ok _ s' => .miss us s'
    | .cond c s' => .cond x.1 c s'
    | .miss u s' => .miss (if us.contains u then us else us ++ [u]) s'
    | .wait s' => .wait s')
  | .wait s =>
    match s.xlate p x.2 acc denied with
    | .ok _ s' => .wait s'
    | .cond c s' => .cond x.1 c s'
    | .miss _ s' => .wait s'
    | .wait s' => .wait s'

/-- Translates every active lane's address (R95). -/
def State.xlateAll (s : State) (p : Path) (acc : Access) (denied : List Nat) (l : List (Nat × GAddr)) : XAll :=
  l.foldl (XAll.add p acc denied s) (.ok [] s)

/-- The physical address of a code byte, without any effect: none where the fetch would not go ahead. -/
def State.peekPa (s : State) (p : Path) (va : Nat) : Option Nat :=
  match s.xlate p (.flat va) .fetch [] with
  | .ok pa _ => some pa
  | _ => none

/-- A 64-bit entry of an object's page map (R88). One whose line fails the checks of R387 names no page. -/
def State.mapEntry (s : State) (h page : Nat) : Nat :=
  let a := (s.rotAt h).map + 8 * page
  if (s.tableCheck (s.rotAt h).world a).2 then 0 else s.peekNat a 8

/-- Sets an entry of an object's page map; cached translations of the page go first (R88, R93, R99). -/
def State.setMap (s : State) (h page m : Nat) : State :=
  (s.dropTlb (fun t => decide (t.obj = some h ∧ t.base / 65536 = page))).pokeRaw (s.rotAt h).world ((s.rotAt h).map + 8 * page) (leBytes 8 m)

/-- Joins the pending entry of a missing unit in the fault unit, with the stamp of its first access (R96, R102). An entry
beyond the unit's 4,096 slots goes to a queue in the device-private region by a request of the fault unit (R96, R106), and so does
a page request to the supervisor's. An object page is in migration from then on (R88). -/
def State.joinPending (s : State) (who : Stamp) (u : MissUnit) : State :=
  if s.xl.pending.any (fun e => decide (e.1 = u)) then s
  else
    let s := if s.xl.pending.length < 4096 then s
      else s.request s.privBase { who with core := Config.cores, index := 9 } true
    let s : State := { s with xl := { s.xl with pending := s.xl.pending ++ [(u, who)] } }
    match u with
    | .objPage h p => s.setMap h p (s.mapEntry h p ||| 4)
    | .page _ _ => s.request s.privBase { who with core := Config.cores, index := 9 } true
    | _ => s

/-- The lowest-numbered absent handle, or else the lowest entry that may be recycled, and the state with that entry
absent (R34); none while the table has neither. A recycled entry keeps the fields that the table of R34 does not name. -/
def State.takeHandle (s : State) : Option (Nat × State) :=
  let rec go : Nat → List (Nat × RotEnt) → Option Nat
    | k, [] => if k < Config.rotEntries then some k else none
    | k, (j, e) :: t => if k < j then some k else if e.state = .absent then some j else go (j + 1) t
  match go 0 s.rot with
  | some h => some (h, s)
  | none =>
    match s.rot.find? (fun e => decide (e.2.state = .gone) ||
        (decide (e.2.state = .departed) && s.epochOver e.2.epoch)) with
    | some (h, e) =>
      let e' := if e.state = .gone then { e with doomed := false } else { e with realm := 0#16, serial := 0#64 }
      some (h, (s.putRot h { e' with state := .absent, gen := e.gen + 1#3 }).dropTlb (fun t => decide (t.obj = some h)))
    | none => none

/-- Moves doomed entries whose epoch has ended to gone, and releases their storage (R34). -/
def State.settleDoomed (s : State) : State :=
  { s with
    rot := s.rot.map (fun e =>
      if e.2.doomed ∧ e.2.state ≠ .gone ∧ e.2.state ≠ .absent ∧ s.epochOver e.2.epoch then
        (e.1, { e.2 with state := .gone })
      else e)
    xl := { s.xl with images := s.xl.images.filter (fun i =>
      !(s.rot.any (fun e => decide (e.2.realm = i.realm ∧ e.2.serial = i.serial) && e.2.doomed && s.epochOver e.2.epoch))) } }

end Sys2Proof.Machine
end

