-- ==== Sys2Proof/Machine/Ops.lean ====
section
/-! DEFINITION. The operations every instruction shares: the frontier and the clause boundary (R180 to R186), phase
records and taking a condition (R194, R195, R359 to R363), the return from one (R186, R201), and the driver that
runs an instruction through the steps of the fault order (R221). -/

namespace Sys2Proof.Machine

/-! ### Code and the frontier -/

/-- Eight bytes of the code object at an offset, without any effect; a supervisor wave's code is physical (log 9, DEDUCED). -/
def State.codeWord (s : State) (w : Wave) (off : Nat) : Option Nat :=
  match s.peekPa w.path (w.codeBase + off) with
  | some pa => if s.isRemote pa then none else some (s.peekNat pa 8)
  | none => none

/-- The word is marked as a clause header: bits [63:59] are 11111 (R204). -/
def isHeader (h : Nat) : Bool := decide (bits h 59 5 = 31)

/-- The header at a PC, where it can be read and is one. -/
def State.headerAt (s : State) (w : Wave) (pc : Word) : Option Nat :=
  match s.codeWord w pc.toNat with
  | some h => if isHeader h then some h else none
  | none => none

/-- The block priority at a PC (R180). Where the header cannot be read without an effect (its page is missing, it lies on
another node) the entry ranks at 0 until the fetch of its header finds out (`Wave.judge`). -/
def State.prioAt (s : State) (w : Wave) (pc : Word) : BitVec 16 :=
  match s.headerAt w pc with
  | some h => BitVec.ofNat 16 (bits h 16 16)
  | none => 0#16

/-- The header at a PC has been read: every entry there ranks by it, in the frontier registers too (R180, R186). -/
def Wave.learn (w : Wave) (pc : Word) (prio : BitVec 16) : Wave :=
  let f (l : List Entry) : List Entry := l.map (fun e => if e.pc = pc then { e with prio := prio } else e)
  { w with others := f w.others, snap := sortEntries (f w.snap) }

/-- The clause at a PC carries the block-entry mark E (R182, R204). -/
def State.entryMark (s : State) (w : Wave) (pc : Word) : Bool :=
  match s.headerAt w pc with
  | some h => bit h 15
  | none => false

/-- Instruction words of the clause at a PC (R204), none where the header cannot be read without an effect. -/
def State.countAt (s : State) (w : Wave) (pc : Word) : Option Nat := (s.headerAt w pc).map (fun h => bits h 52 4 + 1)

/-- The PC of the clause after one of `n` words. -/
def nextPc (pc : Word) (n : Nat) : Word := pc + BitVec.ofNat 32 (8 * (1 + n))

/-- Lanes join an entry at a PC: an entry there that is neither at a barrier nor inside its clause takes them in; it
is held no longer, and yielded only if every part was (R182, R185, R190). -/
def joinEntry (prio : BitVec 16) (pc : Word) (m : Mask) (yld : Bool) : List Entry → List Entry
  | [] => if m = 0#32 then [] else [{ pc := pc, prio := prio, ridx := 0, yld := yld, hld := false, bwt := none, passed := false, mask := m }]
  | e :: t =>
    if e.pc = pc ∧ e.bwt = none ∧ e.ridx = 0 ∧ !e.passed ∧ e.mid = none ∧ m ≠ 0#32 then
      { e with mask := e.mask ||| m, hld := false, yld := e.yld && yld } :: t
    else e :: joinEntry prio pc m yld t

/-- The summit can be chosen: the entry is neither held nor waiting at a barrier (R181). -/
def Entry.free (e : Entry) : Bool := !e.hld && e.bwt.isNone

/-- The summit is the first free entry in sorted order (R181). -/
def chooseSummit (l : List Entry) : Option Entry := (sortEntries l).find? Entry.free

/-- Every request of a hold has been answered (R423). -/
def State.answeredAll (s : State) (l : List (Nat × Nat)) : Bool :=
  l.all (fun h => match tget s.fab.requests h.2 with
    | some r => r.answer.isSome
    | none => true)

/-- Every request that the wave's bundle waits for has been answered (R423). -/
def State.answered (s : State) (w : Wave) : Bool := s.answeredAll w.hold

/-- The summit of a frontier, past entries that a remote access holds (R181, R423). -/
def State.summitOf (s : State) (l : List Entry) : Option Entry :=
  (sortEntries l).find? (fun e => e.free && s.answeredAll e.wait)

/-- Makes an entry the issuing one; one that was set aside goes on in its clause (R423). -/
def Wave.take (w : Wave) (e : Entry) : Wave :=
  let w : Wave := { w with
    bundle := some { e with wait := [], mid := none }, others := w.others.erase e, clause := none
    judge := 2, behind := false, waits := false }
  match e.mid with
  | none => w
  | some m => { w with
      hold := e.wait, clause := m.clause, ctl := m.ctl, yielded := m.yielded, judge := if m.clause.isSome then 0 else 2 }

/-- A bundle of the wave that a remote access holds is set aside (R423). -/
def Wave.asideDue (w : Wave) : Bool := w.others.any (fun e => !e.wait.isEmpty)

/-- Adds the lanes that left through taken transfers to the entries at their targets (R182). One group of lanes is a part
that is yielded where any of its lanes executed YIELD, and an entry formed of several parts only where each is (R185; log 11,
DEDUCED). -/
def State.joinLeft (s : State) (w : Wave) (l : List Entry) : List Entry :=
  w.left.foldl (fun l x => joinEntry (s.prioAt w x.1) x.1 x.2 (decide (x.2 &&& w.yielded ≠ 0#32)) l) l

/-! ### Fault records, phase records and leaving a slot -/

/-- The physical address of a phase record in the device-private region, by its place there (R87, R195, log 7, DESIGN
CHOICE). -/
def State.recAddr (s : State) (slot : Nat) : Nat := s.privBase + Config.recordOffset + 65536 * slot

/-- The fault record of a condition at the wave's issuing entry (R360). -/
def Wave.mkRec (w : Wave) (code step lane : Nat) (addr : Nat := 0) (level : Nat := 7) : FaultRec :=
  let e := w.bundle.getD { pc := 0#32, prio := 0#16, ridx := 0, yld := false, hld := false, bwt := none, passed := false, mask := 0#32 }
  { code := BitVec.ofNat 8 code, step := BitVec.ofNat 3 step, rst := false, cls := 0#3, seq := 0#16
    lane := BitVec.ofNat 5 lane, level := BitVec.ofNat 3 level, info := 0#16, addr := BitVec.ofNat 64 addr
    restart := 0#32, mask := e.mask, pc := e.pc, ridx := BitVec.ofNat 4 e.ridx }

/-- The fault record of a condition of one lane. -/
def Wave.recOf (w : Wave) (lane : Nat) (c : Cond) : FaultRec := w.mkRec c.code c.step lane c.addr c.level

/-- The entry that a delivered condition or a TRAP posts (R361). -/
def State.mkPost (s : State) (w : Wave) (r : FaultRec) (kind : Nat) : Post :=
  { record := r, prec := s.recAddr w.recSlot, launch := w.launch, world := w.world, core := w.core
    wgslot := match s.wgOf w with
      | some g => g.slot
      | none => 0
    wave := w.num, kind := kind }

/-- Hands an entry to a world, to be posted when its queue has room (R361). -/
def State.post (s : State) (world : Nat) (p : Post) : State :=
  let w := s.world world
  s.putWorld world { w with toPost := w.toPost ++ [p] }

/-- KIND of a full record: 2 for a world in protected mode (R359), or one that has left it (R393). -/
def State.fullKind (s : State) (world : Nat) : BitVec 2 :=
  if (s.world world).protected || (s.world world).left then 2#2 else 1#2

/-- The issuing entry is set aside in its clause; lanes that have left it join the entries at their targets. -/
def State.setAside (s : State) (w : Wave) : Wave :=
  match w.bundle with
  | none => w
  | some b => { w with
      others := s.joinLeft w ({ b with wait := w.hold, mid := some { clause := w.clause, ctl := w.ctl, yielded := w.yielded } }
        :: w.others)
      bundle := none, left := [], hold := [], clause := none, ctl := false, yielded := 0#32, judge := 0, behind := false }

/-- While a remote access holds the wave's bundle, another of its entries may issue (R423). -/
def State.canTurn (s : State) (w : Wave) : Bool :=
  !w.sup && w.clause.isSome && w.ldn.isNone && !s.answered w && (s.summitOf w.others).isSome

/-- The wave turns to another entry while its bundle is held (R423). -/
def State.turnAside (s : State) (id : Nat) (w : Wave) : State :=
  match s.summitOf w.others with
  | some e => s.putWave id ((s.setAside w).take e)
  | none => s

/-- The wave waits. A bundle that was set aside and has its answers goes on first, because it may fill what the wave
waits for (R423; log 29, DEDUCED). -/
def State.standBy (s : State) (id : Nat) (w : Wave) : State :=
  match (sortEntries w.others).find? (fun e => !e.wait.isEmpty && s.answeredAll e.wait) with
  | some e => if w.hold.isEmpty && w.ldn.isNone then s.putWave id ((s.setAside w).take e) else s.putWave id { w with stalled := true, waits := true }
  | none => s.putWave id { w with stalled := true, waits := true }

/-- The wave holds fills that must land before its record is written (R57). -/
def Wave.fillsDue (w : Wave) : Bool :=
  !w.loads.isEmpty || !w.hold.isEmpty || w.asideDue || w.storeQ.any (fun q => match q.kind with
    | .atomic _ _ (some _) => true
    | _ => false)

/-- Writes the record's own fields and takes the wave off its slot: the frontier registers then hold every entry,
lanes that left the clause included, with the summit's resume index (R195, R359). What control instructions have done in
the summit's clause stays in force until its boundary (R182, R185). Every fill has landed, and a held LDN replays, so
that every full/empty bit is full (R39, R57). -/
def State.spill (s : State) (w : Wave) (kind : BitVec 2) (cause : Option FaultRec) (status : Status) : Wave :=
  let entries := s.joinLeft w (w.bundle.toList.filter (fun e => decide (e.mask ≠ 0#32)) ++ w.others)
  let now := s.clock.toNat
  let parks := match status with
    | .parked _ => true
    | _ => false
  { w with
    bundle := none, others := entries, snap := sortEntries entries, clause := none, left := [], judge := 0, behind := false
    stalled := false, waits := false, recKind := kind, recCnt := w.cnt, recSeq := w.seq, recFlags := w.fpflags, recRidges := w.ridges
    cause := cause
    status := status, edits := [], ldn := none, regs := { w.regs with vEmpty := [], sEmpty := [], vBusy := [], sBusy := [] }
    charge := if parks then w.charge else w.charge + (match w.slotSince with
      | some t => now - t
      | none => 0)
    slotSince := if parks then w.slotSince else none }

/-- A WORLD_VIOLATION of translation goes to the device manager's fault queue too (R85); that of a near pointer to another world's
object goes to the own world alone (R53). -/
def State.managerToo (s : State) (world : Nat) (r : FaultRec) : Bool :=
  decide (world ≠ 0) && decide (r.code.toNat = cWorld) && (decide (r.step = 3#3) || (decide (r.step = 6#3) && r.rst))
    && !(r.addr.getLsbD 63 && decide ((s.rotAt (bits r.addr.toNat 40 20)).world ≠ world))

/-- The wave's record is written and it has left its slot (R194, R195, R340, R358, R359, R364). A lower request that is still
pending outlasts a full record (R339; log 11, DESIGN CHOICE). -/
def State.finishLeave (s : State) (id : Nat) (w : Wave) (why : Leave) : State :=
  let s := s.quit w.core id
  match why with
  | .barrier => s.putWave id { s.spill w (if (s.world w.world).left then s.fullKind w.world else 0#2) none .lowered with lowerReq := false }
  | .park us =>
    let w' := s.spill w (s.fullKind w.world) none (.parked us)
    s.putWave id { w' with status := if us = [] then .cleared else .parked us }
  | .fault r =>
    let p := s.mkPost w r 0
    let s := (s.putWave id (s.spill w (s.fullKind w.world) (some r) .faulted)).post w.world p
    if s.managerToo w.world r then s.post 0 p else s
  | .trap r => (s.putWave id (s.spill w (s.fullKind w.world) (some r) .faulted)).post w.world (s.mkPost w r 1)
  | .preempt => s.putWave id (s.spill w (s.fullKind w.world) none .preempted)

/-- The one clause of a debugger's step has ended: the core is halted again (R369). -/
def State.endStep (s : State) (id : Nat) (w : Wave) : State :=
  let c := s.core w.core
  if c.stepping = some id then s.putCore w.core { c with stepping := none } else s

/-- The wave leaves its slot: at once, or when the outstanding fills of its registers have landed (R57, R359). While a
bundle that was set aside has no answers yet, the wave waits where it stands (R423; log 29, DEDUCED). -/
def State.leave (s : State) (id : Nat) (w : Wave) (why : Leave) : State :=
  if w.asideDue then s.standBy id w
  else
  let s := s.endStep id w
  if w.fillsDue then s.putWave id { w with status := .leaving why } else s.finishLeave id w why

/-- The PC and resume index as SV_EPC holds them (R225, log 10, DESIGN CHOICE). -/
def epcOf (pc : Word) (ridx : Nat) : DWord := BitVec.ofNat 64 (pc.toNat * 16 + ridx % 16)

/-- A PC that lies in no code extent: the fetch there raises MALFORMED_CLAUSE (R205, R210). -/
def noCode : Word := 0xFFFFFFF8#32

/-- The PC of a code address: its offset in the code object, or none of its code (R180, R225). -/
def pcOf (codeBase a : Nat) : Word := if a < codeBase ∨ codeBase + 2 ^ 32 ≤ a then noCode else BitVec.ofNat 32 (a - codeBase)

/-- A supervisor wave enters at its SV_TRAPBASE (R225, R226, R361): SV_CAUSE, SV_EPC and SV_FAULTADDR are written. -/
def State.enterTrap (s : State) (id : Nat) (w : Wave) (cause faultAddr : DWord) : State :=
  let e := w.bundle.getD { pc := 0#32, prio := 0#16, ridx := 0, yld := false, hld := false, bwt := none, passed := false, mask := 1#32 }
  let pc := pcOf w.codeBase w.sv.trapBase.toNat
  s.putWave id { w with
    bundle := some { e with pc := pc, prio := s.prioAt w pc, ridx := 0, mask := 1#32 }
    others := [], clause := none, left := [], ctl := false, yielded := 0#32, judge := 0, behind := false, stalled := false
    sv := { w.sv with cause := cause, faultAddr := faultAddr, epc := epcOf e.pc e.ridx } }

/-- TAKING A CONDITION (R359): an ordinary wave is lowered to a full record with the fault record in CAUSE, and an
entry is posted to its world's fault queue; a supervisor wave enters at SV_TRAPBASE with bits [36:0] of the record
in SV_CAUSE (R225, R226, R360). -/
def State.deliver (s : State) (id : Nat) (w : Wave) (r : FaultRec) : State :=
  if w.sup then s.enterTrap id w (BitVec.ofNat 64 (r.toNat % 2 ^ 37)) r.addr else s.leave id w (.fault r)

/-- Chooses the summit afresh (R181, R182). Where no entry can issue, the wave comes back to a bundle that a remote access
holds (R423); where every entry is held, the highest-ranked of them raises MASK_MISMATCH (R190, R363). -/
def State.reselect (s : State) (id : Nat) (w : Wave) : State :=
  let held := (sortEntries w.others).find? (fun e => !e.wait.isEmpty)
  match (if (s.summitOf w.others).isSome then s.summitOf w.others else held) with
  | some e => s.putWave id ({ w with snap := sortEntries w.others }.take e)
  | none =>
    let w := { w with snap := sortEntries w.others, clause := none, bundle := none }
    if !w.others.isEmpty && w.others.all (fun e => e.hld) then
      match sortEntries w.others with
      | e :: _ =>
        let w := { w.take e with bundle := some { e with hld := false } }
        s.deliver id w { w.mkRec cMask stData (Mask.first e.mask) with mask := e.mask }
      | [] => s.putWave id w
    else s.putWave id w

/-- A clause of the wave has issued: waves of its quadrant that stood back for one go ahead (R185). -/
def State.letBy (s : State) (id : Nat) (w : Wave) : State :=
  if s.waves.any (fun e => e.2.behind) then
    { s with waves := s.waves.map (fun e =>
        if decide (e.1 ≠ id ∧ e.2.core = w.core ∧ e.2.num % 4 = w.num % 4) && e.2.behind then (e.1, { e.2 with behind := false }) else e) }
  else s

/-- The clause boundary (R182): lanes that left join entries at their targets, the remaining lanes go on to the next
clause, equal PCs merge, and the summit is chosen afresh where the rule says so. Where the next header cannot be read
without an effect, its fetch judges E (`Wave.judge`). -/
def State.closeClause (s : State) (id : Nat) (w : Wave) : State :=
  match w.bundle with
  | none => s.reselect id w
  | some b =>
    let n := match w.clause with
      | some c => c.words.length
      | none => (s.countAt w b.pc).getD 1
    let pc := nextPc b.pc n
    let entries := joinEntry (s.prioAt w pc) pc b.mask (decide (b.mask &&& w.yielded ≠ 0#32)) (s.joinLeft w w.others)
    let s := (s.endStep id w).letBy id w
    let again := w.ctl || s.entryMark w pc || decide (b.mask = 0#32)
    let w' := { w with bundle := none, others := entries, clause := none, left := [], ctl := false, yielded := 0#32 }
    if again then s.reselect id w'
    else match entries.find? (fun e => decide (e.pc = pc) && e.free && decide (e.ridx = 0) && e.mid.isNone) with
      | some e => s.putWave id { w'.take e with
          snap := sortEntries entries, judge := if (s.headerAt w pc).isSome then 0 else 1 }
      | none => s.reselect id w'

/-- The bundle passes on to its next instruction, or to the clause boundary after the last (R181, R182). -/
def State.advance (s : State) (id : Nat) : State :=
  match tget s.waves id with
  | none => s
  | some w =>
    match w.bundle with
    | none => s
    | some b =>
      let b' := { b with ridx := b.ridx + 1 }
      if b.mask = 0#32 then s.closeClause id w
      else match w.clause with
        | none => s.putWave id { w with bundle := some b' }
        | some c =>
          if c.words.length ≤ b'.ridx then s.closeClause id { w with waits := false }
          else s.putWave id { w with bundle := some b', waits := false }

/-! ### The driver -/

/-- What an instruction does after its decode and register-state steps. -/
inductive Act where
  /-- It has taken effect; the bundle passes on. -/
  | done (s : State)
  /-- It waits at this instruction and tries again. -/
  | stay (s : State)
  /-- It raises a condition, with no effect. -/
  | raise (r : FaultRec) (s : State)
  /-- It has moved the wave itself. -/
  | jump (s : State)

/-- What is undone where an instruction raises a condition. -/
def Act.onRaise (g : State → State) : Act → Act
  | .raise r s => .raise r (g s)
  | a => a

/-- Marks a wave as waiting until something else has happened. -/
def State.stall (s : State) (id : Nat) : State := s.updWave id (fun w => { w with stalled := true, waits := true })

/-- Does what an instruction's act says. -/
def State.perform (s : State) (w : Wave) : Act → State
  | .done s' => s'.advance s.cur
  | .stay s' => s'.stall s.cur
  | .raise r s' => s'.deliver s.cur (tgetD s'.waves s.cur w) r
  | .jump s' => s'

/-- A walk for the wave waits for another node's answer. -/
def State.walkDue (s : State) : Bool := s.fab.requests.any (fun e => e.2.walk && e.2.answer.isNone)

/-- The wave has parked on missing units. -/
def Wave.isParked (w : Wave) : Bool := match w.status with
  | .parked _ | .leaving (.park _) => true
  | _ => false

/-- What an instruction that reads a word with an uncorrectable error does, where its act in the lanes that the earlier steps can judge
is `a` (R221, R402): a condition of an earlier step, or of the data step in a lower lane, is delivered, and a missing unit or a walk
waits; else POISON. PREFETCH raises nothing (R281). -/
def State.spoiled (s : State) (i : Instr) (w : Wave) (lane : Nat) (a : Act) : State :=
  let poison := s.deliver s.cur w (w.mkRec cPoison stData lane)
  match i, a with
  | .prefetch _, a => s.perform w a
  | _, .raise r s' =>
    if r.step.toNat < stData ∨ (r.step.toNat = stData ∧ r.lane.toNat < lane) then s.perform w (.raise r s') else poison
  | _, .jump s' => if (tgetD s'.waves s.cur w).isParked then s' else poison
  | _, .stay s' => if s'.walkDue then s.perform w (.stay s') else poison
  | _, .done _ => poison

/-- Runs an instruction of the wave that issues through decode (R219), register state (R217) and then `act`, which
takes the wave, its active lanes and the state. An instruction that holds its bundle has passed the register state, and its
own destination is empty meanwhile (R55, R423). A word with an uncorrectable error raises POISON in the data step (R402; log 52,
DEDUCED). With no issuing wave nothing happens. -/
def issueState (i : Instr) (s : State) (act : Wave → Mask → State → Act) : State :=
  match s.curWave with
  | none => s
  | some w =>
    if w.status ≠ .slot ∨ w.bundle = none then s
    else if privileged i && !w.sup then s.deliver s.cur w (w.mkRec cPrivilege stDecode (Mask.first w.bundleMask))
    else if !(fieldsOk i && fieldsFit w.nv w.firstFrontier i) then
      s.deliver s.cur w (w.mkRec cReserved stDecode (Mask.first w.bundleMask))
    else
      let m := w.active i
      match (if w.hold = [] ∧ w.ldn = none then regState w.regs m (regSlots i) else .full) with
      | .emptyRead lane => s.deliver s.cur w (w.mkRec cEmpty stReg lane)
      | .stall => s.standBy s.cur w
      | .full =>
        match badLane w.regs (predOf i) w.bundleMask m (regSlots i) with
        | some lane => s.spoiled i w lane (act w (w.regs.goodLanes (predOf i) m (earlySlots i)) s)
        | none => s.perform w (act w m s)

/-- The meaning of an instruction by its act. -/
def issue (i : Instr) (s : State) (act : Wave → Mask → State → Act) : Out := .next (issueState i s act)

/-- An instruction that only changes its wave. -/
def onWave (f : Wave → Mask → Wave) : Wave → Mask → State → Act :=
  fun w m s => .done (s.putWave s.cur (f w m))

/-- A register of lanes. -/
def isLaneReg : Operand → Bool
  | .v _ => true
  | _ => false

/-- The lowest lane alone. -/
def Mask.lowest (m : Mask) : Mask := m &&& (0#32 - m)

/-- The lanes in which a format M instruction acts: one, where all its operands are scalar (R209). -/
def actingLanes (f : FmtM) (m : Mask) : Mask :=
  if isLaneReg f.data || isLaneReg f.base || isLaneReg f.index then m else Mask.lowest m

/-- The meaning of a format M instruction by its act. -/
def issueM (i : Instr) (f : FmtM) (s : State) (act : Wave → Mask → State → Act) : Out :=
  issue i s (fun w m s => act w (actingLanes f m) s)

/-- Writes a destination of `n` words in the active lanes, from a function of the lane. -/
def Wave.put (w : Wave) (o : Operand) (n : Nat) (m : Mask) (f : Nat → Nat) : Wave :=
  { w with regs := w.regs.writeLanes o n m f }

/-! ### Counters of engine operations (R146 to R148) -/

/-- The counter of a class. -/
def Wave.cntOf (w : Wave) (c : Nat) : Nat := w.cnt.getD c 0
/-- The next sequence number of a class. -/
def Wave.seqOf (w : Wave) (c : Nat) : Nat := w.seq.getD c 0

/-- Counts `n` issued operations of a class (R147). -/
def Wave.count (w : Wave) (c n : Nat) : Wave :=
  { w with cnt := lset w.cnt c (w.cntOf c + n), seq := lset w.seq c ((w.seqOf c + n) % 65536) }

/-- Retires one notice of a class (R148). -/
def Wave.uncount (w : Wave) (c : Nat) : Wave := { w with cnt := lset w.cnt c (w.cntOf c - 1) }

/-- A wait of the wave to thresholds of classes has returned: the writes of the operations that it covers are from now on the
wave's own (R132, R151). An operation is covered where it is not among the last `n` of its class. -/
def Wave.cover (w : Wave) (l : List (Nat × Nat)) : Wave :=
  if w.storeQ.all (fun q => !q.engine) then w
  else { w with storeQ := w.storeQ.map (fun q =>
    if q.engine && l.any (fun x => decide (x.1 = q.cls ∧ x.2 ≤ (w.seqOf x.1 + 65535 - q.seq) % 65536)) then { q with covered := true } else q) }

/-- The operations of a wave's class whose notices are outstanding, in sequence order. -/
def State.opsOf (s : State) (id cls : Nat) : List (Nat × EngOp) :=
  s.ops.filter (fun e => decide (e.2.wave = id ∧ e.2.cls = cls))

/-- The frozen operation that a wait to threshold `n` on a class covers and reports first: it is not among the `n`
most recently issued (R150, R156). -/
def State.frozenCovered (s : State) (id : Nat) (w : Wave) (cls n : Nat) : Option (Nat × FaultRec) :=
  let l := s.opsOf id cls
  let covered := l.take (w.cntOf cls - n)
  match covered.find? (fun e => match e.2.state with
      | .frozen _ => true
      | _ => false) with
  | some e => (match e.2.state with
      | .frozen r => some (e.1, r)
      | _ => none)
  | none => none

/-- The first frozen operation that waits on several classes cover: the lowest class first (R156). -/
def State.firstFrozen (s : State) (id : Nat) (w : Wave) : List (Nat × Nat) → Option FaultRec
  | [] => none
  | (c, n) :: t =>
    if n < w.cntOf c then
      match s.frozenCovered id w c n with
      | some x => some x.2
      | none => s.firstFrozen id w t
    else s.firstFrozen id w t

/-- A deferred condition as reported at a wait: PC, RIDX and MASK are those of the wait (R156, R360). -/
def Wave.deferred (w : Wave) (r : FaultRec) : FaultRec :=
  let h := w.mkRec 0 0 0
  { r with step := 6#3, pc := h.pc, ridx := h.ridx, mask := h.mask }

/-! ### The return to issue (R186, R201, R363) -/

/-- Wave slots and register units of a quadrant in use (R54). -/
def State.quadUse (s : State) (core quad : Nat) : Nat × Nat :=
  s.waves.foldl (fun acc e =>
    if decide (e.2.core = core) && decide (e.2.num % 4 = quad) && !e.2.sup && (match e.2.status with
        | .slot | .leaving _ => true
        | _ => false) then (acc.1 + 1, acc.2 + e.2.nv / 8) else acc) (0, 0)

/-- A quadrant has room for a wave (R54). -/
def State.quadFits (s : State) (core quad nv : Nat) : Bool :=
  let u := s.quadUse core quad
  decide (u.1 < 24) && decide (u.2 + nv / 8 ≤ 192)

/-- The frontier as its registers hold it, a supervisor's edits included (R186): entries, each with whether a reserved
bit of its word 1 is set, and whether an unused entry has one set. Entries beyond the declared depth, which a separate entry at a
barrier's PC may make (R182, R183), stand as they were (log 11, DESIGN CHOICE). -/
def Wave.restored (w : Wave) : List (Entry × Bool) × Bool :=
  let rsv (i : Nat) : Bool := decide (bits (frontierWord w (3 * i + 1)).toNat 23 9 ≠ 0)
  let used (i : Nat) : Bool := decide (frontierWord w (3 * i + 2) ≠ 0#32)
  let es := ((List.range w.depth).filter used).map (fun i =>
    let w1 := (frontierWord w (3 * i + 1)).toNat
    let old := w.snap[i]?
    (({ pc := frontierWord w (3 * i), prio := BitVec.ofNat 16 (bits w1 0 16), ridx := bits w1 16 4, yld := bit w1 20, hld := bit w1 21
        bwt := if bit w1 22 then old.bind (fun e => e.bwt) else none
        passed := (old.map (fun e => e.passed)).getD false, words := (old.map (fun e => e.words)).getD 0
        mid := (old.bind (fun e => e.mid)).map (fun m => { m with clause := none })
        mask := frontierWord w (3 * i + 2) } : Entry), rsv i))
  (es ++ (w.snap.drop w.depth).map (fun e => (e, false)), (List.range w.depth).any (fun i => !used i && rsv i))

/-- The summit at resumption (R186): the first entry by rank with a non-zero RIDX, else the one R181 chooses. -/
def resumeSummit (l : List Entry) : Option Entry :=
  match (sortEntries l).find? (fun e => decide (e.ridx ≠ 0) && e.free && e.mid.isNone) with
  | some e => some e
  | none => chooseSummit l

/-- An entry is malformed at resumption (R186, R363): its PC heads no clause, its RIDX is at or past the clause's
count, its RIDX is non-zero and it is not the summit or it is held or waiting, or its mask overlaps that of an entry
that ranks before it (`before`). A bundle that was set aside in its clause is no second summit (R423; log 29, DEDUCED). -/
def State.entryBad (s : State) (w : Wave) (before : List Entry) (summit : Option Entry) (e : Entry) : Bool :=
  let head := decide (e.pc.toNat % 8 ≠ 0) || decide (w.extent ≤ e.pc.toNat) || (match s.codeWord w e.pc.toNat with
    | some h => !isHeader h
    | none => false)
  head || (decide (e.ridx ≠ 0) && ((decide (some e ≠ summit) && e.mid.isNone) || e.hld || e.bwt.isSome || (match s.countAt w e.pc with
      | some n => decide (n ≤ e.ridx)
      | none => false)))
    || before.any (fun x => decide (x.mask &&& e.mask ≠ 0#32))

/-- The condition that a resumption check finds in an entry: MALFORMED_CLAUSE before RESERVED_FIELD (R186, R363; log 11,
DESIGN CHOICE for the order within one entry). -/
def State.entryCond (s : State) (w : Wave) (before : List Entry) (summit : Option Entry) (rsv : List Entry) (e : Entry) : Option Nat :=
  if s.entryBad w before summit e then some cMalformed else if rsv.contains e then some cReserved else none

/-- THE RETURN (R201): the wave takes a slot again from its record. From a full record the checks of R186 run first,
and the condition of the entry that ranks first is delivered (R363). -/
def State.requeue (s : State) (id : Nat) (w : Wave) : State :=
  let (es, unused) := w.restored
  let ents := es.map (fun x => x.1)
  let keep := ents.any (fun e => decide (e.ridx ≠ 0))
  let w0 := { w with status := .slot, stalled := false, slotSince := some (w.slotSince.getD s.clock.toNat), edits := [], others := ents
                     bundle := none, snap := sortEntries ents, cause := none, clause := none
                     ctl := w.ctl && keep, yielded := if keep then w.yielded else 0#32 }
  if w.recKind = 0#2 then s.reselect id w0
  else
    let summit := resumeSummit ents
    let sorted := sortEntries ents
    let conds := sorted.zipIdx.map (fun e => (e.1, s.entryCond w (sorted.take e.2) summit ((es.filter (fun x => x.2)).map (fun x => x.1)) e.1))
    match conds.find? (fun x => x.2.isSome) with
    | some (e, c) =>
      let w1 := w0.take e
      s.deliver id w1 { w1.mkRec (c.getD cMalformed) stDecode (Mask.first e.mask) with mask := e.mask, ridx := BitVec.ofNat 4 e.ridx }
    | none =>
      if unused then
        match summit with
        | some e => let w1 := w0.take e
                    s.deliver id w1 (w1.mkRec cReserved stDecode (Mask.first e.mask))
        | none => s.reselect id w0
      else
        let es' := ents.map (fun e => { e with prio := s.prioAt w e.pc })
        let w1 := { w0 with others := es', snap := sortEntries es' }
        match resumeSummit es' with
        | some e => s.putWave id (w1.take e)
        | none => s.reselect id w1

/-- Registers that tests do not pick take free values from a place on (R11): a vector register in a lane, a scalar register, the
lanes of a predicate. -/
def Wave.keepRegs (w : Wave) (fill : Nat) (keepV : Nat → Nat → Bool) (keepS : Nat → Bool) (keepP : Nat → Mask) : Wave :=
  let old := w.regs
  let vs := (List.range w.nv).foldl (fun (t : Tab Word) r =>
    (List.range 32).foldl (fun t l => if keepV r l then tset t (32 * r + l) (old.readV r l) else t) t) []
  let ss := (List.range 64).foldl (fun (t : Tab Word) r => if keepS r then tset t r (old.readS r) else t) []
  let ps := (List.range 6).foldl (fun (t : Tab Mask) r =>
    let m := keepP r
    if m = 0#32 then t else tset t r ((old.readP r &&& m) ||| (freeAt (some fill) (8256 + r) &&& ~~~m))) []
  { w with regs := { old with fill := some fill, v := vs, s := ss, p := ps } }

/-- Registers outside the carry set of a barrier site become undefined after a lowering (R194): free values. -/
def Wave.keepCarry (w : Wave) (c : Option CarrySite) (fill : Nat) : Wave :=
  w.keepRegs fill
    (fun r _ => (match c with
      | some x => x.v.getLsbD r
      | none => false) || (decide (w.firstFrontier ≤ r) && decide (r < w.nv)))
    (fun r => match c with
      | some x => x.s.getLsbD r
      | none => false)
    (fun r => match c with
      | some x => if x.p.getLsbD r then 0xFFFFFFFF#32 else 0#32
      | none => 0#32)

/-- In lanes that have run routines, every vector register but the frontier's, and p1 to p5, are undefined once their barrier has
returned (R197, R410): free values. -/
def Wave.afterRoutines (w : Wave) (m : Mask) (fill : Nat) : Wave :=
  { w.keepRegs fill (fun r l => !m.has l || (decide (w.firstFrontier ≤ r) && decide (r < w.nv))) (fun _ => true)
      (fun r => if r = 0 then 0xFFFFFFFF#32 else ~~~m) with routines := w.routines &&& ~~~m }

/-- The protected worlds whose CORES holds a core, in increasing number, with SLICE (R389, R390). -/
def State.protectors (s : State) (core : Nat) : List (Nat × Nat) :=
  (s.worlds.filter (fun e => e.2.protected && e.2.cores.contains core)).map (fun e => (e.1, e.2.slice))

/-- The owner of the slice that runs on a core (R390); slices are those of the lowest world (log 12, DESIGN CHOICE). -/
def State.sliceOwner (s : State) (core : Nat) : Option Nat :=
  match s.protectors core with
  | [] => none
  | (w, n) :: t => (((w, n) :: t)[s.clock.toNat / (n * 4096) % (t.length + 1)]?).map (fun x => x.1)

/-- The waves of a world on a core are to stop (R364): the slice is another world's, the world has left the running
state, or the core retires. -/
def State.stopNow (s : State) (core world : Nat) : Bool :=
  (s.core core).retiring || (s.world world).left
    || ((s.protectors core).any (fun x => decide (x.1 = world)) && decide (s.sliceOwner core ≠ some world))

/-- Routines of an unfolding run in lanes of the wave: they finish at RDONE before a pre-emption (R364). -/
def State.inRoutine (s : State) (id : Nat) : Bool :=
  s.ops.any (fun e => match e.2.unfold with
    | some u => u.running.any (fun r => decide (r.wave = id))
    | none => false)

/-- The wave can issue: it is on its slot with a summit, nothing it waits for is known to be open, its world is not
paused, no pre-emption stops it (one of a halted core waits for the resume), and its core is neither halted nor gated, but
for the one clause of a step (R200, R343, R344, R364, R369, R390). -/
def State.ready (s : State) (id : Nat) (w : Wave) : Bool :=
  let c := s.core w.core
  let wd := s.world w.world
  let bound := !w.asideDue && (match w.clause with
    | some x => !x.waited
    | none => true)
  decide (w.status = .slot) && w.bundle.isSome && !w.stalled && (s.answered w || s.canTurn w)
    && !(bound && (wd.paused || !wd.tripped.isEmpty))
    && !(bound && !w.sup && s.stopNow w.core w.world && !s.inRoutine id && c.halt.isNone)
    && (match c.halt with
        | none => decide (c.power ≠ .powerGated)
        | some .drain => !bound || decide (c.stepping = some id)
        | some .immediate => decide (c.stepping = some id))

/-- The wave may issue now: it is ready, and where its clause carries Y no other wave of its quadrant is ready (R185, R200). -/
def State.mayGo (s : State) (id : Nat) (w : Wave) : Bool :=
  s.ready id w && !(w.behind && s.waves.any (fun e =>
    decide (e.1 ≠ id ∧ e.2.core = w.core ∧ e.2.num % 4 = w.num % 4) && !e.2.behind && s.ready e.1 e.2))

end Sys2Proof.Machine
end

