-- ==== Sys2Proof/Machine/Integer.lean ====
section
/-! DEFINITION. The integer, logic, shift, bit-field, compare, move, predicate and immediate instructions
(R227 to R238). Each is a function of its operands in one lane, written into the destination of every active lane. -/

namespace Sys2Proof.Machine

/-- Width of a type of table I in bits (R214): the packed types are 32 bits wide. -/
def tyBits (ty : Nat) : Nat :=
  if ty = 0 ∨ ty = 4 then 8
  else if ty = 1 ∨ ty = 5 then 16
  else if ty = 3 ∨ ty = 7 then 64
  else 32

/-- Register width of an operand of a type of table I (R227). -/
def regBits (ty : BitVec 4) : Nat := 32 * wordsI ty

/-- The type is signed (R214): the .i types and .4i8. -/
def tySigned (ty : Nat) : Bool := decide (ty < 4) || decide (ty = 9)

/-- ext(x): the bits of a type read as signed or unsigned (R227, R230). -/
def extTy (ty x : Nat) : Int :=
  if tySigned ty then sextN (tyBits ty) x else ((x % 2 ^ tyBits ty : Nat) : Int)

/-- The least and the greatest value of a type (R230). -/
def leastTy (ty : Nat) : Int := if tySigned ty then -((2 ^ (tyBits ty - 1) : Nat) : Int) else 0
@[inherit_doc leastTy] def greatestTy (ty : Nat) : Int :=
  if tySigned ty then ((2 ^ (tyBits ty - 1) : Nat) : Int) - 1 else ((2 ^ tyBits ty : Nat) : Int) - 1

/-- An exact value brought into the range of a type (R230). -/
def clampTy (ty : Nat) (x : Int) : Int :=
  if x < leastTy ty then leastTy ty else if greatestTy ty < x then greatestTy ty else x

/-- Four signed bytes at once (R231). -/
def lanes4 (g : Int → Int → Int) (x y : Nat) : Nat :=
  (List.range 4).foldl (fun acc k =>
    acc + wrapN 8 (g (sextN 8 (x / 2 ^ (8 * k))) (sextN 8 (y / 2 ^ (8 * k)))) * 2 ^ (8 * k)) 0

/-- A constant replicated into four bytes (R213). -/
def rep4 (b : Nat) : Nat := b % 256 * 0x01010101

/-- The value of a source of an integer type in a lane (R213, R227). -/
def Wave.isrc (w : Wave) (o : Operand) (ty : BitVec 4) (lane : Nat) : Nat :=
  if ty = 9#4 then
    match o with
    | .pos k => rep4 k.toNat
    | .neg k => rep4 (224 + k.toNat)
    | _ => w.src o 1 lane
  else w.src o (wordsI ty) lane

/-- A two-source operation on integers: exact, then modulo the register width, or in four bytes (R227, R231). -/
def intVal (ty : BitVec 4) (g : Int → Int → Int) (x y : Nat) : Nat :=
  if ty = 9#4 then lanes4 g x y else wrapN (regBits ty) (g (extTy ty.toNat x) (extTy ty.toNat y))

/-- The four bytes' own type, .i8, where the type is .4i8: its bounds are those of a byte (R231). -/
def elemTy (ty : BitVec 4) : Nat := if ty = 9#4 then 0 else ty.toNat

/-- The instruction of two sources whose result in a lane is `g` of their values. -/
def int2Op (i : Instr) (f : FmtA3) (g : Int → Int → Int) (s : State) : Out :=
  issue i s (onWave fun w m => w.put f.dst (wordsI f.ty) m
    (fun l => intVal f.ty g (w.isrc f.a f.ty l) (w.isrc f.b f.ty l)))

/-- The instruction of two sources whose result in a lane is `g` of their bits. -/
def bits2Op (i : Instr) (f : FmtA3) (g : Nat → Nat → Nat) (s : State) : Out :=
  issue i s (onWave fun w m => w.put f.dst (wordsI f.ty) m
    (fun l => g (w.src f.a (wordsI f.ty) l) (w.src f.b (wordsI f.ty) l)))

/-- IADD (R228, R231). -/
def execIadd (f : FmtA3) (s : State) : Out := int2Op (.iadd f) f (fun x y => x + y) s

/-- ISUB (R228, R231). -/
def execIsub (f : FmtA3) (s : State) : Out := int2Op (.isub f) f (fun x y => x - y) s

/-- IMUL (R228). -/
def execImul (f : FmtA3) (s : State) : Out := int2Op (.imul f) f (fun x y => x * y) s

/-- IMULH (R228): bits [2W-1:W] of the exact product. -/
def execImulh (f : FmtA3) (s : State) : Out :=
  int2Op (.imulh f) f (fun x y => x * y / ((2 ^ regBits f.ty : Nat) : Int)) s

/-- IMAD (R228). -/
def execImad (f : FmtA3) (s : State) : Out :=
  issue (.imad f) s (onWave fun w m => w.put f.dst (wordsI f.ty) m (fun l =>
    (w.src f.a (wordsI f.ty) l * w.src f.b (wordsI f.ty) l + w.src f.c (wordsI f.ty) l) % 2 ^ regBits f.ty))

/-- IMADW (R228): 32-bit factors, a 64-bit addend and result. -/
def execImadw (f : FmtA3) (s : State) : Out :=
  issue (.imadw f) s (onWave fun w m => w.put f.dst 2 m (fun l =>
    wrapN 64 (extTy f.ty.toNat (w.src f.a 1 l) * extTy f.ty.toNat (w.src f.b 1 l) + (w.src f.c 2 l : Nat))))

/-- Quotient and remainder of R229. -/
def divRem (ty : Nat) (x y : Int) : Int × Int :=
  if y = 0 then (-1, x)
  else if tySigned ty ∧ x = leastTy ty ∧ y = -1 then (x, 0)
  else (x.tdiv y, x - y * x.tdiv y)

/-- IDIV (R229). -/
def execIdiv (f : FmtA3) (s : State) : Out := int2Op (.idiv f) f (fun x y => (divRem f.ty.toNat x y).1) s

/-- IREM (R229). -/
def execIrem (f : FmtA3) (s : State) : Out := int2Op (.irem f) f (fun x y => (divRem f.ty.toNat x y).2) s

/-- IMIN (R228, R231). -/
def execImin (f : FmtA3) (s : State) : Out := int2Op (.imin f) f (fun x y => if y < x then y else x) s

/-- IMAX (R228, R231). -/
def execImax (f : FmtA3) (s : State) : Out := int2Op (.imax f) f (fun x y => if x < y then y else x) s

/-- IABS (R228, R231). -/
def execIabs (f : FmtA3) (s : State) : Out :=
  issue (.iabs f) s (onWave fun w m => w.put f.dst (wordsI f.ty) m
    (fun l => intVal f.ty (fun x _ => if x < 0 then -x else x) (w.isrc f.a f.ty l) 0))

/-- INEG (R228). -/
def execIneg (f : FmtA3) (s : State) : Out :=
  issue (.ineg f) s (onWave fun w m => w.put f.dst (wordsI f.ty) m
    (fun l => intVal f.ty (fun x _ => -x) (w.isrc f.a f.ty l) 0))

/-- IADDS (R230, R231). -/
def execIadds (f : FmtA3) (s : State) : Out :=
  int2Op (.iadds f) f (fun x y => clampTy (elemTy f.ty) (x + y)) s

/-- ISUBS (R230, R231). -/
def execIsubs (f : FmtA3) (s : State) : Out :=
  int2Op (.isubs f) f (fun x y => clampTy (elemTy f.ty) (x - y)) s

/-- AND (R232). -/
def execAndOp (f : FmtA3) (s : State) : Out := bits2Op (.andOp f) f (fun x y => x &&& y) s

/-- OR (R232). -/
def execOrOp (f : FmtA3) (s : State) : Out := bits2Op (.orOp f) f (fun x y => x ||| y) s

/-- XOR (R232). -/
def execXorOp (f : FmtA3) (s : State) : Out := bits2Op (.xorOp f) f (fun x y => x ^^^ y) s

/-- ANDN (R232): a ∧ ¬b. -/
def execAndn (f : FmtA3) (s : State) : Out :=
  bits2Op (.andn f) f (fun x y => x &&& (2 ^ regBits f.ty - 1 - y)) s

/-- SHL (R232): the amount is the low register of b. -/
def execShl (f : FmtA3) (s : State) : Out :=
  bits2Op (.shl f) f (fun x y =>
    if y % 2 ^ 32 < regBits f.ty then x * 2 ^ (y % 2 ^ 32) % 2 ^ regBits f.ty else 0) s

/-- SHR (R232). -/
def execShr (f : FmtA3) (s : State) : Out :=
  bits2Op (.shr f) f (fun x y => if y % 2 ^ 32 < regBits f.ty then x / 2 ^ (y % 2 ^ 32) else 0) s

/-- SAR (R232). -/
def execSar (f : FmtA3) (s : State) : Out :=
  bits2Op (.sar f) f (fun x y =>
    if y % 2 ^ 32 < regBits f.ty then
      wrapN (regBits f.ty) (sextN (regBits f.ty) x / ((2 ^ (y % 2 ^ 32) : Nat) : Int))
    else if bit x (regBits f.ty - 1) then 2 ^ regBits f.ty - 1 else 0) s

/-- A funnel shift of b:a (R232): flags 0 left, 1 right. -/
def funnel (right : Bool) (a b c : Nat) : Nat :=
  let n := if c < 32 then c else 32
  let u := b * 2 ^ 32 + a
  if right then u / 2 ^ n % 2 ^ 32 else u * 2 ^ n % 2 ^ 64 / 2 ^ 32

/-- SHF (R232). -/
def execShf (f : FmtA3) (s : State) : Out :=
  issue (.shf f) s (onWave fun w m => w.put f.dst 1 m
    (fun l => funnel (f.flg == 1#4) (w.src f.a 1 l) (w.src f.b 1 l) (w.src f.c 1 l)))

/-- The field of BFE (R233). -/
def bfeVal (ty : BitVec 4) (a pos len : Nat) : Nat :=
  let W := regBits ty
  let L := if len < W then len else W
  let P := if pos < W then pos else W
  let fv : Nat := (extTy ty.toNat a / ((2 ^ P : Nat) : Int) % ((2 ^ L : Nat) : Int)).toNat
  if L = 0 then 0 else if tySigned ty.toNat then wrapN W (sextN L fv) else fv

/-- BFE (R233): pos and len are single registers at every width. -/
def execBfe (f : FmtA3) (s : State) : Out :=
  issue (.bfe f) s (onWave fun w m => w.put f.dst (wordsI f.ty) m
    (fun l => bfeVal f.ty (w.src f.a (wordsI f.ty) l) (w.src f.b 1 l) (w.src f.c 1 l)))

/-- The word of BFI (R233): len in bits [15:8] of c, pos in [7:0]. -/
def bfiVal (ty : BitVec 4) (a b c : Nat) : Nat :=
  let W := regBits ty
  let L := if bits c 8 8 < W then bits c 8 8 else W
  let P := bits c 0 8
  let mk := (2 ^ L - 1) * 2 ^ P % 2 ^ W
  (b &&& (2 ^ W - 1 - mk)) ||| (a * 2 ^ P % 2 ^ W &&& mk)

/-- BFI (R233). -/
def execBfi (f : FmtA3) (s : State) : Out :=
  issue (.bfi f) s (onWave fun w m => w.put f.dst (wordsI f.ty) m
    (fun l => bfiVal f.ty (w.src f.a (wordsI f.ty) l) (w.src f.b (wordsI f.ty) l) (w.src f.c 1 l)))

/-- The number of one bits among the low `n`. -/
def popCount (x n : Nat) : Nat := ((List.range n).filter (fun i => bit x i)).length

/-- POPC (R234). -/
def execPopc (f : FmtA3) (s : State) : Out :=
  issue (.popc f) s (onWave fun w m => w.put f.dst 1 m
    (fun l => popCount (w.src f.a (wordsI f.ty) l) (regBits f.ty)))

/-- CLZ (R234): W for 0. -/
def execClz (f : FmtA3) (s : State) : Out :=
  issue (.clz f) s (onWave fun w m => w.put f.dst 1 m
    (fun l => ((List.range (regBits f.ty)).find? (fun k =>
      bit (w.src f.a (wordsI f.ty) l) (regBits f.ty - 1 - k))).getD (regBits f.ty)))

/-- CTZ (R234): W for 0. -/
def execCtz (f : FmtA3) (s : State) : Out :=
  issue (.ctz f) s (onWave fun w m => w.put f.dst 1 m
    (fun l => ((List.range (regBits f.ty)).find? (fun k =>
      bit (w.src f.a (wordsI f.ty) l) k)).getD (regBits f.ty)))

/-- Bits in reverse order. -/
def bitRev (x n : Nat) : Nat := (List.range n).foldl (fun acc i => 2 * acc + b2n (bit x i)) 0

/-- BREV (R234). -/
def execBrev (f : FmtA3) (s : State) : Out :=
  issue (.brev f) s (onWave fun w m => w.put f.dst (wordsI f.ty) m
    (fun l => bitRev (w.src f.a (wordsI f.ty) l) (regBits f.ty)))

/-- The four bytes that PERMB selects (R234). -/
def permBytes (a b c : Nat) : Nat :=
  (List.range 4).foldl (fun acc j =>
    let n := bits c (4 * j) 4
    let src := bits (a + b * 2 ^ 32) (8 * (n % 8)) 8
    acc + (if n < 8 then src else if 128 ≤ src then 255 else 0) * 2 ^ (8 * j)) 0

/-- PERMB (R234). -/
def execPermb (f : FmtA3) (s : State) : Out :=
  issue (.permb f) s (onWave fun w m => w.put f.dst 1 m
    (fun l => permBytes (w.src f.a 1 l) (w.src f.b 1 l) (w.src f.c 1 l)))

/-- The six relations and the two range tests of ISETP (R235). -/
def relTest (t : Nat) (a b c : Int) : Bool :=
  if t = 0 then decide (a = b)
  else if t = 1 then decide (a ≠ b)
  else if t = 2 then decide (a < b)
  else if t = 3 then decide (a ≤ b)
  else if t = 4 then decide (b < a)
  else if t = 5 then decide (b ≤ a)
  else if t = 6 then decide (b ≤ a ∧ a < c)
  else !decide (b ≤ a ∧ a < c)

/-- ISETP (R235). -/
def execIsetp (f : FmtA3) (s : State) : Out :=
  issue (.isetp f) s (onWave fun w m => w.put f.dst 1 m (fun l =>
    let x (o : Operand) : Int := extTy f.ty.toNat (w.src o (wordsI f.ty) l)
    b2n (relTest f.flg.toNat (x f.a) (x f.b) (x f.c))))

/-- SEL (R235). -/
def execSel (f : FmtA3) (s : State) : Out :=
  issue (.sel f) s (onWave fun w m => w.put f.dst (wordsI f.ty) m
    (fun l => if w.src f.c 1 l = 1 then w.src f.a (wordsI f.ty) l else w.src f.b (wordsI f.ty) l))

/-- MOV (R235). -/
def execMov (f : FmtA3) (s : State) : Out :=
  issue (.mov f) s (onWave fun w m => w.put f.dst (wordsI f.ty) m (fun l => w.src f.a (wordsI f.ty) l))

/-- NOP (R235). -/
def execNop (f : FmtA3) (s : State) : Out := issue (.nop f) s (onWave fun w _ => w)

/-- The six operations of PSETP (R236). -/
def predOp (t : Nat) (a b : Bool) : Bool :=
  if t = 0 then a && b
  else if t = 1 then a || b
  else if t = 2 then a != b
  else if t = 3 then a && !b
  else if t = 4 then a || !b
  else !a

/-- PSETP (R236). -/
def execPsetp (f : FmtA3) (s : State) : Out :=
  issue (.psetp f) s (onWave fun w m => w.put f.dst 1 m
    (fun l => b2n (predOp f.flg.toNat (w.src f.a 1 l == 1) (w.src f.b 1 l == 1))))

/-- P2V (R236). -/
def execP2v (f : FmtA3) (s : State) : Out :=
  issue (.p2v f) s (onWave fun w m => w.put f.dst 1 m (fun l =>
    (List.range 8).foldl (fun acc j => acc + b2n ((w.readP j).has l) * 2 ^ j) 0))

/-- V2P (R236): `k` selects the predicates written. -/
def execV2p (f : FmtA3) (s : State) : Out :=
  issue (.v2p f) s (onWave fun w m =>
    (List.range 6).foldl (fun (w' : Wave) j =>
      if bit (w.src f.b 1 0) j then
        { w' with regs := w'.regs.writeP j m (Mask.ofPred (fun l => bit (w.src f.a 1 l) j)) }
      else w') w)

/-! ### Immediate forms (R237) -/

/-- The literal of an AI word, sign-extended to 64 bits, as a number. -/
def imm64 (f : FmtAI) : Nat := wrapN 64 f.imm.toInt

/-- The AI instruction whose result in a lane is `g` of a source of `n` words. -/
def immOp (i : Instr) (f : FmtAI) (n : Nat) (g : Nat → Nat) (s : State) : Out :=
  issue i s (onWave fun w m => w.put f.dst n m (fun l => g (w.src f.a n l)))

/-- IADD_IMM (R237). -/
def execIaddImm (f : FmtAI) (s : State) : Out := immOp (.iaddImm f) f 1 (fun x => (x + f.imm.toNat) % 2 ^ 32) s

/-- IADD_IMM64 (R237). -/
def execIaddImm64 (f : FmtAI) (s : State) : Out :=
  immOp (.iaddImm64 f) f 2 (fun x => (x + imm64 f) % 2 ^ 64) s

/-- IMUL_IMM (R237). -/
def execImulImm (f : FmtAI) (s : State) : Out := immOp (.imulImm f) f 1 (fun x => x * f.imm.toNat % 2 ^ 32) s

/-- AND_IMM (R237). -/
def execAndImm (f : FmtAI) (s : State) : Out := immOp (.andImm f) f 1 (fun x => x &&& f.imm.toNat) s

/-- OR_IMM (R237). -/
def execOrImm (f : FmtAI) (s : State) : Out := immOp (.orImm f) f 1 (fun x => x ||| f.imm.toNat) s

/-- XOR_IMM (R237). -/
def execXorImm (f : FmtAI) (s : State) : Out := immOp (.xorImm f) f 1 (fun x => x ^^^ f.imm.toNat) s

/-- MOVI (R237). -/
def execMovi (f : FmtAI) (s : State) : Out :=
  issue (.movi f) s (onWave fun w m => w.put f.dst 1 m (fun _ => f.imm.toNat))

/-- MOVI_I64 (R237). -/
def execMoviI64 (f : FmtAI) (s : State) : Out :=
  issue (.moviI64 f) s (onWave fun w m => w.put f.dst 2 m (fun _ => imm64 f))

/-- The bits of binary32 widened exactly to binary64; a NaN keeps sign, quiet bit and payload (R237). -/
def widenF32 (x : Nat) : Nat :=
  match f32.decode x with
  | .nan sg q p => f64.signBit sg + 2047 * 2 ^ 52 + b2n q * 2 ^ 51 + p * 2 ^ 29
  | v => f64.encode v

/-- MOVI_F64 (R237). -/
def execMoviF64 (f : FmtAI) (s : State) : Out :=
  issue (.moviF64 f) s (onWave fun w m => w.put f.dst 2 m (fun _ => widenF32 f.imm.toNat))

/-- The PC of the clause that holds the instruction. -/
def Wave.pcNat (w : Wave) : Nat :=
  match w.bundle with
  | some e => e.pc.toNat
  | none => 0

/-- LEA (R238): code base + PC of the clause + the literal. -/
def execLea (f : FmtAI) (s : State) : Out :=
  issue (.lea f) s (onWave fun w m => w.put f.dst 2 m (fun _ => (w.codeBase + w.pcNat + imm64 f) % 2 ^ 64))

end Sys2Proof.Machine
end

