-- ==== Sys2Proof/Machine/WaveOps.lean ====
section
/-! DEFINITION. The wave operations that combine lanes, the special registers and the clock (R223, R239 to R245). -/

namespace Sys2Proof.Machine

/-- The truth value of VOTE's source in a lane (R240). -/
def Wave.truth (w : Wave) (o : Operand) (lane : Nat) : Bool := decide (w.src o 1 lane ≠ 0)

/-- VOTE's reduction over the participants (R240). -/
def voteVal (t : Nat) (m yes : Mask) : Nat :=
  if t = 0 then b2n (decide (yes ≠ 0#32))
  else if t = 1 then b2n (decide (yes = m))
  else if t = 2 then b2n (decide (yes = 0#32) || decide (yes = m))
  else if t = 3 then yes.toNat
  else if t = 4 then Mask.count yes
  else (Mask.lanes yes).headD 32

/-- The lanes of a mask that satisfy a test. -/
def Mask.sub (m : Mask) (f : Nat → Bool) : Mask := Mask.ofPred (fun l => m.has l && f l)

/-- VOTE (R240). -/
def execVote (f : FmtA3) (s : State) : Out :=
  issue (.vote f) s (onWave fun w m =>
    w.put f.dst 1 m (fun _ => voteVal f.flg.toNat m (Mask.sub m (w.truth f.a))))

/-- The participants whose value equals lane `l`'s (R241). -/
def Wave.peers (w : Wave) (o : Operand) (n : Nat) (m : Mask) (l : Nat) : Mask :=
  Mask.sub m (fun k => decide (w.src o n k = w.src o n l))

/-- MATCH (R241): peers, all equal, rank. -/
def execMatchOp (f : FmtA3) (s : State) : Out :=
  issue (.matchOp f) s (onWave fun w m =>
    let n := wordsI f.ty
    w.put f.dst 1 m (fun l =>
      let p := w.peers f.a n m l
      if f.flg = 0#4 then p.toNat
      else if f.flg = 1#4 then (if p = m then m.toNat else 0)
      else Mask.count (Mask.sub p (fun k => decide (k < l)))))

/-- The source lane of SHFL for a lane (R242). -/
def shflLane (t l b width : Nat) : Nat :=
  let base := l - l % width
  let o := l % width
  if t = 0 then base + b % width
  else if t = 1 then base + (o + b) % width
  else if t = 2 then base + (o + width - b % width) % width
  else base + (o ^^^ b) % width

/-- SHFL (R242): the emptiness of a in the source lanes stalls, or raises EMPTY_READ where a carries the mark. -/
def execShfl (f : FmtA3) (s : State) : Out :=
  issue (.shfl f) s (fun w m s =>
    let n := wordsI f.ty
    let from' (l : Nat) : Nat := shflLane f.flg.toNat l (w.src f.b 1 l) (w.src f.c 1 l)
    let src (p : Operand → Nat → Mask → Bool) : Option Nat := (Mask.lanes m).find? (fun l => p f.a n (Mask.single (from' l)))
    match src w.regs.empty with
    | some l => if f.mark.getLsbD 0 then .raise (w.mkRec cEmpty stReg l) s else .stay s
    | none =>
      if (src w.regs.busy).isSome then .stay s
      else match src w.regs.bad with
      | some l => .raise (w.mkRec cPoison stData l) s
      | none => .done (s.putWave s.cur (w.put f.dst n m (fun l => w.src f.a n (from' l)))))

/-- The launch of a wave's workgroup. -/
def State.launchOf (s : State) (w : Wave) : Option Launch :=
  match s.wgOf w with
  | some g => tget s.launches g.launch
  | none => none

/-- A special register of a wave in a lane (R223). In a supervisor wave, for which the spec gives no values, %core counts the
service cores from 320, %die is 8 or 9, and %wg, %wave and the launch's registers read 0 (log 54, DESIGN CHOICE). -/
def State.special (s : State) (w : Wave) (sel lane : Nat) : Nat :=
  let wg (f : Wg → Nat) : Nat := match s.wgOf w with
    | some g => f g
    | none => 0
  let la (f : Launch → Nat) : Nat := match s.launchOf w with
    | some l => f l
    | none => 0
  if sel = 0 then lane
  else if sel = 1 then w.num
  else if sel = 2 then wg (fun g => g.slot)
  else if sel = 3 then w.core
  else if sel = 4 then dieOf w.core
  else if sel = 5 then la (fun l => l.shx)
  else if sel = 6 then la (fun l => l.shy)
  else if sel = 7 then la (fun l => l.shz)
  else if sel = 8 then wg (fun g => g.x)
  else if sel = 9 then wg (fun g => g.y)
  else if sel = 10 then wg (fun g => g.z)
  else if sel = 11 then s.clock.toNat
  else if sel = 12 then w.fpflags.toNat
  else if sel = 13 then w.fpmode.toNat
  else if sel = 14 then w.svc
  else w.world

/-- SRD (R223, R244). -/
def execSrd (f : FmtX) (s : State) : Out :=
  issue (.srd f) s (fun w m s =>
    .done (s.putWave s.cur (w.put f.dst (if f.sel = 0xB#16 then 2 else 1) m (s.special w f.sel.toNat))))

/-- CLOCK (R245): it waits until no register of the wave is empty or waits for on-chip data, and then samples %clock. -/
def execClock (f : FmtX) (s : State) : Out :=
  issue (.clock f) s (fun w m s =>
    if m ≠ 0#32 ∧ (w.regs.vEmpty ≠ [] ∨ w.regs.sEmpty ≠ [] ∨ w.regs.vBusy ≠ [] ∨ w.regs.sBusy ≠ []) then .stay s
    else .done (s.putWave s.cur (w.put f.dst 2 m (fun _ => s.clock.toNat))))

end Sys2Proof.Machine
end

