-- ==== Sys2Proof/Machine/OnChip.lean ====
section
/-! DEFINITION. The on-chip spaces of a core: scratchpad granules and tags (R62), typed-buffer lines and tags (R70),
address formation (R24), and the cairn check of lane accesses (R72). -/

namespace Sys2Proof.Machine

/-- A run of bytes of a space (0 `w:`, 1 `a:`, 2 `c:`, 3 `l:`) holds a word with an uncorrectable error (R402). -/
def CoreSt.badAt (c : CoreSt) (sp a n : Nat) : Bool :=
  c.badWords.any (fun x => decide (x.1 = sp ∧ x.2 * 8 < a + n ∧ a < x.2 * 8 + 8))

/-- Words that a write covers whole are sound again (R402). -/
def CoreSt.mend (c : CoreSt) (sp a n : Nat) : CoreSt :=
  if c.badWords = [] then c
  else { c with badWords := c.badWords.filter (fun x => !decide (x.1 = sp ∧ a ≤ x.2 * 8 ∧ x.2 * 8 + 8 ≤ a + n)) }

/-- Reads scratchpad bytes at a physical offset: zero where the granule's V is clear (R62). -/
def CoreSt.lRead (c : CoreSt) (a n : Nat) : List Byte :=
  (List.range n).map (fun i =>
    match tget c.gran ((a + i) / 128) with
    | some g => if g.v then cget c.lmem (a + i) else 0#8
    | none => 0#8)

/-- Opens a granule for a first write: it is zero-filled and its V set (R62). -/
def CoreSt.lOpen (c : CoreSt) (k : Nat) : CoreSt :=
  let g := tgetD c.gran k { tag := 0, v := false }
  if g.v then c else { c.mend 3 (k * 128) 128 with lmem := czero c.lmem (k * 128) 128, gran := tset c.gran k { g with v := true } }

/-- Granules of 128 bytes that a run touches. -/
def granules (a n : Nat) : List Nat := if n = 0 then [] else (List.range ((a + n - 1) / 128 - a / 128 + 1)).map (· + a / 128)

/-- Writes scratchpad bytes at a physical offset (R62). -/
def CoreSt.lWrite (c : CoreSt) (a : Nat) (bs : List Byte) : CoreSt :=
  let c := (granules a bs.length).foldl CoreSt.lOpen c
  { c.mend 3 a bs.length with lmem := cwrite c.lmem a bs }

/-- Bytes of a typed buffer: 0 `w:`, 1 `a:`, 2 `c:` (R67). -/
def CoreSt.buf (c : CoreSt) (b : Nat) : Memory := if b = 0 then c.wbuf else if b = 1 then c.abuf else c.cbuf
/-- Line tags of a typed buffer (R70). -/
def CoreSt.tags (c : CoreSt) (b : Nat) : Tab LineTag := if b = 0 then c.wtag else if b = 1 then c.atag else c.ctag
/-- Replaces a typed buffer's bytes and tags. -/
def CoreSt.setBuf (c : CoreSt) (b : Nat) (m : Memory) (t : Tab LineTag) : CoreSt :=
  if b = 0 then { c with wbuf := m, wtag := t }
  else if b = 1 then { c with abuf := m, atag := t }
  else { c with cbuf := m, ctag := t }

/-- A line's tag; a line that nothing has written has V and S clear. -/
def CoreSt.tag (c : CoreSt) (b line : Nat) : LineTag := tgetD (c.tags b) line { v := false, s := false, swz := 0#3 }

/-- Reads typed-buffer bytes at a physical address: zero where the line's V is clear (R70). -/
def CoreSt.bRead (c : CoreSt) (b a n : Nat) : List Byte :=
  (List.range n).map (fun i => if (c.tag b ((a + i) / 512)).v then cget (c.buf b) (a + i) else 0#8)

/-- Marks a line written: the rest is zero-filled on the first write; a swizzle stamps it (R70). -/
def CoreSt.bOpen (swz : Option (BitVec 3)) (b : Nat) (c : CoreSt) (line : Nat) : CoreSt :=
  let t := c.tag b line
  let t' : LineTag := match swz with
    | some z => { v := true, s := true, swz := z }
    | none => { t with v := true }
  if t.v then c.setBuf b (c.buf b) (tset (c.tags b) line t')
  else (c.mend b (line * 512) 512).setBuf b (czero (c.buf b) (line * 512) 512) (tset (c.tags b) line t')

/-- Writes typed-buffer bytes at a physical address (R70). -/
def CoreSt.bWrite (c : CoreSt) (b a : Nat) (bs : List Byte) (swz : Option (BitVec 3)) : CoreSt :=
  let lines : List Nat :=
    if bs.length = 0 then [] else (List.range ((a + bs.length - 1) / 512 - a / 512 + 1)).map (· + a / 512)
  let c := lines.foldl (CoreSt.bOpen swz b) c
  (c.mend b a bs.length).setBuf b (cwrite (c.buf b) a bs) (c.tags b)

/-- Bytes of a typed buffer (R58). -/
def bufBytes (b : Nat) : Nat := if b = 0 then Config.wBytes else if b = 1 then Config.aBytes else Config.cBytes

/-! ### Cairn records (R67) -/

/-- A field of a cairn record. -/
def cairnField (r : BitVec 128) (lo len : Nat) : Nat := bits r.toNat lo len
/-- BUF, STATE, OWNER and the byte range of a record. -/
def cBuf (r : BitVec 128) : Nat := cairnField r 0 2
@[inherit_doc cBuf] def cState (r : BitVec 128) : Nat := cairnField r 2 3
@[inherit_doc cBuf] def cSwz (r : BitVec 128) : BitVec 3 := BitVec.ofNat 3 (cairnField r 5 3)
@[inherit_doc cBuf] def cFmt (r : BitVec 128) : Nat := cairnField r 8 4
@[inherit_doc cBuf] def cPlanes (r : BitVec 128) : Nat := cairnField r 12 7
@[inherit_doc cBuf] def cOwner (r : BitVec 128) : Nat := cairnField r 20 7
@[inherit_doc cBuf] def cBase (r : BitVec 128) : Nat := cairnField r 32 14 * 512
@[inherit_doc cBuf] def cLines (r : BitVec 128) : Nat := cairnField r 48 14 + 1
@[inherit_doc cBuf] def cKblk (r : BitVec 128) : Nat := cairnField r 64 8
@[inherit_doc cBuf] def cRows (r : BitVec 128) : Nat := cairnField r 72 13 + 1
@[inherit_doc cBuf] def cSoff (r : BitVec 128) : Nat := cairnField r 85 18 * 32
@[inherit_doc cBuf] def cToff (r : BitVec 128) : Nat := cairnField r 103 18 * 32

/-- A record's state replaced. -/
def cSetState (r : BitVec 128) (k : Nat) : BitVec 128 := BitVec.ofNat 128 (setBits r.toNat 2 3 k)

/-- The held record of a workgroup slot that wholly covers an access to a buffer (R72). -/
def CoreSt.covering (c : CoreSt) (slot b a n : Nat) : Option (BitVec 128) :=
  (c.cairns.find? (fun e => decide (cState e.2 = 1) && decide (cBuf e.2 = b) && decide (cOwner e.2 = slot)
    && decide (cBase e.2 ≤ a) && decide (a + n ≤ cBase e.2 + cLines e.2 * 512))).map (fun e => e.2)

/-! ### Addresses of lanes -/

/-- Runs a check in every lane of a list, in order: the first lane that meets a condition stops it (R26). -/
def formLanes {α : Type} (g : Nat → Except Cond α) : List Nat → Except (Nat × Cond) (List (Nat × α))
  | [] => .ok []
  | l :: t =>
    match g l with
    | .error c => .error (l, c)
    | .ok a =>
      match formLanes g t with
      | .error e => .error e
      | .ok r => .ok ((l, a) :: r)

/-- The signed immediate of a format M word (R19). -/
def immM (f : FmtM) : Int := f.imm.toInt

/-- Bytes of an access (R216). -/
def widthOf (f : FmtM) : Nat := 2 ^ f.width.toNat

/-- Base, index and immediate of an on-chip operand in a lane, summed exactly (R24). -/
def Wave.onChipSum (w : Wave) (f : FmtM) (lane : Nat) : Int :=
  (w.src f.base 1 lane : Nat) + (w.src f.index 1 lane : Nat) + immM f

/-- The address of an on-chip operand in a lane (R24). -/
def Wave.onChip (w : Wave) (f : FmtM) (size width lane : Nat) : Except Cond Nat :=
  let sum := w.onChipSum f lane
  if sum % (width : Int) ≠ 0 then .error { code := cAlign, step := stForm, addr := wrapN 64 sum }
  else if sum < 0 ∨ (size : Int) < sum + width then .error { code := cBounds, step := stForm, addr := wrapN 64 sum }
  else .ok sum.toNat

/-- The bytes of `l:` that a wave's workgroup holds. -/
def State.lSize (s : State) (w : Wave) : Nat :=
  match s.wgOf w with
  | some g => g.lsize
  | none => 0
/-- Physical offset of byte 0 of a wave's `l:` (R62). -/
def State.lBase (s : State) (w : Wave) : Nat :=
  match s.wgOf w with
  | some g => g.lbase
  | none => 0
/-- The workgroup slot of a wave; 96, which no record names, where it has no workgroup. -/
def State.slotOf (s : State) (w : Wave) : Nat :=
  match s.wgOf w with
  | some g => g.slot
  | none => 96

/-- A loaded value extended to its register width (R272). -/
def extend (signed : Bool) (bs : List Byte) : Nat :=
  let v := leNat bs
  if bs.length < 4 ∧ signed then wrapN 32 (sextN (8 * bs.length) v) else v

/-- Bytes of an on-chip space at a physical address: `b` is none for `l:`. -/
def CoreSt.chipRead (c : CoreSt) (b : Option Nat) (a n : Nat) : List Byte :=
  match b with
  | none => c.lRead a n
  | some k => c.bRead k a n

/-- Registers of a data operand of a width code (R271). -/
def dataWords (f : FmtM) : Nat := wordsM f.width

/-- The number a store writes from its data operand in a lane (R274). -/
def Wave.storeVal (w : Wave) (f : FmtM) (lane : Nat) : Nat :=
  match f.data with
  | .flt k =>
    (if f.width = 1#3 then f16 else if f.width = 2#3 then f32 else f64).encode (fltConst k.toNat)
  | o => w.src o (if widthOf f < 4 then 1 else dataWords f) lane

/-- The bytes a store writes in a lane. -/
def Wave.storeBytes (w : Wave) (f : FmtM) (lane : Nat) : List Byte := leBytes (widthOf f) (w.storeVal f lane)

end Sys2Proof.Machine
end

