-- ==== Sys2Proof/Machine/Order.lean ====
section
/-! DEFINITION. What accesses wait for: gates of acquires and sc accesses, releases, fences (R116 to R119, R126), the
store queue (R125), counters and deadlines (R102, R146, R147), parking (R95, R96). -/

namespace Sys2Proof.Machine

/-- Scope codes (R216). -/
def scDie : Nat := 3
@[inherit_doc scDie] def scDevice : Nat := 4
@[inherit_doc scDie] def scDomain : Nat := 5
@[inherit_doc scDie] def scSystem : Nat := 6

/-- The waves of a core that hold state in its store queues and loads. -/
def State.wavesOn (s : State) (core : Nat) : List Wave :=
  (s.waves.filter (fun e => decide (e.2.core = core))).map (fun e => e.2)

/-- A release waits for the entry: it is a wave's own store, or a write of an engine operation that a wait of the wave
has covered (R132, R151). -/
def QEntry.ordered (q : QEntry) : Bool := !q.engine || q.covered

/-- The stores of a wave have reached the die cache (R126, R132). -/
def Wave.storesOut (w : Wave) : Bool := w.storeQ.all (fun q => !q.ordered)

/-- The stores of the core have reached the die cache. -/
def State.queuesEmpty (s : State) (core : Nat) : Bool := (s.wavesOn core).all Wave.storesOut

/-- The wave has taken a value, or has come past what another wave has released: accesses of its core's waves up to now may
happen before its own later ones (R118, R119, R123). -/
def State.see (s : State) (id : Nat) : State := s.updWave id (fun w => { w with seen := s.nextId })

/-- The access of a stamp has taken its value: what it shows may happen before the wave's later stores, those that are queued
already among them (R122, R123). -/
def State.seeAt (s : State) (id stamp : Nat) : State :=
  (s.see id).updWave id (fun w => { w with
    storeQ := w.storeQ.map (fun q => if stamp < q.stamp then { q with after := s.nextId } else q) })

/-- The accesses before a release are performed as CLUSTER scope asks: those of its own wave, and those of its core's other waves
that were issued before its wave last saw one of them, since a release also orders what its wave has seen (R117, R123, R126; log
20, DEDUCED). -/
def State.performed (s : State) (id : Nat) (w : Wave) : Bool :=
  s.waves.all (fun e => decide (e.2.core ≠ w.core)
    || (if e.1 = id then e.2.storesOut && e.2.loads.isEmpty
        else e.2.storeQ.all (fun q => !q.ordered || decide (w.seen ≤ q.stamp)) && e.2.loads.all (fun l => decide (w.seen ≤ l.stamp))))

/-- The wave has a returning atomic in its queue. -/
def Wave.atomicsDue (w : Wave) : Bool := w.storeQ.any (fun q => match q.kind with
  | .atomic _ _ (some _) => true
  | _ => false)

/-- An entry of CINV or CCLEAN. -/
def QEntry.isClean (q : QEntry) : Bool := match q.kind with
  | .clean _ _ => true
  | _ => false

/-- A CINV or CCLEAN of the wave is not yet performed: a release at any scope waits for it (R283). -/
def Wave.cleanDue (w : Wave) : Bool := w.storeQ.any QEntry.isClean

/-- What a release event meets (R126). -/
inductive Rel where
  | ready
  | wait
  /-- A refused posted write stands before it (R382). -/
  | refused (r : FaultRec)

/-- A release of the wave orders a use of a line: its own, or one of its die that was made before it last saw a value, since a
release also orders what its wave has seen; not that of an engine operation that no wait has covered (R117, R126, R132; log 20,
DEDUCED). -/
def Wave.orders (w : Wave) (x : User) : Bool :=
  x.op.isNone && decide (dieOf x.core = dieOf w.core)
    && (decide (x.core = w.core ∧ x.wg = w.wg ∧ x.num = w.num) || decide (x.stamp ≤ w.seen))

/-- The lines that a release of the wave orders are confirmed as a scope needs it (R125, R126): at DEVICE scope by the dies and
hosts, at SYSTEM scope also by the CXL home of a kind-1 or kind-2 line. -/
def State.confirmed (s : State) (w : Wave) (scope : Nat) : Bool :=
  decide (scope < scDevice) || s.unconf.all (fun u => !u.users.any w.orders
    || (decide (scope < scSystem) && u.waiting.all (fun p => decide (p = 99))))

/-- The waits of a release at a scope (R126, R283). -/
def State.release (s : State) (id : Nat) (w : Wave) (scope : Nat) : Rel :=
  if scope < 2 then (if w.cleanDue then .wait else .ready)
  else
    if !(s.performed id w && s.confirmed w scope) then .wait
    else if scope < scDomain then .ready
    else match s.frozenCovered id w 3 0 with
      | some x => .refused (w.deferred x.2)
      | none => if w.cntOf 3 = 0 then .ready else .wait

/-- An acquire event's own act: at DOMAIN and SYSTEM scope the remote-marked lines of the world are dropped (R126,
R128). -/
def State.acquire (s : State) (w : Wave) (scope : Nat) : State :=
  if scDomain ≤ scope then s.dropRemote (dieOf w.core) w.world else s

/-- A fence's wait for the values of earlier loads and atomics (R117, R119). -/
def Wave.valuesIn (w : Wave) : Bool := w.loads.isEmpty && !w.atomicsDue

/-- What a wait before an access meets. -/
inductive Pass where
  | go (s : State)
  | wait
  | refused (r : FaultRec)

/-- FENCE.SC at a scope: it waits as a release and for earlier values, and then acts as an acquire (R119, R126). Fences that came
before it on the core happen before it, so that it waits for what was issued up to now. -/
def State.fenceSc (s : State) (id : Nat) (w : Wave) (scope : Nat) : Pass :=
  if !w.valuesIn then .wait
  else match s.release id { w with seen := s.nextId } scope with
    | .ready => .go ((s.acquire w scope).see id)
    | .wait => .wait
    | .refused r => .refused r

/-- The gates of a wave: an acquire still out holds every later access, a fence behind an sc store runs first (R119,
R126). -/
def State.passGates (s : State) (id : Nat) (w : Wave) : List Gate → Pass
  | [] => .go (s.updWave id (fun w => { w with gates := [] }))
  | .acquire _ _ :: _ => .wait
  | .fence scope :: t =>
    match s.fenceSc id w scope with
    | .go s' => s'.passGates id w t
    | p => p

/-- Takes an acquire's gate off: it acts once its value has returned (R126). -/
def State.openGate (s : State) (id stamp : Nat) : State :=
  match tget s.waves id with
  | none => s
  | some w =>
    match w.gates.find? (fun g => match g with
        | .acquire st _ => decide (st = stamp)
        | .fence _ => false) with
    | some (.acquire _ scope) =>
      (s.putWave id { w with gates := w.gates.filter (fun g => decide (g ≠ .acquire stamp scope)) }).acquire w scope
    | _ => s

/-- The waits before an access of an order and a scope, with the gates of earlier accesses (R116, R119, R126). -/
def State.before (s : State) (id : Nat) (w : Wave) (order scope : Nat) : Pass :=
  match (if w.gates = [] then .go s else s.passGates id w w.gates) with
  | .go s =>
    if order = 3 ∨ order = 4 then
      match s.release id w scope with
      | .ready => .go (if order = 4 then s.acquire w scope else s)
      | .wait => .wait
      | .refused r => .refused r
    else if order = 5 then s.fenceSc id w scope
    else if order = 2 then .go ((s.acquire w scope).see id)
    else .go s
  | p => p

/-- Runs an access once its waits are over. -/
def State.gated (s : State) (id : Nat) (w : Wave) (order scope : Nat) (k : Wave → State → Act) : Act :=
  match s.before id w order scope with
  | .go s => k (tgetD s.waves id w) s
  | .wait => .stay s
  | .refused r => .raise r s

/-- The budget of a service class in clocks (R103): units of 16 clk, 0 acts as 1. -/
def budgetOf (b : DWord) (cls : Nat) : Nat :=
  let u := bits b.toNat (16 * (cls % 4)) 16
  16 * (if u = 0 then 1 else u)

/-- The deadline stamp of a wave's request (R102). -/
def State.deadlineOf (s : State) (w : Wave) : Word :=
  if w.sup then BitVec.ofNat 32 (s.clock.toNat + 4096)
  else match s.launchOf w with
    | some l => BitVec.ofNat 32 (s.clock.toNat + budgetOf l.budget w.svc)
    | none => BitVec.ofNat 32 (s.clock.toNat + budgetOf (s.world w.world).budget w.svc)

/-- The stamp of a wave's lane accesses (R102, R106): a service-core access has class 0. -/
def State.stampOf (s : State) (w : Wave) : Stamp :=
  { cls := if w.sup then 0 else w.svc, core := w.core, index := if w.sup then 8 else w.svc, deadline := some (s.deadlineOf w)
    wg := w.wg, num := w.num }

/-- The counter of a class has room for `n` more operations (R147). -/
def Wave.room (w : Wave) (cls n : Nat) : Bool := decide (w.cntOf cls + n ≤ 63)

/-- A wave parks on missing units (R95, R96, R358). -/
def State.parkOn (s : State) (id : Nat) (w : Wave) (us : List MissUnit) : State :=
  let s := us.foldl (fun (s : State) u => s.joinPending (s.stampOf w) u) s
  s.leave id w (.park us)

/-- Address formation of a `g:` operand of a format M word in a lane (R25). -/
def State.formLane (s : State) (w : Wave) (f : FmtM) (useIndex : Bool) (width lane : Nat) : Except Cond GAddr :=
  s.formG w.world (w.src f.base 2 lane) ((if useIndex then sextN 32 (w.src f.index 1 lane) else 0) + immM f) width

/-- Translation of every lane's formed address (R78, R95). -/
def State.xlateFor (s : State) (w : Wave) (acc : Access) (l : List (Nat × GAddr)) : XAll :=
  s.xlateAll { w.path with who := s.stampOf w } acc w.denied l

/-- The address of a lane's access as a fault record holds it (R360). -/
def State.laneAddr (s : State) (l : List (Nat × GAddr)) (lane : Nat) : Nat :=
  match l.find? (fun x => decide (x.1 = lane)) with
  | some x => s.faultAddr x.2
  | none => 0

/-- Runs address formation and translation of a `g:` access in every active lane, in the order of R221: a condition is
raised, missing units park the wave, and else the access goes on with physical addresses (R26, R95); `k` also takes the address that a fault record names in a lane. -/
def State.access (s : State) (id : Nat) (w : Wave) (f : FmtM) (useIndex : Bool) (width : Nat) (acc : Access) (m : Mask)
    (k : (Nat → Nat) → List (Nat × Nat) → State → Act) : Act :=
  match formLanes (s.formLane w f useIndex width) (Mask.lanes m) with
  | .error e => .raise (w.recOf e.1 e.2) s
  | .ok l =>
    match s.xlateFor w acc l with
    | .cond lane c s' =>
      .raise (w.recOf lane { c with addr := s.laneAddr l lane }) (s'.updWave id (fun w => { w with denied := [] }))
    | .wait s => .stay s
    | .miss us s => .jump (s.parkOn id { w with denied := [] } us)
    | .ok pas s => k (s.laneAddr l) pas (s.updWave id (fun w => { w with denied := [] }))

/-- A queue entry of the core addresses a byte of a run. -/
def QEntry.touches (q : QEntry) (pa n : Nat) : Bool :=
  let w : Nat := match q.kind with
    | .atomic _ wd _ => wd
    | _ => 0
  q.lanes.any (fun l =>
    let len := if w = 0 then l.bytes.length else w
    decide (l.pa < pa + n) && decide (pa < l.pa + len))

/-- Some store queue of the core addresses a byte of a run. -/
def State.queued (s : State) (core pa n : Nat) : Bool :=
  (s.wavesOn core).any (fun w => w.storeQ.any (fun q => q.touches pa n))

/-- The newest store-queue entry of a core, below a stamp, that addresses a byte, with its highest such lane (R113, R125). -/
def State.newest (s : State) (core stamp a : Nat) : Option (QEntry × QLane) :=
  let qs := (s.wavesOn core).flatMap (fun w => w.storeQ)
  qs.foldl (fun (best : Option (QEntry × QLane)) q =>
    if stamp ≤ q.stamp then best
    else
      let n (l : QLane) : Nat := match q.kind with
        | .atomic _ wd _ => wd
        | _ => l.bytes.length
      match (q.lanes.filter (fun l => decide (l.pa ≤ a ∧ a < l.pa + n l))).getLast? with
      | none => best
      | some l => match best with
        | some b => if b.1.stamp < q.stamp then some (q, l) else best
        | none => some (q, l)) none

/-- A byte as the core's store queues give it: none where a load takes it from the die cache (R125). -/
def State.queueByte (s : State) (core stamp a : Nat) : Option Byte :=
  match s.newest core stamp a with
  | some (q, l) => (match q.kind with
      | .store => l.bytes[a - l.pa]?
      | _ => none)
  | none => none

/-- A CINV of the wave to a line is not yet performed: a later load of the wave fetches the line again (R283). -/
def Wave.cinvDue (w : Wave) (stamp line : Nat) : Bool :=
  w.storeQ.any (fun q => decide (q.stamp < stamp) && (match q.kind with
    | .clean ls true => ls.contains line
    | _ => false))

/-- The address at which a lane of a load still takes bytes: none once its value is known. -/
def LoadSrc.due : LoadSrc → Option Nat
  | .phys pa | .half pa _ _ | .away pa => some pa
  | _ => none

/-- The lane of a load takes bytes of a sector. -/
def LoadSrc.inSector (src : LoadSrc) (sec : Nat) : Bool := match src.due with
  | some pa => decide (pa / 64 = sec)
  | none => false

/-- A load of the core older than a stamp has still to take its value from a sector (R120, R123, R125). -/
def State.sectorLoads (s : State) (core stamp sec : Nat) : Bool :=
  (s.wavesOn core).any (fun w => w.loads.any (fun l => decide (l.stamp < stamp) && l.lanes.any (fun x => x.2.inSector sec)))

/-- On-chip data of a load of the core is still to be taken (R123). -/
def State.chipDue (s : State) (core : Nat) : Bool :=
  (s.wavesOn core).any (fun w => w.loads.any (fun l => l.lanes.any (fun x => match x.2 with
    | .chip _ _ => true
    | _ => false)))

/-- The die has a posted write to the sector that is not yet acknowledged (R127). -/
def State.sectorBusy (s : State) (die pa : Nat) : Bool :=
  s.fab.requests.any (fun e => e.2.posted && decide (e.2.die = die) && decide (e.2.addr / 64 = pa / 64))

/-- The data step of a read: the first lane that reads a poisoned line (R275, R387), with the state after the checks.
A line that a store of the core is about to write is not judged yet, and the access waits. -/
inductive DataCheck where
  | ok (s : State)
  | wait
  | poison (lane pa : Nat) (s : State)

/-- Checks the lines of every lane (R221, R387). -/
def State.dataCheck (s : State) (w : Wave) (n : Nat) : List (Nat × Nat) → DataCheck
  | [] => .ok s
  | (lane, pa) :: t =>
    let r := s.checkRead (some w.world) pa n
    if r.2 then
      if s.queued w.core (pa / 64 * 64) 64 then .wait else .poison lane pa r.1
    else r.1.dataCheck w n t

/-- The fault record of poison in a lane (R220). -/
def Wave.poisonRec (w : Wave) (lane addr : Nat) : FaultRec := w.mkRec cPoison stData lane addr

end Sys2Proof.Machine
end

