-- ==== Sys2Proof/Machine/Memory.lean ====
section
/-! DEFINITION. Loads, stores, atomics, LDG2L, prefetch, cache maintenance and fences (R270 to R284). A `g:` load is
issued here and takes its value at LOAD_VALUE_RETURN; a `g:` store or atomic enters the store queue here and is
performed at STORE_QUEUE_DRAIN (R125). -/

namespace Sys2Proof.Machine

/-! ### On-chip loads and stores -/

/-- The physical address of a wave's address in an on-chip space (R62). -/
def State.chipAt (s : State) (w : Wave) (b : Option Nat) (a : Nat) : Nat :=
  match b with
  | none => s.lBase w + a
  | some _ => a

/-- An on-chip access of a lane: its address in the space, checked by R24, R58 and, for a typed buffer, R72; a read also by
R402. `b` is none for `l:`. -/
def State.onChipLanes (s : State) (w : Wave) (b : Option Nat) (f : FmtM) (reads : Bool) (m : Mask) : Except (Nat × Cond) (List (Nat × Nat)) :=
  let width := widthOf f
  let size := match b with
    | none => s.lSize w
    | some k => bufBytes k
  match formLanes (fun l =>
      match b with
      | some _ =>
        if width < 4 then .error { code := cAlign, step := stForm, addr := wrapN 64 (w.onChipSum f l) }
        else w.onChip f size width l
      | none => w.onChip f size width l) (Mask.lanes m) with
  | .error e => .error e
  | .ok l =>
    let c := s.core w.core
    let bare : Option (Nat × Nat) := match b with
      | none => none
      | some k => l.find? (fun x => (c.covering (s.slotOf w) k x.2 width).isNone)
    let bad : Option (Nat × Nat) := if reads then l.find? (fun x => c.badAt (b.getD 3) (s.chipAt w b x.2) width) else none
    match bare with
    | some x => .error (x.1, { code := cCairn, step := stPerm, addr := x.2 })
    | none =>
      match bad with
      | some x => .error (x.1, { code := cPoison, step := stData, addr := x.2 })
      | none => .ok l

/-- LD from an on-chip space (R56, R272): the data lands after a fixed latency, and no full/empty bit is cleared. Behind
a load that has no value yet it waits, because the loads of a wave take their values in issue order (R123); then an
instruction that names its destination waits for the data, which is no empty register (R56). -/
def loadChip (i : Instr) (f : FmtM) (b : Option Nat) (signed : Bool) (s : State) : Out :=
  issueM i f s (fun w m s =>
    if m = 0#32 then .done s
    else s.gated s.cur w f.order.toNat f.scope.toNat (fun w s =>
      match s.onChipLanes w b f true m with
      | .error e => .raise (w.recOf e.1 e.2) s
      | .ok l =>
        let n := widthOf f
        if w.loads = [] then
          .done (s.putWave s.cur (w.put f.data (dataWords f) m (fun lane =>
            match l.find? (fun x => decide (x.1 = lane)) with
            | some x => extend signed ((s.core w.core).chipRead b (s.chipAt w b x.2) n)
            | none => 0)))
        else
          let op : LoadOp := { stamp := s.nextId, dst := f.data, width := n, signed := signed, inv := false, who := s.stampOf w
                               lanes := l.map (fun x => (x.1, .chip b (s.chipAt w b x.2))) }
          .done ((s.putWave s.cur { w with
            regs := w.regs.setBusy f.data (dataWords f) m, loads := w.loads ++ [op]
            gates := w.gates ++ (if f.order = 2#3 ∨ f.order = 5#3 then [.acquire s.nextId f.scope.toNat] else []) }).bump)))

/-- Writes on-chip bytes of the lanes, in lane order, so that the highest lane's value stands (R113). -/
def State.storeLanes (s : State) (w : Wave) (b : Option Nat) (f : FmtM) (l : List (Nat × Nat)) : State :=
  let c := l.foldl (fun (c : CoreSt) x =>
    let bs := w.storeBytes f x.1
    match b with
    | none => c.lWrite (s.lBase w + x.2) bs
    | some k => c.bWrite k x.2 bs (match c.covering (s.slotOf w) k x.2 bs.length with
        | some r => some (cSwz r)
        | none => none)) (s.core w.core)
  s.putCore w.core c

/-- ST to an on-chip space (R272, R273): an sc store is followed by a fence. It waits while on-chip data of an earlier load is
still to be taken (R120). -/
def storeChip (i : Instr) (f : FmtM) (b : Option Nat) (s : State) : Out :=
  issueM i f s (fun w m s =>
    if m = 0#32 then .done s
    else s.gated s.cur w (if f.order = 5#3 then 3 else f.order.toNat) f.scope.toNat (fun w s =>
      match s.onChipLanes w b f false m with
      | .error e => .raise (w.recOf e.1 e.2) s
      | .ok l =>
        if s.chipDue w.core then .stay s
        else
        let s := s.storeLanes w b f l
        .done (if f.order = 5#3 then
          s.updWave s.cur (fun w => { w with gates := w.gates ++ [.fence f.scope.toNat] })
        else s)))

/-- LD_SCRATCH (R272). -/
def execLdScratch (f : FmtM) (s : State) : Out := loadChip (.ldScratch f) f none false s
/-- LD_SCRATCH_SIGNED (R272). -/
def execLdScratchSigned (f : FmtM) (s : State) : Out := loadChip (.ldScratchSigned f) f none true s
/-- LD_WEIGHT (R272). -/
def execLdWeight (f : FmtM) (s : State) : Out := loadChip (.ldWeight f) f (some 0) false s
/-- LD_ACTIVATION (R272). -/
def execLdActivation (f : FmtM) (s : State) : Out := loadChip (.ldActivation f) f (some 1) false s
/-- LD_ACCUMULATOR (R272). -/
def execLdAccumulator (f : FmtM) (s : State) : Out := loadChip (.ldAccumulator f) f (some 2) false s
/-- ST_SCRATCH (R272). -/
def execStScratch (f : FmtM) (s : State) : Out := storeChip (.stScratch f) f none s
/-- ST_WEIGHT (R272). -/
def execStWeight (f : FmtM) (s : State) : Out := storeChip (.stWeight f) f (some 0) s
/-- ST_ACTIVATION (R272). -/
def execStActivation (f : FmtM) (s : State) : Out := storeChip (.stActivation f) f (some 1) s
/-- ST_ACCUMULATOR (R272). -/
def execStAccumulator (f : FmtM) (s : State) : Out := storeChip (.stAccumulator f) f (some 2) s

/-! ### Other nodes (R379 to R383, R423) -/

/-- The die's remote-marked copy that serves a read of another node (R128). -/
def State.remoteCopy (s : State) (die world pa n : Nat) : Option (List Byte) :=
  match s.cache.find? (fun c => c.remote && decide (c.die = die) && decide (c.world = world) && decide (c.line = pa / 128)) with
  | some c => c.data.map (fun d => (d.drop (pa % 128)).take n)
  | none => none

/-- Sends the requests of remote lanes, and makes the bundle wait for their answers (R423); one to a node with no route
is refused with POISON at once (R381). Lanes of a load that read one address share a request, and so one value (R113). -/
def State.holdFor (s : State) (id : Nat) (shared : Bool) (mk : Nat → Nat → Request) (l : List (Nat × Nat)) : State :=
  let r := l.foldl (fun (acc : State × List (Nat × Nat × Nat)) x =>
    match (if shared then acc.2.find? (fun h => decide (h.2.1 = x.2)) else none) with
    | some h => (acc.1, acc.2 ++ [(x.1, x.2, h.2.2)])
    | none =>
      let q := mk x.1 x.2
      let q := if s.routed (paNode x.2) then q else { q with answer := some (.refused (BitVec.ofNat 8 cPoison)) }
      (acc.1.send q, acc.2 ++ [(x.1, x.2, acc.1.nextId)])) (s, [])
  r.1.updWave id (fun w => { w with hold := r.2.map (fun h => (h.1, h.2.2)) })

/-- Ends a hold: the requests are done with. -/
def State.endHold (s : State) (id : Nat) : State :=
  match tget s.waves id with
  | none => s
  | some w =>
    { (s.putWave id { w with hold := [] }) with
      fab := { s.fab with requests := s.fab.requests.filter (fun e => !w.hold.any (fun h => decide (h.2 = e.1))) } }

/-- The answer of a held lane. -/
def State.answerOf (s : State) (w : Wave) (lane : Nat) : Option RemoteAns :=
  match w.hold.find? (fun h => decide (h.1 = lane)) with
  | some h => match tget s.fab.requests h.2 with
    | some r => r.answer
    | none => none
  | none => none

/-- The lowest refused lane of a hold, with its code (R382, R423). -/
def State.refusedLane (s : State) (w : Wave) : Option (Nat × Nat) :=
  (w.hold.map (fun h => (h.1, s.answerOf w h.1))).findSome? (fun x => match x.2 with
    | some (.refused c) => some (x.1, c.toNat)
    | _ => none)

/-- What the remote lanes of a load meet. -/
inductive Remote where
  /-- Bytes of every remote lane are at hand. -/
  | have (l : List (Nat × List Byte)) (s : State)
  /-- The access waits. -/
  | wait (s : State)
  /-- Requests have gone out, and hold the bundle. -/
  | held (s : State)
  | raise (r : FaultRec) (s : State)

/-- The bytes of a run as far as the core's store queues give them (R125). -/
def State.queueRun (s : State) (core pa n : Nat) : List (Option Byte) := (List.range n).map (fun i => s.queueByte core s.nextId (pa + i))

/-- The remote lanes of a load, from the core's store queues, from the die's copies, or over the fabric (R125, R127, R128,
R283, R381, R423). Where one lane needs the fabric, every lane asks there, so that lanes of one load agree (R113). Older loads of
the core from the same sector come first (R120, R123). -/
def State.remoteLoad (s : State) (id : Nat) (w : Wave) (n : Nat) (fa : Nat → Nat) (l : List (Nat × Nat)) : Remote :=
  let die := dieOf w.core
  let run (x : Nat × Nat) : Option (List Byte) := (s.queueRun w.core x.2 n).mapM (fun b => b)
  if !w.hold.isEmpty then
    if !s.answered w then .wait s
    else match s.refusedLane w with
      | some x => .raise (w.mkRec x.2 (codeStep x.2) x.1 (fa x.1)) (s.endHold id)
      | none =>
        let got (x : Nat × Nat) : Option (List Byte) := match s.answerOf w x.1 with
          | some (.value bs) => some bs
          | _ => run x
        -- bytes that a store queue held when the others were asked for have been sent since: the access asks again
        if l.any (fun x => (got x).isNone) then .wait (s.endHold id)
        else .have (l.map (fun x => (x.1, (got x).getD []))) (s.endHold id)
  else if l.any (fun x => (s.sectorBusy die x.2 && (run x).isNone) || w.cinvDue s.nextId (x.2 / 128)
      || (s.queued w.core x.2 n && (run x).isNone) || s.sectorLoads w.core s.nextId (x.2 / 64)) then .wait s
  else
    let due := l.filter (fun x => (run x).isNone)
    if due.all (fun x => (s.remoteCopy die w.world x.2 n).isSome) then
      .have (l.map (fun x => (x.1, (run x).getD ((s.remoteCopy die w.world x.2 n).getD [])))) s
    else
      .held (s.holdFor id true (fun lane pa =>
        { wave := id, world := w.world, lane := lane, va := 0, die := die, addr := pa, width := n
          install := true, answer := none, op := none, posted := false, sent := s.clock.toNat, bytes := []
          atomic := none }) due)

/-! ### `g:` loads and stores -/

/-- The byte lies in the device-private region (R87). -/
def State.inPrivate (s : State) (pa : Nat) : Bool := decide (s.privBase ≤ pa ∧ pa < s.dramBytes)

/-- Requests to DRAM for the sectors of lanes that the die cache does not hold (R102). -/
def State.fillRequests (s : State) (w : Wave) (l : List (Nat × Nat)) : State :=
  (dedupN (l.map (fun x => x.2 / 64))).foldl (fun (s : State) sec => s.fill (dieOf w.core) w.world (sec * 64) (s.stampOf w)) s

/-- A load issues: its destination is emptied and it joins the wave's outstanding loads (R55, R272). -/
def State.issueLoad (s : State) (id : Nat) (w : Wave) (op : LoadOp) (words : Nat) (m : Mask) (gate : Option Nat) : State :=
  (s.putWave id { w with
    regs := w.regs.clearFull op.dst words m
    loads := w.loads ++ [op]
    gates := w.gates ++ (match gate with
      | some scope => [.acquire op.stamp scope]
      | none => []) }).bump

/-- A load holds its bundle: its destination is empty from its issue on (R55, R423). -/
def State.emptyDst (s : State) (id : Nat) (o : Operand) (words : Nat) (m : Mask) : State :=
  s.updWave id (fun w => { w with regs := w.regs.clearFull o words m })

/-- A load that held its bundle has met a condition: the full/empty bits are as before it (R423). -/
def State.refillDst (s : State) (id : Nat) (o : Operand) (words : Nat) (m : Mask) : State :=
  s.updWave id (fun w => { w with regs := (Mask.lanes m).foldl (fun g l => g.setFull o words l) w.regs })

/-- The load that holds a bundle is over: it takes its place among the outstanding loads of the wave, with what other nodes have
answered, or goes with its gate (R423). -/
def State.closeLoad (s : State) (id : Nat) (w : Wave) (keep : Bool) : State :=
  let fill (x : Nat × LoadSrc) : Nat × LoadSrc := match x.2 with
    | .away _ => (x.1, .known (match s.answerOf w x.1 with
        | some (.value bs) => bs
        | _ => []))
    | _ => x
  let loads := w.loads.filterMap (fun l =>
    if !l.held then some l else if keep then some { l with held := false, lanes := l.lanes.map fill } else none)
  let gates := if keep then w.gates else w.gates.filter (fun g => match g with
    | .acquire st _ => !w.loads.any (fun l => l.held && decide (l.stamp = st))
    | .fence _ => true)
  (s.endHold id).updWave id (fun w => { w with loads := loads, gates := gates })

/-- The end of a hold of LD (R423): with every lane answered, the lowest refused lane is ranked with the poison of local lanes by
R221; without either, the load goes on. -/
def State.endLoad (s : State) (id : Nat) (w : Wave) (f : FmtM) (m : Mask) : Act :=
  match w.loads.find? (fun l => l.held) with
  | none => .stay (s.endHold id)
  | some op =>
    if !s.answered w then .stay s
    else
      let va (lane : Nat) : Nat := match s.formLane w f true op.width lane with
        | .ok g => s.faultAddr g
        | .error c => c.addr
      let stop (s : State) : State := (s.closeLoad id w false).refillDst id f.data (dataWords f) m
      match s.dataCheck w op.width (op.lanes.filterMap (fun x => match x.2 with
        | .phys pa => some (x.1, pa)
        | _ => none)), s.refusedLane w with
      | .wait, _ => .stay s
      | .ok s, none => .done (s.closeLoad id w true)
      | .ok s, some x => .raise (w.mkRec x.2 (codeStep x.2) x.1 (va x.1)) (stop s)
      | .poison lane _ s, none => .raise (w.poisonRec lane (va lane)) (stop s)
      | .poison lane _ s, some x =>
        .raise (if codeStep x.2 < stData ∨ x.1 < lane then w.mkRec x.2 (codeStep x.2) x.1 (va x.1) else w.poisonRec lane (va lane)) (stop s)

/-- LD from `g:` (R26, R95, R112, R272, R275, R423). Lanes to other nodes wait for the earlier loads of the wave, and stand
among its loads from the request on (R123). `view` reads the device-private region (log 18, DESIGN CHOICE). -/
def loadG (i : Instr) (f : FmtM) (signed : Bool) (view : State → Nat → Nat → Option (List Byte)) (s : State) : Out :=
  issueM i f s (fun w m s =>
    let n := widthOf f
    let words := dataWords f
    if m = 0#32 then .done s
    else if !w.hold.isEmpty then s.endLoad s.cur w f m
    else s.gated s.cur w f.order.toNat f.scope.toNat (fun w s =>
      s.access s.cur w f true n .load m (fun fa pas s =>
        let w := tgetD s.waves s.cur w
        let rem := pas.filter (fun x => s.isRemote x.2)
        let loc := pas.filter (fun x => !s.isRemote x.2)
        let gate := if f.order = 2#3 ∨ f.order = 5#3 then some f.scope.toNat else none
        let load (s : State) (w : Wave) (held : Bool) (bs : List (Nat × List Byte)) : LoadOp :=
          { stamp := s.nextId, dst := f.data, width := n, signed := signed, inv := f.order == 1#3, who := s.stampOf w, held := held
            lanes := pas.map (fun x => (x.1, match bs.find? (fun b => decide (b.1 = x.1)) with
              | some b => .known b.2
              | none => if s.isRemote x.2 then .away x.2
                else (match (if w.sup && s.inPrivate x.2 then view s x.2 n else none) with
                  | some b => .known b
                  | none => .phys x.2))) }
        if rem ≠ [] ∧ w.loads ≠ [] then .stay s
        else if w.sup && loc.any (fun x => s.inPrivate x.2 && s.queued w.core x.2 n) then .stay s
        else match s.remoteLoad s.cur w n fa rem with
        | .wait s => .stay s
        | .raise r s => .raise r s
        | .held s =>
          let w := tgetD s.waves s.cur w
          let queued := rem.filterMap (fun x => ((s.queueRun w.core x.2 n).mapM (fun b => b)).map (fun bs => (x.1, bs)))
          .jump ((s.fillRequests w loc).issueLoad s.cur w (load s w true queued) words m gate)
        | .have bs s =>
          match s.dataCheck w n loc with
          | .wait => .stay s
          | .poison lane _ s => .raise (w.poisonRec lane (fa lane)) s
          | .ok s =>
            let w := tgetD s.waves s.cur w
            let s := s.fillRequests w loc
            .done (s.issueLoad s.cur w (load s w false bs) words m gate))))

/-- Room in the store queue (R125). -/
def Wave.queueRoom (w : Wave) : Bool := decide ((w.storeQ.filter (fun q => !q.engine)).length < Config.storeQueueLen)

/-- The remote-class operation of a posted store or RED (R127, R146), under the next number. -/
def State.countPosted (s : State) (id : Nat) (w : Wave) (n : Nat) : State :=
  let op : EngOp :=
    { kind := .posted, wave := id, wg := w.wg, num := w.num, core := w.core, world := w.world, lane := Mask.first w.bundleMask
      cls := 3, seq := w.seqOf 3, svc := w.svc, deadline := s.deadlineOf w, blockAddr := 0#64, blockLen := 0
      block := [], progress := 0, state := .run, flags := 0#7, args := [], lanes := [], dests := [], cairns := []
      amax := 0#64, unacked := n, denied := [], cover := [], lines := [], unfold := none, noPages := [] }
  ((s.putOp s.nextId op).putWave id (w.count 3 1)).bump

/-- The lanes of an entry without those that post bytes which a higher lane overwrites: no other party sees them (R113). -/
def shownLanes (kind : QKind) (lanes : List QLane) : List QLane :=
  match kind with
  | .store => lanes.filter (fun l => !l.posted || !lanes.any (fun k => decide (l.lane < k.lane ∧ l.pa = k.pa)))
  | _ => lanes

/-- A store or RED joins the store queue (R125, R127): entries with lanes to other nodes count as posted. Beyond the cut of R393 what
is bound for the host is dropped. -/
def State.enqueue (s : State) (id : Nat) (w : Wave) (kind : QKind) (lanes : List QLane) (gates : List Gate) (unit : Nat := 8) : State :=
  let lanes := (shownLanes kind lanes).filter (fun l => !s.cutOff w.world l.pa)
  let n := (lanes.filter (fun l => l.posted)).length
  let opId := s.nextId
  let s := if n = 0 then s.putWave id w else s.countPosted id w n
  let w := tgetD s.waves id w
  let q : QEntry := { stamp := s.nextId, kind := kind, lanes := lanes
                      remoteOp := if n = 0 then none else some opId, engine := false, whole := [], who := s.stampOf w
                      after := w.seen, unit := unit }
  (s.putWave id { w with storeQ := w.storeQ ++ [q], gates := w.gates ++ gates }).bump

/-- The store queue and, for lanes to other nodes, the remote counter have room (R125, R127). -/
def State.storeRoom (s : State) (w : Wave) (pas : List (Nat × Nat)) : Bool :=
  w.queueRoom && (!pas.any (fun x => s.isRemote x.2) || w.room 3 1)

/-- ST to `g:` (R272, R273, R275). -/
def storeG (i : Instr) (f : FmtM) (s : State) : Out :=
  issueM i f s (fun w m s =>
    if m = 0#32 then .done s
    else s.gated s.cur w (if f.order = 5#3 then 3 else f.order.toNat) f.scope.toNat (fun w s =>
      if !w.queueRoom then .stay s
      else s.access s.cur w f true (widthOf f) .store m (fun fa pas s =>
        let w := tgetD s.waves s.cur w
        if !s.storeRoom w pas then .stay s
        else
          let lanes : List QLane := pas.map (fun x =>
            { lane := x.1, pa := x.2, bytes := w.storeBytes f x.1, b := 0#64, cmp := 0#64
              posted := s.isRemote x.2, va := fa x.1 })
          let s := s.fillRequests w (pas.filter (fun x => !s.isRemote x.2))
          .done (s.enqueue s.cur w .store lanes (if f.order = 5#3 then [.fence f.scope.toNat] else [])))))

/-- ST_GLOBAL (R272). -/
def execStGlobal (f : FmtM) (s : State) : Out := storeG (.stGlobal f) f s

/-! ### Atomics -/

/-- The new value of an atomic (R277, R279); none writes nothing. `W` is its width in bits. -/
def atomNew (op : AtomOp) (W m b cmp : Nat) : Option Nat :=
  let f := if W = 64 then f64 else f32
  match op with
  | .add => some ((m + b) % 2 ^ W)
  | .min => some (if sextN W b < sextN W m then b else m)
  | .minu => some (if b < m then b else m)
  | .max => some (if sextN W m < sextN W b then b else m)
  | .maxu => some (if m < b then b else m)
  | .and => some (m &&& b)
  | .or => some (m ||| b)
  | .xor => some (m ^^^ b)
  | .exch => some b
  | .cas => if m = cmp then some b else none
  | .inc => some (if b ≤ m then 0 else m + 1)
  | .dec => some (if m = 0 ∨ b < m then b else m - 1)
  | .fadd => some (fAdd f .rne (f.decode m) (f.decode b)).1
  | .fmin => some (fMinMax f false true m b).1
  | .fmax => some (fMinMax f true true m b).1

/-- The operand b of an atomic in a lane, with the comparand of cas (R277, R279). -/
def Wave.atomOperand (w : Wave) (op : AtomOp) (o : Operand) (words lane : Nat) : Nat × Nat :=
  match op with
  | .cas =>
    let g := w.src o (2 * words) lane
    (g / 2 ^ (32 * words), g % 2 ^ (32 * words))
  | .fadd | .fmin | .fmax => (w.fsrc o (if words = 2 then 3 else 2) lane, 0)
  | .exch => (match o with
      | .flt k => (if words = 2 then f64 else f32).encode (fltConst k.toNat)
      | _ => w.src o words lane, 0)
  | _ => (w.src o words lane, 0)

/-- The queue lanes of an atomic: those to other nodes are posted by a RED, and away at once for an ATOM. -/
def State.atomLanes (s : State) (w : Wave) (op : AtomOp) (o : Operand) (words : Nat) (fa : Nat → Nat)
    (pas : List (Nat × Nat)) (ret : Bool := false) : List QLane :=
  pas.map (fun x =>
    let b := w.atomOperand op o words x.1
    { lane := x.1, pa := x.2, bytes := [], b := BitVec.ofNat 64 b.1, cmp := BitVec.ofNat 64 b.2
      posted := s.isRemote x.2 && !ret, va := fa x.1, away := s.isRemote x.2 && ret })

/-- Gates behind an atomic of an order (R119). -/
def atomGates (order scope stamp : Nat) : List Gate :=
  if order = 5 then [.acquire stamp scope, .fence scope]
  else if order = 2 ∨ order = 4 then [.acquire stamp scope]
  else []

/-- Drops the die's remote-marked copies of the lines of an atomic's remote lanes (R128). -/
def State.dropLines (s : State) (die world : Nat) (l : List (Nat × Nat)) : State :=
  s.dropRemoteIf die world (fun line => l.any (fun x => decide (x.2 / 128 = line)))

/-- The lanes for which the ATOM of the bundle replays (R423). -/
def Wave.replayMask (w : Wave) : Option Mask :=
  match w.replay with
  | some r => if r &&& w.bundleMask = 0#32 then none else some r
  | none => none

/-- The replay of the bundle's ATOM is over. -/
def Wave.endReplay (w : Wave) : Wave := if w.replayMask.isSome then { w with replay := none } else w

/-- The lanes of an ATOM that have gone to other nodes leave its store-queue entry; with none left it is done (R126, R423). -/
def State.homeAtom (s : State) (id : Nat) : State :=
  match tget s.waves id with
  | none => s
  | some w =>
    match w.storeQ.find? (fun q => q.lanes.any (fun l => l.away)) with
    | none => s
    | some q =>
      let rest := q.lanes.filter (fun l => !l.away)
      let s := s.updWave id (fun w => { w with storeQ := w.storeQ.filterMap (fun p =>
        if p.stamp = q.stamp then (if rest.isEmpty then none else some { p with lanes := rest }) else some p) })
      let s := s.seeAt id q.stamp
      if rest.isEmpty then s.openGate id q.stamp else s

/-- The end of a remote ATOM's hold (R423): answered lanes are filled; with refused lanes, the condition of the lowest
is delivered with its address, and with the mask of all of them in RESTART. -/
def State.endAtom (s : State) (id : Nat) (w : Wave) (f : FmtM) : Act :=
  if !s.answered w then .stay s
  else
    let words := wordsM f.width
    let regs := w.hold.foldl (fun (g : Regs) h =>
      (match s.answerOf w h.1 with
      | some (.value bs) => g.writeLane f.data words h.1 (leNat bs)
      | _ => g).setFull f.data words h.1) w.regs
    let bad := Mask.ofPred (fun l => match s.answerOf w l with
      | some (.refused _) => true
      | _ => false)
    let va (l : Nat) : Nat := match w.hold.find? (fun h => decide (h.1 = l)) with
      | some h => ((tget s.fab.requests h.2).map (fun r => r.va)).getD 0
      | none => 0
    let s' := ((s.endHold id).updWave id (fun w => { w with regs := regs }.endReplay)).homeAtom id
    match s.refusedLane w with
    | some x => .raise { w.mkRec x.2 (codeStep x.2) x.1 (va x.1) with restart := bad }
        (if w.asideDue then s'.updWave id (fun w => { w with replay := some bad }) else s')
    | none => .done s'

/-- ATOM (R278): it joins the store queue; local lanes return when it drains, and remote lanes are sent at once and hold the
bundle, after every earlier store of the wave, and after every earlier load has its value (R122, R125, R423). -/
def atomG (i : Instr) (op : AtomOp) (f : FmtM) (s : State) : Out :=
  issueM i f s (fun w m0 s =>
    let m := match w.replayMask with
      | some r => m0 &&& r
      | none => m0
    if !w.hold.isEmpty then s.endAtom s.cur w f
    else if m = 0#32 then .done (s.updWave s.cur Wave.endReplay)
    else s.gated s.cur w f.order.toNat f.scope.toNat (fun w s =>
      if !w.queueRoom then .stay s
      else s.access s.cur w f false (widthOf f) .atomic m (fun fa pas s =>
        let n := widthOf f
        let words := wordsM f.width
        let rem := pas.filter (fun x => s.isRemote x.2)
        let loc := pas.filter (fun x => !s.isRemote x.2)
        match s.dataCheck w n loc with
        | .wait => .stay s
        | .poison lane _ s => .raise (w.poisonRec lane (fa lane)) s
        | .ok s =>
          let w := tgetD s.waves s.cur w
          if rem ≠ [] && (!w.storesOut || !w.loads.isEmpty || rem.any (fun x =>
              s.queued w.core x.2 n || s.sectorBusy (dieOf w.core) x.2 || s.sectorLoads w.core s.nextId (x.2 / 64))) then .stay s
          else
            let s := s.fillRequests w loc
            let w' := { w with regs := w.regs.clearFull f.data words m }
            let s' := s.enqueue s.cur w' (.atomic op n (some f.data)) (s.atomLanes w op f.index words fa pas true)
              (atomGates f.order.toNat f.scope.toNat s.nextId)
            if rem.isEmpty then .done (s'.updWave s.cur Wave.endReplay)
            else
              let s' := s'.dropLines (dieOf w.core) w.world rem
              .jump (s'.holdFor s.cur false (fun lane pa =>
                let b := w.atomOperand op f.index words lane
                { wave := s.cur, world := w.world, lane := lane, va := fa lane, die := dieOf w.core, addr := pa, width := n
                  install := false, answer := none, op := none, posted := false, sent := s.clock.toNat
                  bytes := leBytes 8 b.1 ++ leBytes 8 b.2, atomic := some op }) rem))))

/-- RED (R278). -/
def redG (i : Instr) (op : AtomOp) (f : FmtM) (s : State) : Out :=
  issueM i f s (fun w m s =>
    if m = 0#32 then .done s
    else s.gated s.cur w f.order.toNat f.scope.toNat (fun w s =>
      if !w.queueRoom then .stay s
      else s.access s.cur w f true (widthOf f) .atomic m (fun fa pas s =>
        let loc := pas.filter (fun x => !s.isRemote x.2)
        match s.dataCheck w (widthOf f) loc with
        | .wait => .stay s
        | .poison lane _ s => .raise (w.poisonRec lane (fa lane)) s
        | .ok s =>
          let w := tgetD s.waves s.cur w
          if !s.storeRoom w pas then .stay s
          else
            let s := (s.fillRequests w loc).dropLines (dieOf w.core) w.world (pas.filter (fun x => s.isRemote x.2))
            .done (s.enqueue s.cur w (.atomic op (widthOf f) none)
              (s.atomLanes w op f.data (wordsM f.width) fa pas) []))))

/-- ATOM_ADD (R278). -/
def execAtomAdd (f : FmtM) (s : State) : Out := atomG (.atomAdd f) .add f s
/-- ATOM_MIN (R278). -/
def execAtomMin (f : FmtM) (s : State) : Out := atomG (.atomMin f) .min f s
/-- ATOM_MIN_UNSIGNED (R278). -/
def execAtomMinUnsigned (f : FmtM) (s : State) : Out := atomG (.atomMinUnsigned f) .minu f s
/-- ATOM_MAX (R278). -/
def execAtomMax (f : FmtM) (s : State) : Out := atomG (.atomMax f) .max f s
/-- ATOM_MAX_UNSIGNED (R278). -/
def execAtomMaxUnsigned (f : FmtM) (s : State) : Out := atomG (.atomMaxUnsigned f) .maxu f s
/-- ATOM_AND (R278). -/
def execAtomAnd (f : FmtM) (s : State) : Out := atomG (.atomAnd f) .and f s
/-- ATOM_OR (R278). -/
def execAtomOr (f : FmtM) (s : State) : Out := atomG (.atomOr f) .or f s
/-- ATOM_XOR (R278). -/
def execAtomXor (f : FmtM) (s : State) : Out := atomG (.atomXor f) .xor f s
/-- ATOM_EXCH (R278). -/
def execAtomExch (f : FmtM) (s : State) : Out := atomG (.atomExch f) .exch f s
/-- ATOM_CAS (R279). -/
def execAtomCas (f : FmtM) (s : State) : Out := atomG (.atomCas f) .cas f s
/-- ATOM_INC (R278). -/
def execAtomInc (f : FmtM) (s : State) : Out := atomG (.atomInc f) .inc f s
/-- ATOM_DEC (R278). -/
def execAtomDec (f : FmtM) (s : State) : Out := atomG (.atomDec f) .dec f s
/-- ATOM_FADD (R278). -/
def execAtomFadd (f : FmtM) (s : State) : Out := atomG (.atomFadd f) .fadd f s
/-- ATOM_FMIN (R278). -/
def execAtomFmin (f : FmtM) (s : State) : Out := atomG (.atomFmin f) .fmin f s
/-- ATOM_FMAX (R278). -/
def execAtomFmax (f : FmtM) (s : State) : Out := atomG (.atomFmax f) .fmax f s
/-- RED_ADD (R278). -/
def execRedAdd (f : FmtM) (s : State) : Out := redG (.redAdd f) .add f s
/-- RED_MIN (R278). -/
def execRedMin (f : FmtM) (s : State) : Out := redG (.redMin f) .min f s
/-- RED_MIN_UNSIGNED (R278). -/
def execRedMinUnsigned (f : FmtM) (s : State) : Out := redG (.redMinUnsigned f) .minu f s
/-- RED_MAX (R278). -/
def execRedMax (f : FmtM) (s : State) : Out := redG (.redMax f) .max f s
/-- RED_MAX_UNSIGNED (R278). -/
def execRedMaxUnsigned (f : FmtM) (s : State) : Out := redG (.redMaxUnsigned f) .maxu f s
/-- RED_AND (R278). -/
def execRedAnd (f : FmtM) (s : State) : Out := redG (.redAnd f) .and f s
/-- RED_OR (R278). -/
def execRedOr (f : FmtM) (s : State) : Out := redG (.redOr f) .or f s
/-- RED_XOR (R278). -/
def execRedXor (f : FmtM) (s : State) : Out := redG (.redXor f) .xor f s
/-- RED_INC (R278). -/
def execRedInc (f : FmtM) (s : State) : Out := redG (.redInc f) .inc f s
/-- RED_DEC (R278). -/
def execRedDec (f : FmtM) (s : State) : Out := redG (.redDec f) .dec f s
/-- RED_FADD (R278). -/
def execRedFadd (f : FmtM) (s : State) : Out := redG (.redFadd f) .fadd f s
/-- RED_FMIN (R278). -/
def execRedFmin (f : FmtM) (s : State) : Out := redG (.redFmin f) .fmin f s
/-- RED_FMAX (R278). -/
def execRedFmax (f : FmtM) (s : State) : Out := redG (.redFmax f) .fmax f s

/-! ### LDG2L, prefetch, cache maintenance, fences -/

/-- LDG2L (R280): address formation of both addresses is precise; one gather operation does the rest. -/
def execLdg2l (f : FmtM) (s : State) : Out :=
  issueM (.ldg2l f) f s (fun w m s =>
    if m = 0#32 then .done s
    else s.gated s.cur w 0 0 (fun w s =>
      let n := widthOf f
      let lAddr (l : Nat) : Except Cond Nat :=
        let a := w.src f.data 1 l
        if a % n ≠ 0 then .error { code := cAlign, step := stForm, addr := a }
        else if s.lSize w < a + n then .error { code := cBounds, step := stForm, addr := a }
        else .ok a
      match formLanes (fun l => match lAddr l, s.formLane w f true n l with
          | .error c, _ => .error c
          | .ok _, .error c => .error c
          | .ok a, .ok g => .ok (a, BitVec.ofNat 64 (s.faultAddr g))) (Mask.lanes m) with
      | .error e => .raise (w.recOf e.1 e.2) s
      | .ok l =>
        if !w.storesOut ∨ !w.room 2 1 ∨ s.chipDue w.core then .stay s
        else
          let op : EngOp :=
            { kind := .ldg2l, wave := s.cur, wg := w.wg, num := w.num, core := w.core, world := w.world, lane := Mask.first m
              cls := 2, seq := w.seqOf 2, svc := w.svc, deadline := s.deadlineOf w, blockAddr := 0#64
              blockLen := 0, block := [], progress := 0, state := .run, flags := 0#7, args := [n]
              lanes := l.map (fun x => (x.1, x.2.1, x.2.2)), dests := [], cairns := [], amax := 0#64, unacked := 0
              denied := [], cover := [], lines := [], unfold := none, noPages := [] }
          .done (((s.putOp s.nextId op).putWave s.cur (w.count 2 1)).bump)))

/-- What PREFETCH does for one lane (R281): nothing that a program can see but the line in the die cache, a migration
or a fetch that starts. With intent to write, the address is judged as a store's would be, and the other dies' copies of the
line are invalidated before its first store (log 53, DEDUCED); no D is set. For a departed object nothing starts: R281 names the object's
pages alone (log 53, DESIGN CHOICE). -/
def State.prefetchLane (s : State) (id : Nat) (w : Wave) (f : FmtM) (lane : Nat) : State :=
  let die := dieOf w.core
  let wr := f.width == 1#3
  let dark (x : XRes) : Bool := match x with
    | .cond _ _ => true
    | _ => false
  match s.formLane w f true 1 lane with
  | .error _ => s
  | .ok g =>
    if wr && dark (s.xlate w.path g .store []) then s
    else match s.xlate w.path g .load [] with
    | .cond _ _ | .wait _ => s
    | .miss (.tier a r p) s' => s'.joinPending (s.stampOf w) (.tier a r p)
    | .miss (.objPage h p) s' => s'.joinPending (s.stampOf w) (.objPage h p)
    | .miss _ _ => s
    | .ok pa s' =>
      let line := pa / 128
      if s'.isRemote pa then
        if (s'.remoteCopy die w.world pa 1).isSome || !s'.routed (paNode pa) then s'
        else s'.send { wave := id, world := w.world, lane := lane, va := 0, die := die, addr := line * 128, width := 128
                       install := true, answer := none, op := none, posted := false, sent := s.clock.toNat, bytes := []
                       atomic := none }
      else
        let s' := ((s'.fillRequests w [(lane, line * 128), (lane, line * 128 + 64)]).cacheRead die w.world (line * 128) 128 none
          (s.stampOf w)).1
        if wr then s'.grant (some die) w.world (s.stampOf w) line 0#2 else s'

/-- PREFETCH (R281): it never raises a condition and never parks. -/
def execPrefetch (f : FmtM) (s : State) : Out :=
  issueM (.prefetch f) f s (fun w m s =>
    .done ((Mask.lanes m).foldl (fun (s : State) l => s.prefetchLane s.cur w f l) s))

/-- The lines of CINV's and CCLEAN's targets (R282): the line of the address, or the 512 lines of its 64 KiB page. -/
def cleanLines (page : Bool) (pa : Nat) : List Nat :=
  if page then (List.range 512).map (fun i => pa / 65536 * 512 + i) else [pa / 128]

/-- Translates the addresses of CINV and CCLEAN: conditions as for a load, ranked by R221; a target in a missing unit drops
its lane (R282). -/
def State.cleanAll (s : State) (w : Wave) (l : List (Nat × GAddr)) : XAll :=
  l.foldl (fun r x => match s.xlate w.path x.2 .load [] with
    | .miss _ _ => r
    | _ => XAll.add w.path .load [] s r x) (.ok [] s)

/-- CINV and CCLEAN take their place in the wave's order of stores (R282, R283). -/
def cleanOp (i : Instr) (f : FmtM) (invalidate : Bool) (s : State) : Out :=
  issueM i f s (fun w m s =>
    if m = 0#32 then .done s
    else s.gated s.cur w 0 0 (fun w s =>
      if !w.queueRoom then .stay s
      else match formLanes (s.formLane w f true 1) (Mask.lanes m) with
        | .error e => .raise (w.recOf e.1 e.2) s
        | .ok l =>
          match s.cleanAll w l with
          | .cond lane c s' => .raise (w.recOf lane { c with addr := s.laneAddr l lane }) s'
          | .miss _ s | .wait s => .stay s
          | .ok pas s => .done (s.enqueue s.cur (tgetD s.waves s.cur w)
              (.clean (dedupN (pas.flatMap (fun x => cleanLines (f.width == 1#3) x.2))) invalidate) [] [])))

/-- CINV (R282). -/
def execCinv (f : FmtM) (s : State) : Out := cleanOp (.cinv f) f true s
/-- CCLEAN (R282). -/
def execCclean (f : FmtM) (s : State) : Out := cleanOp (.cclean f) f false s

/-- FENCE (R117, R126, R284): a release waits for earlier stores at its scope; an acquire waits for the values of
earlier loads and then acts. -/
def execFence (f : FmtM) (s : State) : Out :=
  issue (.fence f) s (fun w m s =>
    if m = 0#32 then .done s
    else s.gated s.cur w (if f.order = 2#3 then 0 else 3) f.scope.toNat (fun w s =>
      if f.order = 3#3 then .done s
      else if w.valuesIn then .done (s.acquire w f.scope.toNat) else .stay s))

/-- FENCE_SC (R119, R126, R284). -/
def execFenceSc (f : FmtM) (s : State) : Out :=
  issue (.fenceSc f) s (fun w m s =>
    if m = 0#32 then .done s else s.gated s.cur w 5 f.scope.toNat (fun _ s => .done s))

end Sys2Proof.Machine
end

