-- ==== Sys2Proof/Machine/Queues.lean ====
section
/-! DEFINITION. Host-visible queues: ring, window, errors and interrupts (R347 to R350, R357, R377), and the three
channel instructions (R285 to R289). -/

namespace Sys2Proof.Machine

/-- Ring size in records (R347). -/
def Queue.nrec (q : Queue) : Nat := bits q.size.toNat 0 19
/-- First byte of the kernel table (R347). -/
def Queue.ktab (q : Queue) : Nat := bits q.size.toNat 19 45 * 4096
/-- First byte of the ring (R347). -/
def Queue.first (q : Queue) : Nat := bits q.base.toNat 0 57

/-- SV_QUEUESTATE of a queue (R347). -/
def Queue.stateWord (q : Queue) : Nat :=
  q.state.toNat + q.world % 64 * 2 ^ 3 + b2n q.waves * 2 ^ 9 + b2n q.win * 2 ^ 10 + q.weight.toNat * 2 ^ 11
    + q.sigbase.toNat * 2 ^ 19

/-- The die and cluster of the queue scheduler: the first I/O die. -/
def ioDie : Nat := 8
@[inherit_doc ioDie] def ioCluster : Nat := 40

/-- An MSI-X message of a world's function (R377): a vector past the table sends nothing, a masked one is recorded. -/
def State.interrupt (s : State) (world vec : Nat) : State :=
  match (s.world world).fn with
  | none => s
  | some k =>
    match tget s.host.fns k with
    | none => s
    | some f =>
      if f.vectors ≤ vec then s
      else
        let f' := if f.masked.contains vec then { f with pending := dedupN (f.pending ++ [vec]) }
          else { f with sent := f.sent ++ [vec] }
        { s with host := { s.host with fns := tset s.host.fns k f' } }

/-- A record that names no wave: a queue error (R361). -/
def queueRec (q : Nat) : FaultRec :=
  { code := BitVec.ofNat 8 cQueueState, step := 5#3, rst := false, cls := 0#3, seq := 0#16, lane := 0#5, level := 7#3
    info := BitVec.ofNat 16 q, addr := 0#64, restart := 0#32, mask := 0#32, pc := 0#32, ridx := 0#4 }

/-- Answers of other nodes to the scheduler that are still unread (R357). -/
def Request.stale (die world : Nat) (r : Request) : Bool := r.walk && decide (r.die = die ∧ r.world = world)

/-- Drops the scheduler's accesses to queue memory on other nodes for a world; a completion's decrement that is under way stays,
for it happens once (R352). -/
def State.dropScheduler (s : State) (world : Nat) : State :=
  { s with fab := { s.fab with requests := s.fab.requests.filter (fun e => !(e.2.stale ioDie world && e.2.atomic.isNone)) } }

/-- QPUSHes that wait on a queue fail: they raise QUEUE_STATE, and none of their records stays in it (R286, R357, R393). A record that
has left already cannot be taken back (log 56, DESIGN CHOICE). -/
def State.failPushes (s : State) (k : Nat) : State :=
  let mine (w : Wave) : List Nat := match w.push with
    | some p => if p.queue = k ∧ p.failed = false then p.places else []
    | none => []
  let q := s.queue k
  let gone := (s.waves.flatMap (fun e => mine e.2)).filter (fun n => decide (q.rc ≤ n))
  if s.waves.all (fun e => match e.2.push with
      | some p => decide (p.queue ≠ k)
      | none => true) then s
  else
    { s.putQueue k { q with gone := q.gone ++ gone } with
      waves := s.waves.map (fun e => match e.2.push with
        | some p => if p.queue = k then (e.1, { e.2 with push := some { p with failed := true }, stalled := false }) else e
        | none => e) }

/-- An ACTIVE or STOPPED queue enters ERROR: an entry is posted, and with EE an interrupt is sent (R348, R357, R361, R377). -/
def State.queueError (s : State) (k : Nat) : State :=
  let q := s.queue k
  if q.state ≠ 1#3 ∧ q.state ≠ 2#3 then s
  else
  let s := (s.dropScheduler q.world).failPushes k
  let s := s.putQueue k { s.queue k with state := 3#3 }
  let s := s.post q.world { record := queueRec k, prec := 0, launch := 0#32, world := q.world, core := 0, wgslot := 0
                            wave := 0, kind := 2 }
  if q.ee then s.interrupt q.world q.vec.toNat else s

/-- What an access of the queue scheduler to a queue's memory gives. -/
inductive QMem (α : Type) where
  | ok (a : α) (s : State)
  /-- The access raises a condition (R357). -/
  | bad
  /-- The access waits for a missing unit, or for another node. -/
  | miss (s : State)

/-- The page that the scheduler has waited for is there. -/
def State.clearMissed (s : State) (k page : Nat) : State :=
  let q := s.queue k
  if q.missed = some page then s.putQueue k { q with missed := none } else s

/-- The stamp of the I/O die's own requests (R102). -/
def State.ioStamp (s : State) : Stamp :=
  { cls := 0, core := Config.cores, index := 8, deadline := some (BitVec.ofNat 32 (s.clock.toNat + 4096)) }

/-- The physical address of a flat address of a world, as the scheduler reaches it for a queue. A page whose request the
supervisor denies raises a condition (R83, R357). -/
def State.qAddrFor (s : State) (world k va : Nat) (acc : Access) : QMem Nat :=
  let q := s.queue k
  if 2 ^ 57 ≤ va then .bad
  else match s.xlateFlat { cluster := ioCluster, world := world, who := s.ioStamp } va acc q.denied with
    | .ok pa s => .ok pa (s.clearMissed k (va / 65536))
    | .cond _ _ => .bad
    | .wait s => .miss s
    | .miss u s => .miss ((s.joinPending s.ioStamp u).putQueue k { q with missed := some (va / 65536) })

/-- The physical address of a flat address of a queue's own world. -/
def State.qAddr (s : State) (k va : Nat) (acc : Access) : QMem Nat := s.qAddrFor (s.queue k).world k va acc

/-- An access of the scheduler to a queue's memory on another node: it goes over the fabric and waits for the answer; a
refusal raises a condition (R357, R379, R382). -/
def State.qRemote (s : State) (world pa n : Nat) (bytes : List Byte) (atomic : Option AtomOp) : QMem (List Byte) :=
  match s.fab.requests.find? (fun e => e.2.stale ioDie world && decide (e.2.addr = pa ∧ e.2.width = n ∧ e.2.bytes = bytes ∧ e.2.atomic = atomic)) with
  | none =>
    if s.routed (paNode pa) then
      .miss (s.send { wave := 0, world := world, lane := 0, die := ioDie, addr := pa, width := n, va := 0, install := false
                      answer := none, op := none, posted := false, sent := s.clock.toNat, bytes := bytes, atomic := atomic, walk := true })
    else .bad
  | some e => match e.2.answer with
    | none => .miss s
    | some (.value bs) => .ok bs { s with fab := { s.fab with requests := tdel s.fab.requests e.1 } }
    | some (.refused _) => .bad

/-- Reads a run of a queue's memory within one 64 KiB page: the newest bytes, after the checks of R387. -/
def State.qRead (s : State) (k va n : Nat) : QMem (List Byte) :=
  match s.qAddr k va .load with
  | .bad => .bad
  | .miss s => .miss s
  | .ok pa s =>
    let world := (s.queue k).world
    if s.isRemote pa then s.qRemote world pa n [] none
    else
      let r := s.checkRead (some world) pa n
      if r.2 then .bad else .ok (r.1.peek pa n) ((linesOf pa n).foldl (fun s l => s.probe ioDie world (64 * l) s.ioStamp) r.1)

/-- Writes a run of a queue's memory as a coherent store of the I/O die. -/
def State.qWrite (s : State) (k va : Nat) (bs : List Byte) : QMem Unit :=
  match s.qAddr k va .store with
  | .bad => .bad
  | .miss s => .miss s
  | .ok pa s =>
    if s.isRemote pa then (match s.qRemote (s.queue k).world pa bs.length bs none with
      | .ok _ s => .ok () s
      | .miss s => .miss s
      | .bad => .bad)
    else if s.cutOff (s.queue k).world pa then .ok () s
    else .ok () (s.storeCells (some ioDie) (s.queue k).world s.ioStamp (cellsOf pa bs))

/-- An access that waits leaves only its requests, and the queue's note of the page that it waits for. -/
def State.keepMiss (s t : State) (k : Nat) : State :=
  { s with
    xl := t.xl, nextId := t.nextId
    fab := { s.fab with requests := s.fab.requests ++ t.fab.requests.filter (fun (e : Nat × Request) => decide (s.nextId ≤ e.1)) } }.putQueue k
      { s.queue k with missed := (t.queue k).missed }

/-- Notes the clock of a push by its first position (R350). -/
def State.notePush (s : State) (k pos : Nat) : State :=
  s.putQueue k { s.queue k with pushes := tset (s.queue k).pushes pos s.clock.toNat }

/-- Pushes whose records have all left are forgotten. -/
def prunePushes (t : Tab Nat) (rc : Nat) : Tab Nat :=
  t.filter (fun e => decide (rc < e.1) || !t.any (fun x => decide (e.1 < x.1 ∧ x.1 ≤ rc)))

/-- The flat address of a ring position (R349). -/
def Queue.ringAt (q : Queue) (pos : Nat) : Nat := q.first + 32 * (pos % (if q.nrec = 0 then 1 else q.nrec))

/-- Moves ring records into the window while it has room (R350); a condition puts the queue in ERROR. -/
def State.fillWindow (k : Nat) : Nat → State → State
  | 0, s => s
  | n + 1, s =>
    let q := s.queue k
    let pos := q.rc + q.window.length
    if !q.win || decide (32 ≤ q.window.length) || decide (q.wc ≤ pos) || decide (q.state ≠ 1#3 ∧ q.state ≠ 2#3) then s
    else match s.qRead k (q.ringAt pos) 32 with
      | .bad => s.queueError k
      | .miss t => s.keepMiss t k
      | .ok bs s => fillWindow k n (s.putQueue k { s.queue k with window := (s.queue k).window ++ [bs] })

/-- Writes RC behind the ring (R350). -/
def State.writeRc (s : State) (k : Nat) : QMem Unit :=
  let q := s.queue k
  s.qWrite k (q.first + 32 * q.nrec) (leBytes 8 q.rc)

/-- Removes the head of a queue: RC advances and is written behind the ring, and the window is refilled (R350). -/
def State.dropHead (s : State) (k : Nat) : State :=
  let q := s.queue k
  let s := s.putQueue k { q with rc := q.rc + 1, window := q.window.drop 1, emptySince := s.clock.toNat
                                 pushes := prunePushes q.pushes (q.rc + 1), gone := q.gone.filter (fun n => decide (q.rc < n)) }
  match s.writeRc k with
  | .ok _ s => s.fillWindow k 32
  | .miss t => ((s.keepMiss t k).putQueue k { (s.keepMiss t k).queue k with rcDue := true }).fillWindow k 32
  | .bad => s.queueError k

/-- What a queue's memory owes: RC is still to be written, or the window has room for records of the ring (R350). -/
def Queue.owes (q : Queue) : Bool :=
  (decide (q.state = 1#3) || decide (q.state = 2#3))
    && (q.rcDue || (q.win && decide (q.window.length < min 32 (q.wc - q.rc))))

/-- A queue whose access to its memory had to wait tries again (R350). -/
def State.settleQueue (s : State) (k : Nat) : State :=
  let q := s.queue k
  if !q.owes then s
  else
    let s := if !q.rcDue then s
      else match s.writeRc k with
        | .ok _ t => t.putQueue k { t.queue k with rcDue := false }
        | .miss t => s.keepMiss t k
        | .bad => s.queueError k
    s.fillWindow k 32

/-- One record enters a queue at position WC: into the window, or spilled to the ring (R349). -/
def State.pushRecord (s : State) (k : Nat) (rec : List Byte) : QMem Unit :=
  let q := s.queue k
  if q.win && decide (q.window.length < 32) && decide (q.rc + q.window.length = q.wc) then
    .ok () (s.putQueue k { q with window := q.window ++ [rec], wc := q.wc + 1 })
  else match s.qWrite k (q.ringAt q.wc) rec with
    | .ok _ s => .ok () (s.putQueue k { s.queue k with wc := q.wc + 1 })
    | r => r

/-- Records enter a queue one after the other, as far as it has room (R286, R349): the records left, the state, and whether
an access to the ring raised a condition. -/
def State.pushSome (k : Nat) : List (List Byte) → State → List (List Byte) × State × Bool
  | [], s => ([], s, false)
  | r :: t, s =>
    let q := s.queue k
    if q.nrec ≤ q.wc - q.rc then (r :: t, s, false)
    else match s.pushRecord k r with
      | .ok _ s => pushSome k t s
      | .miss s' => (r :: t, s.keepMiss s' k, false)
      | .bad => (r :: t, s, true)

/-- The channel entry of a wave's launch (R285). -/
def State.channel (s : State) (w : Wave) (n : Nat) : DWord :=
  match s.launchOf w with
  | some l => tgetD l.chans n 0#64
  | none => 0#64

/-- The queue that a channel entry names. -/
def chanQueue (e : DWord) : Nat := bits e.toNat 8 16

/-- A channel entry is valid for a wave (R285). -/
def State.chanValid (s : State) (w : Wave) (e : DWord) : Bool :=
  bit e.toNat 0 && decide (bits e.toNat 4 4 = 0) && decide (bits e.toNat 24 8 = 0)
    && decide ((s.queue (chanQueue e)).world = w.world)

/-- ALLOW of an entry (R285). -/
def chanAllow (e : DWord) : Nat := bits e.toNat 32 32

/-- Decrements ALLOW in the launch's table, unless it is unlimited (R286). -/
def State.spend (s : State) (w : Wave) (n count : Nat) : State :=
  match s.wgOf w, s.launchOf w with
  | some g, some l =>
    let e := tgetD l.chans n 0#64
    if chanAllow e = 0xFFFFFFFF then s
    else s.putLaunch g.launch { l with chans := tset l.chans n (BitVec.ofNat 64 (e.toNat - count * 2 ^ 32)) }
  | _, _ => s

/-- The channel number of an operand code (R216). -/
def chanNum (o : Operand) : Nat :=
  match o with
  | .pos k => k.toNat
  | _ => 0

/-- The 32-byte `l:` addresses of the active lanes (R24, R286). -/
def State.recordLanes (s : State) (w : Wave) (f : FmtM) (m : Mask) : Except (Nat × Cond) (List (Nat × Nat)) :=
  formLanes (fun l => w.onChip f (s.lSize w) 32 l) (Mask.lanes m)

/-- Gives ALLOW back to a QPUSH that pushes nothing (R286). -/
def State.unspend (s : State) (w : Wave) (n count : Nat) : State :=
  match s.wgOf w, s.launchOf w with
  | some g, some l =>
    let e := tgetD l.chans n 0#64
    if chanAllow e = 0xFFFFFFFF then s
    else s.putLaunch g.launch { l with chans := tset l.chans n (BitVec.ofNat 64 (e.toNat + count * 2 ^ 32)) }
  | _, _ => s

/-- The records of a QPUSH enter its queue, which takes one QPUSH at a time, in the order in which they passed their checks
(R286, R349). In an error of the queue, once it is unbound, or once the world has left RUN (R393), nothing stays pushed; while the queue
is STOPPED the wave waits (log 56, DEDUCED). -/
def State.pushOn (s : State) (id : Nat) (w : Wave) (f : FmtM) (p : Push) : Act :=
  let fail (s : State) (count : Nat) : Act :=
    .raise (w.mkRec cQueueState stData (Mask.first w.bundleMask))
      ((s.updWave id (fun w => { w with push := none })).unspend w (chanNum f.data) count)
  let st := (s.queue p.queue).state
  let count := p.places.length + p.left.length
  if p.failed ∨ st = 0#3 ∨ st = 3#3 ∨ (s.world w.world).left then fail s count
  else if st ≠ 1#3 then .stay s
  else if s.waves.any (fun e => match e.2.push with
      | some o => decide (o.queue = p.queue ∧ o.stamp < p.stamp) && !o.failed
      | none => false) then .stay s
  else
    let first := (s.queue p.queue).wc
    let (left, s', bad) := State.pushSome p.queue p.left s
    let s' := if p.places = [] ∧ left.length < p.left.length then s'.notePush p.queue first else s'
    let p' : Push := { p with left := left, places := p.places ++ (List.range (p.left.length - left.length)).map (fun i => first + i) }
    if bad then fail ((s'.updWave id (fun w => { w with push := some p' })).queueError p.queue) count
    else if left.isEmpty then .done (s'.updWave id (fun w => { w with push := none }))
    else .stay (s'.updWave id (fun w => { w with push := some p' }))

/-- The condition of a lane of a QPUSH in the data step: the queue refuses pushes, or the record is spoiled, or has kind 0 (R286,
R402). -/
def pushCond (refused : Bool) (bad : Nat → Bool) (record : Nat → List Byte) (x : Nat × Nat) : Option (Nat × Cond) :=
  let c (code : Nat) : Option (Nat × Cond) := some (x.1, { code := code, step := stData, addr := 0 })
  if refused then c cQueueState
  else if bad x.2 then some (x.1, { code := cPoison, step := stData, addr := x.2 })
  else if (record x.2).getD 0 0#8 = 0#8 then c cQueueState
  else none

/-- QPUSH (R286, R289): a release at DEVICE scope. The checks come once; then the records enter as the queue has room. -/
def execQpush (f : FmtM) (s : State) : Out :=
  issueM (.qpush f) f s (fun w m s =>
    if m = 0#32 then .done s
    else match w.push with
    | some p => s.pushOn s.cur w f p
    | none => s.gated s.cur w 3 scDevice (fun w s =>
      let fail (code step : Nat) : Act := .raise (w.mkRec code step (Mask.first m)) s
      match s.recordLanes w f m with
      | .error e => .raise (w.recOf e.1 e.2) s
      | .ok l =>
        let n := Mask.count m
        let e := s.channel w (chanNum f.data)
        let k := chanQueue e
        let record (a : Nat) : List Byte := (s.core w.core).lRead (s.lBase w + a) 32
        if !s.chanValid w e || !bit e.toNat 1 then fail cCapability stPerm
        else if chanAllow e ≠ 0xFFFFFFFF ∧ chanAllow e < n then fail cAllowance stPerm
        else match l.findSome? (pushCond (decide ((s.queue k).state ≠ 1#3)) (fun a => (s.core w.core).badAt 3 (s.lBase w + a) 32) record) with
        | some c => .raise (w.recOf c.1 c.2) s
        | none =>
          let p : Push := { queue := k, stamp := s.nextId, left := l.map (fun x => record x.2) }
          let s := (s.bump.spend w (chanNum f.data) n).updWave s.cur (fun w => { w with push := some p })
          s.pushOn s.cur (tgetD s.waves s.cur w) f p))

/-- The oldest record of a queue, where it holds one. -/
def State.head (s : State) (k : Nat) : QMem (Option (List Byte)) :=
  let q := s.queue k
  match q.window with
  | r :: _ => .ok (some r) s
  | [] =>
    if q.rc < q.wc then
      match s.qRead k (q.ringAt q.rc) 32 with
      | .ok bs s => .ok (some bs) s
      | .miss s => .miss s
      | .bad => .bad
    else .ok none s

/-- Positions at the head whose records have been taken back leave the queue. -/
def State.skipGone (k : Nat) : Nat → State → State
  | 0, s => s
  | n + 1, s => if (s.queue k).gone.contains (s.queue k).rc then skipGone k n (s.dropHead k) else s

/-- Records that a queue holds. -/
def Queue.depth (q : Queue) : Nat := q.wc - q.rc - q.gone.length

/-- Takes a record for each lane, oldest first; a lane that finds none receives 32 zero bytes (R287). -/
def State.popLanes (k : Nat) (w : Wave) : List (Nat × Nat) → State → QMem Unit
  | [], s => .ok () s
  | (_, a) :: t, s =>
    let s := State.skipGone k (s.queue k).gone.length s
    match s.head k with
    | .bad => .bad
    | .miss s => .miss s
    | .ok r s =>
      let bs := r.getD (List.replicate 32 0#8)
      let s := s.putCore w.core ((s.core w.core).lWrite (s.lBase w + a) bs)
      popLanes k w t (if r.isSome then s.dropHead k else s)

/-- QPOP (R287, R289): an acquire at DEVICE scope. Where the read of the ring raises a condition, the wave meets QUEUE_STATE and the queue
enters ERROR (log 56, DESIGN CHOICE). -/
def execQpop (f : FmtM) (s : State) : Out :=
  issueM (.qpop f) f s (fun w m s =>
    if m = 0#32 then .done s
    else s.gated s.cur w 2 scDevice (fun w s =>
      let fail (code step : Nat) : Act := .raise (w.mkRec code step (Mask.first m)) s
      match s.recordLanes w f m with
      | .error e => .raise (w.recOf e.1 e.2) s
      | .ok l =>
        let e := s.channel w (chanNum f.data)
        let k := chanQueue e
        if !s.chanValid w e || !bit e.toNat 2 then fail cCapability stPerm
        else if !(s.queue k).waves then fail cQueueState stData
        else match State.popLanes k w l s with
          | .ok _ s' => .done s'
          | .miss s' => .stay (s.keepMiss s' k)
          | .bad => .raise (w.mkRec cQueueState stData (Mask.first m)) (s.queueError k)))

/-- QSTAT (R288). -/
def execQstat (f : FmtX) (s : State) : Out :=
  issue (.qstat f) s (fun w m s =>
    if m = 0#32 then .done s
    else
      let e := s.channel w (chanNum f.a)
      let q := s.queue (chanQueue e)
      if !s.chanValid w e || !bit e.toNat 3 then .raise (w.mkRec cCapability stPerm (Mask.first m)) s
      else
        let v := if f.sel = 0#16 then min q.depth 0xFFFFFFFF
          else if f.sel = 1#16 then q.stateWord % 2 ^ 19
          else chanAllow e
        .done (s.putWave s.cur (w.put f.dst 1 m (fun _ => v))))

end Sys2Proof.Machine
end

