-- ==== Sys2Proof/Machine/Control.lean ====
section
/-! DEFINITION. Fetching a clause (R203 to R206, R150), the control instructions (R182 to R185, R246 to R251), the
end of a wave (R184, R306) and the core's ownership token (R304 to R306). -/

namespace Sys2Proof.Machine

/-! ### Ridge entries and the token -/

/-- The core's ridge-table entry of a workgroup's ridge: its number in the table, and the entry (R188). -/
def State.ridgeOf (s : State) (w : Wave) (r : Nat) : Option (Nat × Ridge) :=
  match s.wgOf w with
  | none => none
  | some g =>
    match g.ridgeMap.find? (fun x => decide (x.1 = r)) with
    | none => none
    | some x =>
      match tget (s.core w.core).ridges x.2 with
      | some e => some (x.2, e)
      | none => none

/-- A wave of a workgroup by its number. -/
def State.member (s : State) (wg num : Nat) : Option (Nat × Wave) :=
  s.waves.find? (fun e => decide (e.2.wg = wg ∧ e.2.num = num) && !e.2.sup)

/-- The wave has not ended. -/
def State.alive (s : State) (wg num : Nat) : Bool :=
  match s.member wg num with
  | some e => decide (e.2.status ≠ .ended)
  | none => false

/-- The next member after a wave that has not ended, in increasing order and wrapping; the wave itself comes last
(R305). -/
def State.nextMember (s : State) (wg : Nat) (members : BitVec 48) (num : Nat) : Option Nat :=
  ((List.range 48).map (fun i => (num + 1 + i) % 48)).find? (fun k => members.getLsbD k && s.alive wg k)

/-- Puts the token of a core. -/
def State.setToken (s : State) (core : Nat) (t : Option Token) : State :=
  s.putCore core { s.core core with token := t }

/-- Passes the token from a wave to the next member, or frees it where none is left (R305, R306). -/
def State.passToken (s : State) (w : Wave) (t : Token) : State :=
  match s.ridgeOf w t.ridge with
  | none => s.setToken w.core none
  | some e =>
    match s.nextMember w.wg e.2.members w.num with
    | some k => s.setToken w.core (some { t with holder := k })
    | none => s.setToken w.core none

/-- The wave holds its core's token. -/
def State.holdsToken (s : State) (w : Wave) : Option Token :=
  match (s.core w.core).token with
  | some t => if t.wg = w.wg ∧ t.holder = w.num ∧ w.sup = false then some t else none
  | none => none

/-- THE END OF A WAVE (R184): nothing of it is left but stores on their way; a held token passes on (R306). -/
def State.endWave (s : State) (id : Nat) (w : Wave) : State :=
  let s := (s.endStep id w).quit w.core id
  let w' := { w with bundle := none, others := [], clause := none, left := [], snap := [], status := .ended, loads := []
                     gates := [], ctl := false, ldn := none, push := none, behind := false, stalled := false, cause := none, edits := []
                     charge := w.charge + (match w.slotSince with
                       | some t => s.clock.toNat - t
                       | none => 0)
                     slotSince := none }
  let s := s.putWave id w'
  match s.holdsToken w' with
  | some t => s.passToken w' t
  | none => s

/-! ### Waits on counters -/

/-- What a wait on counters meets (R150, R156). -/
inductive CntWait where
  | pass
  | wait
  | refused (r : FaultRec)

/-- The wait for every counter of a list to be at most its threshold; a frozen operation that it covers is reported. -/
def State.cntWait (s : State) (id : Nat) (w : Wave) (l : List (Nat × Nat)) : CntWait :=
  match s.firstFrozen id w l with
  | some r => .refused (w.deferred r)
  | none => if l.all (fun x => decide (w.cntOf x.1 ≤ x.2)) then .pass else .wait

/-! ### The fetch -/

/-- What reading code words gives: their values, or the wave has been moved or waits. -/
inductive CodeRead where
  | got (l : List Nat) (s : State)
  | moved (s : State)

/-- Reads code words at offsets of a wave's code object through translation and the data step, as a fetch of its
summit; `keys` gives each a number for the requests that it may send (R207, R359). Their requests to DRAM carry the stamp of a lane
access (R102; log 5, DEDUCED). -/
def State.codeRead (s : State) (id : Nat) (w : Wave) (keys : List (Nat × Nat)) : CodeRead :=
  let lane := Mask.first w.bundleMask
  let va (k : Nat) : Nat := match keys.find? (fun x => decide (x.1 = k)) with
    | some x => w.codeBase + x.2
    | none => w.codeBase
  match s.xlateFor w .fetch (keys.map (fun x => (x.1, GAddr.flat (w.codeBase + x.2)))) with
  | .cond _ c s => .moved ((s.updWave id (fun w => { w with denied := [] })).deliver id { w with denied := [] } (w.recOf lane c))
  | .wait s => .moved (s.stall id)
  | .miss us s => .moved (s.parkOn id w us)
  | .ok pas s =>
    let w := tgetD s.waves id w
    match s.dataCheck w 8 (pas.filter (fun x => !s.isRemote x.2)) with
    | .wait => .moved (s.stall id)
    | .poison k _ s => .moved (s.deliver id w (w.poisonRec lane (va k)))
    | .ok s =>
      let rem := pas.filter (fun x => s.isRemote x.2)
      if !w.hold.isEmpty && !rem.any (fun x => w.hold.any (fun h => decide (h.1 = x.1))) &&
          rem.any (fun x => (s.remoteCopy (dieOf w.core) w.world x.2 8).isNone) then
        .moved ((s.endHold id).stall id)
      else match s.remoteLoad id (if rem.any (fun x => w.hold.any (fun h => decide (h.1 = x.1))) then w
          else { w with hold := [] }) 8 va rem with
        | .wait s => .moved (s.stall id)
        | .held s => .moved s
        | .raise r s => .moved (s.deliver id (tgetD s.waves id w) { r with lane := BitVec.ofNat 5 lane })
        | .have bs s =>
          let t := (dedupN ((pas.filter (fun x => !s.isRemote x.2)).map (fun x => x.2 / 64))).foldl (fun (s : State) l =>
            s.probe (dieOf w.core) w.world (64 * l) (s.stampOf w)) s
          .got (pas.map (fun x => match bs.find? (fun b => decide (b.1 = x.1)) with
            | some b => leNat b.2
            | none => s.peekNat x.2 8)) t

/-- A header that R205 refuses by itself: no mark, a class from 5, or a reserved bit. -/
def headerBad (h : Nat) : Bool := !isHeader h || decide (5 ≤ bits h 56 3) || decide (bits h 0 14 ≠ 0)

/-- The thresholds of a header that impose a wait, by class (R150, R204). -/
def headerWaits (h : Nat) : List (Nat × Nat) :=
  ((List.range 5).map (fun c => (c, bits h (48 - 4 * c) 4))).filter (fun x => decide (x.2 ≠ 15))

/-- The opcodes that a clause class admits (R206). -/
def admitsOp (cls op : Nat) : Bool :=
  if cls = 0 then (decide (op < 0x0C0) && decide (op ≠ 0x062)) || (decide (0x100 ≤ op) && decide (op < 0x1C0))
    || (decide (0x1D2 ≤ op) && decide (op ≤ 0x1D6)) || decide (op = 0x1D8)
  else if cls = 1 then decide (0x1C0 ≤ op) && decide (op < 0x280)
  else if cls = 2 then decide (0x280 ≤ op) && decide (op < 0x340)
  else if cls = 3 then (decide (0x0C0 ≤ op) && decide (op < 0x100)) || decide (op = 0x062)
    || (decide (0x340 ≤ op) && decide (op < 0x380))
  else true

/-- The barrier instructions: SYNCW, RARRIVE, RSYNC and RWAIT (R190). -/
def barrierOp (op : Nat) : Bool := decide (op = 0x062) || (decide (0x340 ≤ op) && decide (op ≤ 0x344))

/-- An instruction word makes its clause malformed at a position (R205). -/
def wordBad (cls k : Nat) (x : DWord) : Bool :=
  let op := field x 54 10
  match decodeWord x with
  | .error .illegalOpcode => false
  | .error .malformedClause => true
  | _ => !admitsOp cls op || (barrierOp op && decide (k ≠ 0))

/-- The first instruction of the fetched clause waits for the header's thresholds (R150); then the clause begins, and the entry
is yielded no longer (R185). -/
def State.beginClause (s : State) (id : Nat) (w : Wave) (b : Entry) (c : Clause) : State :=
  let waits := if b.ridx = 0 ∧ !b.passed then headerWaits c.header.toNat else []
  match s.cntWait id w waits with
  | .wait => (s.putWave id { w with clause := some { c with waited := false } }).stall id
  | .refused r => s.deliver id { w with clause := some { c with waited := false } } r
  | .pass => (s.coverUses w waits).putWave id { w.cover waits with
      waits := false, clause := some { c with waited := true }
      bundle := some { b with yld := false, passed := false, ridx := if b.passed then 1 else b.ridx } }

/-- The summit was chosen before its header could be read (`Wave.judge`): with the header at hand the choice is made again, and
the wave turns to another entry where that goes first (R181, R182). -/
def State.judgeSummit (s : State) (w : Wave) (b : Entry) (h : Nat) : Option Wave :=
  if w.judge = 0 ∨ (w.judge = 1 ∧ !bit h 15) ∨ b.ridx ≠ 0 ∨ b.passed then none
  else match s.summitOf (b :: w.others) with
    | some e => if e = b then none else some ({ w with bundle := none, others := b :: w.others }.take e)
    | none => none

/-- Fetches the summit's clause: its header, its words, its checks (R205), and takes its wait (R150). -/
def State.fetchClause (s : State) (id : Nat) (w : Wave) (b : Entry) : State :=
  let bad (s : State) (w : Wave) : State := s.deliver id w (w.mkRec cMalformed stDecode (Mask.first b.mask))
  let pc := b.pc.toNat
  if pc % 8 ≠ 0 ∨ w.extent ≤ pc then bad s w
  else match s.codeRead id w [(32, pc)] with
    | .moved s => s
    | .got hs s =>
      let w := tgetD s.waves id w
      let h := hs.headD 0
      let n := bits h 52 4 + 1
      let b := { b with prio := if isHeader h then BitVec.ofNat 16 (bits h 16 16) else b.prio }
      let w := if isHeader h then w.learn b.pc b.prio else w
      let s := s.putWave id w
      if headerBad h || decide (w.extent < pc + 8 * (1 + n)) || decide (n ≤ if b.passed then 1 else b.ridx) then bad s w
      else match s.judgeSummit w b h with
        | some w' => s.putWave id w'
        | none =>
          match s.codeRead id w ((List.range n).map (fun k => (k, pc + 8 * (1 + k)))) with
          | .moved s => s
          | .got ws s =>
            let w := tgetD s.waves id w
            let ws := ws.map (BitVec.ofNat 64)
            if ws.zipIdx.any (fun x => wordBad (bits h 56 3) x.2 x.1) then bad s w
            else s.beginClause id { w with judge := 0, behind := bit h 14, bundle := some b } b
              { pc := b.pc, header := BitVec.ofNat 64 h, words := ws }

/-- CLAUSE_FETCH (R205): the wave of the operand `a` fetches the clause of its summit, or goes on with the clause's wait. -/
def execClauseFetch (s : State) : Out :=
  match tget s.waves s.arg.a with
  | none => .next s
  | some w =>
    match w.bundle with
    | none => .next s
    | some b => .next (if !s.ready s.arg.a { w with stalled := false } then s
      else match w.clause with
        | none => s.fetchClause s.arg.a w b
        | some c => if c.waited then s else s.beginClause s.arg.a w b c)

/-! ### Control instructions -/

/-- Instruction words of the clause that runs. -/
def State.clauseLen (s : State) (w : Wave) (b : Entry) : Nat :=
  match w.clause with
  | some c => c.words.length
  | none => (s.countAt w b.pc).getD 1

/-- Adds lanes to the lanes that have left for a target. -/
def addLeft (l : List (Word × Mask)) (pc : Word) (m : Mask) : List (Word × Mask) :=
  match l with
  | [] => [(pc, m)]
  | x :: t => if x.1 = pc then (pc, x.2 ||| m) :: t else x :: addLeft t pc m

/-- Different words of a list. -/
def dedupW (l : List Word) : List Word := l.foldl (fun acc x => if acc.contains x then acc else acc ++ [x]) []

/-- Entries that the frontier would have by R183, where the lanes `gone` leave the bundle for the targets `dests`. -/
def frontierCount (w : Wave) (b : Entry) (n : Nat) (gone : Mask) (dests : List Word) : Nat :=
  let stay := if b.mask &&& ~~~gone = 0#32 then [] else [nextPc b.pc n]
  w.others.length + ((dedupW (dests ++ w.left.map (fun x => x.1) ++ stay)).filter (fun p =>
    !w.others.any (fun e => decide (e.pc = p)))).length

/-- A control instruction acts in the lanes of a mask (R182, R183): `targets` gives the lanes that go elsewhere; `act`
is the rest of its effect on the wave. -/
def State.control (s : State) (id : Nat) (w : Wave) (m gone : Mask) (targets : List (Word × Mask)) (act : Wave → Wave) : Act :=
  match w.bundle with
  | none => .done s
  | some b =>
    if w.depth < frontierCount w b (s.clauseLen w b) gone (targets.map (fun x => x.1)) then
      .raise (w.mkRec cDepth stData (Mask.first m)) s
    else
      let w := act w
      .done (s.putWave id { w with
        bundle := some { b with mask := b.mask &&& ~~~gone }
        left := targets.foldl (fun l x => addLeft l x.1 x.2) w.left
        ctl := true })

/-- The target of BRA and CALL (R210, R247): the header of the clause plus 8 × target, which may lie in no code extent. -/
def targetPc (w : Wave) (f : FmtB) : Word :=
  let t : Int := (w.pcNat : Int) + 8 * f.target.toInt
  if t < 0 ∨ (2 ^ 32 : Int) ≤ t then noCode else BitVec.ofNat 32 t.toNat

/-- BRA (R247). -/
def execBra (f : FmtB) (s : State) : Out :=
  issue (.bra f) s (fun w m s =>
    if m = 0#32 then .done s else s.control s.cur w m m [(targetPc w f, m)] (fun w => w))

/-- The target address of BRX and RET in a lane, checked by R247. -/
def Wave.jumpTo (w : Wave) (o : Operand) (lane : Nat) : Except Cond Word :=
  let a := w.src o 2 lane
  if 2 ^ 57 ≤ a then .error { code := cNoncanon, step := stForm, addr := a }
  else if a < w.codeBase ∨ w.codeBase + w.extent ≤ a then .error { code := cBounds, step := stForm, addr := a }
  else if a % 8 ≠ 0 then .error { code := cAlign, step := stForm, addr := a }
  else .ok (BitVec.ofNat 32 (a - w.codeBase))

/-- BRX and RET (R247, R248, R251): each lane goes to its own address. -/
def jumpOp (i : Instr) (f : FmtB) (s : State) : Out :=
  issue i s (fun w m s =>
    if m = 0#32 then .done s
    else match formLanes (w.jumpTo f.opnd) (Mask.lanes m) with
      | .error e => .raise (w.recOf e.1 e.2) s
      | .ok l =>
        s.control s.cur w m m (l.foldl (fun t x => addLeft t x.2 (Mask.single x.1)) []) (fun w => w))

/-- BRX (R247). -/
def execBrx (f : FmtB) (s : State) : Out := jumpOp (.brx f) f s
/-- RET (R248). -/
def execRet (f : FmtB) (s : State) : Out := jumpOp (.ret f) f s

/-- CALL (R248): the link is the address of the clause that follows. -/
def execCall (f : FmtB) (s : State) : Out :=
  issue (.call f) s (fun w m s =>
    if m = 0#32 then .done s
    else
      let link := match w.bundle with
        | some b => w.codeBase + (nextPc b.pc (s.clauseLen w b)).toNat
        | none => 0
      s.control s.cur w m m [(targetPc w f, m)] (fun w => w.put f.opnd 2 m (fun _ => link)))

/-- Waits of EXIT: every counter at 0 (R152). -/
def exitWaits : List (Nat × Nat) := (List.range 5).map (fun c => (c, 0))

/-- EXIT (R152, R184, R249): the last lanes wait for the counters, and then the wave ends. -/
def execExitOp (f : FmtB) (s : State) : Out :=
  issue (.exitOp f) s (fun w m s =>
    if m = 0#32 then .done s
    else if w.bundleMask &&& ~~~m = 0#32 ∧ w.left = [] ∧ w.others = [] then
      match s.cntWait s.cur w exitWaits with
      | .wait => .stay s
      | .refused r => .raise r s
      | .pass => .jump (s.endWave s.cur { w with exited := w.exited ||| m })
    else s.control s.cur w m m [] (fun w => { w with exited := w.exited ||| m }))

/-- YIELD (R185, R250): no lane moves; the entries that its lanes join are marked. -/
def execYield (f : FmtB) (s : State) : Out :=
  issue (.yield f) s (fun w m s =>
    if m = 0#32 then .done s
    else s.control s.cur w m 0#32 [] (fun w => { w with yielded := w.yielded ||| m }))

end Sys2Proof.Machine
end

