-- ==== Sys2Proof/Machine/Records.lean ====
section
/-! DEFINITION. The device-private region as supervisor waves read and write it (R87): phase records (R195, R360, R362; log 7,
DESIGN CHOICE), the resident object table (R32), tier maps (R89), counters (R36, R94, R106; log 18, DESIGN CHOICE), and the
loads of `g:`. -/

namespace Sys2Proof.Machine

/-- A wave stands in a phase record. -/
def Status.inRecord : Status → Bool
  | .slot | .leaving _ | .ended => false
  | _ => true

/-- The wave whose record holds a physical byte, and the byte's offset in the record. -/
def State.recordAt (s : State) (pa : Nat) : Option (Nat × Wave × Nat) :=
  let base := s.recAddr 0
  if pa < base then none
  else (s.waves.find? (fun e => e.2.status.inRecord && decide (e.2.recSlot = (pa - base) / 65536))).map
    (fun e => (e.1, e.2, (pa - base) % 65536))

/-- Packs fields of `n` bits each, the first lowest. -/
def packFields (n : Nat) : List Nat → Nat
  | [] => 0
  | x :: t => x % 2 ^ n + 2 ^ n * packFields n t

/-- Ridge record m in a header: number, pending, phase (R195). -/
def RidgeRec.toNat (r : RidgeRec) : Nat := r.num % 256 + b2n r.pending * 2 ^ 8 + b2n r.phase * 2 ^ 9

/-- The 512 bits of a record's header (R195). -/
def State.recHeader (s : State) (w : Wave) : Nat :=
  let miss := match w.status with
    | .parked us => us.length
    | _ => 0
  w.recKind.toNat + b2n (decide (miss ≠ 0)) * 2 ^ 2 + miss % 64 * 2 ^ 3 + w.world % 64 * 2 ^ 9
    + s.slotOf w % 128 * 2 ^ 15 + w.num % 64 * 2 ^ 22 + w.launch.toNat * 2 ^ 32 + packFields 6 (w.recCnt.take 5) * 2 ^ 64
    + packFields 16 (w.recSeq.take 5) * 2 ^ 96 + w.recFlags.toNat * 2 ^ 176 + w.fpmode.toNat * 2 ^ 183
    + packFields 10 ((w.recRidges.take 5).map RidgeRec.toNat) * 2 ^ 192
    + (match w.cause with
      | some r => r.toNat
      | none => 0) * 2 ^ 256

/-- The carry site of a PC. -/
def State.carrySite (s : State) (w : Wave) (pc : Word) : Option CarrySite :=
  match s.launchOf w with
  | some l => l.carry.find? (fun c => decide (c.pc = pc))
  | none => none

/-- The words of a vector register. -/
def Wave.vWords (w : Wave) (r : Nat) : List Word := (List.range 32).map (w.readV r)

/-- One-word items, each at a multiple of 16 bytes (R195). -/
def spaced (l : List Word) : List Word := l.flatMap (fun x => [x, 0#32, 0#32, 0#32])

/-- The words of a record's body: the carried registers and the frontier registers, or the whole allocation (R195). The carry
table keeps masks only, so that carried registers stand by kind (v, s, p) and number, whatever their order in `.carry`
(log 7, DESIGN CHOICE). -/
def State.recBody (s : State) (w : Wave) : List Word :=
  let frontier := (List.range (w.nv - w.firstFrontier)).map (· + w.firstFrontier)
  if w.recKind = 0#2 then
    let site := match w.snap with
      | e :: _ => s.carrySite w e.pc
      | [] => none
    match site with
    | none => frontier.flatMap w.vWords
    | some c =>
      ((List.range 256).filter (fun r => c.v.getLsbD r && !frontier.contains r)).flatMap w.vWords
        ++ spaced (((List.range 64).filter (fun r => c.s.getLsbD r)).map w.regs.readS)
        ++ spaced (((List.range 7).filter (fun r => c.p.getLsbD r)).map w.readP)
        ++ frontier.flatMap w.vWords
  else
    (List.range w.nv).flatMap w.vWords ++ spaced ((List.range 64).map w.regs.readS) ++ spaced ((List.range 7).map w.readP)

/-- A byte of a record; the body of an encrypted record reads as undefined bytes (log 7, DESIGN CHOICE). -/
def State.recByte (s : State) (w : Wave) (off : Nat) : Byte :=
  if off < 64 then BitVec.ofNat 8 (s.recHeader w / 2 ^ (8 * off))
  else if w.recKind = 2#2 then Config.freeByte (s.free + off)
  else
    let x := (s.recBody w).getD ((off - 64) / 4) 0#32
    BitVec.ofNat 8 (x.toNat / 2 ^ (8 * (off % 4)))

/-! ### Windows of the device-private region -/

/-- The codes of ROT states (R32). -/
def rotCode : RotState → Nat
  | .absent => 0
  | .arriving => 1
  | .resident => 2
  | .departed => 3
  | .gone => 4
/-- The state that a code names; 5 to 7 name none. -/
def rotStateOf (n : Nat) : Option RotState :=
  if n = 0 then some .absent else if n = 1 then some .arriving else if n = 2 then some .resident
  else if n = 3 then some .departed else if n = 4 then some .gone else none

/-- The 256 bits of a ROT entry (R32). -/
def RotEnt.toNat (e : RotEnt) : Nat :=
  rotCode e.state + e.gen.toNat * 2 ^ 3 + e.world % 64 * 2 ^ 6 + b2n e.doomed * 2 ^ 12 + e.realm.toNat * 2 ^ 16
    + e.serial.toNat * 2 ^ 32 + e.extent % 2 ^ 41 * 2 ^ 96 + e.home % 65536 * 2 ^ 144 + e.epoch.toNat * 2 ^ 160
    + e.map % 2 ^ 64 * 2 ^ 192

/-- The 64 bits of a tier-map entry (R89). -/
def Tier.toNat (t : Tier) : Nat :=
  b2n t.res + b2n t.m * 2 + b2n t.dt * 4 + t.frame % 2 ^ 23 * 2 ^ 16 + t.cnt.toNat * 2 ^ 48

/-- What a byte of the device-private region belongs to, with its offset. -/
inductive Window where
  | record (id : Nat) (w : Wave) (off : Nat)
  | rot (h off : Nat)
  | tier (key off : Nat)
  | counter (off : Nat)

/-- Bytes of the counters: ROT-exhausted, pool-exhausted of 64 worlds, 8 bytes each, and four missed-deadline counters. -/
def counterBytes : Nat := 536

/-- The tier-map entry that holds a byte at an offset of the device-private region. -/
def State.tierByte (s : State) (o : Nat) : Option Window :=
  s.worlds.findSome? (fun w => w.2.valids.findSome? (fun r =>
    let t := Config.tierOffset w.1 r.n
    if (paKind r.out = 1 ∨ paKind r.out = 2) ∧ t ≤ o ∧ o < t + 8 * (r.size / 65536) then
      some (.tier (tierKey w.1 r.n ((o - t) / 8)) ((o - t) % 8))
    else none))

/-- What a physical byte belongs to, where it is not plain memory. -/
def State.windowAt (s : State) (pa : Nat) : Option Window :=
  if !s.inPrivate pa then none
  else match s.recordAt pa with
    | some x => some (.record x.1 x.2.1 x.2.2)
    | none =>
      let o := pa - s.privBase
      if Config.rotOffset ≤ o ∧ o < Config.rotOffset + 32 * Config.rotEntries then
        some (.rot ((o - Config.rotOffset) / 32) ((o - Config.rotOffset) % 32))
      else if Config.counterOffset ≤ o ∧ o < Config.counterOffset + counterBytes then some (.counter (o - Config.counterOffset))
      else s.tierByte o

/-- A counter's bytes as one number: the counter at a byte, and that byte's place in it. -/
def State.counterAt (s : State) (o : Nat) : Nat × Nat :=
  if o < 8 then (s.xl.rotExhausted, o)
  else if o < 520 then ((s.world ((o - 8) / 8)).poolExhausted, (o - 8) % 8)
  else ((tgetD s.plat.ioMiss ((o - 520) / 4) 0#32).toNat, (o - 520) % 4)

/-- Byte `k` of a number. -/
def byteOf (n k : Nat) : Byte := BitVec.ofNat 8 (n / 2 ^ (8 * k))

/-- A byte as its window shows it. -/
def State.windowByte (s : State) : Window → Byte
  | .record _ w off => s.recByte w off
  | .rot h off => byteOf (s.rotAt h).toNat off
  | .tier k off => byteOf (tgetD s.xl.tiers k Tier.init).toNat off
  | .counter o => byteOf (s.counterAt o).1 (s.counterAt o).2

/-- Bytes of the device-private region as a supervisor wave reads them; none where they are plain memory. -/
def State.viewBytes (s : State) (pa n : Nat) : Option (List Byte) :=
  let l := (List.range n).map (fun i => (pa + i, s.windowAt (pa + i)))
  if l.all (fun x => x.2.isNone) then none
  else some (l.map (fun x => match x.2 with
    | some w => s.windowByte w
    | none => cget s.mem x.1))

/-- A word with one byte replaced. -/
def setByte (x : Word) (k : Nat) (b : Byte) : Word := BitVec.ofNat 32 (setBits x.toNat (8 * k) 8 b.toNat)

/-- Writes word `i` of the frontier registers as a supervisor may (R186): PC, RIDX, the reserved bits and MASK. -/
def Wave.editFrontier (w : Wave) (i : Nat) (x : Word) : Wave :=
  let x' : Word :=
    if i % 3 = 1 then
      let old := (frontierWord w i).toNat
      BitVec.ofNat 32 (setBits (setBits old 16 4 (bits x.toNat 16 4)) 23 9 (bits x.toNat 23 9))
    else x
  { w with edits := tset w.edits i x' }

/-- A supervisor writes one byte of a full record (R195, R362): FLAGS, RM, any register, the frontier registers. Sticky flags that
notices have added since the spill stay. Other
header fields are the hardware's, and a KIND 2 record cannot be edited. -/
def Wave.editByte (w : Wave) (off : Nat) (b : Byte) : Wave :=
  if off < 64 then
    if w.recKind = 2#2 then w
    else if off = 22 then
      { w with recFlags := BitVec.ofNat 7 b.toNat, fpflags := BitVec.ofNat 7 b.toNat ||| (w.fpflags &&& ~~~w.recFlags), fpmode := BitVec.ofNat 3 (setBits w.fpmode.toNat 0 1 (b.toNat / 128)) }
    else if off = 23 then { w with fpmode := BitVec.ofNat 3 (setBits w.fpmode.toNat 1 2 b.toNat) }
    else w
  else if w.recKind ≠ 1#2 then w
  else
    let i := (off - 64) / 4
    let k := off % 4
    if i < 32 * w.nv then
      let r := i / 32
      let lane := i % 32
      let n := 3 * (10 * (w.nv - 1 - r)) + lane
      if w.firstFrontier ≤ r then
        if lane < 30 then w.editFrontier n (setByte (frontierWord w n) k b) else w
      else { w with regs := w.regs.writeV r lane (setByte (w.regs.readV r lane) k b) }
    else
      let j := (i - 32 * w.nv) / 4
      if (i - 32 * w.nv) % 4 ≠ 0 then w
      else if j < 64 then { w with regs := w.regs.writeS j (setByte (w.regs.readS j) k b) }
      else if j < 70 then
        { w with regs := w.regs.writeP (j - 64) 0xFFFFFFFF#32 (setByte (w.regs.readP (j - 64)) k b) }
      else if j = 70 then { w with valid := setByte w.valid k b }
      else w

/-- A write of a reserved mode, 5 to 7, to RM is ignored (R171): the modes of `s` stand. -/
def State.keepModes (s t : State) : State :=
  { t with waves := t.waves.map (fun (e : Nat × Wave) =>
      if 4 < e.2.fpmode.toNat then (e.1, { e.2 with fpmode := (tgetD s.waves e.1 e.2).fpmode }) else e) }

/-- Bytes written over a number. -/
def overBytes (n : Nat) (l : List (Nat × Byte)) : Nat := l.foldl (fun n x => setBits n (8 * x.1) 8 x.2.toNat) n

/-- A supervisor writes bytes of a ROT entry: STATE, WORLD, EXTENT and MAP alone change; a reserved STATE is ignored, and so is an
EXTENT that no object has (R31, R32; log 18, DESIGN CHOICE). Cached copies of the entry go first (R33). -/
def State.rotWrite (s : State) (h : Nat) (l : List (Nat × Byte)) : State :=
  let e := s.rotAt h
  let n := overBytes e.toNat l
  let ext := bits n 96 41
  (s.dropTlb (fun t => decide (t.obj = some h))).putRot h
    { e with state := (rotStateOf (bits n 0 3)).getD e.state, world := bits n 6 6
             extent := if ext = 0 ∨ 2 ^ 40 < ext then e.extent else ext, map := bits n 204 52 * 4096 }

/-- A supervisor writes bytes of a tier-map entry: CNT alone changes (R89, R92). -/
def State.tierWrite (s : State) (k : Nat) (l : List (Nat × Byte)) : State :=
  let t := tgetD s.xl.tiers k Tier.init
  { s with xl := { s.xl with tiers := tset s.xl.tiers k { t with cnt := BitVec.ofNat 16 (bits (overBytes t.toNat l) 48 16) } } }

/-- A supervisor writes bytes of the counters: 0 clears a missed-deadline counter, and nothing else is taken (R106). -/
def State.counterWrite (s : State) (l : List (Nat × Byte)) : State :=
  (List.range 4).foldl (fun (s : State) i =>
    let c := (tgetD s.plat.ioMiss i 0#32).toNat
    let mine := l.filter (fun x => decide (520 + 4 * i ≤ x.1 ∧ x.1 < 524 + 4 * i))
    if mine ≠ [] ∧ overBytes c (mine.map (fun x => (x.1 - 520 - 4 * i, x.2))) = 0 then
      { s with plat := { s.plat with ioMiss := tdel s.plat.ioMiss i } }
    else s) s

/-- A supervisor's cells that fall in windows of the device-private region are written there. -/
def State.windowsWrite (s : State) (cells : List (Nat × Byte)) : State :=
  let l := cells.filterMap (fun c => (s.windowAt c.1).map (fun w => (w, c.2)))
  if l.isEmpty then s
  else
    let rots := l.filterMap (fun x => match x.1 with
      | .rot h o => some (h, o, x.2)
      | _ => none)
    let tiers := l.filterMap (fun x => match x.1 with
      | .tier k o => some (k, o, x.2)
      | _ => none)
    let cnts := l.filterMap (fun x => match x.1 with
      | .counter o => some (o, x.2)
      | _ => none)
    let s := s.keepModes (l.foldl (fun (s : State) x => match x.1 with
      | .record id w o => s.putWave id ((tgetD s.waves id w).editByte o x.2)
      | _ => s) s)
    let s := (dedupN (rots.map (fun x => x.1))).foldl (fun (s : State) h =>
      s.rotWrite h ((rots.filter (fun x => decide (x.1 = h))).map (fun x => x.2))) s
    let s := (dedupN (tiers.map (fun x => x.1))).foldl (fun (s : State) k =>
      s.tierWrite k ((tiers.filter (fun x => decide (x.1 = k))).map (fun x => x.2))) s
    s.counterWrite cnts

/-- A byte that a supervisor stores into an object's page map, from its installation on: W alone changes (R88). -/
def State.mapCell (s : State) (c : Nat × Byte) : Nat × Byte :=
  match s.rot.find? (fun e => decide ((e.2.state = .resident ∨ e.2.state = .departed) ∧ e.2.map ≤ c.1 ∧ c.1 < e.2.map + 8 * ceilDiv e.2.extent 65536)) with
  | none => c
  | some e =>
    let old := cget s.mem c.1
    (c.1, if (c.1 - e.2.map) % 8 = 0 then (old &&& 0xFD#8) ||| (c.2 &&& 2#8) else old)

/-- The cells of a supervisor's store that go to plain memory. -/
def State.plainCells (s : State) (cells : List (Nat × Byte)) : List (Nat × Byte) :=
  (cells.filter (fun c => (s.windowAt c.1).isNone)).map s.mapCell

/-- A cached translation is of an object whose page map a store of cells reaches (R99; log 43, DEDUCED). -/
def State.mapStored (s : State) (cells : List (Nat × Byte)) (t : Tlb) : Bool :=
  s.rot.any (fun e => decide (t.obj = some e.1) && cells.any (fun c =>
    decide (e.2.map ≤ c.1 ∧ c.1 < e.2.map + 8 * ceilDiv e.2.extent 65536)))

/-- A supervisor wave writes cells: what lies in windows of the device-private region goes there, and the rest is a coherent store
(R87, R344, log 8, DEDUCED). -/
def State.supCells (s : State) (w : Wave) (cells : List (Nat × Byte)) : State :=
  ((s.dropTlb (s.mapStored cells)).windowsWrite cells).storeCells (some (dieOf w.core)) w.world (s.stampOf w) (s.plainCells cells)

/-- A supervisor wave writes bytes at a physical address. -/
def State.supWrite (s : State) (w : Wave) (a : Nat) (bs : List Byte) : State := s.supCells w (cellsOf a bs)

/-- LD_GLOBAL (R272). -/
def execLdGlobal (f : FmtM) (s : State) : Out := loadG (.ldGlobal f) f false State.viewBytes s
/-- LD_GLOBAL_SIGNED (R272). -/
def execLdGlobalSigned (f : FmtM) (s : State) : Out := loadG (.ldGlobalSigned f) f true State.viewBytes s

end Sys2Proof.Machine
end

