-- ==== Sys2Proof/Machine/Barriers.lean ====
section
/-! DEFINITION. Masked synchronisation, ridges and lowering (R188 to R194, R337 to R339). -/

namespace Sys2Proof.Machine

/-! ### Masked synchronisation (R190) -/

/-- What evaluating a masked instruction finds, for a bundle with the lanes `A` active. -/
inductive SyncRes where
  | mismatch
  | hold
  | act (m : Mask)
  deriving DecidableEq, Repr

/-- The evaluation of R190 for a non-empty A. -/
def syncEval (exited bundle act : Mask) (mk : Nat → Mask) : SyncRes :=
  let m := mk (Mask.first act)
  if (Mask.lanes act).any (fun l => decide (mk l ≠ m)) || decide (act &&& ~~~m ≠ 0#32)
      || decide (m &&& bundle &&& ~~~act ≠ 0#32) || decide (m &&& exited ≠ 0#32) then .mismatch
  else if m &&& ~~~bundle ≠ 0#32 then .hold
  else .act m

/-- The bundle's entry is held, and the summit is chosen afresh (R190). -/
def State.holdEntry (s : State) (id : Nat) (w : Wave) (b : Entry) : State :=
  (s.endStep id w).reselect id { w with bundle := none, clause := none, others := { b with hld := true, ridx := 0 } :: w.others }

/-- Runs a masked instruction (R190): `k` acts once for the wave. -/
def masked (i : Instr) (mk : Wave → Nat → Mask) (s : State) (k : Wave → Entry → Mask → State → Act) : Out :=
  issue i s (fun w m s =>
    if m = 0#32 then .done s
    else match w.bundle with
      | none => .done s
      | some b =>
        match syncEval w.exited b.mask m (mk w) with
        | .mismatch => .raise (w.mkRec cMask stData (Mask.first m)) s
        | .hold => .jump (s.holdEntry s.cur w b)
        | .act mm => k w b mm s)

/-! ### Ridge phases (R188, R189, R192) -/

/-- The 128 bits of a ridge-table entry (R188). -/
def Ridge.toNat (e : Ridge) : Nat :=
  e.members.toNat + e.num % 256 * 2 ^ 48 + e.owner % 128 * 2 ^ 56 + 2 ^ 63 + e.arrived % 4096 * 2 ^ 64
    + e.expect % 4096 * 2 ^ 76 + b2n e.expset * 2 ^ 88 + b2n e.phase * 2 ^ 89 + b2n e.hold * 2 ^ 90

/-- The wave's record for a ridge (R189). -/
def Wave.ridgeRec (w : Wave) (r : Nat) : Option RidgeRec := w.ridges.find? (fun x => decide (x.num = r))

/-- Replaces the wave's record for a ridge. -/
def Wave.setRidge (w : Wave) (x : RidgeRec) : Wave :=
  { w with ridges := w.ridges.map (fun y => if y.num = x.num then x else y) }

/-- Puts a ridge-table entry of a core. -/
def State.putRidge (s : State) (core k : Nat) (e : Ridge) : State :=
  s.putCore core { s.core core with ridges := tset (s.core core).ridges k e }

/-- The entries of a wave after the completion of a phase it waits for: they go on after the barrier in the clause as its fetch
read it (R182, R192, R194). -/
def State.passBarrier (s : State) (w : Wave) (r : Nat) (ph : Bool) (l : List Entry) : List Entry :=
  l.foldl (fun acc e =>
    if e.bwt = some (r, ph) then
      if (if e.words = 0 then (s.countAt w e.pc).getD 1 else e.words) = 1 then
        let pc := nextPc e.pc 1
        joinEntry (s.prioAt w pc) pc e.mask false acc
      else { e with bwt := none, passed := true } :: acc
    else e :: acc) []

/-- Lanes that return from a barrier at which they have run routines (R197). -/
def State.pastRoutines (s : State) (w : Wave) (back : Mask) : State × Wave :=
  if w.routines &&& back = 0#32 then (s, w) else (s.draw regFree, w.afterRoutines (w.routines &&& back) s.free)

/-- A bundle whose clause runs meanwhile ends in a fresh choice of the summit (R182). -/
def chooseAgain (l : List Entry) : List Entry :=
  l.map (fun e => { e with mid := e.mid.map (fun m => { m with ctl := true }) })

/-- A wave learns that a phase of its ridge has completed (R192, R194): its record is cleared and its waiting entries
are released. A wave that was about to be lowered there stays on its slot. -/
def State.releaseWave (s : State) (id : Nat) (w : Wave) (r : Nat) (ph : Bool) : State :=
  match w.ridgeRec r with
  | none => s
  | some x =>
    if x.pending ∧ x.phase = ph then
      let w : Wave := { w.setRidge { x with pending := false } with seen := s.nextId }
      let base : List Entry := if w.edits.isEmpty then w.others else w.restored.1.map (fun x => x.1)
      let l := s.passBarrier w r ph base
      let back := (base.filter (fun e => decide (e.bwt = some (r, ph)))).foldl (fun m e => m ||| e.mask) (0#32 : Mask)
      if back ≠ 0#32 then
        let x := s.pastRoutines w back
        let s := x.1
        let w := { x.2 with others := chooseAgain l, ctl := true }
        match w.status with
        | .slot => if w.bundle.isSome then s.putWave id w else s.reselect id { w with ctl := false }
        | .leaving .barrier => s.reselect id { w with status := .slot, ctl := false }
        | .leaving _ => s.putWave id w
        | .lowered => s.putWave id { w with snap := sortEntries l, edits := [], status := .cleared }
        | _ => s.putWave id { w with snap := sortEntries l, edits := [] }
      else s.putWave id w
    else s

/-- complete(r) of R192. -/
def State.completePhase (s : State) (wg core k : Nat) (e : Ridge) : State :=
  let s := s.putRidge core k { e with phase := !e.phase, arrived := 0, expset := false }
  (s.waves.filter (fun x => decide (x.2.wg = wg) && !x.2.sup)).foldl (fun (s : State) x =>
    s.releaseWave x.1 (tgetD s.waves x.1 x.2) e.num e.phase) s

/-- What the checks of an arrival find (R192): its table entry, or the code of a condition. -/
def State.arrivalCheck (s : State) (w : Wave) (m : Mask) (r k : Nat → Nat) : Except Nat (Nat × Ridge) :=
  let r0 := r (Mask.first m)
  let k0 := k (Mask.first m)
  if (Mask.lanes m).any (fun l => decide (r l ≠ r0)) then .error cMember
  else match s.ridgeOf w r0 with
    | none => .error cMember
    | some x =>
      if !x.2.members.getLsbD w.num then .error cMember
      else if (Mask.lanes m).any (fun l => decide (k l ≠ k0)) then .error cCount
      else if k0 = 0 ∨ 32 * popCount x.2.members.toNat 48 < k0 then .error cCount
      else if x.2.expset ∧ k0 ≠ x.2.expect then .error cCount
      else if k0 < x.2.arrived + Mask.count m then .error cCount
      else .ok x

/-- An arrival that has passed its checks (R192), with the phase it arrived in and whether it completed that phase. -/
def State.arrive (s : State) (id : Nat) (w : Wave) (m : Mask) (k : Nat) (x : Nat × Ridge) : State × Bool :=
  let e := { x.2 with arrived := x.2.arrived + Mask.count m, expect := k, expset := true }
  let w := w.setRidge { num := x.2.num, pending := true, phase := x.2.phase }
  let s := (s.putWave id w).putRidge w.core x.1 e
  if e.arrived = e.expect ∧ !e.hold then (s.completePhase w.wg w.core x.1 e, true) else (s, false)

/-! ### Lowering (R194, R339) -/

/-- The wave counts as waiting at a barrier: every entry waits or is held there, all at one PC (R194). -/
def Wave.waiting (w : Wave) : Bool :=
  w.bundle.isNone && w.others.any (fun e => e.bwt.isSome) && w.others.all (fun e => e.bwt.isSome || e.hld)
    && w.others.all (fun e => decide (some e.pc = w.others.head?.map (fun x => x.pc)))

/-- An unfolding runs on a ridge of the wave (R194). -/
def State.inPool (s : State) (w : Wave) : Bool :=
  w.ridges.any (fun x => match s.ridgeOf w x.num with
    | some e => e.2.hold && e.2.members.getLsbD w.num
    | none => false)

/-- The wave is lowered to its carry record: every register outside the site's carry set becomes a free value. -/
def State.toCarry (s : State) (id : Nat) (w : Wave) : State :=
  let site := match w.others with
    | e :: _ => s.carrySite w e.pc
    | [] => none
  (s.draw regFree).finishLeave id (w.keepCarry site s.free) .barrier

/-- Lowers a wave that waits at a barrier, when its fills have landed (R57, R194). -/
def State.lowerWave (s : State) (id : Nat) (w : Wave) : State :=
  let s := s.endStep id w
  if w.fillsDue then s.putWave id { w with status := .leaving .barrier } else s.toCarry id w

/-- The wave may be lowered now at its own request (R339). -/
def State.lowerDue (s : State) (w : Wave) : Bool :=
  decide (w.status = .slot) && w.lowerReq && w.waiting && !s.inPool w

/-- A bundle's entry begins to wait for a phase (R181, R182); a wave with a lower request leaves its slot (R339). -/
def State.waitEntry (s : State) (id : Nat) (w : Wave) (b : Entry) (r : Nat) (ph : Bool) : State :=
  let w := { w with bundle := none, clause := none, others := { b with
    bwt := some (r, ph), hld := false, ridx := 0, words := (w.clause.map (fun c => c.words.length)).getD 0 } :: w.others }
  if s.lowerDue w then s.lowerWave id w else (s.endStep id w).reselect id w

/-! ### The instructions -/

/-- The mask of SYNCW and RWAIT (R243, R337): the literal, or a register. -/
def maskImm (f : FmtAI) (w : Wave) (lane : Nat) : Mask :=
  if f.a = Operand.zero then f.imm else BitVec.ofNat 32 (w.src f.a 1 lane)

/-- SYNCW (R190, R191, R243): an arrival is a release at CORE scope, so that open acquires and fences of the wave come first
(R118, R119). -/
def execSyncw (f : FmtAI) (s : State) : Out := masked (.syncw f) (maskImm f) s
  (fun w _ _ s => s.gated s.cur w 3 1 (fun _ s => .done s))

/-- An arrival instruction: `mk` gives the mask and `k` the count. It is a release at CORE scope (R118). -/
def arriveOp (i : Instr) (f : FmtAI) (mk : Wave → Nat → Mask) (k : Wave → Nat → Nat) (sync : Bool) (s : State) : Out :=
  masked i mk s (fun w b m s =>
    match s.arrivalCheck w m (fun l => w.src f.dst 1 l) (k w) with
    | .error code => .raise (w.mkRec code stData (Mask.first m)) s
    | .ok x => s.gated s.cur w 3 1 (fun w s =>
      let r := s.arrive s.cur w m (k w (Mask.first m)) x
      if !sync || r.2 then .done r.1
      else .jump (r.1.waitEntry s.cur (tgetD r.1.waves s.cur w) b x.2.num x.2.phase)))

/-- Mask and count of form M and form K (R337). -/
def maskM (f : FmtAI) (_ : Wave) (_ : Nat) : Mask := f.imm
@[inherit_doc maskM] def countM (f : FmtAI) (w : Wave) (lane : Nat) : Nat := w.src f.a 1 lane
@[inherit_doc maskM] def maskK (f : FmtAI) (w : Wave) (lane : Nat) : Mask := BitVec.ofNat 32 (w.src f.a 1 lane)
@[inherit_doc maskM] def countK (f : FmtAI) (_ : Wave) (_ : Nat) : Nat := f.imm.toNat

/-- RARRIVE, form M (R192). -/
def execRarriveM (f : FmtAI) (s : State) : Out := arriveOp (.rarriveM f) f (maskM f) (countM f) false s
/-- RARRIVE, form K (R192). -/
def execRarriveK (f : FmtAI) (s : State) : Out := arriveOp (.rarriveK f) f (maskK f) (countK f) false s
/-- RSYNC, form M (R192). -/
def execRsyncM (f : FmtAI) (s : State) : Out := arriveOp (.rsyncM f) f (maskM f) (countM f) true s
/-- RSYNC, form K (R192). -/
def execRsyncK (f : FmtAI) (s : State) : Out := arriveOp (.rsyncK f) f (maskK f) (countK f) true s

/-- RWAIT (R193). -/
def execRwait (f : FmtAI) (s : State) : Out :=
  masked (.rwait f) (maskImm f) s (fun w b m s =>
    let r := w.src f.dst 1 (Mask.first m)
    let fail : Act := .raise (w.mkRec cMember stData (Mask.first m)) s
    if (Mask.lanes m).any (fun l => decide (w.src f.dst 1 l ≠ r)) then fail
    else match s.ridgeOf w r with
      | none => fail
      | some x =>
        if !x.2.members.getLsbD w.num then fail
        else match w.ridgeRec r with
          | some y => if y.pending then .jump (s.waitEntry s.cur w b r y.phase) else .done s
          | none => .done s)

/-- RQUERY (R338). -/
def execRquery (f : FmtX) (s : State) : Out :=
  issue (.rquery f) s (fun w m s =>
    let v := match s.ridgeOf w (w.src f.a 1 (Mask.first m)) with
      | some x => x.2.toNat
      | none => 0
    .done (s.putWave s.cur (w.put f.dst 4 m (fun _ => v))))

/-- LOWER (R339). -/
def execLower (f : FmtX) (s : State) : Out :=
  issue (.lower f) s (onWave fun w m => if m = 0#32 then w else { w with lowerReq := true })

end Sys2Proof.Machine
end

