-- ==== Sys2Proof/Machine/Pointers.lean ====
section
/-! DEFINITION. Far names, near pointers and the pointer instructions (R27 to R53). -/

namespace Sys2Proof.Machine

/-- One step of the CRC-7 of R28: the register takes the next message bit. -/
def crcStep (r : Nat) (b : Bool) : Nat :=
  let top := bit r 6 != b
  let r' := r * 2 % 128
  if top then r' ^^^ 9 else r'

/-- CRC-7 over the 80 bits [119:40] of a name, highest first, by x^7 + x^3 + 1 (R28). -/
def crc7 (body : Nat) : Nat := (List.range 80).foldl (fun r i => crcStep r (bit body (79 - i))) 0

/-- The 128 bits of a far name (R27). -/
def farName (realm serial off : Nat) : Nat :=
  let body := realm % 2 ^ 16 * 2 ^ 64 + serial % 2 ^ 64
  2 ^ 127 + crc7 body * 2 ^ 120 + body * 2 ^ 40 + off % 2 ^ 40

/-- The value checks of STN and PNAME in one lane, and the slot that STN writes (R41, R46). -/
def State.nameSlot (s : State) (world x addr : Nat) : Except Cond Nat :=
  if bit x 63 then
    let e := s.rotAt (bits x 40 20)
    if e.state = .absent ∨ e.gen.toNat ≠ bits x 60 3 then .error { code := cStale, step := stData, addr := addr }
    else if e.world ≠ world then .error { code := cWorld, step := stData, addr := addr }
    else if e.state = .gone then .error { code := cGone, step := stData, addr := addr }
    else .ok (farName e.realm.toNat e.serial.toNat (bits x 0 40))
  else if bits x 57 6 ≠ 0 then .error { code := cNoncanon, step := stData, addr := addr }
  else .ok (bits x 0 57)

/-- What an LDN slot gives one lane (R38). -/
inductive NameVal where
  | value (x : Nat)
  | cond (c : Cond)
  /-- The name has no entry: the directory agent resolves it. -/
  | unresolved (realm : BitVec 16) (serial : BitVec 64)

/-- The ROT entry of a (realm, serial), with its handle (R33). -/
def State.rotFind (s : State) (realm : BitVec 16) (serial : BitVec 64) : Option (Nat × RotEnt) :=
  s.rot.find? (fun e => decide (e.2.state ≠ .absent) && decide (e.2.realm = realm) && decide (e.2.serial = serial))

/-- The near pointer of an entry and an offset (R30). -/
def nearPtr (h : Nat) (gen : BitVec 3) (off : Nat) : Nat := 2 ^ 63 + gen.toNat * 2 ^ 60 + h * 2 ^ 40 + off % 2 ^ 40

/-- LDN's effect on a slot, up to the directory's answer (R29, R38). -/
def State.slotVal (s : State) (world slot addr : Nat) : NameVal :=
  let fail (c : Nat) : NameVal := .cond { code := c, step := stData, addr := addr }
  if !bit slot 127 then if bits slot 57 70 ≠ 0 then fail cNameCheck else .value (bits slot 0 57)
  else if bits slot 120 7 ≠ crc7 (bits slot 40 80) then fail cNameCheck
  else
    let realm := BitVec.ofNat 16 (bits slot 104 16)
    let serial := BitVec.ofNat 64 (bits slot 40 64)
    match s.rotFind realm serial with
    | none => .unresolved realm serial
    | some (h, e) =>
      if e.world ≠ world then fail cUnresolved
      else if e.doomed ∨ e.state = .gone then fail cGone
      else .value (nearPtr h e.gen (bits slot 0 40))

/-- The directory's answer for a name that has no entry, where it has come (R38). -/
def State.nameAnswer (s : State) (world : Nat) (realm : BitVec 16) (serial : BitVec 64) : Option NameRes :=
  (s.xl.resolved.find? (fun r => decide (r.1 = world) && decide (r.2.1 = realm) && decide (r.2.2.1 = serial))).map
    (fun r => r.2.2.2)

/-- Takes a directory answer off the list. -/
def State.dropAnswer (s : State) (world : Nat) (realm : BitVec 16) (serial : BitVec 64) : State :=
  { s with xl := { s.xl with resolved := s.xl.resolved.filter (fun r =>
      !(decide (r.1 = world) && decide (r.2.1 = realm) && decide (r.2.2.1 = serial))) } }

/-- A new entry for a resolved object (R34): the fields that the table names, over the absent entry. -/
def newEntry (e : RotEnt) (world : Nat) (realm : BitVec 16) (serial : BitVec 64) (extent home : Nat) : RotEnt :=
  { e with state := .arriving, world := world, realm := realm, serial := serial, extent := extent, home := home }

/-- What the resolution of one lane's slot does to an LDN (R36, R38, R39). -/
inductive NameStep where
  | value (x : Nat) (s : State)
  | cond (c : Cond) (s : State)
  /-- The bundle holds until the directory answers. -/
  | hold (realm : BitVec 16) (serial : BitVec 64) (s : State)
  /-- No entry is free: the wave parks, and the directory counts the park (R36). -/
  | park (u : MissUnit) (s : State)

/-- Resolves one lane's slot (R38); an LDN through a departed entry makes it arrive (R34). The directory's answer serves
every requester that waits for it (R40). -/
def State.resolveSlot (s : State) (w : Wave) (slot addr : Nat) : NameStep :=
  match s.slotVal w.world slot addr with
  | .value x =>
    let e := s.rotAt (bits x 40 20)
    if bit x 63 ∧ e.state = .departed then
      .value x ((s.putRot (bits x 40 20) { e with state := .arriving }).joinPending (s.stampOf w) (.obj (bits x 40 20)))
    else .value x s
  | .cond c => .cond c s
  | .unresolved realm serial =>
    let fail (c : Nat) : NameStep := .cond { code := c, step := stData, addr := addr } s
    match s.nameAnswer w.world realm serial with
    | none => .hold realm serial (s.joinPending (s.stampOf w) (.resolve w.world realm serial))
    | some .unknown => fail cUnresolved
    | some .noObject => fail cUnresolved
    | some .destroyed => fail cGone
    | some (.object extent home) =>
      match s.takeHandle with
      | none => .park (.resolve w.world realm serial) s
      | some (h, s) =>
        let e := newEntry (s.rotAt h) w.world realm serial extent home
        .value (nearPtr h e.gen (bits slot 0 40))
          (((s.putRot h e).dropAnswer w.world realm serial).joinPending (s.stampOf w) (.obj h))

/-- What the lanes of an LDN give: a value for every lane, or the first lane that stops (R38, R221). -/
inductive NameAll where
  | ok (l : List (Nat × Nat)) (s : State)
  | cond (lane : Nat) (c : Cond) (s : State)
  | hold (names : List (BitVec 16 × BitVec 64)) (s : State)
  | park (us : List MissUnit) (s : State)

/-- Resolves the lanes in order: a condition goes before a park, and a park before a hold (R95). -/
def State.resolveLanes (s : State) (w : Wave) : List (Nat × Nat × Nat) → NameAll
  | [] => .ok [] s
  | (lane, slot, addr) :: t =>
    match s.resolveSlot w slot addr with
    | .cond c s => .cond lane c s
    | .value x s =>
      match s.resolveLanes w t with
      | .ok l s => .ok ((lane, x) :: l) s
      | r => r
    | .hold r n s =>
      match s.resolveLanes w t with
      | .ok _ s => .hold [(r, n)] s
      | .hold l s => .hold ((r, n) :: l) s
      | x => x
    | .park u s =>
      match s.resolveLanes w t with
      | .ok _ s => .park [u] s
      | .hold _ s => .park [u] s
      | .park us s => .park (if us.contains u then us else u :: us) s
      | r => r

/-- The 16 bytes of a slot: the newest bytes of the core's store queues, then the die cache (R42, R125). -/
def State.slotBytes (s : State) (w : Wave) (pa : Nat) : State × List Byte :=
  let c := s.cacheRead (dieOf w.core) w.world pa 16 none (s.stampOf w)
  (c.1, (List.range 16).map (fun k => (s.queueByte w.core s.nextId (pa + k)).getD (c.2.getD k 0#8)))

/-- A returning atomic of the core, not yet applied, addresses a byte of a run (R125). -/
def State.atomicOn (s : State) (core pa n : Nat) : Bool :=
  (s.wavesOn core).any (fun w => w.storeQ.any (fun q => (match q.kind with
    | .atomic _ _ _ => true
    | _ => false) && q.touches pa n))

/-- A load of the core has still to take its value from a sector of a run (R120). -/
def State.loadsOn (s : State) (core pa n : Nat) : Bool :=
  (s.wavesOn core).any (fun w => w.loads.any (fun l => l.lanes.any (fun x => match x.2.due with
    | some a => decide (a / 64 * 64 < pa + n ∧ pa < a / 64 * 64 + 64)
    | none => false)))

/-- An LDN holds its bundle from its issue on, with its destination empty (R39). -/
def State.beginLdn (s : State) (id : Nat) (f : FmtM) (m : Mask) (names : List (BitVec 16 × BitVec 64)) : State :=
  (s.updWave id (fun w => { w with ldn := some names })).emptyDst id f.data 2 m

/-- An LDN that held its bundle stops: its destination's full/empty bits are as before it (R39). -/
def State.stopLdn (s : State) (id : Nat) (f : FmtM) (m : Mask) : State :=
  ((s.endHold id).updWave id (fun w => { w with ldn := none })).refillDst id f.data 2 m

/-- Failing answers for which no LDN waits any more are dropped (R40). -/
def State.tidyNames (s : State) : State :=
  { s with xl := { s.xl with resolved := s.xl.resolved.filter (fun r => match r.2.2.2 with
      | .object _ _ => true
      | _ => s.waves.any (fun e => decide (e.2.world = r.1) && (match e.2.ldn with
        | some l => l.contains (r.2.1, r.2.2.1)
        | none => false))) } }

/-- LDN (R38, R39): it holds its bundle, with its destination empty, until its slot has been read and its name resolved; a
fault or a park leaves the destination as it was. The LDNs of a run go one after another: what back-to-back issue
adds is time alone (log 55, DEDUCED). -/
def execLdn (f : FmtM) (s : State) : Out :=
  issueM (.ldn f) f s (fun w m s =>
    if m = 0#32 then .done s
    else if w.hold.isEmpty ∧ w.ldn = none ∧ !w.loads.isEmpty then .stay s
    else Act.onRaise (fun s => (s.stopLdn s.cur f m).tidyNames) (s.gated s.cur w f.order.toNat f.scope.toNat (fun w s =>
      s.access s.cur w f true 16 .load m (fun fa pas s =>
        let rem := pas.filter (fun x => s.isRemote x.2)
        let loc := pas.filter (fun x => !s.isRemote x.2)
        if loc.any (fun x => s.atomicOn w.core x.2 16 || s.loadsOn w.core x.2 16 || w.cinvDue s.nextId (x.2 / 128)) then .stay s
        else match s.dataCheck w 16 loc with
        | .wait => .stay s
        | .poison lane _ s => .raise (w.poisonRec lane (fa lane)) s
        | .ok s =>
          match s.remoteLoad s.cur (tgetD s.waves s.cur w) 16 fa rem with
          | .wait s => .stay s
          | .held s => .jump (s.beginLdn s.cur f m [])
          | .raise r s => .raise r s
          | .have bs s =>
            let w := tgetD s.waves s.cur w
            let r := pas.foldl (fun (acc : State × List (Nat × Nat × Nat)) x =>
              match bs.find? (fun b => decide (b.1 = x.1)) with
              | some b => (acc.1, acc.2 ++ [(x.1, leNat b.2, fa x.1)])
              | none =>
                let q := acc.1.slotBytes w x.2
                (q.1, acc.2 ++ [(x.1, leNat q.2, fa x.1)])) (s.fillRequests w loc, [])
            match r.1.resolveLanes w r.2 with
            | .cond lane c s => .raise (w.recOf lane c) s
            | .hold names s => .stay (s.beginLdn s.cur f m names)
            | .park us s =>
              let s := s.stopLdn s.cur f m
              .jump ({ s with xl := { s.xl with rotExhausted := s.xl.rotExhausted + 1 } }.parkOn s.cur (tgetD s.waves s.cur w) us)
            | .ok l s =>
              let s := s.stopLdn s.cur f m
              let w := tgetD s.waves s.cur w
              .done (((s.putWave s.cur (w.put f.data 2 m (fun lane =>
                match l.find? (fun x => decide (x.1 = lane)) with
                | some x => x.2
                | none => 0))).acquire w (if f.order = 2#3 then f.scope.toNat else 0)).see s.cur)))))

/-- STN (R41): the value checks come after translation and permission of every lane. -/
def execStn (f : FmtM) (s : State) : Out :=
  issueM (.stn f) f s (fun w m s =>
    if m = 0#32 then .done s
    else s.gated s.cur w f.order.toNat f.scope.toNat (fun w s =>
      if !w.queueRoom then .stay s
      else s.access s.cur w f true 16 .store m (fun fa pas s =>
        let w := tgetD s.waves s.cur w
        match formLanes (fun l => s.nameSlot w.world (w.src f.data 2 l) (fa l)) (Mask.lanes m) with
        | .error e => .raise (w.recOf e.1 e.2) s
        | .ok slots =>
          if !s.storeRoom w pas then .stay s
          else
            let lanes : List QLane := pas.map (fun x =>
              { lane := x.1, pa := x.2
                bytes := leBytes 16 (match slots.find? (fun y => decide (y.1 = x.1)) with
                  | some y => y.2
                  | none => 0)
                b := 0#64, cmp := 0#64, posted := s.isRemote x.2, va := fa x.1 })
            let s := s.fillRequests w (pas.filter (fun x => !s.isRemote x.2))
            .done (s.enqueue s.cur w .store lanes [] 16))))

/-- PADD in one lane (R43): a near pointer keeps N, GEN and HANDLE. -/
def paddVal (a : Nat) (b : Int) : Except Cond Nat :=
  if bit a 63 then .ok (a / 2 ^ 40 * 2 ^ 40 + wrapN 40 ((bits a 0 40 : Nat) + b))
  else if bits a 57 6 ≠ 0 then .error { code := cNoncanon, step := stData }
  else
    let t : Int := (a : Int) + b
    if t < 0 ∨ (2 ^ 57 : Int) ≤ t then .error { code := cNoncanon, step := stData } else .ok t.toNat

/-- The displacement of PADD: 32 bits for .i32, 64 for .i64, signed (R43). -/
def Wave.paddB (w : Wave) (f : FmtA3) (lane : Nat) : Int :=
  if f.ty = 2#4 then sextN 32 (w.src f.b 1 lane) else sextN 64 (w.src f.b 2 lane)

/-- PADD (R43). -/
def execPadd (f : FmtA3) (s : State) : Out :=
  issue (.padd f) s (fun w m s =>
    match formLanes (fun l => paddVal (w.src f.a 2 l) (w.paddB f l)) (Mask.lanes m) with
    | .error e => .raise (w.recOf e.1 e.2) s
    | .ok l => .done (s.putWave s.cur (w.put f.dst 2 m (fun lane =>
        match l.find? (fun x => decide (x.1 = lane)) with
        | some x => x.2
        | none => 0))))

/-- Near pointers of one object. -/
def sameObj (a b : Nat) : Bool := bit a 63 && bit b 63 && decide (a / 2 ^ 40 = b / 2 ^ 40)
/-- Canonical flat addresses. -/
def bothFlat (a b : Nat) : Bool := decide (a < 2 ^ 57) && decide (b < 2 ^ 57)

/-- PSUB in one lane (R44): the difference and the truth value. -/
def psubVal (a b : Nat) : Nat × Bool :=
  if sameObj a b then (wrapN 64 ((bits a 0 40 : Nat) - (bits b 0 40 : Nat) : Int), true)
  else if bothFlat a b then (wrapN 64 ((a : Int) - (b : Int)), true)
  else (0, false)

/-- PSUB (R44): a pair destination and a predicate destination. -/
def execPsub (f : FmtA3) (s : State) : Out :=
  issue (.psub f) s (onWave fun w m =>
    let r (l : Nat) : Nat × Bool := psubVal (w.src f.a 2 l) (w.src f.b 2 l)
    (w.put f.dst 2 m (fun l => (r l).1)).put f.c 1 m (fun l => b2n (r l).2))

/-- The comparison instruction of two pointers whose truth value is `g`. -/
def ptrCmp (i : Instr) (f : FmtA3) (g : Nat → Nat → Bool) (s : State) : Out :=
  issue i s (onWave fun w m => w.put f.dst 1 m (fun l => b2n (g (w.src f.a 2 l) (w.src f.b 2 l))))

/-- PEQ (R45). -/
def execPeq (f : FmtA3) (s : State) : Out := ptrCmp (.peq f) f (fun a b => decide (a = b)) s

/-- PLT (R45). -/
def execPlt (f : FmtA3) (s : State) : Out :=
  ptrCmp (.plt f) f (fun a b => (sameObj a b || bothFlat a b) && decide (a < b)) s

/-- PLE (R45). -/
def execPle (f : FmtA3) (s : State) : Out :=
  ptrCmp (.ple f) f (fun a b => (sameObj a b || bothFlat a b) && decide (a ≤ b)) s

/-- PNAME (R46): four registers, emptied at issue and filled together. -/
def execPname (f : FmtA3) (s : State) : Out :=
  issue (.pname f) s (fun w m s =>
    if m = 0#32 then .done s
    else match formLanes (fun l => s.nameSlot w.world (w.src f.a 2 l) 0) (Mask.lanes m) with
    | .error e => .raise (w.recOf e.1 e.2) s
    | .ok l =>
      .done (s.issueLoad s.cur w
        { stamp := s.nextId, dst := f.dst, width := 16, signed := false, inv := false
          who := s.stampOf w, lanes := l.map (fun x => (x.1, .known (leBytes 16 x.2))) } 4 m none))

/-- A field of a pointer (R47). -/
def pextVal (a k : Nat) : Nat :=
  let near := bit a 63
  let flat := decide (a < 2 ^ 57)
  if k = 0 then bits a 0 32
  else if k = 1 then (if near then bits a 32 8 else if flat then bits a 32 25 else bits a 32 32)
  else if k = 2 then (if near then bits a 40 20 else 0xFFFFFFFF)
  else if k = 3 then (if near then bits a 60 3 else 0xFFFFFFFF)
  else if near then 1 else if flat then 0 else 2

/-- PEXT (R47). -/
def execPext (f : FmtA3) (s : State) : Out :=
  issue (.pext f) s (onWave fun w m => w.put f.dst 1 m (fun l => pextVal (w.src f.a 2 l) (w.src f.b 1 l)))

end Sys2Proof.Machine
end

