-- ==== Sys2Proof/Machine/FloatOps.lean ====
section
/-! DEFINITION. The floating-point, conversion and quantisation instructions (R252 to R268). Each computes bits and
flags in every active lane; the flags of all active lanes are ORed into %fpflags (R172, R252). -/

namespace Sys2Proof.Machine

/-- Writes a destination in the active lanes and ORs in the flags of those lanes (R252). -/
def Wave.putF (w : Wave) (o : Operand) (n : Nat) (m : Mask) (g : Nat → Nat × Flags) : Wave :=
  (w.put o n m (fun l => (g l).1)).orFlags ((Mask.lanes m).foldl (fun acc l => acc ||| (g l).2) 0#7)

/-- A packed type: two elements of 16 bits (R252). -/
def packed (ty : BitVec 4) : Bool := decide (ty = 8#4) || decide (ty = 9#4)

/-- Applies an operation to each element of a type (R252). -/
def perElem (ty : BitVec 4) (g : Nat → Nat → Nat → Nat × Flags) (x y z : Nat) : Nat × Flags :=
  if packed ty then
    let lo := g (x % 2 ^ 16) (y % 2 ^ 16) (z % 2 ^ 16)
    let hi := g (x / 2 ^ 16) (y / 2 ^ 16) (z / 2 ^ 16)
    (lo.1 + hi.1 * 2 ^ 16, lo.2 ||| hi.2)
  else g x y z

/-- The instruction whose result in a lane is `g`, element by element, of up to three sources of its type. -/
def fltOp (i : Instr) (f : FmtA3) (g : Fmt → Rnd → Nat → Nat → Nat → Nat × Flags) (s : State) : Out :=
  issue i s (onWave fun w m => w.putF f.dst (wordsF f.ty) m (fun l =>
    perElem f.ty (g (fmtF f.ty.toNat) (w.mode f.rnd)) (w.fsrc f.a f.ty.toNat l) (w.fsrc f.b f.ty.toNat l)
      (w.fsrc f.c f.ty.toNat l)))

/-- FADD (R254). -/
def execFadd (f : FmtA3) (s : State) : Out :=
  fltOp (.fadd f) f (fun t r x y _ => fAdd t r (t.decode x) (t.decode y)) s

/-- FSUB (R254). -/
def execFsub (f : FmtA3) (s : State) : Out :=
  fltOp (.fsub f) f (fun t r x y _ => fSub t r (t.decode x) (t.decode y)) s

/-- FMUL (R254). -/
def execFmul (f : FmtA3) (s : State) : Out :=
  fltOp (.fmul f) f (fun t r x y _ => fMul t r (t.decode x) (t.decode y)) s

/-- FFMA (R254). -/
def execFfma (f : FmtA3) (s : State) : Out :=
  fltOp (.ffma f) f (fun t r x y z => fFma t r (t.decode x) (t.decode y) (t.decode z)) s

/-- FABS (R254): a bit operation. -/
def execFabs (f : FmtA3) (s : State) : Out :=
  fltOp (.fabs f) f (fun t _ x _ _ => (x % 2 ^ (t.width - 1), 0#7)) s

/-- FNEG (R254): a bit operation. -/
def execFneg (f : FmtA3) (s : State) : Out :=
  fltOp (.fneg f) f (fun t _ x _ _ => (x ^^^ 2 ^ (t.width - 1), 0#7)) s

/-- FDIV (R255). -/
def execFdiv (f : FmtA3) (s : State) : Out :=
  fltOp (.fdiv f) f (fun t r x y _ => fDiv t r (t.decode x) (t.decode y)) s

/-- FSQRT (R255). -/
def execFsqrt (f : FmtA3) (s : State) : Out := fltOp (.fsqrt f) f (fun t r x _ _ => fSqrt t r (t.decode x)) s

/-- FRSQ (R255). -/
def execFrsq (f : FmtA3) (s : State) : Out := fltOp (.frsq f) f (fun t r x _ _ => fRsq t r (t.decode x)) s

/-- FEXP2 (R255). -/
def execFexp2 (f : FmtA3) (s : State) : Out := fltOp (.fexp2 f) f (fun t r x _ _ => fExp2 t r x) s

/-- FLOG2 (R255). -/
def execFlog2 (f : FmtA3) (s : State) : Out := fltOp (.flog2 f) f (fun t r x _ _ => fLog2 t r x) s

/-- FSCALE (R256): b is a 32-bit integer. -/
def execFscale (f : FmtA3) (s : State) : Out :=
  issue (.fscale f) s (onWave fun w m => w.putF f.dst (wordsF f.ty) m (fun l =>
    fScale (fmtF f.ty.toNat) (w.mode f.rnd) ((fmtF f.ty.toNat).decode (w.fsrc f.a f.ty.toNat l))
      (sextN 32 (w.src f.b 1 l))))

/-- FGETEXP (R256): one 32-bit register. -/
def execFgetexp (f : FmtA3) (s : State) : Out :=
  issue (.fgetexp f) s (onWave fun w m => w.putF f.dst 1 m (fun l =>
    fGetexp ((fmtF f.ty.toNat).decode (w.fsrc f.a f.ty.toNat l))))

/-- FCOPYSIGN (R256): a bit operation. -/
def execFcopysign (f : FmtA3) (s : State) : Out :=
  fltOp (.fcopysign f) f (fun t _ x y _ =>
    (x % 2 ^ (t.width - 1) + y / 2 ^ (t.width - 1) % 2 * 2 ^ (t.width - 1), 0#7)) s

/-- FMIN (R257): minimumNumber. -/
def execFmin (f : FmtA3) (s : State) : Out := fltOp (.fmin f) f (fun t _ x y _ => fMinMax t false true x y) s

/-- FMAX (R257): maximumNumber. -/
def execFmax (f : FmtA3) (s : State) : Out := fltOp (.fmax f) f (fun t _ x y _ => fMinMax t true true x y) s

/-- FMINM (R257): minimum. -/
def execFminm (f : FmtA3) (s : State) : Out := fltOp (.fminm f) f (fun t _ x y _ => fMinMax t false false x y) s

/-- FMAXM (R257): maximum. -/
def execFmaxm (f : FmtA3) (s : State) : Out := fltOp (.fmaxm f) f (fun t _ x y _ => fMinMax t true false x y) s

/-- FSETP (R258). -/
def execFsetp (f : FmtA3) (s : State) : Out :=
  issue (.fsetp f) s (onWave fun w m => w.putF f.dst 1 m (fun l =>
    let x (o : Operand) : FVal := (fmtF f.ty.toNat).decode (w.fsrc o f.ty.toNat l)
    let r := fTest f.flg.toNat (x f.a) (x f.b) (x f.c)
    (b2n r.1, r.2)))

/-- FCLASS (R259). -/
def execFclass (f : FmtA3) (s : State) : Out :=
  issue (.fclass f) s (onWave fun w m => w.put f.dst 1 m (fun l =>
    fClass (fmtF f.ty.toNat) ((fmtF f.ty.toNat).decode (w.fsrc f.a f.ty.toNat l))))

/-- FRND (R260). -/
def execFrnd (f : FmtA3) (s : State) : Out :=
  fltOp (.frnd f) f (fun t r x _ _ => fRound t r (f.flg == 1#4) x) s

/-- FCVT and its saturating form (R261): the flags field names the source format. -/
def cvtOp (i : Instr) (f : FmtA3) (sat : Bool) (s : State) : Out :=
  issue i s (onWave fun w m => w.putF f.dst (wordsF f.ty) m (fun l =>
    fCvt (fmtF f.ty.toNat) (fmtF f.flg.toNat) (w.mode f.rnd) sat (w.fsrc f.a f.flg.toNat l)))

/-- FCVT (R261). -/
def execFcvt (f : FmtA3) (s : State) : Out := cvtOp (.fcvt f) f false s

/-- FCVT_SAT (R261). -/
def execFcvtSat (f : FmtA3) (s : State) : Out := cvtOp (.fcvtSat f) f true s

/-- Width and signedness of FCVTI's destination types (R262). -/
def cvtBits : CvtInt → Nat
  | .i8 | .n8 => 8
  | .i16 | .n16 => 16
  | .i32 | .n32 => 32
  | .i64 | .n64 => 64
  | .i4 => 4
@[inherit_doc cvtBits] def cvtSigned : CvtInt → Bool
  | .n8 | .n16 | .n32 | .n64 => false
  | _ => true

/-- FCVTI (R262). -/
def execFcvti (t : CvtInt) (f : FmtA3) (s : State) : Out :=
  let n := if (cvtBits t) = 64 then 2 else 1
  issue (.fcvti t f) s (onWave fun w m => w.putF f.dst n m (fun l =>
    let r := fCvtInt (fmtF f.flg.toNat) (w.mode f.rnd) (cvtBits t) (cvtSigned t) (w.fsrc f.a f.flg.toNat l)
    (wrapN (32 * n) r.1, r.2)))

/-- The integer that ICVTF reads (R263). -/
def cvtSrc (ty x : Nat) : Int := if ty = 8 then sextN 4 x else extTy ty x

/-- ICVTF (R263). -/
def execIcvtf (f : FmtA3) (s : State) : Out :=
  issue (.icvtf f) s (onWave fun w m => w.putF f.dst (wordsF f.ty) m (fun l =>
    iCvtF (fmtF f.ty.toNat) (w.mode f.rnd) (cvtSrc f.flg.toNat (w.src f.a (wordsI f.flg) l))))

/-- FPACK (R264). -/
def execFpack (f : FmtA3) (s : State) : Out :=
  issue (.fpack f) s (onWave fun w m => w.putF f.dst 1 m (fun l =>
    let lo := fCvt (fmtF f.ty.toNat) f32 (w.mode f.rnd) false (w.fsrc f.a 2 l)
    let hi := fCvt (fmtF f.ty.toNat) f32 (w.mode f.rnd) false (w.fsrc f.b 2 l)
    (lo.1 + hi.1 * 2 ^ 16, lo.2 ||| hi.2)))

/-- FUNPK (R264). -/
def execFunpk (f : FmtA3) (s : State) : Out :=
  issue (.funpk f) s (onWave fun w m => w.putF f.dst 1 m (fun l =>
    let x := w.fsrc f.a f.ty.toNat l
    fCvt f32 (fmtF f.ty.toNat) .rne false (if f.flg = 1#4 then x / 2 ^ 16 else x % 2 ^ 16)))

/-- FDOT2 (R265). -/
def execFdot2 (f : FmtA3) (s : State) : Out :=
  issue (.fdot2 f) s (onWave fun w m => w.putF f.dst 1 m (fun l =>
    fDot2 (fmtF f.ty.toNat) (w.mode f.rnd) (w.fsrc f.a f.ty.toNat l) (w.fsrc f.b f.ty.toNat l) (w.fsrc f.c 2 l)))

/-! ### The notch format (R164, R267, R268) -/

/-- +0. -/
def fZero : FVal := .fin false 0 0

/-- A value whose zero has lost its sign: zero elements of an N4 block are +0 (R164). -/
def FVal.plusZero (v : FVal) : FVal := if v.isZero then fZero else v

/-- The value of a plain slot code (R164). -/
def slotVal (c : Nat) : FVal := if c < 8 then .fin false c 0 else .fin true (16 - c) 0

/-- Decodes the slots of an N4 block (R164): the elements, and NOTCH. A marker is one with two slots after it. -/
def n4Decode : List Nat → List FVal × Bool
  | c :: x :: y :: t =>
    if c = 8 then
      let r := n4Decode t
      ((e4m3.decode (x * 16 + y)).plusZero :: fZero :: fZero :: r.1, r.2)
    else
      let r := n4Decode (x :: y :: t)
      (slotVal c :: r.1, r.2)
  | c :: t =>
    let r := n4Decode t
    if c = 8 then (fZero :: r.1, true) else (slotVal c :: r.1, r.2)
  | [] => ([], false)

/-- |v| ≥ 7.5, or a NaN: an outlier (R267). -/
def outlier : FVal → Bool
  | .nan _ _ _ => true
  | .inf _ => true
  | .fin _ m e => decide (0 ≤ (addExact false m e true 15 (-1)).1)

/-- The code of a value that is no outlier: RNE, clamped to -7 to 7; a NaN takes 0 and sets NV (R267). -/
def n4Plain (v : FVal) : Nat × Flags :=
  match v with
  | .nan _ _ _ => (0, fNV)
  | .inf s => (if s then 9 else 7, 0#7)
  | .fin s m e =>
    let n := (roundAt .rne s m e 0 false).1
    let q := if n < 7 then n else 7
    (if s ∧ q ≠ 0 then 16 - q else q, 0#7)

/-- The E4M3 byte of an outlier (R267). -/
def n4Outlier (v : FVal) : Nat × Flags :=
  match v with
  | .nan s _ _ => (e4m3.nanBits s, fNV)
  | .inf s => (e4m3.signBit s + e4m3.maxCode, fOF ||| fNX)
  | .fin s m e =>
    let r := e4m3.roundInt .rne true (signedMan s m) e s
    (r.1, if r.2 &&& fOF ≠ 0#7 then fOF ||| fNX else 0#7)

/-- Encodes the slots of an N4 block (R267), with the flags of its outliers. -/
def n4Encode : List FVal → List Nat × Flags
  | v :: x :: y :: t =>
    if outlier v then
      let b := n4Outlier v
      let r := n4Encode t
      (8 :: b.1 / 16 :: b.1 % 16 :: r.1, b.2 ||| r.2)
    else
      let b := n4Plain v
      let r := n4Encode (x :: y :: t)
      (b.1 :: r.1, b.2 ||| r.2)
  | v :: t =>
    let b := n4Plain v
    let r := n4Encode t
    (b.1 :: r.1, b.2 ||| r.2)
  | [] => ([], 0#7)

/-- A decoded element differs in value from what was encoded; two NaNs do not differ. -/
def fDiffers (a b : FVal) : Bool := if a.isNaN || b.isNaN then a.isNaN != b.isNaN else !fEq a b

/-- The 32 binary32 values of a wave instruction: lanes that take no part give +0 (R266, R267). -/
def Wave.block (w : Wave) (o : Operand) (m : Mask) : List FVal :=
  (List.range 32).map (fun l => if m.has l then f32.decode (w.fsrc o 2 l) else fZero)

/-- The participants of FNXENC and FNXDEC: one lane, where all operands are scalar (R209; log 53, DEDUCED). -/
def blockLanes (f : FmtA3) (m : Mask) : Mask := if isLaneReg f.dst then m else Mask.lowest m

/-- FNXENC (R267). -/
def execFnxenc (f : FmtA3) (s : State) : Out :=
  issue (.fnxenc f) s (onWave fun w m =>
    let m := blockLanes f m
    let xs := w.block f.a m
    let r := n4Encode xs
    let lost := (xs.zip (n4Decode r.1).1).any (fun p => fDiffers p.1 p.2)
    if m = 0#32 then w
    else (w.put f.dst 1 m (fun l => r.1.getD l 0)).orFlags (r.2 ||| flagIf lost fNX))

/-- FNXDEC (R268). -/
def execFnxdec (f : FmtA3) (s : State) : Out :=
  issue (.fnxdec f) s (onWave fun w m =>
    let m := blockLanes f m
    let r := n4Decode ((List.range 32).map (fun l => if m.has l then w.src f.a 1 l % 16 else 0))
    let t := fmtF f.ty.toNat
    if m = 0#32 then w
    else (w.put f.dst 1 m (fun l => match r.1.getD l fZero with
      | .nan sg _ _ => t.nanBits sg
      | v => t.encode v)).orFlags (flagIf r.2 fNOTCH))

/-! ### Block quantisation (R266) -/

/-- ⌊log₂⌋ of a non-zero magnitude. -/
def floorLog2 (m : Nat) (e : Int) : Int := e + bitLen m - 1

/-- EM of a candidate (R266): the 8-bit family where `wide`. -/
def quantEM (wide : Bool) (tag : Nat) : Int :=
  if wide then (if tag = 0 then 8 else if tag = 1 then 15 else 6)
  else (if tag = 0 then 2 else if tag = 1 then 2 else 6)

/-- An integer code of `bits` bits: RNE, clamped (R266). -/
def quantInt (w : Nat) (v : FVal) : Nat :=
  match v with
  | .fin s m e =>
    let y := signedMan s (roundAt .rne s m e 0 false).1
    let lo : Int := -((2 ^ (w - 1) : Nat) : Int)
    wrapN w (if y < lo then lo else if -lo - 1 < y then -lo - 1 else y)
  | _ => 0

/-- A float code: RNE, saturating (R266). -/
def quantFlt (t : Fmt) (v : FVal) : Nat :=
  match v with
  | .fin s m e => (t.roundInt .rne true (signedMan s m) e s).1
  | _ => 0

/-- Codes of a block by a candidate (R266). -/
def quantCodes (wide : Bool) (tag : Nat) (vs : List FVal) : List Nat :=
  if wide then
    vs.map (fun v => if tag = 0 then quantFlt e4m3 v else if tag = 1 then quantFlt e5m2 v else quantInt 8 v)
  else if tag = 2 then (n4Encode vs).1
  else vs.map (fun v => if tag = 0 then quantFlt e2m1 v else quantInt 4 v)

/-- A two's-complement code's value. -/
def intVal2 (w c : Nat) : FVal :=
  let y := sextN w c
  .fin (decide (y < 0)) y.natAbs 0

/-- The values of a block's codes by its tag (R164, R165). -/
def quantVals (wide : Bool) (tag : Nat) (cs : List Nat) : List FVal :=
  if wide then
    cs.map (fun c => if tag = 0 then e4m3.decode c else if tag = 1 then e5m2.decode c else intVal2 8 c)
  else if tag = 2 then (n4Decode cs).1
  else cs.map (fun c => if tag = 0 then e2m1.decode c else intVal2 4 c)

/-- A finite value times 2^k. -/
def FVal.shift (v : FVal) (k : Int) : FVal :=
  match v with
  | .fin s m e => .fin s m (e + k)
  | v => v

/-- A finite value in units of 2^-1300. -/
def FVal.fixed (v : FVal) : Int :=
  match v with
  | .fin s m e => signedMan s (m * 2 ^ (e + 1300).toNat)
  | _ => 0

/-- Scale exponent, codes and exact error of a candidate (R266). -/
def quantTry (wide : Bool) (mx : Int) (xs : List FVal) (tag : Nat) : Int × List Nat × Nat :=
  let e := if mx - quantEM wide tag < -127 then -127 else mx - quantEM wide tag
  let cs := quantCodes wide tag (xs.map (fun x => x.shift (-e)))
  let vs := quantVals wide tag cs
  (e, cs, (xs.zip vs).foldl (fun acc p => acc + (p.1.fixed - (p.2.shift e).fixed).natAbs) 0)

/-- FQBLK's block: scale byte, tag, codes and flags (R266). -/
def quantBlock (wide : Bool) (pol : Nat) (xs : List FVal) : Nat × Nat × List Nat × Flags :=
  if xs.any (fun x => x.isNaN || x.isInf) then
    (0xFF, if pol = 0 then 0 else pol - 1, xs.map (fun _ => 0), fNV)
  else if xs.all FVal.isZero then (0x7F, 3, xs.map (fun _ => 0), 0#7)
  else
    let mx := xs.foldl (fun (acc : Int) x => match x with
      | .fin _ m e => if m ≠ 0 ∧ acc < floorLog2 m e then floorLog2 m e else acc
      | _ => acc) (-2000)
    let tags := if pol = 0 then [0, 1, 2] else [pol - 1]
    let best := tags.foldl (fun (acc : Option (Nat × Int × List Nat × Nat)) t =>
      let r := quantTry wide mx xs t
      match acc with
      | none => some (t, r)
      | some b => if r.2.2 < b.2.2.2 then some (t, r) else some b) none
    match best with
    | some (t, e, cs, err) => ((e + 127).toNat, t, cs, flagIf (decide (err ≠ 0)) fNX)
    | none => (0x7F, 3, xs.map (fun _ => 0), 0#7)

/-- FQBLK (R266). -/
def execFqblk (f : FmtA3) (s : State) : Out :=
  issue (.fqblk f) s (onWave fun w m =>
    let r := quantBlock (f.ty == 4#4) f.flg.toNat (w.block f.a m)
    if m = 0#32 then w
    else (w.put f.dst 1 m (fun l => r.2.2.1.getD l 0 + r.1 * 2 ^ 8 + r.2.1 * 2 ^ 16)).orFlags r.2.2.2)

end Sys2Proof.Machine
end

