-- ==== Sys2Proof/Machine/Engine.lean ====
section
/-! DEFINITION. What all engine operations share: the parameter block (R295), issue and numbering (R146, R147), accesses
to `g:` and to on-chip spaces (R60, R61, R97, R132, R149, R153), conditions (R156, R157). -/

namespace Sys2Proof.Machine

/-! ### Addresses -/

/-- The wave that issued an operation is a supervisor wave. -/
def State.opSup (s : State) (o : EngOp) : Bool :=
  match tget s.waves o.wave with
  | some w => w.sup
  | none => false

/-- Whose requests an operation's are: those of the traverse engine, of the matrix engine or of the recursion unit, from
its issue on; a service core's count by its I/O die (R102, R106; log 5, DEDUCED for LDG2L as a traverse). -/
def EngOp.stamp (o : EngOp) : Stamp :=
  { cls := o.svc, core := o.core, deadline := some o.deadline, wg := o.wg, num := o.num, op := some (o.cls, o.seq)
    index := if Config.cores ≤ o.core then 8 else match o.kind with
      | .mma | .mzero | .mdrain | .dpload => 5
      | .rbegin => 7
      | _ => 4 }

/-- Where an operation's accesses begin translation: no quadrant issues them (R78, R98). -/
def State.opPath (s : State) (o : EngOp) : Path :=
  { cluster := clusterOf o.core, world := o.world, phys := s.opSup o, who := o.stamp }

/-- Forms an engine's address. -/
def State.opForm (s : State) (o : EngOp) (base : Nat) (sum : Int) (width : Nat) : Except Cond GAddr :=
  s.formG o.world base sum width

/-- Address formation of a whole region of `n` bytes, by its first and last byte. -/
def State.opRegion (s : State) (o : EngOp) (base n : Nat) : Option Cond :=
  match s.opForm o base 0 1 with
  | .error c => some c
  | .ok _ =>
    if n = 0 then none
    else match s.opForm o base ((n : Int) - 1) 1 with
      | .error c => some c
      | .ok _ => none

/-- Bounds of a region of a workgroup's `l:`. -/
def State.lRegion (s : State) (wg off n : Nat) : Option Cond :=
  match tget s.wgs wg with
  | some g => if g.lsize < off + n then some { code := cBounds, step := stForm, addr := off } else none
  | none => some { code := cBounds, step := stForm, addr := off }

/-- First byte of a workgroup's `l:`. -/
def State.wgBase (s : State) (wg : Nat) : Nat :=
  match tget s.wgs wg with
  | some g => g.lbase
  | none => 0

/-- Reads bytes of a workgroup's `l:`. -/
def State.wgRead (s : State) (o : EngOp) (off n : Nat) : List Byte := (s.core o.core).lRead (s.wgBase o.wg + off) n

/-- A run of a workgroup's `l:` holds a word with an uncorrectable error (R402). -/
def State.wgBad (s : State) (o : EngOp) (off n : Nat) : Bool := (s.core o.core).badAt 3 (s.wgBase o.wg + off) n

/-- Writes bytes of a workgroup's `l:`. -/
def State.wgWrite (s : State) (o : EngOp) (off : Nat) (bs : List Byte) : State :=
  s.putCore o.core ((s.core o.core).lWrite (s.wgBase o.wg + off) bs)

/-- The workgroup slot of an operation. -/
def State.opSlot (s : State) (o : EngOp) : Nat :=
  match tget s.wgs o.wg with
  | some g => g.slot
  | none => 96

/-- A run of bytes cut at the multiples of `g`: offsets and lengths. -/
def pieces (a n g : Nat) : List (Nat × Nat) :=
  if n = 0 then []
  else (List.range ((a + n - 1) / g - a / g + 1)).map (fun k =>
    let lo := max a ((a / g + k) * g)
    let hi := min (a + n) ((a / g + k + 1) * g)
    (lo - a, hi - lo))

/-! ### Conditions of an operation -/

/-- The lane and the restart point of an operation: LDG2L's is its lane (R157, R280). -/
def EngOp.place (o : EngOp) : Nat × Nat :=
  if o.kind = .ldg2l then
    let l := match o.lanes[o.progress]? with
      | some x => x.1
      | none => o.lane
    (l, l)
  else (o.lane, o.progress)

/-- The fault record of a condition of an operation (R156, R360). -/
def EngOp.recOf (o : EngOp) (c : Cond) (rst : Bool) : FaultRec :=
  { code := BitVec.ofNat 8 c.code, step := 6#3, rst := rst, cls := BitVec.ofNat 3 o.cls, seq := BitVec.ofNat 16 o.seq
    lane := BitVec.ofNat 5 o.place.1, level := BitVec.ofNat 3 c.level, info := 0#16, addr := BitVec.ofNat 64 c.addr
    restart := BitVec.ofNat 32 o.place.2, mask := 0#32, pc := 0#32, ridx := 0#4 }

/-- A condition falls due on an operation: it freezes next (R156). -/
def EngOp.failed (o : EngOp) (c : Cond) (rst : Bool) : EngOp := { o with state := .due (o.recOf c rst) }

/-- An on-chip word with an uncorrectable error (R402): POISON, which belongs to no step of a `g:` access, so that no restart
cures it (R157). -/
def chipPoison (off : Nat) : Cond := { code := cPoison, step := stForm, addr := off }

/-- A condition that names no address. -/
def condOf (code : Nat) (addr : Nat := 0) : Cond := { code := code, step := stData, addr := addr }

/-! ### Accesses of an operation to `g:` -/

/-- What an engine access gives. -/
inductive EAcc (α : Type) where
  | ok (a : α) (s : State)
  | cond (c : Cond) (s : State)
  | miss (u : MissUnit) (s : State)
  /-- Answers from other nodes are still to come. -/
  | wait (s : State)

/-- The formed address moved by an offset. -/
def GAddr.shift (g : GAddr) (n : Nat) : GAddr :=
  match g with
  | .flat a => .flat (a + n)
  | .obj h off => .obj h (off + n)

/-- The number whose pages an access crosses. -/
def GAddr.low : GAddr → Nat
  | .flat a => a
  | .obj _ off => off

/-- Translates every 64 KiB piece of a run for an operation: physical address, offset in the run, length. -/
def State.opXlate (s : State) (o : EngOp) (acc : Access) (g : GAddr) : List (Nat × Nat) → List (Nat × Nat × Nat) → EAcc (List (Nat × Nat × Nat))
  | [], out => .ok out s
  | (off, n) :: t, out =>
    let x := g.shift off
    match s.xlate (s.opPath o) x acc o.noPages with
    | .ok pa s => s.opXlate o acc g t (out ++ [(pa, off, n)])
    | .cond c s => .cond { c with addr := s.faultAddr x } s
    | .miss u s => .miss u s
    | .wait s => .wait s

/-- Runs of a translated access within 128-byte lines. -/
def lineRuns (l : List (Nat × Nat × Nat)) : List (Nat × Nat × Nat) :=
  l.flatMap (fun x => (pieces x.1 x.2.2 128).map (fun p => (x.1 + p.1, x.2.1 + p.1, p.2)))

/-- The request of an operation for a run of another node, where it has one. -/
def State.opRequest (s : State) (key pa n : Nat) : Option (Nat × Request) :=
  s.fab.requests.find? (fun e => decide (e.2.op = some key ∧ e.2.addr = pa ∧ e.2.width = n) && !e.2.posted)

/-- Asks other nodes for the runs of an operation that have no request yet (R381). -/
def State.opAsk (s : State) (key : Nat) (o : EngOp) (l : List (Nat × Nat × Nat)) : State :=
  l.foldl (fun (s : State) x =>
    if (s.opRequest key x.1 x.2.2).isSome then s
    else s.send { wave := o.wave, world := o.world, lane := o.lane, va := 0, die := dieOf o.core, addr := x.1
                  width := x.2.2, install := false, answer := none, op := some key, posted := false, sent := s.clock.toNat, bytes := [], atomic := none }) s

/-- Reads translated runs: poison first, then bytes of this device through the die cache, and of other nodes by their
answers (R132, R275, R387). -/
def State.opFetch (s : State) (key : Nat) (o : EngOp) (g : GAddr) (l : List (Nat × Nat × Nat)) : EAcc (List Byte) :=
  let runs := lineRuns l
  let rem := runs.filter (fun x => s.isRemote x.1)
  let chk := (runs.filter (fun x => !s.isRemote x.1)).foldl (fun (acc : State × Option Nat) x =>
    let r := acc.1.checkRead (some o.world) x.1 x.2.2
    (r.1, if acc.2.isSome then acc.2 else if r.2 then some x.2.1 else none)) (s, none)
  match chk.2 with
  | some off => .cond { code := cPoison, step := stData, addr := s.faultAddr (g.shift off) } chk.1
  | none =>
    let s := chk.1
    match rem.find? (fun x => !s.routed (paNode x.1) && (s.opRequest key x.1 x.2.2).isNone) with
    | some x => .cond { code := cPoison, step := stData, addr := s.faultAddr (g.shift x.2.1) } s
    | none =>
      let answers := rem.map (fun x => (x, match s.opRequest key x.1 x.2.2 with
        | some e => e.2.answer
        | none => none))
      match answers.findSome? (fun a => match a.2 with
          | some (.refused c) => some (c.toNat, a.1.2.1)
          | _ => none) with
      | some x =>
        .cond { code := x.1, step := codeStep x.1, addr := s.faultAddr (g.shift x.2) } s
      | none =>
        if answers.any (fun a => a.2.isNone) then .wait (s.opAsk key o rem)
        else
          let r := runs.foldl (fun (acc : State × List Byte) x =>
            if s.isRemote x.1 then
              (acc.1, acc.2 ++ (match s.opRequest key x.1 x.2.2 with
                | some (_, { answer := some (.value bs), .. }) => bs
                | _ => []))
            else
              let c := (acc.1.fill (dieOf o.core) o.world x.1 o.stamp).cacheRead (dieOf o.core) o.world x.1 x.2.2 none o.stamp
              (c.1, acc.2 ++ c.2)) (s, [])
          .ok r.2 r.1

/-- The answers that a unit of an operation has used are dropped when the unit ends. -/
def State.opClear (s : State) (key : Nat) : State :=
  { s with fab := { s.fab with requests := s.fab.requests.filter (fun e => decide (e.2.op ≠ some key) || e.2.posted) } }

/-- An engine's read of `n` bytes at an offset of a `g:` operand. -/
def State.opRead (s : State) (key : Nat) (o : EngOp) (base : Nat) (sum : Int) (n : Nat) : EAcc (List Byte) :=
  match s.opForm o base sum 1 with
  | .error c => .cond c s
  | .ok g =>
    match s.opXlate o .load g (pieces g.low n 65536) [] with
    | .ok l s => s.opFetch key o g l
    | .cond c s => .cond c s
    | .miss u s => .miss u s
    | .wait s => .wait s

/-- Lines that an operation has now written in full, and its map of partly written ones (R275). -/
def coverLines (cover : Tab Nat) (cells : List (Nat × Byte)) : Tab Nat × List Nat :=
  (dedupN (cells.map (fun c => c.1 / 64))).foldl (fun (acc : Tab Nat × List Nat) line =>
    let m := tgetD acc.1 line 0 ||| coverOf cells line
    if m = 2 ^ 64 - 1 then (acc.1, acc.2 ++ [line]) else (tset acc.1 line m, acc.2)) (cover, [])

/-- An engine's write of bytes at an offset of a `g:` operand: they enter the core's outbound path as a store of the
issuing wave (R151, R153); writes to other nodes are counted on the operation (R149). -/
def State.opWrite (s : State) (key : Nat) (o : EngOp) (base : Nat) (sum : Int) (bs : List Byte) : EAcc EngOp :=
  match s.opForm o base sum 1 with
  | .error c => .cond c s
  | .ok g =>
    match s.opXlate o .store g (pieces g.low bs.length 65536) [] with
    | .cond c s => .cond c s
    | .miss u s => .miss u s
    | .wait s => .wait s
    | .ok l s =>
      let runs := lineRuns l
      let lanes : List QLane := runs.map (fun x =>
        { lane := 0, pa := x.1, bytes := (bs.drop x.2.1).take x.2.2, b := 0#64, cmp := 0#64, posted := s.isRemote x.1
          va := s.faultAddr (g.shift x.2.1) })
      let lanes := lanes.filter (fun q => !s.cutOff o.world q.pa)
      let n := (lanes.filter (fun q => q.posted)).length
      let cells := (lanes.filter (fun q => !q.posted)).flatMap (fun q => cellsOf q.pa q.bytes)
      let c := coverLines o.cover cells
      let q : QEntry := { stamp := s.nextId, kind := .store, lanes := lanes, remoteOp := if n = 0 then none else some key
                          engine := true, whole := c.2, cls := o.cls, seq := o.seq, who := o.stamp, unit := 4 }
      let s := s.updWave o.wave (fun w => { w with storeQ := w.storeQ ++ [q] })
      .ok { o with unacked := o.unacked + n, cover := c.1 } s.bump

/-- A die drops its remote-marked copies of the lines that a queue entry of a wave writes. -/
def State.forget (s t : State) (o : EngOp) : State :=
  let ls := match tget t.waves o.wave with
    | some w => (match w.storeQ.getLast? with
      | some q => q.lanes.map (fun (l : QLane) => l.pa / 128)
      | none => [])
    | none => []
  { s with cache := s.cache.filter (fun c => !(c.remote && decide (c.die = dieOf o.core) && ls.contains c.line)) }

/-- Bytes that the spec leaves undefined take free values, in pieces that write no line whole. On another node nothing is written:
the die drops its copies, and a later read takes what that node answers. Bytes that the operation could not write stay (R11, R157,
R199, R336; log 2, DESIGN CHOICE). -/
def State.freeRun (s : State) (key : Nat) (o : EngOp) (base : Nat) (sum : Int) (n : Nat) : State :=
  (pieces (((base : Int) + sum) % 64).toNat n 32).foldl (fun (s : State) p =>
    let bs := (List.range p.2).map (fun i => Config.freeByte (s.free + i))
    match (s.draw p.2).opWrite key { o with cover := [] } base (sum + p.1) bs with
    | .ok o' s' => if o'.unacked = o.unacked then s' else s.forget s' o
    | _ => s) s

/-- Ends a unit of an operation by what its access met: a condition freezes it, a missing unit holds it (R97, R157). -/
def State.opStuck (_ : State) (key : Nat) (o : EngOp) {α : Type} (r : EAcc α) : State :=
  match r with
  | .ok _ s' => s'
  | .cond c s => s.putOp key { (o.failed c (decide (c.step ≠ stForm))) with lines := [] }
  | .miss u s => (s.putOp key { o with state := .wait u }).joinPending o.stamp u
  | .wait s => s.putOp key o

/-- An operation goes on from its restart point, or from where it waited or was suspended (R97, R158, R366). -/
def EngOp.resumed (o : EngOp) : EngOp :=
  { o with
    state :=
      if o.block = [] ∧ o.blockLen ≠ 0 then .fetch
      else match o.kind with
        | .mma | .mzero | .dpload => .check
        | .rbegin => if o.unfold.isSome then .run else .check
        | .ldg2l | .posted => .run
        | _ => if o.progress = 0 then .check else .run }

/-! ### Issue -/

/-- Where an E-format command's block lies in a lane: its bytes, or its `g:` address (R295). -/
def State.blockAt (s : State) (w : Wave) (f : FmtE) (n lane : Nat) : Except Cond (DWord × List Byte) :=
  if f.mode = 0#3 then .ok (0#64, leBytes n (match f.p with
    | .s r => w.readSs r.toNat 16
    | _ => 0))
  else if f.mode = 1#3 then
    let a := w.src f.p 1 lane
    if a % n ≠ 0 then .error { code := cAlign, step := stForm, addr := a }
    else if s.lSize w < a + n then .error { code := cBounds, step := stForm, addr := a }
    else .ok (BitVec.ofNat 64 a, (s.core w.core).lRead (s.lBase w + a) n)
  else
    match s.formG w.world (w.src f.p 2 lane) 0 n with
    | .error c => .error c
    | .ok _ => .ok (BitVec.ofNat 64 (w.src f.p 2 lane), [])

/-- A new operation of a wave. -/
def State.newOp (s : State) (id : Nat) (w : Wave) (kind : OpKind) (lane cls : Nat) : EngOp :=
  { kind := kind, wave := id, wg := w.wg, num := w.num, core := w.core, world := w.world, lane := lane, cls := cls
    seq := w.seqOf cls, svc := w.svc, deadline := s.deadlineOf w, blockAddr := 0#64, blockLen := 0, block := []
    progress := 0, state := .check, flags := 0#7, args := [], lanes := [], dests := [], cairns := [], amax := 0#64
    unacked := 0, denied := [], cover := [], lines := [], unfold := none, noPages := [] }

/-- An unfolding holds its ridge from its issue on (R196). -/
def State.holdRidge (s : State) (w : Wave) (o : EngOp) : State :=
  if o.kind = .rbegin then
    match s.ridgeOf w (o.args.headD 0) with
    | some x => s.putRidge w.core x.1 { x.2 with hold := true }
    | none => s
  else s

/-- Issues one operation: it takes the next number and counts 1 (R146, R147). -/
def State.issueOp (s : State) (id : Nat) (o : EngOp) : State :=
  match tget s.waves id with
  | none => s
  | some w => (((s.putOp s.nextId { o with seq := w.seqOf o.cls }).putWave id (w.count o.cls 1)).bump).holdRidge w o

/-- A parameter block as a number: byte 0 lowest. -/
abbrev blk (l : List Byte) : Nat := leNat l

/-- The bytes of a block in `g:` as they stand, where its fetch would go ahead on this device (R73). -/
def State.peekBlock (s : State) (o : EngOp) : List Byte :=
  match s.opForm o o.blockAddr.toNat 0 1 with
  | .error _ => []
  | .ok g => match s.xlate (s.opPath o) g .load o.noPages with
    | .ok pa _ => if s.isRemote pa then [] else s.peek pa o.blockLen
    | _ => []

/-- Every record of a core. -/
def allRecords : List Nat := List.range 64

/-- The records that an operation names, whose block is known or as it stands in `g:`: it names them from its issue on (R73; log
30, DEDUCED). While its block cannot be seen, on another node or in a page that is missing, it may name any. -/
def State.nameAll (s : State) (names : State → EngOp → List Byte → List Nat) (o : EngOp) : EngOp :=
  if o.block = [] ∧ o.blockLen ≠ 0 then
    { o with cairns := if s.peekBlock o = [] then allRecords else dedupN (names s o (s.peekBlock o)) }
  else { o with cairns := dedupN ((if o.cairns = allRecords then [] else o.cairns)
    ++ names s (if o.cairns = allRecords then { o with cairns := [] } else o) o.block) }

/-- The lowest lane whose block in `l:` holds a word with an uncorrectable error (R295, R402). -/
def State.blockBad (s : State) (w : Wave) (f : FmtE) (l : List (Nat × DWord × List Byte)) : Option (Nat × Nat) :=
  if f.mode = 1#3 then
    (l.find? (fun x => (s.core w.core).badAt 3 (s.lBase w + x.2.1.toNat) x.2.2.length)).map (fun x => (x.1, x.2.1.toNat))
  else none

/-- Runs an E-format command in every active lane (R291, R295, R316, R132): `pre` is its own precise check, `names` finds the
records that it names, `mk` completes the operation of a lane. With `reads`, the command may read `g:` and issues only when
the wave's earlier stores have reached the die cache. -/
def engineOp (i : Instr) (f : FmtE) (kind : OpKind) (cls len : Nat) (reads : Bool) (pre : Wave → Mask → State → Option FaultRec)
    (names : State → EngOp → List Byte → List Nat) (mk : Wave → State → EngOp → EngOp) (s : State) : Out :=
  issue i s (fun w m s =>
    if m = 0#32 then .done s
    else s.gated s.cur w 0 0 (fun w s =>
      match formLanes (s.blockAt w f len) (Mask.lanes m) with
      | .error e => .raise (w.recOf e.1 e.2) s
      | .ok l =>
        match pre w m s, s.blockBad w f l with
        | some r, _ => .raise r s
        | none, some x => .raise (w.poisonRec x.1 x.2) s
        | none, none =>
          if !w.room cls (Mask.count m) || ((reads || decide (f.mode = 2#3)) && !w.storesOut) || s.chipDue w.core then .stay s
          else .done (l.foldl (fun (s : State) x =>
            s.issueOp s.cur (mk w s (s.nameAll names { s.newOp s.cur w kind x.1 cls with
              blockAddr := x.2.1, blockLen := len, block := x.2.2
              state := if f.mode = 2#3 then .fetch else .check }))) s)))

/-- No record is named. -/
def noNames (_ : State) (_ : EngOp) (_ : List Byte) : List Nat := []

/-- No precise check. -/
def noCheck (_ : Wave) (_ : Mask) (_ : State) : Option FaultRec := none

/-- The fetch of a block from `g:` (R295): its conditions are deferred-precise and restartable. -/
def State.fetchBlock (s : State) (key : Nat) (o : EngOp) (done : State → EngOp → EngOp) : State :=
  match s.opRead key o o.blockAddr.toNat 0 o.blockLen with
  | .ok bs s => s.putOp key (done s { o with block := bs, state := .check })
  | r => s.opStuck key o r

/-- An operation of the workgroup names a record (R73). -/
def State.named (s : State) (wg k : Nat) : Bool := s.ops.any (fun e => decide (e.2.wg = wg) && e.2.cairns.contains k)

/-- Draining records of a core that nothing names any longer become free (R73). -/
def State.settleCairns (s : State) (core wg slot : Nat) : State :=
  let c := s.core core
  s.putCore core { c with cairns := c.cairns.map (fun e =>
    if cState e.2 = 2 ∧ cOwner e.2 = slot ∧ !s.named wg e.1 then (e.1, cSetState e.2 0) else e) }

end Sys2Proof.Machine
end

