-- ==== Sys2Proof/Machine/Matrix.lean ====
section
/-! DEFINITION. Cairns and the matrix engine: bit planes, scales and tags (R65 to R73), CAIRN, CAIRNQ, CAIRNX (R292 to
R294), MMA (R173 to R175, R297 to R302), MZERO (R303), the token (R304, R305) and MSTAT (R307). -/

namespace Sys2Proof.Machine

/-! ### Tensors in `w:` and `a:` -/

/-- The physical address of a logical buffer address under a swizzle (R69). -/
def swzPhys (swz A : Nat) : Nat := A / 512 * 512 + ((A % 512 / 32) ^^^ (swz * (A / 512) % 16)) * 32 + A % 32

/-- Element width of a record's format (R67). -/
def cairnW (fmt : Nat) : Nat := ([4, 8, 16, 16, 32, 64] : List Nat).getD fmt 0

/-- SC of a record. -/
def cSc (r : BitVec 128) : Bool := bit r.toNat 19
/-- KBLK and ROWS as held, without the 1. -/
def cRowsRaw (r : BitVec 128) : Nat := cairnField r 72 13

/-- Byte of plane `j` of a block, from the cairn's start (R65). -/
def planeOff (r : BitVec 128) (row q j : Nat) : Nat := ((row * cKblk r + q) * cairnW (cFmt r) + j) * 4

/-- A run of bytes at an offset of a record, each byte under the record's swizzle. -/
def CoreSt.cairnRead (c : CoreSt) (r : BitVec 128) (off n : Nat) : List Byte :=
  ((List.range n).map (fun i => c.bRead (cBuf r) (swzPhys (cSwz r).toNat (cBase r + off + i)) 1)).flatten

/-- The 32 element codes of a block, with the planes past the plane count read as 0 (R65, R66). -/
def CoreSt.blockCodes (c : CoreSt) (r : BitVec 128) (row q : Nat) : List Nat :=
  let W := cairnW (cFmt r)
  let planes := (List.range (min (cPlanes r) W)).map (fun j => (W - 1 - j, leNat (c.cairnRead r (planeOff r row q j) 4)))
  (List.range 32).map (fun i => planes.foldl (fun acc p => if bit p.2 i then acc + 2 ^ p.1 else acc) 0)

/-- The number of a block in the scale and tag arrays (R68). -/
def blockNo (r : BitVec 128) (row q : Nat) : Nat := row * cKblk r + q

/-- The scale byte of a block; 2^0 in formats that carry none (R68, R165). -/
def CoreSt.blockScale (c : CoreSt) (r : BitVec 128) (row q : Nat) : Nat :=
  if cSc r then leNat (c.cairnRead r (cSoff r + blockNo r row q) 1) else 127

/-- The tag of a block (R68, R165). -/
def CoreSt.blockTag (c : CoreSt) (r : BitVec 128) (row q : Nat) : Nat :=
  if cSc r then leNat (c.cairnRead r (cToff r + blockNo r row q / 4) 1) / 4 ^ (blockNo r row q % 4) % 4 else 0

/-- A block of 32 elements of an operand: its tag, its scale byte and its codes. -/
structure OpBlock where
  tag : Nat
  scale : Nat
  codes : List Nat

/-- The lines that reading a block touches: planes, and scale and tag where the format has them (R71). -/
def blockLines (r : BitVec 128) (row q : Nat) : List Nat :=
  let lines (off n : Nat) : List Nat :=
    if n = 0 then []
    else (List.range ((cBase r + off + n - 1) / 512 - (cBase r + off) / 512 + 1)).map (· + (cBase r + off) / 512)
  lines (planeOff r row q 0) (4 * min (cPlanes r) (cairnW (cFmt r)))
    ++ (if cSc r then lines (cSoff r + blockNo r row q) 1 ++ lines (cToff r + blockNo r row q / 4) 1 else [])

/-- The cairn blocks that an operand names (R300): `n` indexes from `base`, K blocks from `koff`. -/
def operandBlocks (trans : Bool) (base n koff kb : Nat) : List (Nat × Nat) :=
  if trans then
    (List.range (32 * kb)).flatMap (fun k =>
      (List.range ((base + n - 1) / 32 - base / 32 + 1)).map (fun q => (32 * koff + k, base / 32 + q)))
  else (List.range n).flatMap (fun i => (List.range kb).map (fun q => (base + i, koff + q)))

/-- An operand as rows of K blocks (R300). -/
def CoreSt.operand (c : CoreSt) (r : BitVec 128) (trans : Bool) (base n koff kb : Nat) : List (List OpBlock) :=
  if trans then
    let lo := base / 32
    let rows := (List.range (32 * kb)).map (fun k =>
      ((List.range ((base + n - 1) / 32 - lo + 1)).map (fun q => c.blockCodes r (32 * koff + k) (lo + q))).flatten)
    (List.range n).map (fun i => (List.range kb).map (fun q =>
      ({ tag := 0, scale := 127
         codes := (List.range 32).map (fun t => (rows.getD (32 * q + t) []).getD (base + i - 32 * lo) 0) } : OpBlock)))
  else (List.range n).map (fun i => (List.range kb).map (fun q =>
    ({ tag := c.blockTag r (base + i) (koff + q), scale := c.blockScale r (base + i) (koff + q)
       codes := c.blockCodes r (base + i) (koff + q) } : OpBlock)))

/-! ### Sums of a K block -/

/-- The exact values of a block's elements, before its scale (R163 to R165). -/
def OpBlock.vals (b : OpBlock) (fmt : Nat) : List FVal :=
  if fmt < 2 then quantVals (decide (fmt = 1)) b.tag b.codes
  else b.codes.map ((if fmt = 2 then bf16 else if fmt = 3 then f16 else if fmt = 4 then f32 else f64).decode)

/-- A zero block (R166). -/
def OpBlock.zero (b : OpBlock) (fmt : Nat) : Bool := decide (fmt < 2) && decide (b.tag = 3)

/-- An N4 block with a marker at slot 30 or 31 (R164, R173). -/
def OpBlock.notch (b : OpBlock) (fmt : Nat) : Bool := decide (fmt = 0) && decide (b.tag = 2) && (n4Decode b.codes).2

/-- The contribution T of a pair of blocks to an output, exact, and its flags (R166, R167, R173). -/
def blockTerm (fa fb : Nat) (x y : OpBlock) : FVal × Flags :=
  if x.zero fa || y.zero fb then (fZero, 0#7)
  else
    let notch := flagIf (x.notch fa || y.notch fb) fNOTCH
    let xs := x.vals fa
    let ys := y.vals fb
    let ps := List.zipWith mulTerm xs ys
    let invalid := (xs ++ ys).any FVal.isSNaN || (List.zipWith infTimesZero xs ys).any id
      || (ps.any (fun p => p.isInf && p.sign) && ps.any (fun p => p.isInf && !p.sign))
    if x.scale = 255 || y.scale = 255 then (.nan false true 0, notch ||| fNV)
    else if ps.any FVal.isNaN || invalid then (.nan false true 0, notch ||| flagIf invalid fNV)
    else match ps.find? FVal.isInf with
      | some p => (.inf p.sign, notch)
      | none =>
        let e := sumExact ps
        let k : Int := (x.scale : Int) + y.scale - 254
        if e.1 = 0 then (.fin (ps.all FVal.sign) 0 0, notch)
        else (.fin (decide (e.1 < 0)) e.1.natAbs (e.2 + k), notch)

/-- acc := round(acc + T) (R173). A signalling NaN in the accumulator sets NV (R169) where T is a zero block's +0 too: R166 speaks of the
block's own flags (log 64, DEDUCED). -/
def addTerm (f : Fmt) (acc : Nat) (t : FVal × Flags) : Nat × Flags :=
  match f.decode acc, t.1 with
  | .nan s q p, _ => (f.nanWith s p, t.2 ||| flagIf (!q) fNV)
  | _, .nan _ _ _ => (f.defNaN, t.2)
  | a, v =>
    let r := fAdd f .rne a v
    (r.1, r.2 ||| t.2)

/-- Two's-complement value of an integer block's element (R174). -/
def tagInt (fmt c : Nat) : Int := sextN (if fmt = 0 then 4 else 8) c

/-- acc := acc + T modulo 2^32 (R167, R174). -/
def addInt (fa fb : Nat) (acc : Nat) (x y : OpBlock) : Nat × Flags :=
  if x.zero fa || y.zero fb then (acc, 0#7)
  else if x.scale = 255 || y.scale = 255 then (acc, fBADSCALE)
  else
    let p : Int := (List.zipWith (fun a b => tagInt fa a * tagInt fb b) x.codes y.codes).foldl (· + ·) 0
    let e : Int := (x.scale : Int) + y.scale - 254
    let t : Int := if 0 ≤ e then p * 2 ^ e.toNat else p.fdiv (2 ^ (-e).toNat)
    (wrapN 32 (acc + t), 0#7)

/-- A chain of fused multiply-adds over the elements of two blocks (R175). -/
def fmaChain (f : Fmt) (acc : Nat × Flags) (xs ys : List FVal) : Nat × Flags :=
  (xs.zip ys).foldl (fun a p =>
    let r := fFma f .rne p.1 p.2 (f.decode a.1)
    (r.1, a.2 ||| r.2)) acc

/-- One output element over its K blocks in order (R173 to R175). `atype` is 0 f32, 1 i32, 2 f64. -/
def mmaElem (fa fb atype acc : Nat) (xs ys : List OpBlock) : Nat × Flags :=
  let f := if atype = 2 then f64 else f32
  (xs.zip ys).foldl (fun (a : Nat × Flags) p =>
    if 4 ≤ fa then fmaChain f a (p.1.vals fa) (p.2.vals fb)
    else
      let r := if atype = 1 then addInt fa fb a.1 p.1 p.2 else addTerm f a.1 (blockTerm fa fb p.1 p.2)
      (r.1, a.2 ||| r.2)) (acc, 0#7)

/-! ### The MMA operation -/

/-- The parameter block of an MMA (R297). -/
structure Mma where
  a : Nat
  b : Nat
  c : Nat
  m : Nat
  n : Nat
  acc : Bool
  atype : Nat
  ta : Bool
  tb : Bool
  rowa : Nat
  colb : Nat
  kb : Nat
  koff : Nat
  cline : Nat

/-- Reads an MMA's block; none where a reserved bit or a value outside its range is set (R297). -/
def mmaBlock (l : List Byte) : Option Mma :=
  let x := blk l
  if bits x 27 5 ≠ 0 ∨ bit x 71 ∨ bits x 86 426 ≠ 0 ∨ bits x 18 2 = 3 ∨ bits x 23 2 = 3 ∨ bits x 56 8 = 0
      ∨ 128 < bits x 56 8 then none
  else some {
    a := bits x 0 6, b := bits x 6 6, c := bits x 12 6, m := 32 * (bits x 18 2 + 1), n := 32 * (bits x 20 2 + 1)
    acc := bit x 22, atype := bits x 23 2, ta := bit x 25, tb := bit x 26, rowa := bits x 32 12, colb := bits x 44 12
    kb := bits x 56 8, koff := bits x 64 7, cline := bits x 72 14 }

/-- A record by its number; zero where nothing was written. -/
def CoreSt.cairn (c : CoreSt) (k : Nat) : BitVec 128 := tgetD c.cairns k 0#128

/-- The record is held by a workgroup slot. -/
def CoreSt.held (c : CoreSt) (slot k : Nat) : Bool := decide (cState (c.cairn k) = 1) && decide (cOwner (c.cairn k) = slot)

/-- The records among a block's that an operation names: those held by its workgroup when the block is known, and those that
it named before and that drain (R73). -/
def CoreSt.names (c : CoreSt) (slot : Nat) (named : List Nat) (block : List Byte) (ks : List Nat) : List Nat :=
  if block = [] then []
  else ks.filter (fun k => c.held slot k || (named.contains k && decide (cState (c.cairn k) = 2 ∧ cOwner (c.cairn k) = slot)))

/-- The records that an MMA's block names (R73). -/
def mmaNames (l : List Byte) : List Nat := [bits (blk l) 0 6, bits (blk l) 6 6, bits (blk l) 12 6]

/-- The records that an MMA names by a block (R73). -/
def State.mmaNamed (s : State) (o : EngOp) (l : List Byte) : List Nat :=
  (s.core o.core).names (s.opSlot o) o.cairns l (mmaNames l)

/-- Lines of a C row (R299). -/
def lineRow (atype : Nat) : Nat := if atype = 2 then 2 else 1

/-- The permitted format pairs (R298). -/
def pairOk (fa fb fc atype : Nat) (trans : Bool) : Bool :=
  let cOk := decide (fc = if atype = 2 then 7 else 6)
  if fa < 2 then decide (fb < 2) && decide (atype ≠ 2) && cOk && !trans
  else decide (fa = fb) && cOk && (if fa < 4 then decide (atype ≠ 1) else if fa = 4 then decide (atype = 0)
    else decide (fa = 5) && decide (atype = 2))

/-- The elements that an operand names lie in its cairn (R300). -/
def operandFits (r : BitVec 128) (trans : Bool) (base n koff kb : Nat) : Bool :=
  if trans then decide (32 * (koff + kb) ≤ cRows r) && decide (base + n ≤ 32 * cKblk r)
  else decide (base + n ≤ cRows r) && decide (koff + kb ≤ cKblk r)

/-- Every line of an operand carries the cairn's swizzle (R71). -/
def CoreSt.tagsOk (c : CoreSt) (r : BitVec 128) (blocks : List (Nat × Nat)) : Bool :=
  blocks.all (fun b => (blockLines r b.1 b.2).all (fun l =>
    (c.tag (cBuf r) l).v && (c.tag (cBuf r) l).s && decide ((c.tag (cBuf r) l).swz = cSwz r)))

/-- Tags that integer accumulation admits (R174). -/
def intTag (fmt tag : Nat) : Bool := decide (tag = 3) || decide (tag = fmt + 1)

/-- The checks of an MMA in order (R299); the code of the first that fails. -/
def mmaCheck (c : CoreSt) (names : List Nat) (l : List Byte) : Option Nat :=
  match mmaBlock l with
  | none => some cReserved
  | some p =>
    let ra := c.cairn p.a
    let rb := c.cairn p.b
    let rc := c.cairn p.c
    let ba := operandBlocks p.ta p.rowa p.m p.koff p.kb
    let bb := operandBlocks p.tb p.colb p.n p.koff p.kb
    if !(names.contains p.a && names.contains p.b && names.contains p.c) then some cCairn
    else if cBuf ra ≠ 1 ∨ cBuf rb ≠ 0 ∨ cBuf rc ≠ 2 then some cEngineAddr
    else if !pairOk (cFmt ra) (cFmt rb) (cFmt rc) p.atype (p.ta || p.tb) then some cFormat
    else if !(operandFits ra p.ta p.rowa p.m p.koff p.kb && operandFits rb p.tb p.colb p.n p.koff p.kb
        && decide (p.cline + p.m * lineRow p.atype ≤ cLines rc)) then some cCairn
    else if !(c.tagsOk ra ba && c.tagsOk rb bb) then some cSwizzle
    else if p.atype = 1 ∧ !(ba.all (fun b => intTag (cFmt ra) (c.blockTag ra b.1 b.2))
        && bb.all (fun b => intTag (cFmt rb) (c.blockTag rb b.1 b.2))) then some cFormat
    else none

/-- The byte of C[i][j] from the cairn's start, and its size (R299). -/
def cElem (atype cline i j : Nat) : Nat × Nat :=
  let e := if atype = 2 then 8 else 4
  ((cline + i * lineRow atype) * 512 + j * e, e)

/-- Reads C[i][j]. -/
def CoreSt.accAt (c : CoreSt) (r : BitVec 128) (atype cline i j : Nat) : Nat :=
  leNat (c.cairnRead r (cElem atype cline i j).1 (cElem atype cline i j).2)

/-- Writes bytes at an offset of a record of `c:`: V is set, S and SWZ stay (R70). -/
def CoreSt.accPut (c : CoreSt) (r : BitVec 128) (off : Nat) (bs : List Byte) : CoreSt :=
  c.bWrite (cBuf r) (swzPhys (cSwz r).toNat (cBase r + off)) bs none

/-- The elements (i, j) of a tile, row by row. -/
def tileElems (m n : Nat) : List (Nat × Nat) := (List.range m).flatMap (fun i => (List.range n).map (fun j => (i, j)))

/-- The outputs of an MMA: each element with its bits, and the flags of all (R299). -/
def mmaOut (c : CoreSt) (p : Mma) : List ((Nat × Nat) × Nat) × Flags :=
  let ra := c.cairn p.a
  let rb := c.cairn p.b
  let A := c.operand ra p.ta p.rowa p.m p.koff p.kb
  let B := c.operand rb p.tb p.colb p.n p.koff p.kb
  (tileElems p.m p.n).foldl (fun acc ij =>
    let start := if p.acc then c.accAt (c.cairn p.c) p.atype p.cline ij.1 ij.2 else 0
    let r := mmaElem (cFmt ra) (cFmt rb) p.atype start (A.getD ij.1 []) (B.getD ij.2 [])
    (acc.1 ++ [(ij, r.1)], acc.2 ||| r.2)) ([], 0#7)

/-- Writes a tile's elements into C. -/
def CoreSt.putTile (c : CoreSt) (p : Mma) (l : List ((Nat × Nat) × Nat)) : CoreSt :=
  l.foldl (fun (c : CoreSt) x =>
    let e := cElem p.atype p.cline x.1.1 x.1.2
    c.accPut (c.cairn p.c) e.1 (leBytes e.2 x.2)) c

/-! ### The checksum (R177) -/

/-- The modulus of the residues. -/
def csMod : Int := 2147483647

/-- A block's L: its elements are multiples of 2^-L. -/
def OpBlock.csBits (b : OpBlock) (fmt : Nat) : Int :=
  if fmt = 0 then (if b.tag = 2 then 9 else if b.tag = 0 then 1 else 0)
  else if fmt = 1 then (if b.tag = 0 then 9 else if b.tag = 1 then 16 else 0)
  else if fmt = 2 then 133 else 24

/-- An element as an integer multiple of 2^-L. -/
def csInt (L : Int) : FVal → Int
  | .fin s m e => if 0 ≤ e + L then signedMan s m * 2 ^ (e + L).toNat else (signedMan s m).tdiv (2 ^ (-(e + L)).toNat)
  | _ => 0

/-- The elements of a block as integers; none where it is left out: a zero block, or one whose partial sums are not finite. With integer
accumulation the scale is not examined (R174). -/
def OpBlock.csInts (b : OpBlock) (fmt atype : Nat) : Option (List Int) :=
  let vs := b.vals fmt
  if b.zero fmt || (b.scale == 255 && atype != 1) || vs.any (fun v => v.isNaN || v.isInf) then none
  else some (vs.map (csInt (b.csBits fmt)))

/-- Sums the products of two lists of integers. -/
def csDot (a b : List Int) : Int := (List.zipWith (fun x y => x * y) a b).foldl (fun x y => x + y) 0

/-- The residues of a row against a list of columns, block by block: what the engine sums from its partial sums, and what the
operand block sums give. The blocks whose product is left out count on neither side. -/
def csRow (row : List (Option (List Int))) (cols : List (List (Option (List Int)))) : Int × Int :=
  row.zipIdx.foldl (fun (acc : Int × Int) b =>
    match b.1 with
    | none => acc
    | some x =>
      let ys := cols.filterMap (fun c => c.getD b.2 none)
      (acc.1 + (ys.map (csDot x)).foldl (fun p q => p + q) 0,
       acc.2 + csDot x ((List.range 32).map (fun t => (ys.map (fun y => y.getD t 0)).foldl (fun p q => p + q) 0)))) (0, 0)

/-- The checksum of a tile meets a mismatch, where a fault of the hardware has added `err` to a partial sum's residue: its row or its
column differs. A fault can only fall on a block that is not left out. -/
def mmaMismatch (c : CoreSt) (p : Mma) (err : Nat) : Bool :=
  if (err : Int) % csMod = 0 then false
  else
    let A := (c.operand (c.cairn p.a) p.ta p.rowa p.m p.koff p.kb).map (fun r => r.map (fun b => b.csInts (cFmt (c.cairn p.a)) p.atype))
    let B := (c.operand (c.cairn p.b) p.tb p.colb p.n p.koff p.kb).map (fun r => r.map (fun b => b.csInts (cFmt (c.cairn p.b)) p.atype))
    let meets (r q : List (Option (List Int))) : Bool := r.zipIdx.any (fun b => b.1.isSome && (q.getD b.2 none).isSome)
    match A.findSome? (fun r => (B.find? (meets r)).map (fun q => (r, q))) with
    | none => false
    | some (r, q) =>
      let x := csRow r B
      let y := csRow q A
      decide ((x.1 + err) % csMod ≠ x.2 % csMod) || decide ((y.1 + err) % csMod ≠ y.2 % csMod)

/-- The checksum covers tagged, 16-bit and integer operands (R177). -/
def mmaChecked (c : CoreSt) (p : Mma) : Bool := decide (cFmt (c.cairn p.a) < 4)

/-- Counts the rerun of a workgroup's MMA, which stays at its top (R307). -/
def State.countRerun (s : State) (wg : Nat) : State :=
  match tget s.wgs wg with
  | some g => s.putWg wg { g with reruns := if g.reruns = 0xFFFFFFFF#32 then g.reruns else g.reruns + 1#32 }
  | none => s

/-- An MMA completes (R299). `err` and `err2` are what faults of the hardware add to the residues of its run and of its rerun
(R177): one mismatch reruns it, two raise CHECKSUM_REPEAT, leave the tile undefined and make a RAS record. -/
def State.mmaDone (s : State) (key : Nat) (o : EngOp) (err err2 : Nat) : State :=
  match mmaBlock o.block with
  | none => s.putOp key { o with state := .complete }
  | some p =>
    let c := s.core o.core
    let again := mmaChecked c p && mmaMismatch c p err
    let s := if again then s.countRerun o.wg else s
    if !(again && mmaMismatch c p err2) then
      let r := mmaOut c p
      (s.putCore o.core (c.putTile p r.1)).putOp key { o with state := .complete, flags := o.flags ||| r.2 }
    else
      let l := (tileElems p.m p.n).zipIdx.map (fun x => (x.1,
        (Config.freeWord (s.free + 2 * x.2)).toNat + 2 ^ 32 * (Config.freeWord (s.free + 2 * x.2 + 1)).toNat))
      let s := (s.putCore o.core (c.putTile p (l.map (fun x => (x.1, x.2 % 2 ^ (8 * (if p.atype = 2 then 8 else 4))))))).draw
        (2 * p.m * p.n)
      (s.ras 12 (dieOf o.core) o.core 0).putOp key (o.failed (condOf cChecksum) false)

/-- A run of bytes of a record, under its swizzle, holds a word with an uncorrectable error (R402). -/
def CoreSt.cairnBad (c : CoreSt) (r : BitVec 128) (off n : Nat) : Bool :=
  !c.badWords.isEmpty && (List.range n).any (fun i => c.badAt (cBuf r) (swzPhys (cSwz r).toNat (cBase r + off + i)) 1)

/-- Some word that blocks of an operand take up has an uncorrectable error (R402). -/
def CoreSt.blocksBad (c : CoreSt) (r : BitVec 128) (blocks : List (Nat × Nat)) : Bool :=
  !c.badWords.isEmpty && blocks.any (fun b => c.cairnBad r (planeOff r b.1 b.2 0) (4 * min (cPlanes r) (cairnW (cFmt r)))
    || (cSc r && (c.cairnBad r (cSoff r + blockNo r b.1 b.2) 1 || c.cairnBad r (cToff r + blockNo r b.1 b.2 / 4) 1)))

/-- An MMA reads a word with an uncorrectable error (R402). -/
def mmaBad (c : CoreSt) (l : List Byte) : Bool :=
  match mmaBlock l with
  | none => false
  | some p =>
    c.blocksBad (c.cairn p.a) (operandBlocks p.ta p.rowa p.m p.koff p.kb)
      || c.blocksBad (c.cairn p.b) (operandBlocks p.tb p.colb p.n p.koff p.kb)
      || (p.acc && (List.range p.m).any (fun i => c.cairnBad (c.cairn p.c) ((p.cline + i * lineRow p.atype) * 512)
        (p.n * (if p.atype = 2 then 8 else 4))))

/-- The checks of an MMA (R299): a condition is due, or it runs. -/
def State.mmaStart (s : State) (key : Nat) (o : EngOp) : State :=
  match mmaCheck (s.core o.core) o.cairns o.block with
  | some code => s.putOp key (o.failed (condOf code) false)
  | none =>
    if mmaBad (s.core o.core) o.block then s.putOp key (o.failed (condOf cPoison) false) else s.putOp key { o with state := .finished }

/-! ### MZERO -/

/-- MZERO's checks in order (R303). -/
def mzeroCheck (c : CoreSt) (names : List Nat) (k line n : Nat) : Option Nat :=
  if !names.contains k then some cCairn
  else if cBuf (c.cairn k) ≠ 2 then some cEngineAddr
  else if n = 0 ∨ cLines (c.cairn k) < line + n then some cCairn
  else none

/-- MZERO's operands as issued: record, first line, count. -/
def EngOp.argAt (o : EngOp) (i : Nat) : Nat := o.args.getD i 0

/-- MZERO runs: zero in every line, V set (R70, R303). -/
def State.mzeroStart (s : State) (key : Nat) (o : EngOp) : State :=
  let c := s.core o.core
  match mzeroCheck c o.cairns (o.argAt 0) (o.argAt 1) (o.argAt 2) with
  | some code => s.putOp key (o.failed (condOf code) false)
  | none =>
    let first := cBase (c.cairn (o.argAt 0)) / 512 + o.argAt 1
    let c := (List.range (o.argAt 2)).foldl (fun (c : CoreSt) i =>
      let c := CoreSt.bOpen none 2 c (first + i)
      { c.mend 2 ((first + i) * 512) 512 with cbuf := czero c.cbuf ((first + i) * 512) 512 }) c
    (s.putCore o.core c).putOp key { o with state := .finished }

/-! ### CAIRN, CAIRNQ, CAIRNX -/

/-- Two runs of bytes are disjoint. -/
def apart (a n b m : Nat) : Bool := decide (a + n ≤ b) || decide (b + m ≤ a) || decide (n = 0) || decide (m = 0)

/-- Lines of a typed buffer (R68). -/
def bufLines (b : Nat) : Nat := if b = 1 then 12288 else 16384

/-- The checks of R68 on a descriptor, against the records of a core. -/
def cairnOk (c : CoreSt) (r : BitVec 128) : Bool :=
  let b := cBuf r
  let f := cFmt r
  let p := cPlanes r
  let k := cKblk r
  let size := cLines r * 512
  let nblk := cRows r * k
  let data := nblk * cairnW f * 4
  decide (b < 3) && decide (cBase r / 512 + cLines r ≤ bufLines b)
    && (if f ≤ 5 then decide (b ≠ 2) else decide (f ≤ 7) && decide (b = 2))
    && (if f = 0 then decide (p = 4) else if f = 1 then decide (1 ≤ p) && decide (p ≤ 8)
        else if f ≤ 3 then decide (1 ≤ p) && decide (p ≤ 16) else if f = 4 then decide (p = 32)
        else if f = 5 then decide (p = 64) else decide (p = 0))
    && (if f ≤ 5 then decide (1 ≤ k) && decide (k ≤ 128) && decide (cRowsRaw r < 4096) && decide (data ≤ size)
        else decide (k = 0) && decide (cRowsRaw r = 0))
    && (if cSc r then
          decide (cSoff r + nblk ≤ size) && decide (cToff r + ceilDiv nblk 4 ≤ size)
            && apart (cSoff r) nblk 0 data && apart (cToff r) (ceilDiv nblk 4) 0 data
            && apart (cSoff r) nblk (cToff r) (ceilDiv nblk 4)
        else decide (cSoff r = 0) && decide (cToff r = 0))
    && c.cairns.all (fun e => !(decide (cState e.2 = 1) || decide (cState e.2 = 2)) || decide (cBuf e.2 ≠ b)
        || apart (cBase e.2) (cLines e.2 * 512) (cBase r) size)

/-- Reserved fields of a descriptor, with STATE and OWNER, are 0 (R292). -/
def cairnClean (r : BitVec 128) : Bool :=
  let x := r.toNat
  decide (bits x 2 3 = 0) && decide (bits x 20 12 = 0) && decide (bits x 46 2 = 0) && decide (bits x 62 2 = 0)
    && decide (bits x 121 7 = 0)

/-- Records that a workgroup slot holds or drains (R67). -/
def CoreSt.ownedBy (c : CoreSt) (slot : Nat) : Nat :=
  (c.cairns.filter (fun e => (decide (cState e.2 = 1) || decide (cState e.2 = 2)) && decide (cOwner e.2 = slot))).length

/-- The lowest-numbered free record of a core. -/
def CoreSt.freeCairn (c : CoreSt) : Option Nat := firstBelow 64 (fun k => decide (cState (c.cairn k) = 0))

/-- CAIRN (R292). -/
def execCairn (f : FmtA3) (s : State) : Out :=
  issue (.cairn f) s (fun w m s =>
    if m = 0#32 then .done s
    else
      let d := BitVec.ofNat 128 (w.src f.a 4 0)
      let c := s.core w.core
      let slot := s.slotOf w
      let bad (code : Nat) : Act := .raise (w.mkRec code stData (Mask.first m)) s
      if !cairnClean d then bad cReserved
      else if cSc d ≠ decide (cFmt d < 2) then bad cCairn
      else match s.wgOf w, c.freeCairn with
        | some g, some k =>
          if g.cairnRes ≤ c.ownedBy slot || !cairnOk c d then bad cCairn
          else
            let r := BitVec.ofNat 128 (setBits (setBits d.toNat 2 3 1) 20 7 slot)
            let lines := (List.range (cLines d)).map (· + cBase d / 512)
            let c := { c with cairns := tset c.cairns k r }
            let c := c.setBuf (cBuf d) (c.buf (cBuf d)) ((c.tags (cBuf d)).filter (fun t => !lines.contains t.1))
            .done ((s.putCore w.core c).putWave s.cur (w.put f.dst 1 m (fun _ => k)))
        | _, _ => bad cCairn)

/-- CAIRNQ (R293). -/
def execCairnq (f : FmtX) (s : State) : Out :=
  issue (.cairnq f) s (fun w m s =>
    if m = 0#32 then .done s
    else
      let k := w.src f.a 1 0
      let r := (s.core w.core).cairn k
      let own := decide (k < 64) && (decide (cState r = 1) || decide (cState r = 2)) && decide (cOwner r = s.slotOf w)
      .done (s.putWave s.cur (w.put f.dst 4 m (fun _ => if own then r.toNat else 0))))

/-- CAIRNX (R294, R73). -/
def execCairnx (f : FmtX) (s : State) : Out :=
  issue (.cairnx f) s (fun w m s =>
    if m = 0#32 then .done s
    else
      let k := w.src f.a 1 0
      let c := s.core w.core
      if 64 ≤ k || !c.held (s.slotOf w) k then .raise (w.mkRec cCairn stData (Mask.first m)) s
      else .done (s.putCore w.core { c with
        cairns := tset c.cairns k (cSetState (c.cairn k) (if s.named w.wg k then 2 else 0)) }))

/-! ### MMA and MZERO -/

/-- TOKEN, precise (R302): the workgroup is in token mode and the wave does not hold the token. -/
def tokenCheck (w : Wave) (m : Mask) (s : State) : Option FaultRec :=
  match (s.core w.core).token with
  | some t =>
    if t.wg = w.wg ∧ w.sup = false ∧ t.holder ≠ w.num then some (w.mkRec cToken stPerm (Mask.first m)) else none
  | none => none

/-- MMA (R295, R302). -/
def execMma (f : FmtE) (s : State) : Out := engineOp (.mma f) f .mma 1 64 false tokenCheck State.mmaNamed (fun _ _ o => o) s

/-- MZERO (R303): one operation for each active lane, also where every operand is scalar or constant and R209 would let it act once (log
64, DEDUCED). -/
def execMzero (f : FmtA3) (s : State) : Out :=
  issue (.mzero f) s (fun w m s =>
    if m = 0#32 then .done s
    else s.gated s.cur w 0 0 (fun w s =>
      if !w.room 1 (Mask.count m) || s.chipDue w.core then .stay s
      else .done ((Mask.lanes m).foldl (fun (s : State) l =>
        let args := [w.src f.a 1 l, w.src f.b 1 l, w.src f.c 1 l]
        let ks := [args.headD 0].filter ((s.core w.core).held (s.slotOf w))
        s.issueOp s.cur { s.newOp s.cur w .mzero l 1 with args := args, cairns := ks }) s)))

/-! ### The token -/

/-- The ridge operand of TKTAKE and TKPASS (R304). -/
def State.tokenRidge (s : State) (w : Wave) (o : Operand) (m : Mask) : Except Nat Nat :=
  let r := w.src o 1 (Mask.first m)
  if (Mask.lanes m).any (fun l => decide (w.src o 1 l ≠ r)) then .error cReserved
  else match s.ridgeOf w r with
    | none => .error cMember
    | some e => if e.2.members.getLsbD w.num then .ok r else .error cMember

/-- The first waiter of a freed token: a workgroup's waiters go in the order their TKTAKEs issued (R304). -/
def CoreSt.tokenTurn (c : CoreSt) (id : Nat) : Bool :=
  match c.tkWait with
  | k :: _ => decide (k = id)
  | [] => true

/-- The workgroup holds the token on another ridge than the one that the operand names (R304). -/
def State.otherRidge (s : State) (w : Wave) (o : Operand) (m : Mask) : Bool := match (s.core w.core).token with
  | some t => decide (t.wg = w.wg ∧ t.ridge ≠ w.src o 1 (Mask.first m))
  | none => false

/-- TKTAKE (R304): TOKEN belongs to the permission step and stands before RIDGE_MEMBERSHIP, a data condition (R221). The token's receipt is an acquire at CORE scope (R305). A wait takes a place in the core's order of waiters. -/
def execTktake (f : FmtX) (s : State) : Out :=
  issue (.tktake f) s (fun w m s =>
    if m = 0#32 then .done s
    else if s.otherRidge w f.a m then
      let c := s.core w.core
      .raise (w.mkRec cToken stPerm (Mask.first m)) (s.putCore w.core { c with tkWait := c.tkWait.filter (fun k => decide (k ≠ s.cur)) })
    else match s.tokenRidge w f.a m with
      | .error code => .raise (w.mkRec code stData (Mask.first m)) s
      | .ok r =>
        let c := s.core w.core
        let out := c.tkWait.filter (fun k => decide (k ≠ s.cur))
        let wait : Act := .stay (s.putCore w.core { c with tkWait := if c.tkWait.contains s.cur then c.tkWait else c.tkWait ++ [s.cur] })
        match c.token with
        | none =>
          if c.tokenTurn s.cur then
            s.gated s.cur w 2 1 (fun w s =>
              .done (s.putCore w.core { c with token := some { wg := w.wg, ridge := r, holder := w.num }, tkWait := out }))
          else wait
        | some t =>
          if t.wg = w.wg then
            if t.holder = w.num then s.gated s.cur w 2 1 (fun w s => .done (s.putCore w.core { c with tkWait := out }))
            else wait
          else wait)

/-- TKPASS in its two forms (R305): a release at CORE scope. -/
def tokenPass (i : Instr) (f : FmtX) (free : Bool) (s : State) : Out :=
  issue i s (fun w m s =>
    if m = 0#32 then .done s
    else
      let bad (code : Nat) : Act := .raise (w.mkRec code (if code = cToken then stPerm else stData) (Mask.first m)) s
      match s.tokenRidge w f.a m with
      | .error code => if code = cReserved then bad cReserved else bad cToken
      | .ok r =>
        match s.holdsToken w with
        | some t =>
          if t.ridge ≠ r then bad cToken
          else if s.chipDue w.core then .stay s
          else s.gated s.cur w 3 1 (fun w s => if free then .done (s.setToken w.core none) else .done (s.passToken w t))
        | none => bad cToken)

/-- TKPASS (R305). -/
def execTkpass (f : FmtX) (s : State) : Out := tokenPass (.tkpass f) f false s
/-- TKPASS.END (R305). -/
def execTkpassEnd (f : FmtX) (s : State) : Out := tokenPass (.tkpassEnd f) f true s

/-! ### MSTAT -/

/-- Matrix-class operations of a workgroup that have not retired (R307). -/
def State.matrixDue (s : State) (wg : Nat) : Nat :=
  (s.ops.filter (fun e => decide (e.2.wg = wg) && decide (e.2.cls = 1))).length

/-- The sample of `mstat.token` (R307). -/
def State.tokenSample (s : State) (w : Wave) : Nat :=
  match (s.core w.core).token with
  | some t => if t.wg = w.wg then 1 + 2 * b2n (decide (t.holder = w.num)) + t.ridge % 256 * 4 + t.holder % 64 * 2 ^ 10 else 0
  | none => 0

/-- MSTAT (R307). -/
def execMstat (f : FmtX) (s : State) : Out :=
  issue (.mstat f) s (onWave fun w m =>
    let v := if f.sel = 0#16 then s.matrixDue w.wg
      else if f.sel = 1#16 then s.tokenSample w
      else match s.wgOf w with
        | some g => g.reruns.toNat
        | none => 0
    w.put f.dst 1 m (fun _ => v))

end Sys2Proof.Machine
end

