-- ==== Sys2Proof/Machine/Drain.lean ====
section
/-! DEFINITION. The epilogue processor: drain programs (R308, R309, R312 to R314), DPLOAD, MDRAIN (R310, R311, R315), and
the order of the matrix sequencer (R296). -/

namespace Sys2Proof.Machine

/-! ### Drain instructions -/

/-- The fields of a drain instruction (R312). -/
def dOp (w : Word) : Nat := bits w.toNat 27 5
@[inherit_doc dOp] def dSel (w : Word) : Nat := bits w.toNat 24 3
@[inherit_doc dOp] def dFmt (w : Word) : Nat := bits w.toNat 20 4
@[inherit_doc dOp] def dSat (w : Word) : Bool := bit w.toNat 19
@[inherit_doc dOp] def dImm (w : Word) : Nat := bits w.toNat 0 16

/-- The fields of a drain instruction hold values that the table allows (R309, R312). -/
def dFieldsOk (w : Word) : Bool :=
  let op := dOp w
  let sel := dSel w
  let f := dFmt w
  let plain := decide (f = 0) && !dSat w
  let imm0 := decide (dImm w = 0)
  decide (bits w.toNat 16 3 = 0) &&
    (if op = 1 then decide (sel = 0) && plain
     else if 4 ≤ op ∧ op ≤ 7 then plain && (decide (sel = 0) || (decide (sel = 1) && imm0))
     else if op = 10 then decide (sel = 0) && decide (f ≤ 6) && imm0
     else if op = 11 then decide (sel ≤ 3) && (decide (f = 4) || decide (f = 6)) && !dSat w && imm0
     else if op = 13 then decide (sel ≤ 2) && plain && imm0
     else if op = 14 then decide (sel ≤ 1) && decide (f ≤ 10) && imm0
     else decide (op < 16) && decide (sel = 0) && plain && imm0)

/-- The program's words up to its first E.END; none where there is no E.END (R309). -/
def dProgram : List Word → Option (List Word)
  | [] => none
  | w :: t => if dOp w = 15 then some [w] else (dProgram t).map (w :: ·)

/-- An E.STORE of format 7 has the E.QBLK before it, and goes to `a:` (R309). -/
def dStoresOk (seen : Bool) : List Word → Bool
  | [] => true
  | w :: t =>
    (decide (dOp w ≠ 14) || ((decide (dFmt w ≠ 7) || (seen && decide (dSel w = 1)))
      && (decide (dFmt w ≠ 8) || decide (dSel w = 0)))) && dStoresOk (seen || decide (dOp w = 11)) t

/-- A valid drain program (R309), from the words of its block. -/
def dValid (l : List Word) : Option (List Word) :=
  match dProgram l with
  | none => none
  | some p =>
    let stores := p.filter (fun w => decide (dOp w = 14))
    if p.all dFieldsOk && dStoresOk false p && decide ((p.filter (fun w => decide (dOp w = 11))).length ≤ 1)
        && decide ((stores.filter (fun w => decide (dSel w = 0))).length ≤ 1)
        && decide ((stores.filter (fun w => decide (dSel w = 1))).length ≤ 1) then some p
    else none

/-- The stores of a program to `g:` (0) or `a:` (1), by their words. -/
def dStore (p : List Word) (sel : Nat) : Option Word := p.find? (fun w => decide (dOp w = 14) && decide (dSel w = sel))

/-- The program holds an instruction. -/
def dHas (p : List Word) (op : Nat) : Bool := p.any (fun w => decide (dOp w = op))

/-! ### The block of an MDRAIN -/

/-- The parameter block of an MDRAIN (R310). -/
structure Drain where
  c : Nat
  cline : Nat
  m : Nat
  n : Nat
  atype : Nat
  slot : Nat
  a : Nat
  arow : Nat
  akb : Nat
  gaddr : Nat
  gstride : Nat
  lrow : Nat
  lcol : Nat
  lpwl : Nat
  lamax : Nat

/-- Reads an MDRAIN's block; none where a reserved bit or a code outside its range is set (R310). -/
def drainBlock (l : List Byte) : Option Drain :=
  let x := blk l
  if bits x 28 4 ≠ 0 ∨ bits x 57 7 ≠ 0 ∨ bits x 288 224 ≠ 0 ∨ bits x 20 2 = 3 ∨ bits x 24 2 = 3 then none
  else some {
    c := bits x 0 6, cline := bits x 6 14, m := 32 * (bits x 20 2 + 1), n := 32 * (bits x 22 2 + 1), atype := bits x 24 2
    slot := bits x 26 2, a := bits x 32 6, arow := bits x 38 12, akb := bits x 50 7, gaddr := bits x 64 64
    gstride := bits x 128 32, lrow := bits x 160 32, lcol := bits x 192 32, lpwl := bits x 224 32, lamax := bits x 256 32 }

/-- The working format (R311). -/
def Drain.wf (d : Drain) : Fmt := if d.atype = 0 then f32 else f64
/-- Bytes of a working value. -/
def Drain.size (d : Drain) : Nat := if d.atype = 0 then 4 else 8

/-- The program in a slot of a workgroup; empty where the slot is empty (R308). -/
def State.drainProg (s : State) (wg slot : Nat) : List Word :=
  match tget s.wgs wg with
  | some g => tgetD g.drain slot []
  | none => []

/-- The records that an MDRAIN names: its C record, and its destination record where its program stores to `a:` or is
still being loaded. -/
def State.drainNames (s : State) (wg : Nat) (l : List Byte) : List Nat :=
  let slot := bits (blk l) 26 2
  bits (blk l) 0 6 ::
    (if (dStore (s.drainProg wg slot) 1).isSome
        || s.ops.any (fun e => decide (e.2.kind = .dpload) && decide (e.2.wg = wg) && decide (e.2.args.headD 0 = slot)
            && decide (e.2.state ≠ .complete)) then
      [bits (blk l) 32 6] else [])

/-- The records that an MDRAIN names by a block (R73). -/
def State.drainNamed (s : State) (o : EngOp) (l : List Byte) : List Nat :=
  (s.core o.core).names (s.opSlot o) o.cairns l (s.drainNames o.wg l)

/-- Element size in `g:` of a store format, in bits, and the FMT of its `a:` cairn (R313). -/
def storeBits (fmt : Nat) : Nat := ([16, 16, 32, 64, 8, 8, 4, 0, 32, 8, 4] : List Nat).getD fmt 0
@[inherit_doc storeBits] def storeCairn (w : Option Word) (fmt : Nat) : Nat :=
  if fmt = 7 then (match w with
    | some q => if dFmt q = 4 then 1 else 0
    | none => 0)
  else ([3, 2, 4, 5, 1, 1, 0, 0, 0, 1, 0] : List Nat).getD fmt 0

/-- The scale byte and the tag that a store writes with its own blocks (R313). -/
def storeTag (fmt : Nat) : Nat := if fmt = 5 then 1 else if fmt = 9 then 2 else if fmt = 10 then 1 else 0

/-- Address formation of an `l:` table of an operation: bounds, and the alignment of its entries (R24, R315). -/
def State.lTable (s : State) (o : EngOp) (off n width : Nat) : Option Cond :=
  if off % width ≠ 0 then some { code := cAlign, step := stForm, addr := off } else s.lRegion o.wg off n

/-- The first condition of a list. -/
def firstCond : List (Option Cond) → Option Cond
  | [] => none
  | some c :: _ => some c
  | none :: t => firstCond t

/-- Address formation of the rows that a program stores to `g:`, by increasing row (R315). -/
def State.drainRows (s : State) (o : EngOp) (d : Drain) (esz : Nat) : Option Cond :=
  firstCond ((List.range d.m).map (fun i =>
    match s.opForm o d.gaddr ((i * d.gstride : Nat) : Int) (if esz < 8 then 1 else esz / 8) with
    | .error c => some c
    | .ok _ =>
      match s.opForm o d.gaddr ((i * d.gstride + d.n * esz / 8 - 1 : Nat) : Int) 1 with
      | .error c => some c
      | .ok _ => none))

/-- The table of E.PWL: LO and INV, and the binary32 entries (R314). -/
def State.pwlHead (s : State) (o : EngOp) (d : Drain) : FVal × FVal :=
  (f32.decode (leNat (s.wgRead o d.lpwl 4)), f32.decode (leNat (s.wgRead o (d.lpwl + 4) 4)))

/-- LO is finite, and INV positive and finite (R314). -/
def pwlOk (h : FVal × FVal) : Bool :=
  !h.1.isNaN && !h.1.isInf && !h.2.isNaN && !h.2.isInf && !h.2.isZero && !h.2.sign

/-- The checks of an MDRAIN in order (R315). -/
def State.drainCheck (s : State) (o : EngOp) : Option Cond :=
  match drainBlock o.block with
  | none => some (condOf cReserved)
  | some d =>
    let p := s.drainProg o.wg d.slot
    let c := s.core o.core
    let ra := c.cairn d.a
    let sa := dStore p 1
    if p = [] then some (condOf cDrain)
    else if !o.cairns.contains d.c || (sa.isSome && !o.cairns.contains d.a) || decide (cLines (c.cairn d.c) < d.cline + d.m * lineRow d.atype)
    then some (condOf cCairn)
    else if cBuf (c.cairn d.c) ≠ 2 ∨ (sa.isSome = true ∧ cBuf ra ≠ 1) then some (condOf cEngineAddr)
    else
      let fa : Option Nat := match sa with
        | some w =>
          if cFmt ra ≠ storeCairn (p.find? (fun w => decide (dOp w = 11))) (dFmt w) then some cFormat
          else if cRows ra < d.arow + d.m ∨ cKblk ra < d.akb + d.n / 32 then some cCairn
          else none
        | none => none
      match fa with
      | some code => some (condOf code)
      | none =>
        let z := d.size
        firstCond [
          if dHas p 2 then s.lTable o d.lrow (d.m * z) z else none,
          if dHas p 3 then s.lTable o d.lcol (d.n * z) z else none,
          if dHas p 9 then s.lTable o d.lpwl 2064 4 else none,
          if dHas p 12 then s.lTable o d.lamax z z else none,
          match dStore p 0 with
            | some w => s.drainRows o d (storeBits (dFmt w))
            | none => none,
          if dHas p 9 && !pwlOk (s.pwlHead o d) then some (condOf cDrain) else none]

/-! ### Running a program -/

/-- The registers of a row of elements: X and T of each column, Q of each block of 32 (scale, tag, codes), AMAX, flags,
free values drawn, and what the row stores: destination, format, codes of the columns, scale and tag of the blocks. -/
structure DRow where
  x : List Nat
  t : List Nat
  q : List (Nat × Nat × List Nat)
  amax : Nat
  flags : Flags
  free : Nat
  out : List (Nat × Nat × List Nat × List (Nat × Nat))

/-- What a program reads beside its registers: the working format, row[i], col[j], and the table of E.PWL. -/
structure DEnv where
  f : Fmt
  row : Nat
  col : List Nat
  lo : FVal
  inv : FVal
  seg : Nat → Nat × Nat

/-- Applies an operation that gives bits and flags to every column. -/
def DRow.each (r : DRow) (g : Nat → Nat → Nat × Flags) : DRow :=
  let l := (r.x.zip r.t).map (fun p => g p.1 p.2)
  { r with x := l.map (fun p => p.1), flags := l.foldl (fun acc p => acc ||| p.2) r.flags }

/-- A BF16 immediate in the working format, exact: a NaN keeps its bits, signalling or quiet (R312). -/
def bfImm (f : Fmt) (imm : Nat) : Nat :=
  match bf16.decode imm with
  | .nan s _ _ => f.infBits s + imm % 128 * 2 ^ (f.mb - 7)
  | v => f.encode v

/-- A binary32 value of a table, widened exactly into the working format (R314). -/
def widenNaN (f : Fmt) (v : FVal) : FVal :=
  match v with
  | .nan s q p => .nan s q (p * 2 ^ (f.mb - 23))
  | v => v

/-- ⌊(X - LO) × INV⌋ clamped to 0 to 255 (R314). -/
def pwlSeg (x lo inv : FVal) : Nat :=
  match x, lo, inv with
  | .inf s, _, _ => if s then 0 else 255
  | .fin s1 m1 e1, .fin s2 m2 e2, .fin _ m3 e3 =>
    let d := addExact s1 m1 e1 (!s2) m2 e2
    let y := d.1 * m3
    let e := d.2 + e3
    let n : Int := if 0 ≤ e then y * 2 ^ e.toNat else y.fdiv (2 ^ (-e).toNat)
    if n < 0 then 0 else if 255 < n then 255 else n.toNat
  | _, _, _ => 0

/-- E.PWL on one value (R314). -/
def pwlVal (v : DEnv) (x : Nat) : Nat × Flags :=
  let X := v.f.decode x
  match nanResult v.f [X] with
  | some r => r
  | none =>
    let e := v.seg (pwlSeg X v.lo v.inv)
    fFma v.f .rne (widenNaN v.f (f32.decode e.1)) X (widenNaN v.f (f32.decode e.2))

/-- Lists of 32 elements of a row. -/
def chunks32 (l : List α) : List (List α) := (List.range (l.length / 32)).map (fun k => (l.drop (32 * k)).take 32)

/-- The value of a quantised code in the working format (R312): the default NaN for the NaN scale. -/
def qVal (f : Fmt) (scale : Nat) (v : FVal) : Nat × Flags :=
  if scale = 255 then (f.defNaN, 0#7)
  else match v with
    | .fin s m e => f.roundInt .rne false (signedMan s m) (e + (scale : Int) - 127) s
    | .nan s _ _ => (f.nanBits s, 0#7)
    | .inf s => (f.infBits s, 0#7)

/-- E.QBLK on a block (R266, R312). A scale exponent past the byte's range leaves the scale byte free (log 17, DESIGN CHOICE). -/
def qBlock (f : Fmt) (wide : Bool) (pol : Nat) (xs : List Nat) (free : Nat) : (Nat × Nat × List Nat) × List Nat × Flags :=
  let r := quantBlock wide pol (xs.map f.decode)
  let scale := if 255 ≤ r.1 ∧ r.2.2.2 &&& fNV = 0#7 then (Config.freeByte free).toNat else r.1
  let vs := ((if r.2.1 = 3 then xs.map (fun _ => fZero) else quantVals wide r.2.1 r.2.2.1).map (qVal f scale))
  ((scale, r.2.1, r.2.2.1), vs.map (fun p => p.1), vs.foldl (fun acc p => acc ||| p.2) r.2.2.2)

/-- |X| joins AMAX (R312): a NaN makes it the default NaN for good. -/
def amaxJoin (f : Fmt) (acc x : Nat) : Nat :=
  if (f.decode acc).isNaN || (f.decode x).isNaN then f.defNaN
  else if fLt false (f.decode acc) (f.decode (x % 2 ^ (f.width - 1))) then x % 2 ^ (f.width - 1) else acc

/-- A stored value by its format (R313). -/
def storeCode (f : Fmt) (fmt : Nat) (sat : Bool) (x : Nat) : Nat × Flags :=
  if fmt ≤ 6 then fCvt (fmtF fmt) f .rne sat x
  else
    let w := if fmt = 8 then 32 else if fmt = 9 then 8 else 4
    let r := fCvtInt f .rne w true x
    (wrapN w r.1, r.2)

/-- One drain instruction on a row (R312, R313). -/
def drainInstr (v : DEnv) (r : DRow) (w : Word) : DRow :=
  let f := v.f
  let dec := f.decode
  let arg (t : Nat) : Nat := if dSel w = 1 then t else bfImm f (dImm w)
  match dOp w with
  | 1 => r.each (fun x _ => fScale f .rne (dec x) (sextN 16 (dImm w)))
  | 2 => r.each (fun x _ => fAdd f .rne (dec x) (dec v.row))
  | 3 =>
    let l := List.zipWith (fun x c => fAdd f .rne (dec x) (dec c)) r.x v.col
    { r with x := l.map (fun p => p.1), flags := l.foldl (fun acc p => acc ||| p.2) r.flags }
  | 4 => r.each (fun x t => fAdd f .rne (dec x) (dec (arg t)))
  | 5 => r.each (fun x t => fMul f .rne (dec x) (dec (arg t)))
  | 6 => r.each (fun x t => fMinMax f true true x (arg t))
  | 7 => r.each (fun x t => fMinMax f false true x (arg t))
  | 8 => r.each (fun x _ => (if (dec x).isNaN then x else if (dec x).sign then 0 else x, 0#7))
  | 9 => r.each (fun x _ => pwlVal v x)
  | 10 => r.each (fun x _ =>
      let y := fCvt (fmtF (dFmt w)) f .rne (dSat w) x
      ((fCvt f (fmtF (dFmt w)) .rne false y.1).1, y.2))
  | 11 =>
    let bs := (chunks32 r.x).zipIdx.map (fun p => qBlock f (decide (dFmt w = 4)) (dSel w) p.1 (r.free + p.2))
    { r with x := bs.flatMap (fun b => b.2.1), q := bs.map (fun b => b.1)
             flags := bs.foldl (fun acc b => acc ||| b.2.2) r.flags, free := r.free + bs.length }
  | 12 => { r with amax := r.x.foldl (amaxJoin f) r.amax }
  | 13 =>
    if dSel w = 0 then { r with t := r.x }
    else if dSel w = 1 then { r with x := r.t }
    else { r with x := List.zipWith (fun x t => if (dec t).isNaN || !fLt false fZero (dec t) then x else t) r.x r.t }
  | 14 =>
    if dFmt w = 7 then
      { r with out := r.out ++ [(dSel w, 7, r.q.flatMap (fun b => b.2.2), r.q.map (fun b => (b.1, b.2.1)))] }
    else
      let l := r.x.map (storeCode f (dFmt w) (dSat w))
      { r with out := r.out ++ [(dSel w, dFmt w, l.map (fun p => p.1),
                                 (chunks32 r.x).map (fun _ => (127, storeTag (dFmt w))))]
               flags := l.foldl (fun acc p => acc ||| p.2) r.flags }
  | _ => r

/-! ### Strips -/

/-- The planes of a block of codes (R65): word j holds bit W - 1 - j of every element. -/
def planeWord (W j : Nat) (codes : List Nat) : Nat :=
  codes.zipIdx.foldl (fun acc p => if bit p.1 (W - 1 - j) then acc + 2 ^ p.2 else acc) 0

/-- Writes bytes at an offset of an `a:` record as the drain does: lines stamped with the record's swizzle (R70). -/
def CoreSt.stampPut (c : CoreSt) (r : BitVec 128) (off : Nat) (bs : List Byte) : CoreSt :=
  bs.zipIdx.foldl (fun (c : CoreSt) b =>
    c.bWrite (cBuf r) (swzPhys (cSwz r).toNat (cBase r + off + b.2)) [b.1] (some (cSwz r))) c

/-- Writes a block of codes with its scale and tag into a record (R65, R68, R313). -/
def CoreSt.putBlock (c : CoreSt) (r : BitVec 128) (row q : Nat) (codes : List Nat) (scale tag : Nat) : CoreSt :=
  let W := cairnW (cFmt r)
  let c := (List.range W).foldl (fun (c : CoreSt) j => c.stampPut r (planeOff r row q j) (leBytes 4 (planeWord W j codes))) c
  if cSc r then
    let n := blockNo r row q
    let c := c.stampPut r (cSoff r + n) [BitVec.ofNat 8 scale]
    let old := leNat (c.cairnRead r (cToff r + n / 4) 1)
    c.stampPut r (cToff r + n / 4) [BitVec.ofNat 8 (setBits old (2 * (n % 4)) 2 tag)]
  else c

/-- The bytes of a row in `g:`: elements of 4 bits in pairs, the lower first (R161, R313). -/
def rowBytes (ebits : Nat) (codes : List Nat) : List Byte :=
  if ebits = 4 then
    (List.range (codes.length / 2)).map (fun k => BitVec.ofNat 8 (codes.getD (2 * k) 0 + 16 * codes.getD (2 * k + 1) 0))
  else codes.flatMap (leBytes (ebits / 8))

/-- X as a row starts (R311). -/
def Drain.start (d : Drain) (c : CoreSt) (i j : Nat) : Nat :=
  let a := c.accAt (c.cairn d.c) d.atype d.cline i j
  if d.atype = 1 then (iCvtF f64 .rne (sextN 32 a)).1 else a

/-- Runs a program on a row of the tile (R311). -/
def State.drainRow (s : State) (o : EngOp) (d : Drain) (p : List Word) (i amax free : Nat) : DRow :=
  let c := s.core o.core
  let h := s.pwlHead o d
  let v : DEnv := {
    f := d.wf, row := leNat (s.wgRead o (d.lrow + i * d.size) d.size)
    col := (List.range d.n).map (fun j => leNat (s.wgRead o (d.lcol + j * d.size) d.size))
    lo := h.1, inv := h.2
    seg := fun k => (leNat (s.wgRead o (d.lpwl + 16 + 8 * k) 4), leNat (s.wgRead o (d.lpwl + 20 + 8 * k) 4)) }
  p.foldl (drainInstr v) {
    x := (List.range d.n).map (d.start c i), t := List.replicate d.n 0, q := [], amax := amax, flags := 0#7, free := free
    out := [] }

/-- Translates a run of an operation's destination, and writes nothing (R157). -/
def State.opTouch (s : State) (o : EngOp) (acc : Access) (base : Nat) (sum : Int) (n : Nat) : EAcc Unit :=
  match s.opForm o base sum 1 with
  | .error c => .cond c s
  | .ok g =>
    match s.opXlate o acc g (pieces g.low n 65536) [] with
    | .ok _ s => .ok () s
    | .cond c s => .cond c s
    | .miss u s => .miss u s
    | .wait s => .wait s

/-- Translates several runs, in order. -/
def State.opTouchAll (s : State) (o : EngOp) (acc : Access) (base : Nat) : List (Int × Nat) → EAcc Unit
  | [] => .ok () s
  | (sum, n) :: t =>
    match s.opTouch o acc base sum n with
    | .ok _ s => s.opTouchAll o acc base t
    | r => r

/-- Writes several runs of bytes, in order; they have been translated before. -/
def State.opWriteAll (s : State) (key : Nat) (o : EngOp) (base : Nat) : List (Int × List Byte) → EAcc EngOp
  | [] => .ok o s
  | (sum, bs) :: t =>
    match s.opWrite key o base sum bs with
    | .ok o s => s.opWriteAll key o base t
    | r => r

/-- Takes over the stores of a row to `a:`. -/
def storeA (d : Drain) (i : Nat) (c : CoreSt) (r : DRow) : CoreSt :=
  r.out.foldl (fun (c : CoreSt) x =>
    if x.1 = 1 then
      (chunks32 x.2.2.1).zipIdx.foldl (fun (c : CoreSt) b =>
        let st := x.2.2.2.getD b.2 (127, 0)
        c.putBlock (c.cairn d.a) (d.arow + i) (d.akb + b.2) b.1 st.1 st.2) c
    else c) c

/-- A word that a strip reads has an uncorrectable error (R402). -/
def State.stripBad (s : State) (o : EngOp) (d : Drain) (p : List Word) (rows : List Nat) : Bool :=
  let c := s.core o.core
  let size := if d.atype = 2 then 8 else 4
  !c.badWords.isEmpty
    && (rows.any (fun i => c.cairnBad (c.cairn d.c) ((d.cline + i * lineRow d.atype) * 512) (d.n * size)
        || (dHas p 2 && s.wgBad o (d.lrow + i * d.size) d.size))
      || (dHas p 3 && s.wgBad o d.lcol (d.n * d.size)) || (dHas p 9 && s.wgBad o d.lpwl 2064))

/-- One strip of 32 rows (R315): its `g:` bytes are translated first; then the strip is written whole. -/
def State.drainStrip (s : State) (key : Nat) (o : EngOp) (d : Drain) : State :=
  let p := s.drainProg o.wg d.slot
  let rows := (List.range 32).map (· + 32 * o.progress)
  let esz := match dStore p 0 with
    | some w => storeBits (dFmt w)
    | none => 0
  let runs := if esz = 0 then [] else rows.map (fun i => (((i * d.gstride : Nat) : Int), d.n * esz / 8))
  if s.stripBad o d p rows then s.putOp key (o.failed (condOf cPoison) false)
  else match s.opTouchAll o .store d.gaddr runs with
  | .ok _ s =>
    let r := rows.foldl (fun (acc : CoreSt × Nat × Flags × Nat × List (Int × List Byte)) i =>
      let y := s.drainRow o d p i acc.2.1 acc.2.2.2.1
      (storeA d i acc.1 y, y.amax, acc.2.2.1 ||| y.flags, y.free,
        acc.2.2.2.2 ++ (y.out.filter (fun x => decide (x.1 = 0))).map (fun x =>
          (((i * d.gstride : Nat) : Int), rowBytes (storeBits x.2.1) x.2.2.1)))) (s.core o.core, o.amax.toNat, o.flags, s.free, [])
    let s := { s.putCore o.core r.1 with free := r.2.2.2.1 }
    let o := { o with amax := BitVec.ofNat 64 r.2.1, flags := r.2.2.1, progress := o.progress + 1 }
    match s.opWriteAll key o d.gaddr r.2.2.2.2 with
    | .ok o s => s.putOp key { o with state := if d.m ≤ 32 * o.progress then .finished else .run }
    | x => s.opStuck key o x
  | x => s.opStuck key o x

/-- A drain's checks, then one strip after the other. -/
def State.drainProgress (s : State) (key : Nat) (o : EngOp) : State :=
  match drainBlock o.block with
  | none => s.putOp key (o.failed (condOf cReserved) false)
  | some d => s.drainStrip key o d

/-- The checks of an MDRAIN (R315). -/
def State.drainStart (s : State) (key : Nat) (o : EngOp) : State :=
  match s.drainCheck o with
  | some c => s.putOp key (o.failed c false)
  | none => s.putOp key { o with state := .run }

/-- A drain completes: AMAX is written where the program holds E.ABSMAX (R312). -/
def State.drainDone (s : State) (key : Nat) (o : EngOp) : State :=
  match drainBlock o.block with
  | some d =>
    let s := if dHas (s.drainProg o.wg d.slot) 12 then s.wgWrite o d.lamax (leBytes d.size o.amax.toNat) else s
    s.putOp key { o with state := .complete }
  | none => s.putOp key { o with state := .complete }

/-- A DPLOAD validates its words and fills or empties its slot (R308). -/
def State.loadProgram (s : State) (key : Nat) (o : EngOp) : State :=
  let words := (List.range 32).map (fun k => BitVec.ofNat 32 (leNat ((o.block.drop (4 * k)).take 4)))
  let put (p : List Word) : State := match tget s.wgs o.wg with
    | some g => s.putWg o.wg { g with drain := if p = [] then tdel g.drain (o.argAt 0) else tset g.drain (o.argAt 0) p }
    | none => s
  match dValid words with
  | some p => (put p).putOp key { o with state := .finished }
  | none => (put []).putOp key (o.failed (condOf cDrain) false)

/-! ### The sequencer (R296) -/

/-- What a matrix operation holds while it runs: lines of `c:`, lines of `a:` that it writes and reads, a slot. -/
structure Res where
  c : List Nat := []
  aw : List Nat := []
  ar : List Nat := []
  slot : Option Nat := none

/-- A run of lines of a record. -/
def recLines (r : BitVec 128) (line n : Nat) : List Nat := (List.range n).map (· + cBase r / 512 + line)

/-- The resources of a matrix operation whose block is in (R296). Where a program of its slot is still to be loaded before it, an
MDRAIN counts as writing its `a:` lines. -/
def State.resOf (s : State) (key : Nat) (o : EngOp) : Res :=
  let c := s.core o.core
  match o.kind with
  | .mma =>
    match mmaBlock o.block with
    | some p => { c := recLines (c.cairn p.c) p.cline (p.m * lineRow p.atype)
                  ar := dedupN ((operandBlocks p.ta p.rowa p.m p.koff p.kb).flatMap (fun b => blockLines (c.cairn p.a) b.1 b.2)) }
    | none => {}
  | .mzero => { c := recLines (c.cairn (o.argAt 0)) (o.argAt 1) (o.argAt 2) }
  | .mdrain =>
    match drainBlock o.block with
    | some d =>
      let r := c.cairn d.a
      { c := recLines (c.cairn d.c) d.cline (d.m * lineRow d.atype)
        aw := if (dStore (s.drainProg o.wg d.slot) 1).isSome || s.ops.any (fun e => decide (e.1 < key) && decide (e.2.kind = .dpload)
              && decide (e.2.wg = o.wg) && decide (e.2.args.headD 0 = d.slot) && decide (e.2.state ≠ .complete)) then
            dedupN (((List.range d.m).flatMap (fun i => (List.range (d.n / 32)).map (fun q => (d.arow + i, d.akb + q)))).flatMap
              (fun b => blockLines r b.1 b.2))
          else []
        slot := some d.slot }
    | none => {}
  | .dpload => { slot := some (o.argAt 0) }
  | _ => {}

/-- Two lists of lines meet. -/
def meets (a b : List Nat) : Bool := a.any b.contains

/-- Two matrix operations of a core share a resource (R296). -/
def State.conflict (s : State) (k : Nat) (o : EngOp) (j : Nat) (p : EngOp) : Bool :=
  let a := s.resOf k o
  let b := s.resOf j p
  meets a.c b.c || meets a.aw b.ar || meets a.ar b.aw || (a.slot.isSome && decide (a.slot = b.slot) && decide (o.wg = p.wg))

/-- The operation has not completed. -/
def EngOp.open (o : EngOp) : Bool := match o.state with
  | .complete => false
  | _ => true

/-- A matrix operation may start: no earlier operation of its core that has not completed shares a resource with it or
still waits for its block (R296). -/
def State.mayStart (s : State) (key : Nat) (o : EngOp) : Bool :=
  s.ops.all (fun e => decide (key ≤ e.1) || decide (e.2.core ≠ o.core) || decide (e.2.cls ≠ 1) || !e.2.open
    || (!(e.2.block = [] ∧ e.2.blockLen ≠ 0) && !s.conflict e.1 e.2 key o))

/-- One unit of a matrix operation whose block is in: its checks once it may start, then its strips. -/
def State.matrixStep (s : State) (key : Nat) (o : EngOp) : State :=
  match o.state with
  | .check =>
    if s.mayStart key o then
      match o.kind with
      | .mma => s.mmaStart key o
      | .mzero => s.mzeroStart key o
      | .mdrain => s.drainStart key o
      | _ => s.loadProgram key o
    else s
  | .run => if o.kind = .mdrain then s.drainProgress key o else s
  | _ => s

/-- MDRAIN (R315). -/
def execMdrain (f : FmtE) (s : State) : Out := engineOp (.mdrain f) f .mdrain 1 64 false noCheck State.drainNamed (fun _ _ o => o) s

/-- DPLOAD (R308). -/
def execDpload (f : FmtE) (s : State) : Out :=
  engineOp (.dpload f) f .dpload 1 128 false noCheck noNames (fun w _ o => { o with args := [w.src f.q 1 0] }) s

end Sys2Proof.Machine
end

