-- ==== Sys2Proof/Machine/Traverse.lean ====
section
/-! DEFINITION. The traverse engine's copies: XCOPY (R318 to R324), XGATHER (R325), LDG2L's run (R280), XSTAT and WAITC (R330,
R331), and the slot rings (R154, R155, R332). -/

namespace Sys2Proof.Machine

/-! ### The block -/

/-- The traverse parameter block (R318). -/
structure Trav where
  kind : Nat
  ssp : Nat
  dsp : Nat
  swz : BitVec 3
  ring : Bool
  mask : Nat
  rowlen : Nat
  src : Nat
  dst : Nat
  s1 : Nat
  d1 : Nat
  rows : Nat
  planes : Nat
  s2 : Nat
  d2 : Nat
  rdesc : Nat
  rseq : Nat
  wh : Nat
  wstep : Nat
  mcslot : Nat

/-- The fields of a block. -/
def travOf (l : List Byte) : Trav :=
  let x := blk l
  { kind := bits x 0 3, ssp := bits x 3 3, dsp := bits x 6 3, swz := BitVec.ofNat 3 (bits x 9 3), ring := bit x 12
    mask := bits x 16 8, rowlen := bits x 32 32, src := bits x 64 64, dst := bits x 128 64, s1 := bits x 192 32
    d1 := bits x 224 32, rows := bits x 256 16, planes := bits x 272 16, s2 := bits x 288 32, d2 := bits x 320 32
    rdesc := bits x 352 32, rseq := bits x 384 32, wh := bits x 416 3, wstep := bits x 419 8, mcslot := bits x 448 56 }

/-- Check 1 of R321: reserved bits, ranges, and unused fields that are not 0 (R318). -/
def travReserved (gather : Bool) (l : List Byte) : Bool :=
  let x := blk l
  let t := travOf l
  let lim := if gather ∨ t.kind = 3 then 4096 else if t.kind = 0 then 2 ^ 32 - 1 else 65536
  bits x 13 3 ≠ 0 || bits x 24 8 ≠ 0 || bits x 427 21 ≠ 0 || bits x 504 8 ≠ 0
    || (if gather then t.kind ≠ 0 else 5 ≤ t.kind) || 5 ≤ t.ssp || 5 ≤ t.dsp
    || (t.swz ≠ 0#3 && t.dsp ≠ 2 && t.dsp ≠ 3)
    || t.rowlen = 0 || lim < t.rowlen
    || (t.ssp ≠ 0 && 2 ^ 32 ≤ t.src) || (t.dsp ≠ 0 && 2 ^ 32 ≤ t.dst)
    || (t.ring && (t.dsp ≠ 1 || t.kind = 4)) || (!t.ring && (t.rdesc ≠ 0 || t.rseq ≠ 0))
    || (t.kind ≠ 4 && (t.mask ≠ 0 || t.mcslot ≠ 0))
    || (!gather && t.kind = 0 && (t.s1 ≠ 0 || t.d1 ≠ 0 || t.rows ≠ 0))
    || ((gather || t.kind ≠ 2) && (t.planes ≠ 0 || t.d2 ≠ 0)) || (!gather && t.kind ≠ 2 && t.s2 ≠ 0)
    || (if t.kind = 3 then t.wstep = 0 else t.wh ≠ 0 || t.wstep ≠ 0)

/-- Rows of an operation (R319). -/
def Trav.count (t : Trav) (gather : Bool) : Nat :=
  if !gather && t.kind = 0 then ceilDiv t.rowlen 4096
  else if t.kind = 2 then (t.rows + 1) * (t.planes + 1)
  else t.rows + 1

/-- Offsets and lengths of the source of a row, and the offset of its destination (R319). -/
def Trav.row (t : Trav) (k : Nat) : List (Nat × Nat) × Nat :=
  if t.kind = 0 then ([(4096 * k, min 4096 (t.rowlen - 4096 * k))], 4096 * k)
  else if t.kind = 2 then
    let q := k / (t.rows + 1)
    let r := k % (t.rows + 1)
    ([(q * t.s2 + r * t.s1, t.rowlen)], q * t.d2 + r * t.d1)
  else if t.kind = 3 then ((List.range (t.wh + 1)).map (fun i => ((k * t.wstep + i) * t.s1, t.rowlen)), k * t.d1)
  else ([(k * t.s1, t.rowlen)], k * t.d1)

/-- Bytes of the whole source and destination regions (R319, R325). -/
def Trav.extents (t : Trav) (gather : Bool) : Nat × Nat :=
  if gather then (0, t.rows * t.d1 + t.rowlen)
  else if t.kind = 0 then (t.rowlen, t.rowlen)
  else if t.kind = 2 then (t.planes * t.s2 + t.rows * t.s1 + t.rowlen, t.planes * t.d2 + t.rows * t.d1 + t.rowlen)
  else if t.kind = 3 then ((t.rows * t.wstep + t.wh) * t.s1 + t.rowlen, t.rows * t.d1 + (t.wh + 1) * t.rowlen)
  else (t.rows * t.s1 + t.rowlen, t.rows * t.d1 + t.rowlen)

/-! ### Rings -/

/-- A ring's descriptor (R154). -/
structure Ring where
  base : Nat
  slotsz : Nat
  logn : Nat
  wptr : Nat
  rptr : Nat
  bad : Bool

/-- A descriptor from its 32 bytes. `bad` says that a reserved bit or a value out of range is set. -/
def ringOf (l : List Byte) : Ring :=
  let x := leNat l
  { base := bits x 0 32, slotsz := bits x 32 16, logn := bits x 48 4, wptr := bits x 64 32, rptr := bits x 96 32
    bad := decide (bits x 52 12 ≠ 0) || decide (bits x 128 128 ≠ 0) }

/-- BASE, SLOTSZ and LOGN hold what R154 allows. -/
def Ring.fieldsOk (r : Ring) : Bool :=
  !r.bad && decide (r.logn ≤ 8) && decide (r.base % 16 = 0) && decide (r.slotsz % 16 = 0) && decide (16 ≤ r.slotsz)

/-- `l:` offset of the slot of a sequence number (R154). -/
def Ring.slot (r : Ring) (k : Nat) : Nat := r.base + k % 2 ^ r.logn * r.slotsz

/-- The descriptor of an operation's ring. -/
def State.ringAt (s : State) (o : EngOp) (t : Trav) : Ring := ringOf (s.wgRead o t.rdesc 32)

/-- Space for the slot of a sequence number: k - RPTR < 2^LOGN (R155). -/
def Ring.hasFree (r : Ring) (k : Nat) : Bool := decide (sdiff32 k r.rptr < (2 ^ r.logn : Nat))

/-! ### Checks -/

/-- The workgroup is away because its core retires (R367). -/
def State.movedAway (s : State) (g : Wg) : Bool := g.saved.isSome && (g.moved || (s.core g.core).retiring)

/-- The destinations of a multicast that belong to the launch (R323). A saved workgroup keeps its slot: what comes for it meets no
matching tag (R365), but waits where its core retires (R367). -/
def State.mcDests (s : State) (o : EngOp) (t : Trav) : List McDest :=
  ((List.range 8).filter (fun i => bit t.mask i)).filterMap (fun i =>
    let core := o.core / 8 * 8 + i
    let slot := bits t.mcslot (7 * i) 7
    match s.wgs.find? (fun e => decide (e.2.core = core) && decide (e.2.slot = slot)) with
      | some e => if (match tget s.wgs o.wg with
          | some g => decide (g.launch = e.2.launch)
          | none => false) then some { core := core, wg := e.1, tag := e.2.tag, base := e.2.lbase, size := e.2.lsize } else none
      | none => none)

/-- An operation takes the destinations of its multicast, with their tags, at its issue, or as its block comes (R323). -/
def State.takeDests (s : State) (o : EngOp) : EngOp :=
  if o.kind = .xcopy ∧ o.block ≠ [] ∧ (travOf o.block).kind = 4 then { o with dests := s.mcDests o (travOf o.block) } else o

/-- The typed buffer of a space code (R318): 0 `w:`, 1 `a:`. -/
def spaceBuf (sp : Nat) : Nat := sp - 2

/-- The record that an operation's destination lies in (R72): a held one, or one that drains and that the operation has named
(R73). -/
def CoreSt.coverNum (c : CoreSt) (slot : Nat) (named : List Nat) (b a n : Nat) : Option Nat :=
  (c.cairns.find? (fun e => (decide (cState e.2 = 1) || (decide (cState e.2 = 2) && named.contains e.1)) && decide (cBuf e.2 = b) && decide (cOwner e.2 = slot)
    && decide (cBase e.2 ≤ a) && decide (a + n ≤ cBase e.2 + cLines e.2 * 512))).map (fun e => e.1)

/-- The records that a traverse operation names by a block: the one that covers its destination in `w:` or `a:` (R73). -/
def State.travNamed (s : State) (o : EngOp) (l : List Byte) : List Nat :=
  let t := travOf l
  if l = [] ∨ (t.dsp ≠ 2 ∧ t.dsp ≠ 3) then []
  else ((s.core o.core).coverNum (s.opSlot o) o.cairns (spaceBuf t.dsp) t.dst (t.extents (decide (o.kind = .xgather))).2).toList

/-- Address formation of the destination (R321): the slot for a ring. A ring descriptor that R154 does not allow raises RESERVED_FIELD
here, after the source's address formation and before the slot's BOUNDS; no rule gives it another place (log 31, DESIGN CHOICE). -/
def State.dstCond (s : State) (o : EngOp) (t : Trav) (n : Nat) : Option Cond :=
  if t.ring then
    let r := s.ringAt o t
    match s.lRegion o.wg t.rdesc 32 with
    | some c => some c
    | none =>
      if s.wgBad o t.rdesc 32 then some (chipPoison t.rdesc)
      else if r.bad || !r.fieldsOk then some (condOf cReserved)
      else if r.slotsz < t.dst + n then some { code := cBounds, step := stForm, addr := t.dst }
      else s.lRegion o.wg (r.slot t.rseq) r.slotsz
  else if t.kind = 4 then firstCond (o.dests.map (fun d =>
    if d.size < t.dst + n then some { code := cBounds, step := stForm, addr := t.dst } else none))
  else if t.dsp = 0 then s.opRegion o t.dst n
  else if t.dsp = 1 then s.lRegion o.wg t.dst n
  else if bufBytes (spaceBuf t.dsp) < t.dst + n then some { code := cBounds, step := stForm, addr := t.dst }
  else none

/-- Address formation of the source, or of the index array of a gather. -/
def State.srcCond (s : State) (o : EngOp) (t : Trav) (gather : Bool) (n : Nat) : Option Cond :=
  if gather then s.lRegion o.wg t.s2 (4 * (t.rows + 1))
  else if t.ssp = 0 then s.opRegion o t.src n
  else s.lRegion o.wg t.src n

/-- The checks of R321 in order. -/
def State.travCheck (s : State) (o : EngOp) (gather : Bool) : Option Cond :=
  let t := travOf o.block
  let n := t.extents gather
  if travReserved gather o.block then some (condOf cReserved)
  else if 2 ≤ t.ssp ∨ t.dsp = 4 ∨ (t.kind = 4 ∧ t.dsp ≠ 1) ∨ (t.kind = 4 ∧ o.dests.length ≠ popCount t.mask 8) then
    some (condOf cEngineAddr)
  else if (2 ≤ t.dsp ∧ (t.dst % 4 ≠ 0 ∨ t.rowlen % 4 ≠ 0 ∨ t.d1 % 4 ≠ 0 ∨ t.d2 % 4 ≠ 0)) ∨ (gather = true ∧ t.s2 % 4 ≠ 0)
      ∨ (t.ring = true ∧ t.rdesc % 32 ≠ 0) then some { code := cAlign, step := stForm, addr := t.dst }
  else firstCond [s.srcCond o t gather n.1, s.dstCond o t n.2, if 2 ≤ t.dsp ∧ s.travNamed o o.block = [] then some (condOf cCairn) else none]

/-! ### Overlap (R322) -/

/-- An offset lies in one of the rows of a pattern: rows `0` to `n` of `len` bytes at a stride. -/
def inRows (x stride n len : Nat) : Bool :=
  if stride = 0 then decide (x < len) else decide (x < min n (x / stride) * stride + len)

/-- An offset from SRC lies in the source region of a copy (R319). -/
def Trav.reads (t : Trav) (x : Nat) : Bool :=
  if t.kind = 0 then decide (x < t.rowlen)
  else if t.kind = 2 then (List.range (t.planes + 1)).any (fun q => decide (q * t.s2 ≤ x) && inRows (x - q * t.s2) t.s1 t.rows t.rowlen)
  else if t.kind = 3 then (List.range (t.wh + 1)).any (fun i =>
    decide (i * t.s1 ≤ x) && inRows (x - i * t.s1) (t.wstep * t.s1) t.rows t.rowlen)
  else inRows x t.s1 t.rows t.rowlen

/-- The number of a byte that an operation addresses: its offset in `l:`, or its flat address or object and offset. -/
def State.place (s : State) (o : EngOp) (sp base : Nat) : Nat :=
  if sp = 0 then match s.opForm o base 0 1 with
    | .ok (.flat a) => a
    | .ok (.obj h off) => 2 ^ 63 + h * 2 ^ 40 + off
    | .error _ => base
  else base

/-- A source byte of an operation as it stands, by its offset from SRC; none on another node, or where a read of it would not
go ahead. -/
def State.srcByte (s : State) (o : EngOp) (t : Trav) (x : Nat) : Option Byte :=
  if t.ssp = 1 then (s.wgRead o (t.src + x) 1).head?
  else match s.opForm o t.src (x : Nat) 1 with
    | .error _ => none
    | .ok g => match s.xlate (s.opPath o) g .load o.noPages with
      | .ok pa _ => if s.isRemote pa then none else (s.peek pa 1).head?
      | _ => none

/-- Keeps the source bytes at some offsets, which the operation is about to write over (R322). -/
def State.keepSrc (s : State) (o : EngOp) (t : Trav) (l : List Nat) : EngOp :=
  { o with kept := l.foldl (fun (k : Tab Byte) x =>
      if (tget k x).isSome then k else match s.srcByte o t x with
        | some b => tset k x b
        | none => k) o.kept }

/-- The bytes of a destination run that also lie in the source region (R322). -/
def State.hits (s : State) (o : EngOp) (t : Trav) (dbase doff n : Nat) (reads : Nat → Bool) : List Nat :=
  if t.ssp ≠ t.dsp then []
  else
    let src := s.place o t.ssp t.src
    let dst := s.place o t.dsp dbase + doff
    (List.range n).filter (fun i => decide (src ≤ dst + i) && reads (dst + i - src))

/-- Numbers in rising order as runs: first number and count. -/
def runsOf (l : List Nat) : List (Nat × Nat) :=
  l.foldl (fun (acc : List (Nat × Nat)) x => match acc.getLast? with
    | some (a, n) => if a + n = x then acc.dropLast ++ [(a, n + 1)] else acc ++ [(x, 1)]
    | none => [(x, 1)]) []

/-- Reads runs of source bytes that the operation is about to write over, and keeps them; a run whose read raises a condition is
not kept (R322). -/
def State.keepRuns (s : State) (key : Nat) (o : EngOp) (t : Trav) : List (Nat × Nat) → EAcc EngOp
  | [] => .ok o s
  | (x, n) :: l =>
    let got : EAcc (List Byte) := if t.ssp = 1 then .ok (s.wgRead o (t.src + x) n) s else s.opRead key o t.src (x : Nat) n
    match got with
    | .ok bs s => s.keepRuns key { o with kept := bs.zipIdx.foldl (fun (k : Tab Byte) b =>
        if (tget k (x + b.2)).isSome then k else tset k (x + b.2) b.1) o.kept } t l
    | .cond _ s => s.keepRuns key o t l
    | .miss u s => .miss u s
    | .wait s => .wait s

/-- Keeps the source bytes that the write of a run will hit and that are not kept yet (R322). -/
def State.keepAhead (s : State) (key : Nat) (o : EngOp) (t : Trav) (dbase doff n : Nat) (reads : Nat → Bool) : EAcc EngOp :=
  let src := s.place o t.ssp t.src
  let dst := s.place o t.dsp dbase + doff
  s.keepRuns key o t (runsOf (((s.hits o t dbase doff n reads).map (fun i => dst + i - src)).filter (fun x => (tget o.kept x).isNone)))

/-- Bytes of a destination run that also lie in the source region take free values, and the operation keeps what the source held
there, because every other byte is still copied correctly (R11, R322). -/
def State.overlay (s : State) (o : EngOp) (t : Trav) (dbase doff : Nat) (reads : Nat → Bool) (bs : List Byte) : State × EngOp × List Byte :=
  let hits := s.hits o t dbase doff bs.length reads
  if hits = [] then (s, o, bs)
  else
    let src := s.place o t.ssp t.src
    let dst := s.place o t.dsp dbase + doff
    (s.draw bs.length, s.keepSrc o t (hits.map (fun i => dst + i - src)),
     bs.zipIdx.map (fun b => if hits.contains b.2 then Config.freeByte (s.free + b.2) else b.1))

/-! ### Running -/

/-- Writes bytes into `w:` or `a:` under a swizzle, which the lines are stamped with (R69, R70). -/
def CoreSt.swzWrite (c : CoreSt) (b : Nat) (swz : BitVec 3) (a : Nat) (bs : List Byte) : CoreSt :=
  bs.zipIdx.foldl (fun (c : CoreSt) x => c.bWrite b (swzPhys swz.toNat (a + x.2)) [x.1] (some swz)) c

/-- Writes a run to an operation's destination. -/
def State.travWrite (s : State) (key : Nat) (o : EngOp) (t : Trav) (base off : Nat) (bs : List Byte) : EAcc EngOp :=
  if t.dsp = 0 then s.opWrite key o base (off : Nat) bs
  else if t.dsp = 1 then .ok o (s.wgWrite o (base + off) bs)
  else .ok o (s.putCore o.core ((s.core o.core).swzWrite (spaceBuf t.dsp) t.swz (base + off) bs))

/-- First byte of the destination: the ring's slot as the checks found it, else DST. -/
def EngOp.dstBase (o : EngOp) (t : Trav) : Nat := if t.ring then o.argAt 0 + t.dst else t.dst

/-- A run of the source as the operation copies it: kept bytes where it has written over them (R322). -/
def EngOp.keptRun (o : EngOp) (off : Nat) (bs : List Byte) : List Byte :=
  if o.kept = [] then bs else bs.zipIdx.map (fun b => (tget o.kept (off + b.2)).getD b.1)

/-- Reads the source pieces of a row; a window takes a row that is in the line buffers from there (R320). -/
def State.travRead (s : State) (key : Nat) (o : EngOp) (t : Trav) : List (Nat × Nat) → List Byte → EAcc (List Byte)
  | [], out => .ok out s
  | (off, n) :: l, out =>
    match (if t.kind = 3 then tget o.lines off else none) with
    | some bs => s.travRead key o t l (out ++ bs)
    | none =>
      if t.ssp = 0 then
        match s.opRead key o t.src (off : Nat) n with
        | .ok bs s => s.travRead key o t l (out ++ o.keptRun off bs)
        | r => r
      else if s.wgBad o (t.src + off) n then .cond (chipPoison (t.src + off)) s
      else s.travRead key o t l (out ++ o.keptRun off (s.wgRead o (t.src + off) n))

/-- The line buffers after a row: the source rows that it used (R320). -/
def Trav.buffers (t : Trav) (pieces : List (Nat × Nat)) (bs : List Byte) : Tab (List Byte) :=
  if t.kind = 3 then
    pieces.zipIdx.foldl (fun m p => tset m p.1.1 ((bs.drop (p.2 * t.rowlen)).take t.rowlen)) ([] : Tab (List Byte))
  else []

/-- The operation has multicast writes in flight. -/
def State.mcOut (s : State) (key : Nat) : Bool := s.fab.multicasts.any (fun e => decide (e.2.op = key))

/-- Sends a row to every destination of a multicast, granule by granule (R63, R323); `own` is what the issuing workgroup's
own `l:` receives. -/
def State.mcSend (s : State) (key : Nat) (o : EngOp) (off : Nat) (bs own : List Byte) : State :=
  o.dests.foldl (fun (s : State) d =>
    (pieces (d.base + off) bs.length 128).foldl (fun (s : State) p =>
      let m : McWrite := { core := d.core, tag := d.tag, addr := d.base + off + p.1
                           bytes := ((if d.wg = o.wg then own else bs).drop p.1).take p.2, op := key, sent := s.clock.toNat }
      ({ s with fab := { s.fab with multicasts := tset s.fab.multicasts s.nextId m } }).bump) s) s

/-- A destination of the operation's multicast is away, or about to be, because its core retires (R367). -/
def State.destAway (s : State) (o : EngOp) : Bool :=
  o.dests.any (fun d => (s.core d.core).retiring || (match tget s.wgs d.wg with
    | some g => s.movedAway g
    | none => false))

/-- The row after the one just performed. -/
def EngOp.next (o : EngOp) (count : Nat) : EngOp :=
  { o with progress := o.progress + 1, state := if count ≤ o.progress + 1 then .finished else .run }

/-- One row of an XCOPY (R319 to R324). -/
def State.copyRow (s : State) (key : Nat) (o : EngOp) : State :=
  let t := travOf o.block
  let n := t.count false
  let row := t.row o.progress
  if n ≤ o.progress then s.putOp key { o with state := .finished }
  else if t.ring && o.progress = 0 && !(s.ringAt o t).hasFree t.rseq then s
  else if s.mcOut key || s.destAway o then s
  else match s.travRead key o t row.1 [] with
    | .ok bs s =>
      if t.kind = 4 then
        if o.dests = [] then s.putOp key (o.next n)
        else
          let x := if o.dests.any (fun d => decide (d.wg = o.wg)) then s.overlay o t t.dst row.2 t.reads bs else (s, o, bs)
          (x.1.putOp key x.2.1).mcSend key x.2.1 (t.dst + row.2) bs x.2.2
      else
        match s.keepAhead key o t (o.dstBase t) row.2 bs.length t.reads with
        | .ok o s =>
          let x := s.overlay o t (o.dstBase t) row.2 t.reads bs
          (match x.1.travWrite key x.2.1 t (o.dstBase t) row.2 x.2.2 with
          | .ok o s => s.putOp key { o.next n with lines := t.buffers row.1 bs }
          | r => s.opStuck key o r)
        | r => s.opStuck key o r
    | r => s.opStuck key o r

/-- The index of an element of a gather. -/
def State.gatherIx (s : State) (o : EngOp) (t : Trav) (e : Nat) : Nat := leNat (s.wgRead o (t.s2 + 4 * e) 4)

/-- An offset from SRC lies in an element that a gather reads. -/
def State.gatherReads (s : State) (o : EngOp) (t : Trav) (x : Nat) : Bool :=
  (List.range (t.rows + 1)).any (fun e =>
    let ix := s.gatherIx o t e
    decide (ix ≠ 0xFFFFFFFF) && decide (ix * t.s1 ≤ x) && decide (x < ix * t.s1 + t.rowlen))

/-- One element of an XGATHER (R325): conditions of its source freeze it there, its address formation's among them, and a restart
reads the index again. -/
def State.gatherElem (s : State) (key : Nat) (o : EngOp) : State :=
  let t := travOf o.block
  let n := t.rows + 1
  let ix := s.gatherIx o t o.progress
  let put (s : State) (bs : List Byte) : State :=
    match s.keepAhead key o t (o.dstBase t) (o.progress * t.d1) bs.length (s.gatherReads o t) with
    | .ok o s =>
      let x := s.overlay o t (o.dstBase t) (o.progress * t.d1) (s.gatherReads o t) bs
      (match x.1.travWrite key x.2.1 t (o.dstBase t) (o.progress * t.d1) x.2.2 with
      | .ok o s => s.putOp key (o.next n)
      | r => s.opStuck key o r)
    | r => s.opStuck key o r
  if t.ring && o.progress = 0 && !(s.ringAt o t).hasFree t.rseq then s
  else if s.wgBad o (t.s2 + 4 * o.progress) 4 then s.putOp key (o.failed (chipPoison (t.s2 + 4 * o.progress)) false)
  else if ix = 0xFFFFFFFF then put s (List.replicate t.rowlen 0#8)
  else
    let off := ix * t.s1
    let pre := if t.ssp = 0 then
        match s.opForm o t.src (off : Nat) 1 with
        | .error c => some c
        | .ok _ => match s.opForm o t.src ((off + t.rowlen - 1 : Nat) : Int) 1 with
          | .error c => some c
          | .ok _ => none
      else s.lRegion o.wg (t.src + off) t.rowlen
    match pre with
    | some c => s.putOp key (o.failed c true)
    | none =>
      if t.ssp = 0 then
        match s.opRead key o t.src (off : Nat) t.rowlen with
        | .ok bs s => put s (o.keptRun off bs)
        | r => s.opStuck key o r
      else if s.wgBad o (t.src + off) t.rowlen then s.putOp key (o.failed (chipPoison (t.src + off)) false)
      else put s (o.keptRun off (s.wgRead o (t.src + off) t.rowlen))

/-! ### What a condition leaves (R157) -/

/-- Offset and length of the destination of a row or an element. -/
def Trav.dstRow (t : Trav) (gather : Bool) (k : Nat) : Nat × Nat :=
  if gather then (k * t.d1, t.rowlen)
  else ((t.row k).2, ((t.row k).1.map (fun p => p.2)).foldl (fun a b => a + b) 0)

/-- Writes bytes where a multicast of the operation would land: where the tags match, in a core that no debugger has drained. -/
def State.mcLand (s : State) (d : McDest) (off : Nat) (bs : List Byte) : State :=
  (pieces (d.base + off) bs.length 128).foldl (fun (s : State) p =>
    let a := d.base + off + p.1
    let c := s.core d.core
    if decide (c.halt ≠ some .drain) && (match tget c.gran (a / 128) with
        | some g => decide (g.tag = d.tag)
        | none => false) then s.putCore d.core (c.lWrite a ((bs.drop p.1).take p.2)) else s) s

/-- A copy or a gather freezes: the destination of its rows from the restart point on is undefined, so every byte of it that
the operation could write takes a free value (R11, R157). Rows on other nodes are not of this device. -/
def State.spoil (s : State) (key : Nat) (o : EngOp) : State :=
  let t := travOf o.block
  let gather := decide (o.kind = .xgather)
  if o.block = [] ∨ (o.kind ≠ .xcopy ∧ o.kind ≠ .xgather) then s
  else
    let r := (List.range (t.count gather - o.progress)).foldl (fun (acc : State × EngOp) k =>
      let row := t.dstRow gather (o.progress + k)
      let bs := (List.range row.2).map (fun i => Config.freeByte (acc.1.free + i))
      let s := acc.1.draw row.2
      let reads := if gather then s.gatherReads acc.2 t else t.reads
      if t.kind = 4 then
        let x := if acc.2.dests.any (fun d => decide (d.wg = o.wg)) then s.overlay acc.2 t t.dst row.1 reads bs else (s, acc.2, bs)
        (acc.2.dests.foldl (fun (s : State) d => s.mcLand d (t.dst + row.1) bs) x.1, x.2.1)
      else
        let x := s.overlay acc.2 t (acc.2.dstBase t) row.1 reads bs
        if t.dsp = 0 then (x.1.freeRun key x.2.1 t.dst (row.1 : Nat) row.2, x.2.1)
        else match x.1.travWrite key x.2.1 t (acc.2.dstBase t) row.1 x.2.2 with
          | .ok o' s' => (s', o')
          | _ => acc) (s, o)
    r.1.putOp key r.2

/-- One lane of an LDG2L (R280). -/
def State.ldg2lLane (s : State) (key : Nat) (o : EngOp) : State :=
  match o.lanes[o.progress]? with
  | none => s.putOp key { o with state := .finished }
  | some (_, la, ga) =>
    match s.opRead key o ga.toNat 0 (o.argAt 0) with
    | .ok bs s => (s.wgWrite o la bs).putOp key (o.next o.lanes.length)
    | r => s.opStuck key o r

/-- The start of a traverse operation: its checks, and the ring's slot. -/
def State.travStart (s : State) (key : Nat) (o : EngOp) (gather : Bool) : State :=
  match s.travCheck o gather with
  | some c => s.putOp key (o.failed c false)
  | none =>
    let t := travOf o.block
    s.putOp key { o with state := .run, args := if t.ring then [(s.ringAt o t).slot t.rseq] else [] }

/-- One unit of a copy, a gather or an LDG2L whose block is in. -/
def State.copyStep (s : State) (key : Nat) (o : EngOp) : State :=
  match o.state, o.kind with
  | .check, .xcopy => s.travStart key o false
  | .check, .xgather => s.travStart key o true
  | .run, .xcopy => s.copyRow key o
  | .run, .xgather => s.gatherElem key o
  | .run, .ldg2l => s.ldg2lLane key o
  | _, _ => s

/-- The end of a copy or gather: a ring's slot is published when it is its turn (R155, R324). -/
def State.copyDone (s : State) (key : Nat) (o : EngOp) : State :=
  let t := travOf o.block
  if o.kind ≠ .ldg2l ∧ t.ring then
    if (s.ringAt o t).wptr = t.rseq then
      (s.wgWrite o (t.rdesc + 8) (leBytes 4 (t.rseq + 1))).putOp key { o with state := .complete }
    else s
  else s.putOp key { o with state := .complete }

/-! ### Instructions -/

/-- XCOPY (R319 to R324). -/
def execXcopy (f : FmtE) (s : State) : Out :=
  engineOp (.xcopy f) f .xcopy 0 64 true noCheck State.travNamed (fun _ s o => s.takeDests o) s

/-- XGATHER (R325). -/
def execXgather (f : FmtE) (s : State) : Out := engineOp (.xgather f) f .xgather 2 64 true noCheck State.travNamed (fun _ _ o => o) s

/-- XSTAT (R330). -/
def execXstat (f : FmtX) (s : State) : Out :=
  issue (.xstat f) s (onWave fun w m =>
    w.put f.dst 1 m (fun _ => if f.sel.toNat < 8 then w.cntOf f.sel.toNat else w.seqOf (f.sel.toNat - 8)))

/-- WAITC (R331). -/
def execWaitc (f : FmtE) (s : State) : Out :=
  issue (.waitc f) s (fun w m s =>
    if m = 0#32 then .done s
    else match s.cntWait s.cur w [(f.cls.toNat, w.src f.p 1 0)] with
      | .pass =>
        let l := [(f.cls.toNat, w.src f.p 1 0)]
        .done ((s.coverUses w l).putWave s.cur (w.cover l))
      | .wait => .stay s
      | .refused r => .raise r s)

/-! ### Ring instructions (R332) -/

/-- A ring instruction's descriptor: its checks, then `act` on its offset, its fields and the sequence number. -/
def ringOp (i : Instr) (f : FmtA3) (fresh : Bool) (act : Wave → Mask → State → Nat → Ring → Nat → Act) (s : State) : Out :=
  issue i s (fun w m s =>
    if m = 0#32 then .done s
    else
      let lane := Mask.first m
      let a := w.src f.a 1 0
      if a % 32 ≠ 0 then .raise (w.recOf lane { code := cAlign, step := stForm, addr := a }) s
      else if s.lSize w < a + 32 then .raise (w.recOf lane { code := cBounds, step := stForm, addr := a }) s
      else
        let r := ringOf ((s.core w.core).lRead (s.lBase w + a) 32)
        if !fresh && (s.core w.core).badAt 3 (s.lBase w + a) 32 then .raise (w.poisonRec lane a) s
        else if !fresh && r.bad then .raise (w.mkRec cReserved stData lane) s
        else act w m s a r (w.src f.b 1 0))

/-- Writes bytes at an offset of a wave's `l:`. -/
def State.lPut (s : State) (w : Wave) (a : Nat) (bs : List Byte) : State :=
  s.putCore w.core ((s.core w.core).lWrite (s.lBase w + a) bs)

/-- SRING (R154, R332): a range that does not fit raises BOUNDS. -/
def execSring (f : FmtA3) (s : State) : Out :=
  ringOp (.sring f) f true (fun w m s a _ _ =>
    let x := w.src f.b 2 0
    let r := ringOf (leBytes 16 x)
    if s.lSize w < r.base + 2 ^ r.logn * r.slotsz then
      .raise (w.recOf (Mask.first m) { code := cBounds, step := stForm, addr := r.base }) s
    else if !r.fieldsOk then .raise (w.mkRec cReserved stData (Mask.first m)) s
    else .done (s.lPut w a (leBytes 32 (bits x 0 52)))) s

/-- SAWAIT.FREE (R155): its return is an acquire at CORE scope. -/
def execSawaitFree (f : FmtA3) (s : State) : Out :=
  ringOp (.sawaitFree f) f false (fun w _ s _ r k =>
    if r.hasFree k then s.gated s.cur w 2 1 (fun _ s => .done s) else .stay s) s

/-- SAWAIT.FULL (R155): its return is an acquire at CORE scope. -/
def execSawaitFull (f : FmtA3) (s : State) : Out :=
  ringOp (.sawaitFull f) f false (fun w _ s _ r k =>
    if 0 < sdiff32 r.wptr k then s.gated s.cur w 2 1 (fun _ s => .done s) else .stay s) s

/-- Moves a pointer of a ring, the word at `off` of its descriptor, past sequence number `k` when it is its turn; a number
already passed does nothing (R155, R332). It is a release at CORE scope, so it waits for on-chip data of earlier loads (R117). -/
def ringMove (w : Wave) (s : State) (a off ptr k : Nat) : Act :=
  if s.chipDue w.core then .stay s
  else s.gated s.cur w 3 1 (fun w s =>
    if 0 < sdiff32 ptr k then .done s
    else if ptr = k then .done (s.lPut w (a + off) (leBytes 4 (k + 1)))
    else .stay s)

/-- SPUB (R155, R332). -/
def execSpub (f : FmtA3) (s : State) : Out := ringOp (.spub f) f false (fun w _ s a r k => ringMove w s a 8 r.wptr k) s

/-- SREL (R155, R332). -/
def execSrel (f : FmtA3) (s : State) : Out := ringOp (.srel f) f false (fun w _ s a r k => ringMove w s a 12 r.rptr k) s

end Sys2Proof.Machine
end

