-- ==== Sys2Proof/Machine/Levels.lean ====
section
/-! DEFINITION. XLEVEL: restriction, prolongation and injection between grid levels (R178, R179, R326 to R329). -/

namespace Sys2Proof.Machine

/-- The XLEVEL parameter block (R326); lists run over the three dimensions. -/
structure Level where
  op : Nat
  dims : Nat
  ifmt : Nat
  ofmt : Nat
  isp : Nat
  osp : Nat
  bnd : List Nat
  inp : Nat
  out : Nat
  nf : List Nat
  nc : List Nat
  istr : List Nat
  ostr : List Nat
  lst : List Nat

/-- The fields of a block. Element strides of dimension 0 are the element sizes. -/
def levelOf (l : List Byte) : Level :=
  let x := blk l
  let sz (f : Nat) : Nat := if f = 3 then 8 else if f = 2 then 4 else 2
  { op := bits x 0 2, dims := bits x 2 2, ifmt := bits x 4 2, ofmt := bits x 6 2, isp := bits x 8 1, osp := bits x 9 1
    bnd := [bits x 10 2, bits x 12 2, bits x 14 2], inp := bits x 64 64, out := bits x 128 64
    nf := [bits x 192 16, bits x 208 16, bits x 224 16], nc := [bits x 240 16, bits x 256 16, bits x 272 16]
    istr := [sz (bits x 4 2), bits x 288 32, bits x 320 32], ostr := [sz (bits x 6 2), bits x 352 32, bits x 384 32]
    lst := [bits x 416 32, bits x 448 32, bits x 480 32] }

/-- Element `d` of a list over the dimensions. -/
abbrev dim (l : List Nat) (d : Nat) : Nat := l.getD d 0

/-- The output is the coarse level: restrict and inject (R328). -/
def Level.toCoarse (t : Level) : Bool := decide (t.op = 0) || decide (t.op = 3)
/-- Sizes of the input and the output level. -/
def Level.nin (t : Level) : List Nat := if t.toCoarse then t.nf else t.nc
@[inherit_doc Level.nin] def Level.nout (t : Level) : List Nat := if t.toCoarse then t.nc else t.nf
/-- The dimensions that have a stencil table (R327). -/
def Level.tables (t : Level) : List Nat := if t.op = 3 then [] else List.range (t.dims + 1)
/-- Rows of weights of a table: 1 for restrict, 2 for prolong (R327). -/
def Level.trows (t : Level) : Nat := if t.op = 0 then 1 else 2

/-- Check 1 of R329: the block itself (R326, R327). -/
def levelReserved (l : List Byte) : Bool :=
  let x := blk l
  let t := levelOf l
  decide (bits x 16 48 ≠ 0) || decide (t.dims = 3)
    || (List.range 3).any (fun d => decide (dim t.nf d = 0) || decide (dim t.nc d = 0)
      || (decide (t.dims < d) && (decide (dim t.nf d ≠ 1) || decide (dim t.nc d ≠ 1) || decide (dim t.istr d ≠ 0)
          || decide (dim t.ostr d ≠ 0) || decide (dim t.lst d ≠ 0) || decide (dim t.bnd d ≠ 0)))
      || (decide (t.op = 3) && decide (dim t.lst d ≠ 0)))
    || (decide (t.isp = 1) && decide (2 ^ 32 ≤ t.inp)) || (decide (t.osp = 1) && decide (2 ^ 32 ≤ t.out))

/-- Bytes of a level's region. -/
def levelBytes (n str : List Nat) : Nat :=
  (dim n 2 - 1) * dim str 2 + (dim n 1 - 1) * dim str 1 + dim n 0 * dim str 0

/-- The header of a stencil table: NT, ORG, WF, and whether it holds what R327 allows. -/
def State.stencil (s : State) (o : EngOp) (lst : Nat) : Nat × Int × Bool × Bool :=
  let x := leNat (s.wgRead o lst 8)
  (bits x 0 4, sextN 8 (bits x 8 8), bit x 16,
    decide (bits x 4 4 = 0) && decide (bits x 17 47 = 0) && decide (1 ≤ bits x 0 4) && decide (bits x 0 4 ≤ 8))

/-- Bytes of a weight. -/
def wSize (wf : Bool) : Nat := if wf then 8 else 4

/-- The weights of row `p` of a table (R327). -/
def State.weights (s : State) (o : EngOp) (lst p : Nat) : List FVal :=
  let h := s.stencil o lst
  (List.range h.1).map (fun i =>
    let v := leNat (s.wgRead o (lst + 8 + (p * h.1 + i) * wSize h.2.2.1) (wSize h.2.2.1))
    if h.2.2.1 then f64.decode v else f32.decode v)

/-- The checks of R329 in order. -/
def State.levelCheck (s : State) (o : EngOp) : Option Cond :=
  let t := levelOf o.block
  let isz := dim t.istr 0
  let osz := dim t.ostr 0
  let region (sp a n : Nat) : Option Cond := if sp = 0 then s.opRegion o a n else s.lRegion o.wg a n
  if levelReserved o.block then some (condOf cReserved)
  else if t.inp % isz ≠ 0 ∨ t.out % osz ≠ 0 ∨ dim t.istr 1 % isz ≠ 0 ∨ dim t.istr 2 % isz ≠ 0 ∨ dim t.ostr 1 % osz ≠ 0
      ∨ dim t.ostr 2 % osz ≠ 0 ∨ t.lst.any (fun a => decide (a % 8 ≠ 0)) then
    some { code := cAlign, step := stForm, addr := t.inp }
  else firstCond (
    [region t.isp t.inp (levelBytes t.nin t.istr), region t.osp t.out (levelBytes t.nout t.ostr)]
    ++ t.tables.map (fun d => s.lRegion o.wg (dim t.lst d) 8)
    ++ t.tables.map (fun d => if s.wgBad o (dim t.lst d) 8 then some (chipPoison (dim t.lst d)) else none)
    ++ t.tables.map (fun d => if (s.stencil o (dim t.lst d)).2.2.2 then none else some (condOf cReserved))
    ++ t.tables.map (fun d =>
      let h := s.stencil o (dim t.lst d)
      s.lRegion o.wg (dim t.lst d) (8 + t.trows * h.1 * wSize h.2.2.1))
    ++ t.tables.map (fun d =>
      let h := s.stencil o (dim t.lst d)
      if s.wgBad o (dim t.lst d) (8 + t.trows * h.1 * wSize h.2.2.1) then some (chipPoison (dim t.lst d)) else none)
    ++ t.tables.map (fun d =>
      if (List.range t.trows).any (fun p => (s.weights o (dim t.lst d) p).any (fun w => w.isNaN || w.isInf)) then
        some (condOf cReserved) else none))

/-! ### Taps -/

/-- The index that a boundary mode reads; none drops the tap (R179). -/
def boundary (mode n : Nat) (j : Int) : Option Nat :=
  if 0 ≤ j ∧ j < (n : Int) then some j.toNat
  else if mode = 0 then none
  else if mode = 1 then
    if n ≤ 1 then some 0
    else
      let p : Int := 2 * ((n : Int) - 1)
      let k := j.emod p
      some (if k < (n : Int) then k.toNat else (p - k).toNat)
  else if mode = 2 then some (if j < 0 then 0 else n - 1)
  else some (j.emod (n : Int)).toNat

/-- The taps of output index `j` in a dimension: weights and input indexes (R328). -/
def State.taps (s : State) (o : EngOp) (t : Level) (d j : Nat) : List (FVal × Option Nat) :=
  let n := dim t.nin d
  let one : FVal := .fin false 1 0
  if t.dims < d then [(one, some 0)]
  else if t.op = 3 then [(one, boundary (dim t.bnd d) n ((2 * j : Nat) : Int))]
  else
    let h := s.stencil o (dim t.lst d)
    let start : Int := if t.op = 0 then ((2 * j : Nat) : Int) else ((j / 2 : Nat) : Int)
    (s.weights o (dim t.lst d) (if t.op = 0 then 0 else j % 2)).zipIdx.map (fun w =>
      (w.1, boundary (dim t.bnd d) n (start + h.2.1 + w.2)))

/-- The taps of an output point that count: one of each dimension, weights multiplied exactly, zero weights and dropped
taps left out (R178, R328). -/
def State.pointTaps (s : State) (o : EngOp) (t : Level) (j0 j1 j2 : Nat) : List (FVal × Nat × Nat × Nat) :=
  (s.taps o t 2 j2).flatMap (fun a => (s.taps o t 1 j1).flatMap (fun b => (s.taps o t 0 j0).filterMap (fun c =>
    match c.2, b.2, a.2 with
    | some i0, some i1, some i2 =>
      let w := mulTerm (mulTerm a.1 b.1) c.1
      if w.isZero then none else some (w, i0, i1, i2)
    | _, _, _ => none)))

/-- An output from its products' factors (R178). -/
def levelValue (f : Fmt) (c : List (FVal × FVal)) : Nat × Flags :=
  let ps := c.map (fun p => mulTerm p.1 p.2)
  if c.any (fun p => p.1.isNaN || p.2.isNaN) then (f.defNaN, fNV)
  else if ps.any (fun p => p.isInf && p.sign) && ps.any (fun p => p.isInf && !p.sign) then (f.defNaN, fNV)
  else match ps.find? FVal.isInf with
    | some p => (f.infBits p.sign, 0#7)
    | none =>
      let x := sumExact ps
      f.roundInt .rne false x.1 x.2 (!ps.isEmpty && ps.all FVal.sign)

/-! ### Blocks -/

/-- Blocks of a row, and the place of a block (R328): first index, count, row, plane. -/
def Level.blocks (t : Level) : Nat := ceilDiv (dim t.nout 0) 32
@[inherit_doc Level.blocks] def Level.block (t : Level) (k : Nat) : Nat × Nat × Nat × Nat :=
  let b := k % t.blocks
  (32 * b, min 32 (dim t.nout 0 - 32 * b), k / t.blocks % dim t.nout 1, k / t.blocks / dim t.nout 1)

/-- The offset of an element of a level. -/
def elemOff (str : List Nat) (i0 i1 i2 : Nat) : Nat := i0 * dim str 0 + i1 * dim str 1 + i2 * dim str 2

/-- Reads runs of the same length at offsets of an operand, each once. -/
def State.readEach (s : State) (key : Nat) (o : EngOp) (sp base n : Nat) : List Nat → Tab (List Byte) → EAcc (Tab (List Byte))
  | [], out => .ok out s
  | off :: l, out =>
    if (tget out off).isSome then s.readEach key o sp base n l out
    else if sp = 1 then
      (if s.wgBad o (base + off) n then .cond (chipPoison (base + off)) s
       else s.readEach key o sp base n l (tset out off (s.wgRead o (base + off) n)))
    else match s.opRead key o base (off : Nat) n with
      | .ok bs s => s.readEach key o sp base n l (tset out off bs)
      | .cond c s => .cond c s
      | .miss u s => .miss u s
      | .wait s => .wait s

/-- The rows of a level: their offsets. -/
def levelRows (n str : List Nat) : List Nat :=
  (List.range (dim n 2)).flatMap (fun q => (List.range (dim n 1)).map (fun r => elemOff str 0 r q))

/-- The input and output regions overlap (R329). A region is the bytes of its rows, without the gaps between them (log 31, DESIGN
CHOICE). -/
def State.levelOverlap (s : State) (o : EngOp) (t : Level) : Bool :=
  decide (t.isp = t.osp) &&
    let i := s.place o t.isp t.inp
    let p := s.place o t.osp t.out
    (levelRows t.nin t.istr).any (fun a => (levelRows t.nout t.ostr).any (fun b =>
      !apart (i + a) (dim t.nin 0 * dim t.istr 0) (p + b) (dim t.nout 0 * dim t.ostr 0)))

/-- The value of an element read. -/
def elemVal (f : Fmt) (m : Tab (List Byte)) (off : Nat) : FVal := f.decode (leNat (tgetD m off []))

/-- One block of an XLEVEL: inputs first, then the outputs (R157, R178, R328). -/
def State.levelBlock (s : State) (key : Nat) (o : EngOp) : State :=
  let t := levelOf o.block
  let b := t.block o.progress
  let total := t.blocks * dim t.nout 1 * dim t.nout 2
  let osz := dim t.ostr 0
  let fi := fmtF t.ifmt
  let fo := fmtF t.ofmt
  let pts := (List.range b.2.1).map (fun i => s.pointTaps o t (b.1 + i) b.2.2.1 b.2.2.2)
  let offs := pts.flatMap (fun l => l.map (fun x => elemOff t.istr x.2.1 x.2.2.1 x.2.2.2))
  let first := elemOff t.ostr b.1 b.2.2.1 b.2.2.2
  match s.readEach key o t.isp t.inp (dim t.istr 0) offs [] with
  | .ok m s =>
    match (if t.op = 2 then s.readEach key o t.osp t.out (b.2.1 * osz) [first] [] else .ok [] s) with
    | .ok dm s =>
      let old := tgetD dm first []
      let ys := pts.zipIdx.map (fun p =>
        let c := p.1.map (fun x => (x.1, elemVal fi m (elemOff t.istr x.2.1 x.2.2.1 x.2.2.2)))
        levelValue fo (if t.op = 2 then c ++ [(.fin false 1 0, fo.decode (leNat ((old.drop (p.2 * osz)).take osz)))] else c))
      let fl := ys.foldl (fun acc y => acc ||| y.2) o.flags
      let bs := ys.flatMap (fun y => leBytes osz y.1)
      let x : State × List Byte := if s.levelOverlap o t then
          (s.draw bs.length, bs.zipIdx.map (fun p => Config.freeByte (s.free + p.2)))
        else (s, bs)
      let r : EAcc EngOp := if t.osp = 0 then x.1.opWrite key o t.out (first : Nat) x.2
        else .ok o (x.1.wgWrite o (t.out + first) x.2)
      match r with
      | .ok o s => s.putOp key { o.next total with flags := fl }
      | r => s.opStuck key o r
    | r => s.opStuck key o r
  | r => s.opStuck key o r

/-- The outputs that an XLEVEL with overlapping regions has not written when it freezes are undefined as well (R11, R329). -/
def State.spoilLevel (s : State) (key : Nat) (o : EngOp) : State :=
  let t := levelOf o.block
  if o.kind ≠ .xlevel ∨ o.block = [] ∨ !s.levelOverlap o t then s
  else (List.range (t.blocks * dim t.nout 1 * dim t.nout 2 - o.progress)).foldl (fun (s : State) k =>
    let b := t.block (o.progress + k)
    let n := b.2.1 * dim t.ostr 0
    let off := elemOff t.ostr b.1 b.2.2.1 b.2.2.2
    if t.osp = 0 then s.freeRun key o t.out (off : Nat) n
    else (s.draw n).wgWrite o (t.out + off) ((List.range n).map (fun i => Config.freeByte (s.free + i)))) s

/-- One unit of an XLEVEL whose block is in. -/
def State.levelStep (s : State) (key : Nat) (o : EngOp) : State :=
  match o.state with
  | .check => match s.levelCheck o with
    | some c => s.putOp key (o.failed c false)
    | none => s.putOp key { o with state := .run }
  | .run => s.levelBlock key o
  | _ => s

/-- XLEVEL (R326 to R329). -/
def execXlevel (f : FmtE) (s : State) : Out :=
  engineOp (.xlevel f) f .xlevel 0 64 true noCheck noNames (fun _ _ o => o) s

end Sys2Proof.Machine
end

