-- ==== Sys2Proof/Machine/Unfold.lean ====
section
/-! DEFINITION. Recursion unfolding: RBEGIN and its object (R333, R335), frames and routines (R196 to R199, R334), RCHILD,
RDONE, RFRAME and RRES (R336), the dispatch of frames and the end of an unfolding. -/

namespace Sys2Proof.Machine

/-! ### The object -/

/-- The code extent of an operation's launch. -/
def State.opExtent (s : State) (o : EngOp) : Nat :=
  match tget s.waves o.wave with
  | some w => w.extent
  | none => 0

/-- The ridge that an RBEGIN names, and whether its object lies in `g:`. -/
def EngOp.ridge (o : EngOp) : Nat := o.argAt 0
@[inherit_doc EngOp.ridge] def EngOp.inG (o : EngOp) : Bool := decide (o.argAt 1 = 2)

/-- The table entry of an operation's ridge: its place and the entry. -/
def State.opRidge (s : State) (o : EngOp) : Option (Nat × Ridge) :=
  match tget s.waves o.wave with
  | some w => s.ridgeOf w o.ridge
  | none => none

/-- Lanes of a pool (R196). -/
def poolSize (e : Ridge) : Nat := 32 * popCount e.members.toNat 48

/-- Bytes of a frame slot (R198). -/
def slotBytes (frameSz resSz : Nat) : Nat := ceilDiv (frameSz + resSz + 16) 16 * 16
@[inherit_doc slotBytes] def Unfold.slot (u : Unfold) : Nat := slotBytes u.frameSz u.resSz

/-- The unfolding of an object, before its root runs (R198, R333). -/
def unfoldOf (ridge : Nat) (addr : DWord) (l : List Byte) : Unfold :=
  let x := blk l
  { ridge := ridge, objAddr := addr, divOff := BitVec.ofNat 32 (bits x 0 32), baseOff := BitVec.ofNat 32 (bits x 32 32)
    combOff := BitVec.ofNat 32 (bits x 64 32), frameSz := bits x 96 16, resSz := bits x 112 16, fanout := bits x 128 4
    maxDepth := bits x 136 7, budget := bits x 144 16, heap := BitVec.ofNat 64 (bits x 192 64), heapSz := bits x 256 64
    result := BitVec.ofNat 64 (bits x 320 64)
    frames := [{ off := 0, depth := 0, parent := none, cidx := 0, children := [], stage := 0, dirty := true }]
    levels := [[0]], phase := .levels 0, leaves := [], tasks := [], stackBase := 0, stackCap := 0, stackUse := []
    running := [], stopped := false }

/-- Check 1 of R335: reserved bits, ranges, and routine offsets. -/
def objReserved (l : List Byte) (extent pool : Nat) : Bool :=
  let x := blk l
  let u := unfoldOf 0 0#64 l
  let offBad (p : Word) : Bool := decide (p.toNat % 8 ≠ 0) || decide (extent ≤ p.toNat)
  let szBad (n : Nat) : Bool := decide (4096 < n) || decide (n % 4 ≠ 0)
  decide (bits x 132 4 ≠ 0) || bit x 143 || decide (bits x 160 32 ≠ 0) || decide (bits x 384 640 ≠ 0)
    || szBad u.frameSz || szBad u.resSz || decide (u.fanout = 0) || decide (8 < u.fanout) || decide (64 < u.maxDepth)
    || decide (u.budget = 0) || decide (pool < u.budget) || offBad u.divOff || offBad u.baseOff || offBad u.combOff

/-- The checks of R335 in order. -/
def State.objCheck (s : State) (o : EngOp) : Option Cond :=
  let u := unfoldOf o.ridge o.blockAddr o.block
  let pool := match s.opRidge o with
    | some e => poolSize e.2
    | none => 0
  if objReserved o.block (s.opExtent o) pool then some (condOf cReserved)
  else if u.heapSz < u.slot then some (condOf cHeap)
  else match s.opForm o u.heap.toNat 0 16 with
    | .error c => some c
    | .ok _ => firstCond [s.opRegion o u.heap.toNat u.heapSz, s.opRegion o u.result.toNat u.resSz]

/-! ### Frames -/

/-- A frame by its number. -/
def Unfold.frame (u : Unfold) (f : Nat) : Frame :=
  u.frames.getD f { off := 0, depth := 0, parent := none, cidx := 0, children := [], stage := 0, dirty := false }

/-- Changes a frame; its header is to be written again. -/
def Unfold.setFrame (u : Unfold) (f : Nat) (g : Frame → Frame) : Unfold :=
  { u with frames := lset u.frames f { g (u.frame f) with dirty := true } }

/-- A frame's header (R334). -/
def Unfold.header (u : Unfold) (f : Nat) : Nat :=
  let x := u.frame f
  let parent := match x.parent with
    | some p => (u.frame p).off / 16
    | none => 0xFFFFFFFF
  let first := match x.children with
    | c :: _ => (u.frame c).off / 16
    | [] => 0
  parent % 2 ^ 32 + x.depth % 128 * 2 ^ 32 + x.children.length % 16 * 2 ^ 39 + x.cidx % 8 * 2 ^ 43 + x.stage % 4 * 2 ^ 46
    + first % 2 ^ 32 * 2 ^ 64

/-- Moves an address of the form of HEAP by a number of bytes (R336): a near pointer's offset, or a flat address. -/
def moveAddr (a n : Nat) : Nat := if bit a 63 then setBits a 0 40 (bits a 0 40 + n) else a + n

/-- Addresses of a frame's data and of its result (R334). -/
def Unfold.dataAddr (u : Unfold) (f : Nat) : Nat := moveAddr u.heap.toNat ((u.frame f).off + 16)
@[inherit_doc Unfold.dataAddr] def Unfold.resAddr (u : Unfold) (f : Nat) : Nat :=
  moveAddr u.heap.toNat ((u.frame f).off + 16 + u.frameSz)

/-- The routine that runs in a lane of a wave: its operation, unfolding and place. -/
def State.runningAt (s : State) (id lane : Nat) : Option (Nat × EngOp × Unfold × Running) :=
  s.ops.findSome? (fun e => match e.2.unfold with
    | some u =>
      match u.running.find? (fun r => decide (r.wave = id) && decide (r.lane = lane)) with
      | some r => some (e.1, e.2, u, r)
      | none => none
    | none => none)

/-- The frames of a level. -/
def Unfold.level (u : Unfold) (d : Nat) : List Nat := u.levels.getD d []

/-- Every frame of a list has its result. -/
def Unfold.allFinal (u : Unfold) (l : List Nat) : Bool := l.all (fun f => decide ((u.frame f).stage = 2))

/-- The frame and routine due on a pool lane that runs nothing (R198): base routines of leaves first; in the levels the
divides one after another; on the lane stacks the next task; bottom-up the combine of a frame whose children are final. -/
def Unfold.due (u : Unfold) (p : Nat) : Option (Nat × Nat) :=
  if u.running.any (fun r => decide (r.pool = p)) then none
  else match u.leaves.find? (fun x => decide (x.1 = p)) with
    | some x => some (x.2, 1)
    | none =>
      match u.phase with
      | .levels n =>
        let l := u.level (u.levels.length - 1)
        if p = n ∧ n < l.length ∧ u.running.all (fun r => decide (r.routine ≠ 0)) then some (l.getD n 0, 0) else none
      | .depthFirst =>
        match u.tasks.getD p [] with
        | .visit f :: _ => some (f, 0)
        | .combine f :: _ => some (f, 2)
        | [] => none
      | .combines d =>
        match (u.level d)[p]? with
        | some f =>
          let x := u.frame f
          if x.children ≠ [] ∧ x.stage = 1 ∧ u.allFinal x.children then some (f, 2) else none
        | none => none
      | .result => none

/-- A routine starts: what was due is due no longer. -/
def Unfold.begin (u : Unfold) (r : Running) : Unfold :=
  let u := { u with running := r :: u.running }
  if r.routine = 1 then { u with leaves := u.leaves.filter (fun x => decide (x ≠ (r.pool, r.frame))) }
  else match u.phase with
    | .levels n => { u with phase := .levels (n + 1) }
    | .depthFirst => { u with tasks := lset u.tasks r.pool ((u.tasks.getD r.pool []).drop 1) }
    | _ => u

/-- A routine has executed RDONE (R198). -/
def Unfold.finish (u : Unfold) (r : Running) : Unfold :=
  let u := { u with running := u.running.filter (fun x => decide (x ≠ r)) }
  let x := u.frame r.frame
  if r.routine = 0 then
    let u := u.setFrame r.frame (fun x => { x with stage := 1 })
    if x.children = [] then { u with leaves := u.leaves ++ [(r.pool, r.frame)] }
    else match u.phase with
      | .depthFirst =>
        let l := x.children.map Task.visit ++ [Task.combine r.frame] ++ u.tasks.getD r.pool []
        { u with tasks := lset u.tasks r.pool l }
      | _ => u
  else
    let u := u.setFrame r.frame (fun x => { x with stage := 2 })
    match u.phase with
    | .depthFirst =>
      if r.routine = 2 then
        { u with stackUse := lset u.stackUse r.pool (u.stackUse.getD r.pool 0 - x.children.length) }
      else u
    | _ => u

/-- The passages between the phases of an unfolding (R198); none where nothing is to be done. -/
def Unfold.turn (u : Unfold) : Option Unfold :=
  match u.phase with
  | .levels n =>
    let d := u.levels.length - 1
    let l := u.level d
    if n < l.length ∨ u.running.any (fun r => decide (r.routine = 0)) then none
    else
      let next := l.flatMap (fun f => (u.frame f).children)
      if next = [] then some { u with phase := .combines d }
      else if u.budget ≤ next.length then
        let base := u.frames.length * u.slot
        some { u with
          phase := .depthFirst, stackBase := base, stackCap := (u.heapSz - base) / (u.budget * u.slot)
          stackUse := List.replicate u.budget 0
          tasks := (List.range u.budget).map (fun p =>
            (next.zipIdx.filter (fun x => decide (x.2 % u.budget = p))).map (fun x => Task.visit x.1)) }
      else some { u with levels := u.levels ++ [next], phase := .levels 0 }
  | .depthFirst =>
    if u.tasks.all (fun t => t.isEmpty) ∧ u.running = [] ∧ u.leaves = [] then
      some { u with phase := .combines (u.levels.length - 1) }
    else none
  | .combines d =>
    if u.allFinal (u.level d) then some { u with phase := if d = 0 then .result else .combines (d - 1) } else none
  | .result => none

/-! ### Progress, dispatch and the end -/

/-- The unfolding is the first in issue order on its ridge (R196). -/
def State.firstOnRidge (s : State) (key : Nat) (o : EngOp) : Bool :=
  s.ops.all (fun e => decide (key ≤ e.1) || decide (e.2.kind ≠ .rbegin) || decide (e.2.wg ≠ o.wg) || decide (e.2.ridge ≠ o.ridge))

/-- One unit of an unfolding: the checks of its object, a frame header, or the passage to its next phase. -/
def State.unfoldStep (s : State) (key : Nat) (o : EngOp) : State :=
  match o.state, o.unfold with
  | .check, _ =>
    (match s.objCheck o with
    | some c => s.putOp key (o.failed c false)
    | none => s.putOp key { o with state := .run, unfold := some (unfoldOf o.ridge o.blockAddr o.block) })
  | .run, some u =>
    if !s.firstOnRidge key o then s
    else match u.frames.zipIdx.find? (fun x => x.1.dirty) with
      | some x =>
        (match s.opWrite key o u.heap.toNat (x.1.off : Nat) (leBytes 16 (u.header x.2)) with
        | .ok o s => s.putOp key { o with
            progress := u.frames.length, unfold := some { u with frames := lset u.frames x.2 { x.1 with dirty := false } } }
        | r => s.opStuck key o r)
      | none =>
        match u.turn with
        | some u' => s.putOp key { o with unfold := some u' }
        | none => s
  | _, _ => s

/-- The wave and lane of a pool index (R196). -/
def State.poolLane (s : State) (o : EngOp) (e : Ridge) (p : Nat) : Option (Nat × Wave × Nat) :=
  match ((List.range 48).filter (fun k => e.members.getLsbD k))[p / 32]? with
  | none => none
  | some num => (s.member o.wg num).map (fun x => (x.1, x.2, p % 32))

/-- Barrier entries of a wave that stand empty because all their lanes run routines; counted where more than one lane
does, since a lane that returns may then need the entry beside its routine's (R197). -/
def State.emptyHomes (s : State) (id : Nat) (l : List Entry) : Nat :=
  let rs := s.ops.flatMap (fun e => match e.2.unfold with
    | some u => u.running.filter (fun r => decide (r.wave = id))
    | none => [])
  if rs.length ≤ 1 then 0
  else ((dedupW (rs.map (fun r => r.home))).filter (fun pc => !l.any (fun e => decide (e.pc = pc) && e.bwt.isSome))).length

/-- Takes lanes out of an entry. -/
def takeLane (l : List Entry) (e : Entry) (lane : Nat) : List Entry :=
  l.filterMap (fun x => if x = e then
      (if x.mask &&& ~~~(Mask.single lane) = 0#32 then none else some { x with mask := x.mask &&& ~~~(Mask.single lane) })
    else some x)

/-- Dispatches what is due on a pool lane that waits at the ridge's barrier, where its wave can hold the entry (R197), at the
boundary of a clause that another of its entries runs too, and
where no pre-emption stops it (R364). A lane waits there only while its wave is on its slot: a pool wave that was lowered to a
carry record before the RBEGIN comes back when its phase completes, and a frame due on one of its lanes waits (log 58, DESIGN
CHOICE). -/
def State.dispatch (s : State) (key : Nat) (o : EngOp) (u : Unfold) (p : Nat) : State :=
  match s.opRidge o, u.due p with
  | some x, some (f, routine) =>
    (match s.poolLane o x.2 p with
    | none => s
    | some (id, w, lane) =>
      match w.others.find? (fun e => e.mask.has lane && (match e.bwt with
          | some b => decide (b.1 = o.ridge)
          | none => false)) with
      | none => s
      | some e =>
        if w.status ≠ .slot ∨ s.stopNow w.core w.world then s
        else
          let pc := if routine = 0 then u.divOff else if routine = 1 then u.baseOff else u.combOff
          let r : Running := { pool := p, wave := id, lane := lane, frame := f, routine := routine, home := e.pc, words := e.words
                               phase := match e.bwt with
                                 | some b => b.2
                                 | none => false }
          let l := joinEntry (s.prioAt w pc) pc (Mask.single lane) false (takeLane w.others e lane)
          let s' := s.putOp key { o with unfold := some (u.begin r) }
          let after := match w.bundle with
            | some b => joinEntry 0#16 (nextPc b.pc (s.clauseLen w b)) b.mask false (s.joinLeft w l)
            | none => l
          if w.depth < max after.length (l.length + w.bundle.toList.length) + s'.emptyHomes id l then s
          else
            let w' := { w with others := l, seen := s.nextId, routines := w.routines ||| Mask.single lane }
            if w.bundle.isSome then s'.putWave id { w' with ctl := true } else s'.reselect id w')
  | _, _ => s

/-- FRAME_DISPATCH (R197): operation `a`, pool index `b`. -/
def execFrameDispatch (s : State) : Out :=
  .next (match tget s.ops s.arg.a with
    | some o =>
      match o.unfold with
      | some u =>
        if o.state = .run ∧ u.stopped = false ∧ u.frames.all (fun x => !x.dirty) ∧ s.firstOnRidge s.arg.a o then
          s.dispatch s.arg.a o u s.arg.b
        else s
      | none => s
    | none => s)

/-! ### Instructions -/

/-- RBEGIN (R196, R335). -/
def execRbegin (f : FmtE) (s : State) : Out :=
  engineOp (.rbegin f) f .rbegin 4 128 true
    (fun w m s => match s.ridgeOf w (w.src f.q 1 0) with
      | some _ => none
      | none => some (w.mkRec cMember stData (Mask.first m)))
    noNames (fun w _ o => { o with args := [w.src f.q 1 0, f.mode.toNat] }) s

/-- What RCHILD checks in a lane (R199): the code of its condition. -/
def Unfold.childCheck (u : Unfold) (r : Running) : Option Nat :=
  let x := u.frame r.frame
  if u.maxDepth ≤ x.depth then some cRecDepth
  else if u.fanout ≤ x.children.length then some cFanout
  else match u.phase with
    | .depthFirst => if u.stackCap ≤ u.stackUse.getD r.pool 0 then some cHeap else none
    | _ => if u.heapSz < (u.frames.length + 1) * u.slot then some cHeap else none

/-- Appends a child to the frame of a lane (R198). -/
def Unfold.append (u : Unfold) (r : Running) : Unfold :=
  let x := u.frame r.frame
  let n := u.frames.length
  let use := u.stackUse.getD r.pool 0
  let off := match u.phase with
    | .depthFirst => u.stackBase + (r.pool * u.stackCap + use) * u.slot
    | _ => n * u.slot
  let c : Frame := { off := off, depth := x.depth + 1, parent := some r.frame, cidx := x.children.length, children := []
                     stage := 0, dirty := true }
  let u := { u with frames := u.frames ++ [c], stackUse := match u.phase with
    | .depthFirst => lset u.stackUse r.pool (use + 1)
    | _ => u.stackUse }
  u.setFrame r.frame (fun x => { x with children := x.children ++ [n] })

/-- The object's limits as they stand now, read again for a replay of the wave that has stopped the unfolding (R199); none while
the read waits for a missing unit or for another node. Limits that a condition keeps from being read stay (log 58, DESIGN CHOICE). -/
def State.reread (s : State) (id key : Nat) (o : EngOp) (u : Unfold) : Option State × State :=
  let rest := u.stoppers.filter (fun k => decide (k ≠ id))
  let thaw (s : State) (u : Unfold) : Option State × State :=
    let s := (s.opClear key).putOp key { o with unfold := some { u with stopped := !rest.isEmpty, stoppers := rest } }
    (some s, s)
  let take (s : State) (l : List Byte) : Option State × State :=
    let v := unfoldOf o.ridge o.blockAddr l
    thaw s { u with fanout := v.fanout, maxDepth := v.maxDepth, heapSz := v.heapSz }
  if o.inG then
    match s.opRead key o o.blockAddr.toNat 0 128 with
    | .ok l s => take s l
    | .cond _ s => thaw s u
    | .miss m s => (none, s.joinPending o.stamp m)
    | .wait s => (none, s)
  else take s (s.wgRead o o.blockAddr.toNat 128)

/-- The unfoldings that a wave's RCHILD has stopped read their limits again (R199). -/
def State.rereadIn (s : State) (id : Nat) : List Nat → Option State × State
  | [] => (some s, s)
  | lane :: t =>
    match s.runningAt id lane with
    | none => s.rereadIn id t
    | some (key, o, u, _) =>
      if !u.stoppers.contains id then s.rereadIn id t
      else match s.reread id key o u with
        | (some s', _) => s'.rereadIn id t
        | r => r

/-- RCHILD in one lane: the address of the child's frame data, which is undefined until written, or a condition, which stops the
unfolding until its wave's replay passes (R199, R336). -/
def State.childIn (s : State) (id lane : Nat) : Except (Nat × State) (Nat × State) :=
  match s.runningAt id lane with
  | none => .error (cReserved, s)
  | some (key, o, u, r) =>
    if r.routine ≠ 0 then .error (cReserved, s)
    else match u.childCheck r with
      | some code =>
        .error (code, s.putOp key { o with
          unfold := some { u with stopped := true, stoppers := id :: u.stoppers.filter (fun k => decide (k ≠ id)) } })
      | none =>
        let v := u.append r
        let off := (v.frame (v.frames.length - 1)).off + 16
        .ok (v.dataAddr (v.frames.length - 1), (s.freeRun key o v.heap.toNat (off : Nat) v.frameSz).putOp key { o with unfold := some v })

/-- RCHILD in the lanes of a list, in order. -/
def State.childrenIn (s : State) (id : Nat) : List Nat → Except (Nat × Nat × State) (List (Nat × Nat) × State)
  | [] => .ok ([], s)
  | l :: t =>
    match s.childIn id l with
    | .error e => .error (l, e)
    | .ok x =>
      match x.2.childrenIn id t with
      | .error e => .error e
      | .ok y => .ok ((l, x.1) :: y.1, y.2)

/-- An RCHILD that raises a condition in a lane stops that lane's unfolding, and leaves every lane without a child (R199). -/
def State.stopChild (s : State) (id lane : Nat) : State :=
  match s.childIn id lane, s.runningAt id lane with
  | .error x, _ => x.2
  | .ok _, some (key, o, u, _) =>
    s.putOp key { o with unfold := some { u with stopped := true, stoppers := id :: u.stoppers.filter (fun k => decide (k ≠ id)) } }
  | .ok _, none => s

/-- RCHILD (R199, R336). A condition in any lane leaves every lane without a child. -/
def execRchild (f : FmtX) (s : State) : Out :=
  issue (.rchild f) s (fun w m s =>
    match s.rereadIn s.cur (Mask.lanes m) with
    | (none, s) => .stay s
    | (some s, _) =>
      match s.childrenIn s.cur (Mask.lanes m) with
      | .error e => .raise (w.mkRec e.2.1 stData e.1) (s.stopChild s.cur e.1)
      | .ok x => .done (x.2.updWave s.cur (fun w => w.put f.dst 2 m (fun l => tgetD x.1 l 0))))

/-- Returns lanes to the entry that waits at the barrier (R197). -/
def State.goHome (s : State) (w : Wave) (r : Running) (ridge : Nat) (l : List Entry) : List Entry :=
  let bw := some (ridge, r.phase)
  if l.any (fun e => decide (e.pc = r.home) && decide (e.bwt = bw)) then
    l.map (fun e => if e.pc = r.home ∧ e.bwt = bw then { e with mask := e.mask ||| Mask.single r.lane } else e)
  else { pc := r.home, prio := s.prioAt w r.home, ridx := 0, yld := false, hld := false, bwt := bw, passed := false
         mask := Mask.single r.lane, words := r.words } :: l

/-- An unfolding that has been cancelled and whose last routine has ended is gone, and its ridge holds no longer. -/
def EngOp.ghost (o : EngOp) : Bool := decide (o.cls = 7)

/-- The ridge of an unfolding that has retired: HOLD is cleared where no other unfolding names it; then a phase whose
lanes have all arrived completes, and lower requests are due again (R196, R198, R339). -/
def State.clearHold (s : State) (o : EngOp) : State :=
  if s.ops.any (fun e => decide (e.2.kind = .rbegin) && decide (e.2.wg = o.wg) && decide (e.2.ridge = o.ridge)) then s
  else match s.opRidge o with
    | none => s
    | some x =>
      let e := { x.2 with hold := false }
      let s := s.putRidge o.core x.1 e
      let s := if e.expset ∧ e.arrived = e.expect then s.completePhase o.wg o.core x.1 e else s
      (s.waves.filter (fun y => decide (y.2.wg = o.wg))).foldl (fun (s : State) y =>
        let w := tgetD s.waves y.1 y.2
        if s.lowerDue w then s.lowerWave y.1 w else s) s

/-- A cancelled unfolding is dropped once none of its routines runs. -/
def State.sweep (s : State) (key : Nat) : State :=
  match tget s.ops key with
  | some o =>
    if o.ghost && (match o.unfold with
        | some u => u.running.isEmpty
        | none => true) then { s with ops := tdel s.ops key }.clearHold o else s
  | none => s

/-- RDONE in one lane. -/
def State.doneIn (s : State) (id lane : Nat) : State :=
  match s.runningAt id lane with
  | none => s
  | some (key, o, u, r) =>
    let s := s.putOp key { o with unfold := some (u.finish r) }
    let s := s.updWave id (fun w => { w with
      bundle := w.bundle.map (fun b => { b with mask := b.mask &&& ~~~(Mask.single lane) })
      others := s.goHome w r o.ridge w.others, ctl := true })
    s.sweep key

/-- The first lane of a mask that runs no frame. -/
def State.idleLane (s : State) (id : Nat) (m : Mask) : Option Nat :=
  (Mask.lanes m).find? (fun l => (s.runningAt id l).isNone)

/-- RDONE (R197, R336): a release at CORE scope. -/
def execRdone (f : FmtX) (s : State) : Out :=
  issue (.rdone f) s (fun w m s =>
    match s.idleLane s.cur m with
    | some l => .raise (w.mkRec cReserved stData l) s
    | none =>
      if m = 0#32 then .done s
      else if s.chipDue w.core then .stay s
      else s.gated s.cur w 3 1 (fun _ s => .done ((Mask.lanes m).foldl (fun (s : State) l => s.doneIn s.cur l) s)))

/-- RFRAME (R336). -/
def execRframe (f : FmtX) (s : State) : Out :=
  issue (.rframe f) s (fun w m s =>
    match s.idleLane s.cur m with
    | some l => .raise (w.mkRec cReserved stData l) s
    | none =>
      let v (l : Nat) : Nat := match s.runningAt s.cur l with
        | some (_, _, u, r) =>
          let x := u.frame r.frame
          if f.sel = 0#16 then u.dataAddr r.frame
          else if f.sel = 1#16 then u.resAddr r.frame
          else x.depth % 128 + x.children.length % 16 * 2 ^ 7 + x.cidx % 8 * 2 ^ 11 + r.routine % 4 * 2 ^ 14
        | none => 0
      .done (s.putWave s.cur (w.put f.dst (if f.sel = 2#16 then 1 else 2) m v)))

/-- The result address of a child in a lane (R336). -/
def State.childRes (s : State) (w : Wave) (f : FmtX) (lane : Nat) : Except Cond Nat :=
  match s.runningAt s.cur lane with
  | none => .ok 0
  | some (_, _, u, r) =>
    let k := w.src f.a 1 lane
    match (u.frame r.frame).children[k]? with
    | some c => .ok (u.resAddr c)
    | none => .error { code := cBounds, step := stForm, addr := k }

/-- RRES (R336): BOUNDS comes before the data step. -/
def execRres (f : FmtX) (s : State) : Out :=
  issue (.rres f) s (fun w m s =>
    match formLanes (s.childRes w f) (Mask.lanes m) with
    | .error e => .raise (w.recOf e.1 e.2) s
    | .ok l =>
      match s.idleLane s.cur m with
      | some k => .raise (w.mkRec cReserved stData k) s
      | none => .done (s.putWave s.cur (w.put f.dst 2 m (fun k => tgetD l k 0))))

end Sys2Proof.Machine
end

