-- ==== Sys2Proof/Machine/Tiers.lean ====
section
/-! DEFINITION. Pages of tier ranges and of objects: moves, frames, departing images (R34, R35, R88 to R94). -/

namespace Sys2Proof.Machine

/-! ### Copies of 64 KiB pages -/

/-- A line of a page holds no data that may be delivered (R275, R387). -/
def State.lost (s : State) (line : Nat) : Bool :=
  let x := s.sideAt line
  !x.sp && (x.pz || (decide (paKind (line * 64) = 0) && (decide (x.errs = 2) || x.macBad)))

/-- The bytes of a 64 KiB page that are not zero, by offset; lines with SP are zeros (R110). A poisoned line stays poisoned in a
move: it stands as one byte at 65,536 + its offset. -/
def State.pageBytes (s : State) (page : Nat) : List (Nat × Byte) :=
  (s.mem.filter (fun c => decide (c.1 / 65536 = page) && !(decide (paKind c.1 = 0) && (s.sideAt (c.1 / 64)).sp)
    && !s.lost (c.1 / 64))).map (fun c => (c.1 % 65536, c.2))
    ++ ((List.range 1024).filter (fun i => s.lost (page * 1024 + i))).map (fun i => (65536 + 64 * i, 0#8))

/-- New bytes of a 64 KiB page, by offset, all others zero: kind-0 lines become the world's, and no die keeps a line. -/
def State.fillPage (s : State) (dst world : Nat) (data : List (Nat × Byte)) : State :=
  let own : Side := { owner := some (world, (s.world world).keyGen), sp := false, pz := false, errs := 0, macBad := false }
  let bad (i : Nat) : Bool := data.any (fun c => decide (c.1 = 65536 + 64 * i))
  { s with
    mem := (data.filter (fun c => decide (c.1 < 65536))).foldl (fun m c => cset m (dst * 65536 + c.1) c.2)
      (czero s.mem (dst * 65536) 65536)
    side := (List.range 1024).foldl (fun t i =>
      if bad i then tset t (dst * 1024 + i) { own with pz := true }
      else if paKind (dst * 65536) = 0 then tset t (dst * 1024 + i) own else tdel t (dst * 1024 + i)) s.side
    cache := s.cache.filter (fun c => decide (c.line / 512 ≠ dst)) }

/-- Copies the bytes of a 64 KiB page to another; no die keeps a line of either (R93). -/
def State.copyPage (s : State) (src dst world : Nat) : State :=
  { s with cache := s.cache.filter (fun c => decide (c.line / 512 ≠ src)) }.fillPage dst world (s.pageBytes src)

/-- The DRAM requests of a move: a page's sectors, under the stamp of the first access that parked on it (R102). -/
def State.pageTraffic (s : State) (page : Nat) (who : Stamp) (write : Bool) : State :=
  if paKind (page * 65536) ≠ 0 then s
  else (List.range 1024).foldl (fun (s : State) i => s.request (page * 65536 + 64 * i) who write) s

/-- An access that has passed translation to a 64 KiB page is not yet complete (R35, R93). -/
def State.pageBusy (s : State) (page : Nat) : Bool :=
  s.waves.any (fun e => e.2.storeQ.any (fun q => q.lanes.any (fun l => decide (l.pa / 65536 = page)))
    || e.2.loads.any (fun l => l.lanes.any (fun x => match x.2 with
      | .phys pa => decide (pa / 65536 = page)
      | _ => false)))
    || s.unconf.any (fun u => decide (u.line / 512 = page))

/-- The stamp of a unit's first access (R102). A move that no access waits for carries none that can be missed (log 24, DESIGN
CHOICE). -/
def State.unitStamp (s : State) (u : MissUnit) : Stamp :=
  match s.xl.pending.find? (fun e => decide (e.1 = u)) with
  | some e => e.2
  | none => { cls := 3, core := Config.cores, index := 9, deadline := none }

/-! ### Frames and tier entries -/

/-- The least number of 64 KiB frames from a list of pools (first frame, frames) that is not in use. -/
def freeFrame (used : Tab Nat) : List (Nat × Nat) → Option Nat
  | [] => none
  | (f, n) :: t =>
    match firstBelow (min n (used.length + 1)) (fun i => (tget used (f + i)).isNone) with
    | some i => some (f + i)
    | none => freeFrame used t

/-- The migration pool of a world in frames (R84, R90). -/
def World.pool (w : World) : List (Nat × Nat) :=
  (w.valids.filter (fun r => r.mp)).map (fun r => (r.out / 65536, r.size / 65536))

/-- A tier-map key lies in a range of a world. -/
def keyIn (world range k : Nat) : Bool := decide (k / 2 ^ 40 = world * 48 + range)

/-- A range of a world by its number, where it is valid and a tier range (R89). -/
def World.tierRange (w : World) (n : Nat) : Option Range :=
  w.valids.find? (fun r => decide (r.n = n ∧ (paKind r.out = 1 ∨ paKind r.out = 2)))

/-- The home page of a world's tier-map key, in the memory of its host (R371). -/
def State.homePage (s : State) (world : Nat) (r : Range) (k : Nat) : Nat := s.hostPa world (r.out) / 65536 + k % 2 ^ 40

/-- A world's tier page in one of its ranges, by a home address: its key (R89, R96). -/
def State.tierAt (s : State) (world n pa : Nat) : Option (Range × Nat) :=
  match (s.world world).tierRange n with
  | some r => if r.out ≤ pa ∧ pa < r.out + r.size then some (r, r.tierKey world pa) else none
  | none => none

/-- The frame that a tier page takes in a migration. -/
def State.frameOf (s : State) (k : Nat) : Option Nat := (s.xl.frames.find? (fun e => decide (e.2 = k))).map (fun e => e.1)

/-- A resident page's frame is written back where it has been written, and given back. -/
def State.freeTier (s : State) (world home k : Nat) (who : Stamp) : State :=
  let t := tgetD s.xl.tiers k Tier.init
  let s := if t.res && t.dt then (s.pageTraffic t.frame who false).copyPage t.frame home world else s
  { s with xl := { s.xl with frames := s.xl.frames.filter (fun f => decide (f.2 ≠ k)) } }

/-- A range of a world goes: its resident pages are written back to their homes, and its tier map with it. The spec does not say
what becomes of them (R84, R89; log 59, DESIGN CHOICE). -/
def State.dropTiers (s : State) (world : Nat) (r : Range) : State :=
  let mine := s.xl.tiers.filter (fun e => keyIn world r.n e.1)
  let s := mine.foldl (fun (s : State) e => s.freeTier world (s.homePage world r e.1) e.1 (s.unitStamp (.obj 0))) s
  { s with xl := { s.xl with
      tiers := s.xl.tiers.filter (fun e => !keyIn world r.n e.1)
      demoting := s.xl.demoting.filter (fun k => !keyIn world r.n k)
      frames := s.xl.frames.filter (fun f => !keyIn world r.n f.2)
      starved := s.xl.starved.filter (fun k => !keyIn world r.n k) } }

/-- Demotion of a resident tier page begins (R92). -/
def State.beginDemote (s : State) (k : Nat) : State :=
  let t := tgetD s.xl.tiers k Tier.init
  if !t.res || t.m then s
  else { s with xl := { s.xl with tiers := tset s.xl.tiers k { t with m := true }, demoting := dedupN (s.xl.demoting ++ [k]) } }

/-- A page of a world waits for a frame and none is free: the wait is counted once, and the policy demotes a page of the
world, unless it is about to (R94). It takes the one in the lowest frame (log 24, DESIGN CHOICE). -/
def State.starve (s : State) (world k : Nat) : State :=
  let w := s.world world
  let s := if s.xl.starved.contains k then s
    else { s.putWorld world { w with poolExhausted := w.poolExhausted + 1 } with xl := { s.xl with starved := s.xl.starved ++ [k] } }
  let own (j : Nat) : Bool := decide (j / 2 ^ 40 / 48 = world)
  if s.xl.demoting.any own then s
  else match s.xl.frames.find? (fun f => own f.2 && (let t := tgetD s.xl.tiers f.2 Tier.init; t.res && !t.m)) with
    | some f => s.beginDemote f.2
    | none => s

/-- Migration of a tier page begins, or waits for a frame (R90, R92, R94). -/
def State.beginMigrate (s : State) (world k : Nat) : State :=
  let t := tgetD s.xl.tiers k Tier.init
  if t.res || t.m then s
  else match freeFrame s.xl.frames (s.world world).pool with
    | none => s.starve world k
    | some f => { s with xl := { s.xl with
        tiers := tset s.xl.tiers k { t with m := true }, frames := tset s.xl.frames f k
        starved := s.xl.starved.filter (fun j => decide (j ≠ k)) } }

/-- The end of a tier page's migration or demotion (R90, R92, R93): the cached translations of the page go with it. -/
def State.tierDone (s : State) (world : Nat) (r : Range) (k : Nat) : State :=
  let t := tgetD s.xl.tiers k Tier.init
  let home := s.homePage world r k
  let who := s.unitStamp (.tier world r.n (home * 65536 % 2 ^ 52))
  if !t.m then s
  else if s.xl.demoting.contains k then
    if s.pageBusy t.frame then s
    else
      let s := (s.dropTlb (fun e => decide (e.world = world ∧ e.range = r.n ∧ e.pa / 65536 = t.frame))).freeTier world home k who
      { s with xl := { s.xl with
        tiers := tset s.xl.tiers k { t with m := false, res := false, dt := false, frame := 0 }
        demoting := s.xl.demoting.filter (fun p => decide (p ≠ k)) } }
  else match s.frameOf k with
    | none => s
    | some f =>
      if s.pageBusy home then s
      else
        let s := ((s.dropTlb (fun e => decide (e.world = world ∧ e.range = r.n ∧ e.pa / 65536 = home))).copyPage home f world).pageTraffic f who true
        { s with xl := { s.xl with tiers := tset s.xl.tiers k { t with m := false, res := true, dt := false, frame := f } } }

/-! ### Objects -/

/-- The 64 KiB page of device DRAM that holds an object's page, where its map entry names one (R88). -/
def State.objFrame (s : State) (h page : Nat) : Option Nat :=
  let e := s.rotAt h
  let m := s.mapEntry h page
  if !bit m 0 then none
  else match (s.world e.world).match2 (bits m 16 36 * 65536) with
    | some r => some (r.pa (bits m 16 36 * 65536) / 65536)
    | none => none

/-- Pages of an object. -/
def RotEnt.pages (e : RotEnt) : List Nat := List.range (ceilDiv e.extent 65536)

/-- An access that has passed translation through a page of an object is not yet complete (R35). -/
def State.objBusy (s : State) (h : Nat) (e : RotEnt) : Bool :=
  e.pages.any (fun p => match s.objFrame h p with
    | some f => s.pageBusy f
    | none => false)

/-- The image is of the object of an entry. -/
def Departed.isOf (i : Departed) (e : RotEnt) : Bool := decide (i.realm = e.realm ∧ i.serial = e.serial)

/-- The pages that an object's departures have taken home (R35). -/
def State.imageOf (s : State) (e : RotEnt) : Tab (List (Nat × Byte)) :=
  match s.xl.images.find? (fun i => i.isOf e) with
  | some i => i.pages
  | none => []

/-- The departing image: the present pages of an object as they stand, beside the pages that have stayed at its home (R35). -/
def State.departImage (s : State) (h : Nat) (e : RotEnt) : State :=
  let img := e.pages.foldl (fun (t : Tab (List (Nat × Byte))) p => match s.objFrame h p with
    | some f => tset t p (s.pageBytes f)
    | none => t) (s.imageOf e)
  let i : Departed := { realm := e.realm, serial := e.serial, world := e.world, pages := img }
  { s with xl := { s.xl with images := i :: s.xl.images.filter (fun i => !i.isOf e) } }

/-- The frames that an object's present pages leave keep no line in a die (R93). -/
def State.dropObjLines (s : State) (h : Nat) (e : RotEnt) : State :=
  let fs := e.pages.filterMap (s.objFrame h)
  { s with cache := s.cache.filter (fun c => !fs.contains (c.line / 512)) }

/-- Clears P in every entry of an object's page map (R35, R88). -/
def State.unmapObject (s : State) (h : Nat) (e : RotEnt) : State :=
  e.pages.foldl (fun (s : State) p =>
    let m := s.mapEntry h p
    if bit m 0 then s.setMap h p (m - 1) else s) s

/-- The end of an object page's fetch (R88): the page's bytes arrive from its home in the frame at IA `frame` × 64 KiB. What a
departure took home comes back (R35); `data` is what the home holds of a page that has never departed. -/
def State.objPageDone (s : State) (h page frame : Nat) (data : List (Nat × Byte)) : State :=
  let e := s.rotAt h
  let m := s.mapEntry h page
  if e.state ≠ .resident ∨ (bit m 0 && !bit m 2) then s
  else match (s.world e.world).match2 (frame * 65536) with
    | none => s
    | some r =>
      let pa := r.pa (frame * 65536)
      if paKind pa ≠ 0 then s
      else
        let bytes := match tget (s.imageOf e) page with
          | some l => l
          | none => data.filter (fun c => decide (c.1 < 65536))
        let s := (s.pageTraffic (pa / 65536) (s.unitStamp (.objPage h page)) true).fillPage (pa / 65536) e.world bytes
        s.setMap h page (setBits (setBits (m ||| 1) 2 1 0) 16 36 frame)

end Sys2Proof.Machine
end

