-- ==== Sys2Proof/Machine/System.lean ====
section
/-! DEFINITION. TRAP and BKPT (R340), the privileged instructions (R224, R225, R341 to R345): the return from a supervisor
entry, the special registers, translation invalidation, the operations on waves and worlds, the debugger's halts. -/

namespace Sys2Proof.Machine

/-! ### TRAP and BKPT -/

/-- The wave with its issuing entry past the instruction (R340, R362): a following clause's entry merges as at a
boundary (R182). -/
def State.pastInstr (s : State) (w : Wave) (b : Entry) : Wave :=
  let n := s.clauseLen w b
  if b.ridx + 1 < n then { w with bundle := some { b with ridx := b.ridx + 1 } }
  else
    let pc := nextPc b.pc n
    if w.sup then { w with bundle := some { b with pc := pc, prio := s.prioAt w pc, ridx := 0 }, clause := none }
    else { w with
      bundle := none, clause := none
      others := joinEntry (s.prioAt w pc) pc b.mask (decide (b.mask &&& w.yielded ≠ 0#32)) w.others }

/-- PC and resume index of the instruction after the one that issues. -/
def State.afterInstr (s : State) (w : Wave) (b : Entry) : Word × Nat :=
  let n := s.clauseLen w b
  if b.ridx + 1 < n then (b.pc, b.ridx + 1) else (nextPc b.pc n, 0)

/-- TRAP (R340): a release at DEVICE scope; the wave is lowered to a full record and a request is posted. In a supervisor wave it is
RESERVED_FIELD, a condition of decode whatever its predicate (R220, R221). A bundle that a
remote access holds finishes first (R423; log 29, DEDUCED). -/
def execTrap (f : FmtX) (s : State) : Out :=
  issue (.trap f) s (fun w m s =>
    if w.sup then .raise (w.mkRec cReserved stDecode (Mask.first w.bundleMask)) s
    else if m = 0#32 then .done s
    else match w.bundle with
      | none => .done s
      | some b =>
        if w.asideDue then .stay s
        else s.gated s.cur w 3 scDevice (fun w s =>
          let next := s.afterInstr w b
          let r : FaultRec := { w.mkRec 0 7 0 with info := f.sel, pc := next.1, ridx := BitVec.ofNat 4 next.2 }
          .jump (s.leave s.cur (s.pastInstr w b) (.trap r))))

/-- BKPT (R340): BREAKPOINT, from which the wave resumes after the BKPT (R362). -/
def execBkpt (f : FmtX) (s : State) : Out :=
  issue (.bkpt f) s (fun w m s =>
    if m = 0#32 then .done s
    else match w.bundle with
      | none => .done s
      | some b =>
        if !w.sup && w.asideDue then .stay s
        else .jump (s.deliver s.cur (s.pastInstr w b) { w.mkRec cBreak stData (Mask.first m) with info := f.sel }))

/-! ### Return and registers -/

/-- The entry at which a supervisor wave goes on after SVRET: PC and resume index of SV_EPC (R225, R341, log 10, DESIGN CHOICE).
A PC beyond 32 bits lies in no code. -/
def State.returnEntry (s : State) (w : Wave) : Entry :=
  let pc := if w.sv.epc.toNat / 16 < 2 ^ 32 then BitVec.ofNat 32 (w.sv.epc.toNat / 16) else noCode
  { pc := pc, prio := s.prioAt w pc, ridx := w.sv.epc.toNat % 16, yld := false, hld := false, bwt := none, passed := false
    mask := 1#32 }

/-- SVRET (R341): the return from a supervisor entry; it ends the handling of an entry (R361). -/
def execSvret (f : FmtX) (s : State) : Out :=
  issue (.svret f) s (fun w m s =>
    if m = 0#32 then .done s
    else .jump (s.putWave s.cur { w with
      bundle := some (s.returnEntry w), others := [], clause := none, left := [], ctl := false, yielded := 0#32, judge := 0
      behind := false, sv := { w.sv with handling := false } }))

/-- The world of SV_WORLD and the core of SV_CORESEL (R225). -/
def Wave.selWorld (w : Wave) : Nat := w.sv.world.toNat % 64
@[inherit_doc Wave.selWorld] def Wave.selCore (w : Wave) : Nat := w.sv.coreSel.toNat % 512
/-- The queue of SV_QUEUESEL (R347). -/
def State.selQueue (s : State) : Nat := s.plat.queueSel.toNat % 65536

/-- A range entry of a world (R84). -/
def State.rangeEnt (s : State) (world n : Nat) : BitVec 128 := tgetD (s.world world).ranges n 0#128

/-- The RAS record that SV_RASIDX names (R400). -/
def State.rasRec (s : State) : Nat :=
  match tget s.plat.ras (s.plat.rasIdx.toNat % Config.rasLen) with
  | some r => r.toNat
  | none => 0

/-- A WSET `.reset` of another supervisor wave is under way on a world: what acts on the world comes after it (R345). -/
def State.resetting (s : State) (world : Nat) : Bool :=
  match (s.world world).resetBy with
  | some id => decide (id ≠ s.cur)
  | none => false

/-- The register of a selector belongs to a world that another supervisor wave resets (R225, R345). -/
def State.regHeld (s : State) (w : Wave) (sel : Nat) : Bool :=
  if sel = 0x106 ∨ sel = 0x107 ∨ (0x120 ≤ sel ∧ sel < 0x180) then s.resetting w.selWorld
  else if (0x181 ≤ sel ∧ sel ≤ 0x184) ∨ 0x1A0 ≤ sel then s.resetting (s.queue s.selQueue).world
  else false

/-- SRDP's value by selector (R225). -/
def State.svRead (s : State) (w : Wave) (sel : Nat) : Nat :=
  let q := s.queue s.selQueue
  let c := s.core w.selCore
  let x := s.world w.selWorld
  if sel = 0x100 then w.sv.trapBase.toNat
  else if sel = 0x101 then w.sv.cause.toNat
  else if sel = 0x102 then w.sv.epc.toNat
  else if sel = 0x103 then w.sv.faultAddr.toNat
  else if sel = 0x104 then w.sv.world.toNat
  else if sel = 0x105 then w.sv.coreSel.toNat
  else if sel = 0x106 then x.s1root.toNat
  else if sel = 0x107 then x.budget.toNat
  else if sel = 0x108 then c.lmdrop.toNat
  else if sel < 0x118 then (tgetD c.dlmiss (sel - 0x110) 0#32).toNat
  else if sel < 0x180 then bits (s.rangeEnt w.selWorld ((sel - 0x120) / 2)).toNat (64 * (sel % 2)) 64
  else if sel = 0x180 then s.plat.queueSel.toNat
  else if sel = 0x181 then q.base.toNat
  else if sel = 0x182 then q.size.toNat
  else if sel = 0x183 then q.stateWord
  else if sel = 0x184 then q.svcmin.toNat
  else if sel = 0x190 then s.plat.rasIdx.toNat
  else if sel < 0x195 then bits s.rasRec (64 * (sel - 0x191)) 64
  else (tgetD q.chans (sel - 0x1A0) 0#64).toNat

/-- SRDP (R341). -/
def execSrdp (f : FmtX) (s : State) : Out :=
  issue (.srdp f) s (fun w m s =>
    if s.regHeld w f.sel.toNat then .stay s
    else .done (s.putWave s.cur (w.put f.dst (if sv32 f.sel then 1 else 2) m (fun _ => s.svRead w f.sel.toNat))))

/-! ### Range entries (R84 to R86) -/

/-- Two runs of bytes share a byte. -/
def overlaps (a n b m : Nat) : Bool := decide (a < b + m) && decide (b < a + n) && decide (0 < n) && decide (0 < m)

/-- Bytes of the capacity window that the host of a world has assigned (R86, R371). -/
def State.capacityOf (s : State) (world : Nat) : Nat :=
  match (s.world world).ld with
  | some k => match tget s.host.lds k with
    | some l => if l.host.isSome then l.capacity else 0
    | none => 0
  | none => 0

/-- A world's output lies wholly in its kind's space (R86, R87). -/
def State.outFits (s : State) (world : Nat) (r : Range) : Bool :=
  let k := paKind r.out
  let last := r.out + r.size
  if k = 0 then decide (last ≤ s.dramBytes)
  else if k = 1 then decide (last ≤ 2 ^ 50 + s.capacityOf world)
  else if k = 2 then decide (last ≤ 3 * 2 ^ 50)
  else decide (paNode r.out ≤ 1151) && decide (r.out / 2 ^ 39 = (last - 1) / 2 ^ 39)

/-- Kind-0 output meets the device-private region or a valid kind-0 range of another world (R86). -/
def State.outTaken (s : State) (world : Nat) (r : Range) : Bool :=
  decide (paKind r.out = 0) && (decide (s.privBase < r.out + r.size)
    || s.worlds.any (fun e => decide (e.1 ≠ world) && e.2.valids.any (fun x =>
        decide (paKind x.out = 0) && overlaps r.out r.size x.out x.size)))

/-- A field of a range entry that must be 0 is not (R84, R341): POL too, where the output kind is 0 or 3. -/
def rangeReserved (v : Nat) : Bool :=
  decide (bits v 6 10 ≠ 0) || decide (bits v 47 17 ≠ 0) || bit v 95 || bit v 127
    || (bit v 4 && (decide (bits v 125 2 = 0) || decide (bits v 125 2 = 3)))

/-- The device refuses a range entry (R86). -/
def State.rangeRefused (s : State) (world n : Nat) (e : BitVec 128) : Bool :=
  rangeReserved e.toNat || (match rangeOf n e with
    | none => false
    | some r => decide (r.size = 0) || (r.mp && decide (paKind r.out ≠ 0)) || !s.outFits world r || s.outTaken world r)

/-- A range stays in its place. -/
def sameRange (a b : Option Range) : Bool :=
  decide (a.map (fun r => (r.base, r.size, r.out)) = b.map (fun r => (r.base, r.size, r.out)))

/-- Walks of a world's translations that wait for a table on another node begin again (R99). -/
def State.dropWalks (s : State) (p : Nat → Bool) : State :=
  { s with fab := { s.fab with requests := s.fab.requests.filter (fun e =>
      !(e.2.walk && e.2.atomic.isNone && e.2.bytes.isEmpty && p e.2.world)) } }

/-- Everything cached of the translations of worlds that a test picks goes (R98, R99). -/
def State.dropWorldXlat (s : State) (p : Nat → Bool) : State :=
  let s := s.dropWalks p
  { s with xl := { s.xl with
    tlb := s.xl.tlb.filter (fun t => !p t.world), tables := s.xl.tables.filter (fun t => !p t.world) } }

/-- A write of a high half applies the joined entry (R225): cached translations of the world go, and the tier map of a range that
was there with it (R99; log 59, DESIGN CHOICE). -/
def State.rangeApply (s : State) (w : Wave) (n : Nat) (hi : Nat) : Option State :=
  let e : BitVec 128 := BitVec.ofNat 128 (w.sv.staging.toNat + hi * 2 ^ 64)
  if s.rangeRefused w.selWorld n e then none
  else
    let s := match rangeOf n (s.rangeEnt w.selWorld n) with
      | some r => if sameRange (some r) (rangeOf n e) then s else s.dropTiers w.selWorld r
      | none => s
    let s := s.dropWorldXlat (fun k => decide (k = w.selWorld))
    let x := s.world w.selWorld
    some (s.putWorld w.selWorld { x with ranges := tset x.ranges n e })

/-! ### Queue binding (R347, R348) -/

/-- Workgroups of a launch's padded grid (R354). -/
def Launch.gridX (l : Launch) : Nat := ceilDiv l.shx l.px * l.px
@[inherit_doc Launch.gridX] def Launch.gridY (l : Launch) : Nat := ceilDiv l.shy l.py * l.py
@[inherit_doc Launch.gridX] def Launch.gridZ (l : Launch) : Nat := ceilDiv l.shz l.pz * l.pz
@[inherit_doc Launch.gridX] def Launch.total (l : Launch) : Nat := if l.marker then 0 else l.gridX * l.gridY * l.gridZ

/-- Invariant lines of a launch leave the die caches when it ends (R130). -/
def State.dropInvariant (s : State) (seq : Option Word) : State :=
  match seq with
  | none => s
  | some n => { s with cache := s.cache.filter (fun c => decide (c.inv ≠ some n)) }

/-- A launch that has ended leaves its queue's list and the table, its invariant lines the die caches, and epochs that it held open
end (R34, R130, R348). -/
def State.dropLaunch (s : State) (h : Nat) : State :=
  match tget s.launches h with
  | none => s
  | some l =>
    let q := s.queue l.queue
    (({ s.putQueue l.queue { q with started := q.started.filter (fun x => decide (x.2 ≠ h)) } with
      launches := tdel s.launches h } : State).dropInvariant l.seq).settleDoomed

/-- The unplaced workgroups of a queue's partly placed launch are discarded (R348). -/
def State.discardUnplaced (s : State) (k : Nat) : State :=
  s.launches.foldl (fun (s : State) e =>
    if e.2.queue = k ∧ e.2.next < e.2.total ∧ !e.2.dropped then
      if e.2.live = 0 then s.dropLaunch e.1 else s.putLaunch e.1 { e.2 with dropped := true }
    else s) s

/-- A queue without window and counts; records of the former binding that run on are no longer its own (R348, R351). -/
def Queue.emptied (q : Queue) (state : BitVec 3) : Queue :=
  { q with state := state, win := false, window := [], rc := 0, wc := 0, pushes := [], missed := none, denied := []
           started := [], rcDue := false, gone := [] }

/-- A queue is unbound: window and counts are discarded (R348). -/
def State.unbind (s : State) (k : Nat) (q : Queue) : State :=
  (((s.dropScheduler q.world).failPushes k).putQueue k (q.emptied 0#3)).discardUnplaced k

/-- A queue is bound; a bad binding enters ERROR at once (R348). -/
def State.bind (s : State) (k : Nat) (q : Queue) : State :=
  let s := s.putQueue k (q.emptied 1#3)
  if bits q.base.toNat 0 5 ≠ 0 ∨ q.nrec = 0 ∨ q.weight = 0#8 then s.queueError k else s

/-- A write of SV_QUEUESTATE: the transitions of R348; none is a refusal. A write that keeps STATE changes the other
fields. -/
def State.queueStateWrite (s : State) (k v : Nat) : Option State :=
  let q := s.queue k
  let q' := { q with world := bits v 3 6, waves := bit v 9, weight := BitVec.ofNat 8 (bits v 11 8)
                     sigbase := BitVec.ofNat 45 (bits v 19 45) }
  let st := bits v 0 3
  if st = q.state.toNat then some (s.putQueue k q')
  else if q.state = 0#3 ∧ st = 1 then some (s.bind k q')
  else if q.state = 1#3 ∧ st = 2 then some (s.putQueue k { q' with state := 2#3 })
  else if q.state = 2#3 ∧ st = 1 then some (s.putQueue k { q' with state := 1#3 })
  else if (q.state = 2#3 ∨ q.state = 3#3) ∧ st = 0 then some (s.unbind k q')
  else none

/-! ### SWRP -/

/-- Changes the registers of a supervisor wave. -/
def State.updSv (s : State) (id : Nat) (g : SupRegs → SupRegs) : State := s.updWave id (fun w => { w with sv := g w.sv })

/-- SWRP's effect by selector (R225, R341); none is a refusal. -/
def State.svWrite (s : State) (id : Nat) (w : Wave) (sel : Nat) (v : DWord) : Option State :=
  let n := v.toNat
  let k := s.selQueue
  let q := s.queue k
  let x := s.world w.selWorld
  let c := s.core w.selCore
  let when (b : Bool) (t : State) : Option State := if b then some t else none
  if sel = 0x100 then when (decide (bits n 0 3 = 0)) (s.updSv id (fun r => { r with trapBase := v }))
  else if sel = 0x102 then some (s.updSv id (fun r => { r with epc := v }))
  else if sel = 0x104 then when (decide (n < 64)) (s.updSv id (fun r => { r with world := v }))
  else if sel = 0x105 then when (decide (n < Config.cores)) (s.updSv id (fun r => { r with coreSel := v }))
  else if sel = 0x106 then when (decide (bits n 0 12 = 0)) (s.putWorld w.selWorld { x with s1root := v })
  else if sel = 0x107 then some (s.putWorld w.selWorld { x with budget := v })
  else if sel = 0x108 then when (decide (bits n 0 32 = 0)) (s.putCore w.selCore { c with lmdrop := 0#32 })
  else if sel < 0x118 then
    when (decide (bits n 0 32 = 0)) (s.putCore w.selCore { c with dlmiss := tset c.dlmiss (sel - 0x110) 0#32 })
  else if sel < 0x180 then
    if sel % 2 = 0 then some (s.updSv id (fun r => { r with staging := v }))
    else s.rangeApply w ((sel - 0x120) / 2) n
  else if sel = 0x180 then when (decide (n < 65536)) { s with plat := { s.plat with queueSel := v } }
  else if sel = 0x181 then
    when (decide (bits n 57 7 = 0) && (decide (q.state = 0#3) || decide (q.state = 3#3))) (s.putQueue k { q with base := v })
  else if sel = 0x182 then
    when (decide (q.state = 0#3) || decide (q.state = 3#3)) (s.putQueue k { q with size := v })
  else if sel = 0x183 then s.queueStateWrite k n
  else if sel = 0x184 then when (decide (n < 4)) (s.putQueue k { q with svcmin := v })
  else if sel = 0x190 then when (decide (n < 2 ^ 32)) { s with plat := { s.plat with rasIdx := v } }
  else some (s.putQueue k { q with chans := tset q.chans (sel - 0x1A0) v })

/-- A register write with its report in pQ (R341). -/
def swrpOp (i : Instr) (f : FmtX) (s : State) : Out :=
  issue i s (fun w m s =>
    if m = 0#32 then .done s
    else if s.regHeld w f.sel.toNat then .stay s
    else
      let r := s.svWrite s.cur w f.sel.toNat (BitVec.ofNat 64 (w.src f.a 2 0))
      let s' := r.getD s
      match f.dst with
      | .p _ => .done (s'.updWave s.cur (fun w => w.put f.dst 1 m (fun _ => b2n r.isSome)))
      | _ => .done s')

/-- SWRP (R341). -/
def execSwrp (f : FmtX) (s : State) : Out := swrpOp (.swrp f) f s
/-- SWRP to SV_QUEUESTATE that binds a queue (R348). -/
def execQueueBind (f : FmtX) (s : State) : Out := swrpOp (.queueBind f) f s
/-- SWRP to SV_QUEUESTATE that stops a queue (R348). -/
def execQueueStop (f : FmtX) (s : State) : Out := swrpOp (.queueStop f) f s
/-- SWRP to SV_QUEUESTATE that makes a stopped queue active again (R348). -/
def execQueueReactivate (f : FmtX) (s : State) : Out := swrpOp (.queueReactivate f) f s
/-- SWRP to SV_QUEUESTATE that unbinds a queue (R348). -/
def execQueueUnbind (f : FmtX) (s : State) : Out := swrpOp (.queueUnbind f) f s
/-- SWRP to the low half of a range entry: the staging word (R225). -/
def execSvRangeStage (f : FmtX) (s : State) : Out := swrpOp (.svRangeStage f) f s
/-- SWRP to the high half of a range entry: the whole entry applies (R86, R225). -/
def execSvRangeApply (f : FmtX) (s : State) : Out := swrpOp (.svRangeApply f) f s

/-! ### TLBI (R342) -/

/-- No access of the waves that a test picks is under way, supervisor waves among them, whose objects world 0 translates: the wait of
`.sync` (R342). -/
def State.idle (s : State) (p : Wave → Bool) : Bool :=
  s.waves.all (fun e => !p e.2 || (e.2.loads.isEmpty && e.2.storeQ.isEmpty
    && s.fab.requests.all (fun r => decide (r.2.wave ≠ e.1))))

/-- Invalidates the cached translations that a test picks, the table entries of the covered worlds with them, and with `.sync`
waits until accesses of the covered worlds have completed. -/
def tlbiOp (i : Instr) (f : FmtX) (hit : Wave → Tlb → Bool) (world : Wave → Nat → Bool) (more : State → State) (s : State) : Out :=
  issue i s (fun w m s =>
    if m = 0#32 then .done s
    else if s.worlds.any (fun e => world w e.1 && s.resetting e.1) then .stay s
    else
      let t := (s.dropTlb (hit w)).dropWalks (world w)
      let s := more { t with xl := { t.xl with tables := t.xl.tables.filter (fun t => !world w t.world) } }
      if f.sel.getLsbD 2 && !s.idle (fun x => world w x.world) then .stay s else .done s)

/-- The import table as memory holds it (R380); its place is log 5's. -/
def State.loadImports (s : State) : State :=
  let entry (k : Nat) : Nat := s.peekNat (s.privBase + Config.importOffset + 16 * k) 16
  let t := (List.range 256).foldl (fun (t : Tab (BitVec 128)) k =>
    if entry k = 0 then t else tset t k (BitVec.ofNat 128 (entry k))) []
  { s with fab := { s.fab with imports := t } }

/-- TLBI of a world (R342). -/
def execTlbiWorld (f : FmtX) (s : State) : Out :=
  tlbiOp (.tlbiWorld f) f (fun w t => decide (t.world = w.selWorld)) (fun w k => decide (k = w.selWorld)) id s

/-- TLBI of the translations that cover an address (R342). -/
def execTlbiPage (f : FmtX) (s : State) : Out :=
  tlbiOp (.tlbiPage f) f
    (fun w t => decide (t.world = w.selWorld) && decide (t.base ≤ w.src f.a 2 0) && decide (w.src f.a 2 0 < t.base + t.size))
    (fun w k => decide (k = w.selWorld)) id s

/-- TLBI of every world (R342); the import table is loaded afresh (R380). -/
def execTlbiAll (f : FmtX) (s : State) : Out := tlbiOp (.tlbiAll f) f (fun _ _ => true) (fun _ _ => true) State.loadImports s

/-! ### WSET (R343) -/

/-- The record at a physical address that WSET may act on: it begins there, its wave belongs to the world and has been
lowered, by a condition, a TRAP or at a barrier. -/
def State.wsetRecord (s : State) (world a : Nat) : Option (Nat × Wave) :=
  match s.recordAt a with
  | some (id, w, 0) =>
    if w.world = world ∧ (w.status = .faulted ∨ w.status = .lowered) ∧ (s.world world).tdisp ≠ .error then some (id, w) else none
  | _ => none

/-- The lanes for which a refused remote ATOM replays (R423): the frontier still holds its place. -/
def Wave.replayOf (w : Wave) : Option Mask :=
  match w.cause with
  | some r =>
    if r.restart ≠ 0#32 ∧ r.step ≠ 6#3 ∧ (w.restored.1.map (fun x => x.1)).any (fun e => decide (e.pc = r.pc) && decide (e.ridx = r.ridx.toNat)) then
      some r.restart
    else none
  | none => none

/-- The wave is to be requeued (R201); a BREAKPOINT and a TRAP go on after the instruction. -/
def State.resumeWave (s : State) (id : Nat) : State :=
  s.updWave id (fun w => { w with replay := w.replayOf, status := .cleared })

/-- The frozen operation of a record's condition (R158). -/
def State.frozenOf (s : State) (id : Nat) (w : Wave) : Option (Nat × EngOp × FaultRec) :=
  match w.cause with
  | none => none
  | some r =>
    if r.step ≠ 6#3 then none
    else match (s.opsOf id r.cls.toNat).find? (fun e => decide (e.2.seq = r.seq.toNat)) with
      | some (k, o) => (match o.state with
          | .frozen x => some (k, o, x)
          | _ => none)
      | none => none

/-- Restarts the frozen operation of a record where its condition is restartable. -/
def State.restartOp (s : State) (id : Nat) (w : Wave) : State :=
  match s.frozenOf id w with
  | some (k, o, r) => if r.rst then s.putOp k { o.resumed with lines := [] } else s
  | none => s

/-- The heap of a cancelled unfolding beyond the frames already written is undefined (R199): free bytes, in granules that no slot of
a frame with a written header shares. -/
def State.freeHeap (s : State) (key : Nat) : State :=
  match tget s.ops key with
  | some o => (match o.unfold with
    | some u =>
      let mine := u.frames.filter (fun x => !x.dirty || decide (x.stage ≠ 0) || !x.children.isEmpty)
      ((List.range (u.heapSz / 16)).filter (fun g =>
        !mine.any (fun x => decide (x.off < 16 * g + 16 ∧ 16 * g < x.off + u.slot)))).foldl
        (fun (s : State) g => s.freeRun key o u.heap.toNat (16 * g : Nat) 16) s
    | none => s)
  | none => s

/-- Lanes of a stopped unfolding go back to their barrier on a cancel (R199). -/
def State.cancelLanes (s : State) (id : Nat) (m : Mask) : State :=
  (Mask.lanes m).foldl (fun (s : State) lane =>
    match s.runningAt id lane with
    | some (key, o, u, r) =>
      if u.stopped then
        let u' := { u with running := u.running.filter (fun x => decide (x ≠ r)) }
        let s := s.updWave id (fun w =>
          let l := (w.restored.1.map (fun x => x.1)).filterMap (fun e =>
            if e.bwt = none ∧ e.mask.has lane then
              (if e.mask &&& ~~~(Mask.single lane) = 0#32 then none else some { e with mask := e.mask &&& ~~~(Mask.single lane), ridx := 0 })
            else some e)
          let l := s.goHome w r o.ridge l
          { w with others := l, snap := sortEntries l, edits := [] })
        (s.freeHeap key).putOp key { o with state := .complete, unfold := some u' }
      else s
    | none => s) s

/-- Retires the frozen operation of a record (R158), or the unfolding that an RCHILD has stopped (R199): it counts as
complete, and its notice retires in its turn. -/
def State.cancelOp (s : State) (id : Nat) (w : Wave) : State :=
  match s.frozenOf id w with
  | some (k, o, _) => (if o.kind = .rbegin then s.freeHeap k else s).putOp k { o with state := .complete }
  | none =>
    match w.cause with
    | some r =>
      if r.code.toNat = cRecDepth ∨ r.code.toNat = cHeap ∨ r.code.toNat = cFanout then s.cancelLanes id r.mask else s
    | none => s

/-- WSET on a record: a record that the world cannot act on raises RESERVED_FIELD. -/
def wsetRecordOp (i : Instr) (f : FmtX) (act : State → Nat → Wave → State) (s : State) : Out :=
  issue i s (fun w m s =>
    if m = 0#32 then .done s
    else if s.resetting w.selWorld then .stay s
    else match s.wsetRecord w.selWorld (w.src f.a 2 0) with
      | some (id, x) => .done ((act s id x).resumeWave id)
      | none => .raise (w.mkRec cReserved stData 0) s)

/-- WSET.RESUME (R343). -/
def execWsetResume (f : FmtX) (s : State) : Out := wsetRecordOp (.wsetResume f) f (fun s _ _ => s) s
/-- WSET.RESTART (R158, R343). -/
def execWsetRestart (f : FmtX) (s : State) : Out := wsetRecordOp (.wsetRestart f) f (fun s id w => s.restartOp id w) s
/-- WSET.CANCEL (R158, R343). -/
def execWsetCancel (f : FmtX) (s : State) : Out := wsetRecordOp (.wsetCancel f) f (fun s id w => s.cancelOp id w) s

/-- Ends a wave of a killed launch: its operations are cancelled (R343). -/
def State.killWave (s : State) (id : Nat) : State :=
  let s := (s.endHold id).homeAtom id
  match tget s.waves id with
  | none => s
  | some w =>
    let dead := (s.ops.filter (fun e => decide (e.2.wave = id))).map (fun e => e.1)
    let s := dead.foldl (fun (s : State) k => { s.opClear k with ops := tdel s.ops k }) s
    if w.status = .ended then s else s.endWave id { w with cnt := [0, 0, 0, 0, 0] }

/-- The waves of killed launches end, but those of a halted core (R343, R345). -/
def State.reap (s : State) : State :=
  (s.waves.filter (fun e => !e.2.sup && (s.core e.2.core).halt.isNone && (match s.launchOf e.2 with
      | some l => l.killed
      | none => false))).foldl (fun (s : State) e => s.killWave e.1) s

/-- A launch is killed: nothing of it is placed any longer, its record leaves the queue, and its waves end (R343, R348). -/
def State.killLaunch (s : State) (h : Nat) : State :=
  match tget s.launches h with
  | none => s
  | some l =>
    let s := s.putLaunch h { l with dropped := true, killed := true }
    let s := if l.next < l.total ∧ !l.dropped then s.dropHead l.queue else s
    let s := s.reap
    if l.live = 0 then s.dropLaunch h else s

/-- The launches that a test picks are killed. -/
def State.killWhere (s : State) (p : Launch → Bool) : State :=
  (s.launches.filter (fun e => p e.2)).foldl (fun (s : State) e => s.killLaunch e.1) s

/-- WSET.KILL (R343): the launch of the world with that sequence number. -/
def execWsetKill (f : FmtX) (s : State) : Out :=
  issue (.wsetKill f) s (fun w m s =>
    if m = 0#32 then .done s
    else if s.resetting w.selWorld then .stay s
    else
      let n : Word := BitVec.ofNat 32 (w.src f.a 2 0)
      .done (s.killWhere (fun l => decide (l.world = w.selWorld) && decide (l.seq = some n))))

/-- WSET.PAUSE (R343); refused in ERROR (R393). -/
def execWsetPause (f : FmtX) (s : State) : Out :=
  issue (.wsetPause f) s (fun w m s =>
    if m = 0#32 then .done s
    else if s.resetting w.selWorld then .stay s
    else if (s.world w.selWorld).tdisp = .error then .raise (w.mkRec cReserved stData (Mask.first m)) s
    else .done (s.putWorld w.selWorld { s.world w.selWorld with paused := true }))

/-- WSET.UNPAUSE (R343); refused in ERROR (R393). -/
def execWsetUnpause (f : FmtX) (s : State) : Out :=
  issue (.wsetUnpause f) s (fun w m s =>
    if m = 0#32 then .done s
    else if s.resetting w.selWorld then .stay s
    else if (s.world w.selWorld).tdisp = .error then .raise (w.mkRec cReserved stData (Mask.first m)) s
    else .done (s.putWorld w.selWorld { s.world w.selWorld with paused := false }))

/-- First line, and number of lines, of a world's kind-0 ranges. -/
def World.lineRanges (w : World) : List (Nat × Nat) :=
  (w.valids.filter (fun r => decide (paKind r.out = 0))).map (fun r => (r.out / 64, r.size / 64))

/-- SP is set on every line of a world's kind-0 ranges (R110). -/
def State.setPending (s : State) (world : Nat) : State :=
  let rs := (s.world world).lineRanges
  { s with
    side := s.side.filter (fun e => !rs.any (fun r => decide (r.1 ≤ e.1 ∧ e.1 < r.1 + r.2)))
    scrub := rs.map (fun r => (r.1, r.2, world)) ++ s.scrub }

/-- Steps 1 and 2 of a world reset (R393's reset): queues unbound, rings emptied, launches killed. -/
def State.resetBegin (s : State) (world : Nat) : State :=
  let s := (s.queues.filter (fun e => decide (e.2.world = world) && decide (e.2.state ≠ 0#3))).foldl
    (fun (s : State) e => s.unbind e.1 (s.queue e.1)) s
  let s := { s with queues := s.queues.map (fun (e : Nat × Queue) =>
    if e.2.world = world then (e.1, { e.2 with chans := [] }) else e) }
  let s := s.putWorld world { s.world world with faultQ := [], reqRing := [], toPost := [] }
  s.killWhere (fun l => decide (l.world = world))

/-- Every workgroup of a world has ended. -/
def State.worldEmpty (s : State) (world : Nat) : Bool :=
  s.wgs.all (fun e => decide (e.2.world ≠ world)) && s.launches.all (fun e => decide (e.2.world ≠ world))

/-- A missing unit belongs to a world; `gone` picks the world's objects. -/
def unitOf (world : Nat) (gone : Nat → Bool) : MissUnit → Bool
  | .page w _ => decide (w = world)
  | .tier w _ _ => decide (w = world)
  | .objPage h _ => gone h
  | .obj h => gone h
  | .resolve w _ _ => decide (w = world)

/-- Steps 3 to 8 of a world reset: die-cache lines, SP, decoders, objects, translation, keys. Of an object's entry D is cleared too
(log 18, DESIGN CHOICE). -/
def State.resetEnd (s : State) (world : Nat) : State :=
  let s := { s with cache := s.cache.filter (fun c => decide (c.world ≠ world)) }
  let s := s.setPending world
  let lds := s.host.lds.map (fun (e : Nat × Ld) =>
    (e.1, { e.2 with hdm := e.2.hdm.filter (fun h => decide (h.world ≠ world)) }))
  let rot := s.rot.map (fun (e : Nat × RotEnt) =>
    if e.2.world = world ∧ e.2.state ≠ .absent then (e.1, { e.2 with state := .absent, gen := e.2.gen + 1#3, doomed := false }) else e)
  let gone (h : Nat) : Bool := decide ((s.rotAt h).world = world)
  let other (k : Nat) : Bool := decide (k / 2 ^ 40 / 48 ≠ world)
  let xl := { s.xl with
    requests := s.xl.requests.filter (fun r => decide (r.1 ≠ world))
    tiers := s.xl.tiers.filter (fun e => other e.1)
    demoting := s.xl.demoting.filter other
    frames := s.xl.frames.filter (fun f => other f.2)
    starved := s.xl.starved.filter other
    images := s.xl.images.filter (fun i => decide (i.world ≠ world))
    resolved := s.xl.resolved.filter (fun r => decide (r.1 ≠ world))
    pending := s.xl.pending.filter (fun p => !unitOf world gone p.1) }
  let s := { s with host := { s.host with lds := lds }, rot := rot, xl := xl }.dropWorldXlat (fun k => decide (k = world))
  let x := s.world world
  s.putWorld world { x with
    s1root := 0#64, ranges := [], keyGen := x.keyGen + 1, groupKeys := [], sendSlot := none, resetBy := none }

/-- WSET.RESET (R343, R345, R393): it returns when its last step has taken effect. -/
def execWsetReset (f : FmtX) (s : State) : Out :=
  issue (.wsetReset f) s (fun w m s =>
    if m = 0#32 then .done s
    else if s.resetting w.selWorld then .stay s
    else
      let s := s.resetBegin w.selWorld
      if s.worldEmpty w.selWorld then .done (s.resetEnd w.selWorld)
      else .stay (s.putWorld w.selWorld { s.world w.selWorld with resetBy := some s.cur }))

/-! ### HALTC (R159, R344, R368, R369) -/

/-- An operation is at rest for a DRAIN halt (R159): frozen, complete behind a frozen one, or an unfolding that waits for
routines which no longer issue. -/
def EngOp.atRest (o : EngOp) : Bool :=
  match o.state with
  | .frozen _ | .complete => true
  | .run => decide (o.kind = .rbegin) && (match o.unfold with
      | some u => u.frames.all (fun x => !x.dirty) && u.turn.isNone && decide (u.phase ≠ .result)
      | none => false)
  | _ => false

/-- The notice of a complete operation cannot retire: one before it in its class is not complete (R148). -/
def State.heldBack (s : State) (key : Nat) (o : EngOp) : Bool :=
  (s.opsOf o.wave o.cls).any (fun e => decide (e.1 < key) && decide (e.2.state ≠ .complete))

/-- The wave stands at a clause boundary: no instruction of a clause has issued that is not over. -/
def Wave.atBoundary (w : Wave) : Bool := !w.asideDue && (match w.clause with
  | some x => !x.waited
  | none => true)

/-- A DRAIN halt of a core is complete. -/
def State.drained (s : State) (core : Nat) : Bool :=
  s.waves.all (fun e => e.2.sup || decide (e.2.core ≠ core) || (match e.2.status with
      | .slot => e.2.atBoundary
      | .leaving _ => false
      | _ => true))
    && s.ops.all (fun e => decide (e.2.core ≠ core) || e.2.ghost
        || (e.2.atRest && (decide (e.2.state ≠ .complete) || s.heldBack e.1 e.2)))

/-- A wave that TRAP has lowered: no condition was delivered to it. -/
def Wave.byTrap (w : Wave) : Bool := match w.cause with
  | some r => decide (r.code = 0#8 ∧ r.step = 7#3)
  | none => false

/-- STATE of a wave in a halt report (R368): a wave on its slot issues unless it is known to wait (log 61, DESIGN CHOICE). -/
def Wave.haltState (w : Wave) : Nat :=
  match w.status with
  | .slot => if w.bundle.isSome ∧ !w.waits ∧ w.hold.isEmpty ∧ w.push.isNone ∧ (w.atBoundary → w.clause.isNone) then 0 else 1
  | .leaving _ => 1
  | .parked _ => 3
  | .faulted => if w.byTrap then 2 else 4
  | _ => 2

/-- The summit as a report shows it: the issuing entry, or the one at which the wave would resume; where every entry waits, the
first of the frontier (R181, R186, R368). -/
def Wave.shownSummit (w : Wave) : Option Entry :=
  match w.bundle with
  | some b => some b
  | none => match resumeSummit w.others with
    | some e => some e
    | none => (sortEntries w.others).head?

/-- The frozen operations of a wave, by class and then by sequence number (R368). -/
def State.frozenList (s : State) (id : Nat) : List (EngOp × FaultRec) :=
  (List.range 5).flatMap (fun c => (s.opsOf id c).filterMap (fun e => match e.2.state with
    | .frozen r => some (e.2, r)
    | _ => none))

/-- The entry of a wave and those of its frozen operations in a halt report (R368). -/
def State.haltWave (s : State) (id : Nat) (w : Wave) : List Byte :=
  let fr := s.frozenList id
  let pc := match w.shownSummit with
    | some e => e.pc.toNat * 2 ^ 32 + e.ridx % 16 * 2 ^ 64
    | none => 0
  let head := s.slotOf w % 128 + w.num % 64 * 2 ^ 7 + w.haltState * 2 ^ 13 + fr.length % 32 * 2 ^ 16 + pc
    + packFields 6 (w.cnt.take 5) * 2 ^ 96 + packFields 16 (w.seq.take 5) * 2 ^ 128
    + (if w.status.inRecord then s.recAddr w.recSlot % 2 ^ 52 else 0) * 2 ^ 208
  leBytes 64 head ++ fr.flatMap (fun x =>
    leBytes 16 (x.1.cls % 8 + x.2.code.toNat * 2 ^ 8 + x.1.seq % 65536 * 2 ^ 16 + x.2.restart.toNat * 2 ^ 32))

/-- The waves of a core that a report lists, by workgroup slot and number. -/
def State.haltWaves (s : State) (core : Nat) : List (Nat × Wave) :=
  let l := s.waves.filter (fun e => decide (e.2.core = core) && !e.2.sup && decide (e.2.status ≠ .ended))
  (List.range 97).flatMap (fun g => (List.range 48).flatMap (fun n =>
    l.filter (fun e => decide (s.slotOf e.2 = g) && decide (e.2.num = n))))

/-- A halt report (R368). -/
def State.haltReport (s : State) (core : Nat) (mode : HaltMode) : List Byte :=
  let ws := s.haltWaves core
  let head := b2n (decide (mode = .immediate)) + core % 512 * 2 ^ 1 + ws.length % 128 * 2 ^ 32 + s.clock.toNat * 2 ^ 64
  leBytes 64 head ++ ws.flatMap (fun e => s.haltWave e.1 e.2)

/-- Another supervisor wave's halt or step of the core is under way: privileged instructions act one after another (R345). -/
def State.coreHeld (s : State) (core : Nat) : Bool :=
  let c := s.core core
  (match c.report with
    | some x => decide (x.1 ≠ s.cur)
    | none => false) || (match c.stepBy with
    | some id => decide (id ≠ s.cur)
    | none => false)

/-- HALTC.DRAIN and HALTC.IMM (R344): the core halts, and the wave waits until the report is written. -/
def haltOp (i : Instr) (f : FmtX) (mode : HaltMode) (s : State) : Out :=
  issue i s (fun w m s =>
    let a := w.src f.a 2 0
    let k := w.selCore
    let c := s.core k
    if m = 0#32 then .done s
    else if a % 64 ≠ 0 then .raise (w.mkRec cReserved stData 0) s
    else if s.coreHeld k then .stay s
    else
      let s := s.putCore k { c with halt := some mode, report := some (s.cur, a), stepping := none }
      if mode = .immediate ∨ s.drained k then
        .done ((s.putCore k { s.core k with report := none }).supWrite w a (s.haltReport k mode))
      else .stay s)

/-- HALTC.DRAIN (R344). -/
def execHaltcDrain (f : FmtX) (s : State) : Out := haltOp (.haltcDrain f) f .drain s
/-- HALTC.IMM (R344). -/
def execHaltcImm (f : FmtX) (s : State) : Out := haltOp (.haltcImm f) f .immediate s

/-- HALTC.RESUME (R344): issue resumes, and kills that the halt has held back take effect (R345). -/
def execHaltcResume (f : FmtX) (s : State) : Out :=
  issue (.haltcResume f) s (fun w m s =>
    let k := w.selCore
    if m = 0#32 then .done s
    else if s.coreHeld k then .stay s
    else .done ((s.putCore k { s.core k with halt := none, stepping := none }).reap))

/-- The wave that HALTC.STEP names (R344). -/
def State.stepTarget (s : State) (core a : Nat) : Option (Nat × Wave) :=
  s.waves.find? (fun e => decide (e.2.core = core) && !e.2.sup && decide (s.slotOf e.2 = bits a 0 7) && decide (e.2.num = bits a 7 6))

/-- HALTC.STEP (R344, R345, R369): one clause of the named wave's summit, where the wave is ready. It returns once the core has
halted again, after a DRAIN halt once what the step issued is at rest. -/
def execHaltcStep (f : FmtX) (s : State) : Out :=
  issue (.haltcStep f) s (fun w m s =>
    let k := w.selCore
    let c := s.core k
    if m = 0#32 then .done s
    else if s.coreHeld k then .stay s
    else if c.halt.isNone then .raise (w.mkRec cReserved stData 0) s
    else if c.stepBy = some s.cur then
      if c.stepping.isSome || (decide (c.halt = some .drain) && !s.drained k) then .stay s
      else .done (s.putCore k { c with stepBy := none })
    else match s.stepTarget k (w.src f.a 2 0) with
      | none => .done s
      | some (id, x) =>
        let t := (s.putCore k { c with stepping := some id, stepBy := some s.cur, stepGo := false }).putWave id { x with stalled := false }
        if t.ready id { x with stalled := false } then .stay t else .done s)

end Sys2Proof.Machine
end

