-- ==== Sys2Proof/Machine/Sequence.lean ====
section
/-! DEFINITION. The events of engine operations: their units, conditions, completion and notices (R146 to R157), the end of
an unfolding (R198), multicast writes in flight (R63). -/

namespace Sys2Proof.Machine

/-! ### Progress -/

/-- The records that an operation names by its block (R73). -/
def State.opNames (s : State) (o : EngOp) (l : List Byte) : List Nat :=
  match o.kind with
  | .mma => s.mmaNamed o l
  | .mdrain => s.drainNamed o l
  | .xcopy | .xgather => s.travNamed o l
  | _ => []

/-- One unit of an operation. -/
def State.opUnit (s : State) (key : Nat) (o : EngOp) : State :=
  match o.state with
  | .fetch => (s.fetchBlock key o (fun s p => s.takeDests (s.nameAll State.opNames p))).settleCairns o.core o.wg (s.opSlot o)
  | _ =>
    match o.kind with
    | .mma | .mzero | .mdrain | .dpload => s.matrixStep key o
    | .xcopy | .xgather | .ldg2l => s.copyStep key o
    | .xlevel => s.levelStep key o
    | .rbegin => s.unfoldStep key o
    | .posted => s

/-- A copy into a ring, which has performed every row, waits for its turn to publish its slot (R324). -/
def EngOp.ringWaits (o : EngOp) : Bool :=
  (decide (o.kind = .xcopy) || decide (o.kind = .xgather)) && (travOf o.block).ring

/-- The operation stands at a point where R364 suspends it: a wait for ring space or for a ring's turn among them; an unfolding,
once the routines that can go on have finished. -/
def State.suspendable (s : State) (o : EngOp) : Bool :=
  match o.state with
  | .wait _ | .fetch | .check => decide (o.kind ≠ .posted)
  | .finished => o.ringWaits
  | .run => (match o.kind with
      | .mma | .mzero | .dpload | .posted => false
      | .rbegin => (match o.unfold with
          | some u => u.running.all (fun r => match tget s.waves r.wave with
            | some w => decide (w.status = .faulted ∨ w.status = .preempted)
            | none => true)
          | none => true)
      | _ => true)
  | _ => false

/-- The operation is to be suspended at its progress point: its world is pre-empted on its core (R364); a halted core's waits for the
resume (R369). -/
def State.stopsOp (s : State) (o : EngOp) : Bool :=
  !o.ghost && (s.core o.core).halt.isNone && s.stopNow o.core o.world && s.suspendable o

/-- A debugger's DRAIN halt of the core is in force: its spaces do not change (R159). -/
def CoreSt.still (c : CoreSt) : Bool := decide (c.halt = some .drain) && c.report.isNone && c.stepping.isNone && c.stepBy.isNone

/-- One unit, after which the answers that it has used are dropped, or the suspension of R364; none on a core that a DRAIN halt holds still, where a restarted
operation waits (R159). -/
def State.opProgress (s : State) (key : Nat) : State :=
  match tget s.ops key with
  | none => s
  | some o =>
    if o.ghost || (s.core o.core).still then s
    else if s.stopsOp o then s.putOp key { o with state := .suspended }
    else
      let s' := s.opUnit key o
      match tget s'.ops key with
      | some o' =>
        if o'.progress = o.progress ∧ o'.state = o.state then s'
        else (s'.opClear key).putOp key { o' with noPages := [] }
      | none => s'

/-- ENGINE_OP_PROGRESS (R157): operation `a` performs a unit. -/
def execEngineOpProgress (s : State) : Out := .next (s.opProgress s.arg.a)

/-- A condition leaves the rest of a copy's or gather's destination undefined (R157), once its checks were passed. -/
def State.leavesRest (s : State) (o : EngOp) (r : FaultRec) : Bool :=
  r.rst || (decide (r.code.toNat = cPoison) && (s.travCheck o (decide (o.kind = .xgather))).isNone)

/-- ENGINE_OP_FREEZE (R156): the condition that is due on operation `a` freezes it. -/
def execEngineOpFreeze (s : State) : Out :=
  .next (match tget s.ops s.arg.a with
    | some o => (match o.state with
      | .due r =>
        let s := if o.kind = .xlevel then (if r.rst then s.spoilLevel s.arg.a o else s)
          else if s.leavesRest o r then s.spoil s.arg.a o else s
        (match tget s.ops s.arg.a with
        | some o => s.putOp s.arg.a { o with state := .frozen r }
        | none => s)
      | _ => s)
    | none => s)

/-- Writes of an operation to another node still stand in its core's path to the remote interface (R153). -/
def State.unsent (s : State) (key : Nat) (o : EngOp) : Bool :=
  match tget s.waves o.wave with
  | some w => w.storeQ.any (fun q => q.engine && decide (q.remoteOp = some key))
  | none => false

/-- Completes a finished operation (R148, R177): `err` and `err2` are the errors of an MMA's two passes. -/
def State.opFinish (s : State) (key : Nat) (o : EngOp) (err err2 : Nat) : State :=
  match o.kind with
  | .mma => s.mmaDone key o err err2
  | .mdrain => s.drainDone key o
  | .xcopy | .xgather => s.copyDone key o
  | _ => s.putOp key { o with state := .complete }

/-- ENGINE_OP_COMPLETE (R148, R153): operation `a`, which has performed every unit, completes; `b` and `c` are the errors that the
checksums of an MMA's two passes meet, 0 where the arithmetic made none (R177). -/
def execEngineOpComplete (s : State) : Out :=
  .next (match tget s.ops s.arg.a with
    | some o => if o.state = .finished ∧ !s.unsent s.arg.a o then s.opFinish s.arg.a o s.arg.b s.arg.c else s
    | none => s)

/-! ### Notices -/

/-- A refusal of a posted write, as a wait reports it (R382). -/
def postedRec (seq lane code addr : Nat) : FaultRec :=
  { code := BitVec.ofNat 8 code, step := 6#3, rst := false, cls := 3#3, seq := BitVec.ofNat 16 seq
    lane := BitVec.ofNat 5 lane, level := 7#3, info := 0#16, addr := BitVec.ofNat 64 addr, restart := 0#32
    mask := 0#32, pc := 0#32, ridx := 0#4 }

/-- Writes of an operation to other nodes are counted on another one from now on. -/
def State.repoint (s : State) (key new : Nat) : State :=
  { s with
    fab := { s.fab with requests := s.fab.requests.map (fun e =>
      if e.2.op = some key ∧ e.2.posted then (e.1, { e.2 with op := some new }) else e) }
    waves := s.waves.map (fun e => (e.1, { e.2 with storeQ := e.2.storeQ.map (fun q =>
      if q.remoteOp = some key then { q with remoteOp := some new } else q) })) }

/-- Unacknowledged writes of a retiring operation pass to the remote counter (R149). -/
def State.passPosted (s : State) (id : Nat) (key : Nat) (o : EngOp) : State :=
  if o.unacked = 0 ∧ o.denied = [] then s
  else match tget s.waves id with
    | none => s
    | some w =>
      let p : EngOp := { s.newOp id w .posted o.lane 3 with
        unacked := o.unacked
        state := match o.denied with
          | code :: va :: _ => .frozen (postedRec (w.seqOf 3) o.lane code va)
          | _ => .run }
      (s.repoint key s.nextId).issueOp id p

/-- Retires the notice of a wave's first operation of a class, where it has completed (R148, R149, R158). -/
def State.retireNotice (s : State) (id cls : Nat) : State :=
  match s.opsOf id cls, tget s.waves id with
  | (key, o) :: _, some w =>
    let posts := decide (cls ≠ 3) && (decide (0 < o.unacked) || decide (o.denied ≠ []))
    if o.state ≠ .complete ∨ (posts && !w.room 3 1) then s
    else
      let s := if posts then s.passPosted id key o else s
      let s := s.updWave id (fun w => { w.uncount cls with fpflags := w.fpflags ||| o.flags })
      let s := (s.opClear key).touch o.core
      if o.kind = .rbegin then
        if (match o.unfold with
            | some u => u.running.isEmpty
            | none => true) then { s with ops := tdel s.ops key }.clearHold o
        else s.putOp key { o with cls := 7 }
      else ({ s with ops := tdel s.ops key }).settleCairns o.core o.wg (s.opSlot o)
  | _, _ => s

/-- COMPLETION_NOTICE_RETIRE (R148): wave `a`, class `b`. -/
def execCompletionNoticeRetire (s : State) : Out := .next (s.retireNotice s.arg.a s.arg.b)

/-- The root's result is copied to the result slot, once the routines' stores have reached the die cache (R198). -/
def State.copyResult (s : State) (key : Nat) (o : EngOp) (u : Unfold) : State :=
  if !s.queuesEmpty o.core then s
  else match s.opRead key o (u.resAddr 0) 0 u.resSz with
    | .ok bs s =>
      (match s.opWrite key o u.result.toNat 0 bs with
      | .ok o s => s.putOp key { o with state := if s.unsent key o then .finished else .complete }
      | r => s.opStuck key o r)
    | r => s.opStuck key o r

/-- UNFOLDING_END (R198): the result of unfolding `a` is written, and its notice retires in its turn. -/
def execUnfoldingEnd (s : State) : Out :=
  .next (match tget s.ops s.arg.a with
    | some o =>
      (match o.unfold with
      | some u =>
        if o.state = .run ∧ u.phase = .result ∧ u.running = [] ∧ !o.ghost then
          (s.copyResult s.arg.a o u).retireNotice o.wave o.cls
        else s
      | none => s)
    | none => s)

/-! ### Multicast writes in flight (R63) -/

/-- Counts a multicast write that a core drops. -/
def State.countDrop (s : State) (core : Nat) : State :=
  let c := s.core core
  s.putCore core { c with lmdrop := if c.lmdrop = 0xFFFFFFFF#32 then c.lmdrop else c.lmdrop + 1#32 }

/-- A multicast write is over; the row counts when it was the last one (R157). -/
def State.mcOver (s : State) (id : Nat) (m : McWrite) : State :=
  let s := { s with fab := { s.fab with multicasts := tdel s.fab.multicasts id } }
  match tget s.ops m.op with
  | some o =>
    if s.mcOut m.op then s
    else if o.kind = .xcopy ∧ (o.state = .run ∨ o.state = .suspended) then
      let n := o.next ((travOf o.block).count false)
      (s.putOp m.op (if o.state = .run then n else { o with progress := n.progress })).opClear m.op
    else s
  | none => s

/-- MULTICAST_WRITE_ARRIVE (R63): write `a` reaches its core, and takes effect where the tags match; later than 65,536 clk after
its issue it is dropped. At a core that a DRAIN halt holds still, it waits (R159; log 61, DESIGN CHOICE). -/
def execMulticastWriteArrive (s : State) : Out :=
  .next (match tget s.fab.multicasts s.arg.a with
    | none => s
    | some m =>
      let c := s.core m.core
      let hit := decide (s.clock.toNat ≤ m.sent + 65536) && (match tget c.gran (m.addr / 128) with
        | some g => decide (g.tag = m.tag)
        | none => false)
      if !hit then (s.countDrop m.core).mcOver s.arg.a m
      else if c.still then s
      else (s.putCore m.core (c.lWrite m.addr m.bytes)).mcOver s.arg.a m)

/-- MULTICAST_TIMEOUT (R63): write `a` is dropped 65,536 clk after its issue. -/
def execMulticastTimeout (s : State) : Out :=
  .next (match tget s.fab.multicasts s.arg.a with
    | none => s
    | some m =>
      if s.clock.toNat < m.sent + 65536 then s else (s.countDrop m.core).mcOver s.arg.a m)

end Sys2Proof.Machine
end

