-- ==== Sys2Proof/Machine/MemEvents.lean ====
section
/-! DEFINITION. The events of memory: values of loads (R55, R125), the store queue's draining (R125, R127, R277), the
confirmation of lines (R125, R373), snoops of a host (R129), DRAM slots (R104 to R107), walks and page requests (R82, R83),
missing units (R95 to R97), migration and demotion (R90 to R94), names and objects (R34 to R38). -/

namespace Sys2Proof.Machine

/-! ### Values of loads -/

/-- A load waits for an atomic that is not yet applied, for an invalidation of its own wave (R125, R283), and for older loads
of the core from its sector, because the loads of one core act as acquires on each other (R123). One that holds its bundle
waits for its end (R423). -/
def State.loadWaits (s : State) (w : Wave) (op : LoadOp) : Bool :=
  op.held || op.lanes.any (fun x => match x.2.due with
    | some pa =>
      (List.range op.width).any (fun i => match s.newest w.core op.stamp (pa + i) with
        | some (q, _) => (match q.kind with
            | .atomic _ _ _ => true
            | _ => false)
        | none => false)
      || w.cinvDue op.stamp (pa / 128) || s.sectorLoads w.core op.stamp (pa / 64)
    | none => false)

/-- Bytes of this device's memory as a load takes them: the newest store-queue entry of the core, then the die cache (R125). -/
def State.takeBytes (s : State) (w : Wave) (op : LoadOp) (pa n : Nat) : State × List Byte :=
  let r := s.cacheRead (dieOf w.core) w.world pa n (if op.inv then some w.launch else none) op.who
  (r.1, r.2.zipIdx.map (fun b => (s.queueByte w.core op.stamp (pa + b.2)).getD b.1))

/-- The bytes of one lane of a load. -/
def State.laneBytes (s : State) (w : Wave) (op : LoadOp) (src : LoadSrc) : State × List Byte :=
  match src with
  | .known bs => (s, bs)
  | .away _ => (s, [])
  | .cut => (s.draw op.width, (List.range op.width).map (fun i => Config.freeByte (s.free + i)))
  | .chip b a => (s, (s.core w.core).chipRead b a op.width)
  | .phys pa => s.takeBytes w op pa op.width
  | .half pa low bs =>
    let r := s.takeBytes w op (if low then pa + 8 else pa) 8
    (r.1, if low then bs ++ r.2 else r.2 ++ bs)

/-- One lane of a load takes what lies in some 8-byte units: its whole value, or one half of 16 bytes (R112). -/
def State.takeUnits (s : State) (w : Wave) (op : LoadOp) (units : List Nat) (src : LoadSrc) : State × LoadSrc :=
  let whole : State × LoadSrc :=
    let r := s.laneBytes w op src
    (r.1, .known r.2)
  match src with
  | .phys pa =>
    let lo := units.contains (pa / 8)
    let hi := units.contains (pa / 8 + 1)
    if op.width < 16 then (if lo then whole else (s, src))
    else if lo && hi then whole
    else if lo || hi then
      let r := s.takeBytes w op (if lo then pa else pa + 8) 8
      (r.1, .half pa lo r.2)
    else (s, src)
  | .half pa low _ => if units.contains (if low then pa / 8 + 1 else pa / 8) then whole else (s, src)
  | _ => (s, src)

/-- The oldest load of a wave takes what lies in some 8-byte units, and the rest later (R112, R114). -/
def State.loadPart (s : State) (id : Nat) (w : Wave) (op : LoadOp) (units : List Nat) : State :=
  let r := op.lanes.foldl (fun (acc : State × List (Nat × LoadSrc)) x =>
    let b := acc.1.takeUnits w op units x.2
    (b.1, acc.2 ++ [(x.1, b.2)])) (s, [])
  (r.1.updWave id (fun w => { w with loads := { op with lanes := r.2 } :: w.loads.drop 1 })).seeAt id op.stamp

/-- What follows once a wave's fills may have landed: a wave that leaves its slot is written to its record (R57). -/
def State.landed (s : State) (id : Nat) : State :=
  match tget s.waves id with
  | none => s
  | some w =>
    match w.status with
    | .leaving .barrier => if w.fillsDue then s else s.toCarry id w
    | .leaving why => if w.fillsDue then s else s.finishLeave id w why
    | _ => s

/-- The oldest load of a wave takes its value and fills its destination (R55, R125); what the cut of a transfer has taken away
is poisoned (R393). -/
def State.loadReturn (s : State) (id : Nat) (w : Wave) (op : LoadOp) : State :=
  let r := op.lanes.foldl (fun (acc : State × Regs) x =>
    let b := acc.1.laneBytes w op x.2
    let n := if op.width < 4 then 1 else op.width / 4
    let g := (acc.2.writeLane op.dst n x.1 (extend op.signed b.2)).setFull op.dst n x.1
    (b.1, if x.2 = .cut then g.setBad op.dst n x.1 else g)) (s, w.regs)
  let s := r.1.updWave id (fun w => { w with loads := w.loads.drop 1, regs := r.2 })
  ((s.seeAt id op.stamp).openGate id op.stamp).landed id

/-- LOAD_VALUE_RETURN (R55, R112): the oldest load of wave `a`; where `nums` lists 8-byte units, it takes what lies in these alone. -/
def execLoadValueReturn (s : State) : Out :=
  .next (match tget s.waves s.arg.a with
    | some w => (match w.loads with
      | op :: _ => if s.loadWaits w op then s
        else if s.arg.nums = [] then s.loadReturn s.arg.a w op
        else s.loadPart s.arg.a w op s.arg.nums
      | [] => s)
    | none => s)

/-! ### Draining of a store queue -/

/-- The 64-byte sectors that a lane addresses. -/
def QLane.sectors (l : QLane) : List Nat := linesOf l.pa (max 1 l.bytes.length)

/-- An older entry of the core goes first to a sector; a CINV or CCLEAN keeps its place among the stores of its wave (R125,
R283). Stores to different sectors reach the die cache in any order, those of one wave too (log 19, DEDUCED). -/
def State.blockedBy (s : State) (id core : Nat) (q : QEntry) (secs : List Nat) : Bool :=
  s.waves.any (fun e => decide (e.2.core = core) && e.2.storeQ.any (fun p => decide (p.stamp < q.stamp)
    && ((decide (e.1 = id) && (p.isClean || q.isClean)) || p.lanes.any (fun l => l.sectors.any secs.contains))))

/-- A load or a returning atomic of the wave that was issued before a stamp has no value yet. -/
def Wave.valuesDue (w : Wave) (stamp : Nat) : Bool :=
  w.loads.any (fun l => decide (l.stamp < stamp)) || w.storeQ.any (fun p => decide (p.stamp < stamp) && (match p.kind with
    | .atomic _ _ (some _) => true
    | _ => false))

/-- A value is still due that comes before an entry: that of a load or atomic of its own wave, of one of the core that may happen
before it, since its wave has seen what came after, or of a load of the core from a sector of the entry (R122, R123, R125). -/
def State.loadsBefore (s : State) (id : Nat) (w : Wave) (q : QEntry) (secs : List Nat) : Bool :=
  s.waves.any (fun e => decide (e.2.core = w.core)
      && e.2.valuesDue (if e.1 = id then q.stamp else min q.stamp q.after))
    || secs.any (s.sectorLoads w.core q.stamp)

/-- A refusal of a posted write of an operation: a class-3 count freezes, another operation keeps it until its notice
retires (R149, R382). -/
def State.refusePosted (s : State) (op : Option Nat) (lane code va : Nat) : State :=
  match op with
  | none => s
  | some k =>
    match tget s.ops k with
    | none => s
    | some o =>
      if o.denied ≠ [] then s
      else
        let st : OpState := if o.cls = 3 then .frozen (postedRec o.seq lane code va) else o.state
        s.putOp k { o with denied := [code, va], state := st }

/-- One write of an operation to another node is over; a class-3 count completes with its last (R127, R149). -/
def State.ackPosted (s : State) (op : Option Nat) : State :=
  match op with
  | none => s
  | some k =>
    match tget s.ops k with
    | none => s
    | some o =>
      let n := o.unacked - 1
      s.putOp k { o with
        unacked := n, state := if o.cls = 3 ∧ n = 0 ∧ o.denied = [] then .complete else o.state }

/-- Sends a posted write; with no route it is refused at once with POISON (R381, R382). -/
def State.sendPosted (s : State) (id : Nat) (w : Wave) (q : QEntry) (l : QLane) : State :=
  let at' : Option AtomOp := match q.kind with
    | .atomic op _ _ => some op
    | _ => none
  let n := match q.kind with
    | .atomic _ wd _ => wd
    | _ => l.bytes.length
  if !s.routed (paNode l.pa) then (s.refusePosted q.remoteOp l.lane cPoison l.va).ackPosted q.remoteOp
  else
    let s := s.send { wave := id, world := w.world, lane := l.lane, va := l.va, die := dieOf w.core, addr := l.pa
                      width := n, install := false, answer := none, op := q.remoteOp, posted := true
                      sent := s.clock.toNat
                      bytes := if at'.isSome then leBytes 8 l.b.toNat ++ leBytes 8 l.cmp.toNat else l.bytes
                      atomic := at' }
    let line := l.pa / 128
    let s := { s with fab := { s.fab with requests := s.fab.requests.map (fun (e : Nat × Request) =>
      if e.2.die = dieOf w.core ∧ e.2.addr / 128 = line then (e.1, { e.2 with install := false }) else e) } }
    if at'.isSome then s.dropRemoteIf (dieOf w.core) w.world (fun x => decide (x = line))
    else s.touchRemote (dieOf w.core) w.world (cellsOf l.pa l.bytes)

/-- Lines that an engine operation has now written in full are poisoned no longer (R275). -/
def State.wholeLines (s : State) (world : Nat) (ls : List Nat) : State :=
  ls.foldl (fun (s : State) line =>
    if paKind (line * 64) = 0 then
      s.putSide line { owner := some (world, (s.world world).keyGen), sp := false, pz := false, errs := 0, macBad := false }
    else s) s

/-- The cells of a store's lanes: the highest lane's value stands (R113). -/
def storeCellsOf (ls : List QLane) : List (Nat × Byte) := ls.flatMap (fun l => cellsOf l.pa l.bytes)

/-- A number in memory as an atomic reads it; a supervisor wave's may lie in a window of the device-private region. -/
def State.atomOld (s : State) (w : Wave) (pa n : Nat) : Nat :=
  if w.sup then (match s.viewBytes pa n with
    | some bs => leNat bs
    | none => s.peekNat pa n)
  else s.peekNat pa n

/-- Applies one lane of an atomic at its point of coherence, and returns the old value (R121, R277). A failed CAS is a load of
the die, which has read the newest value (R120, R121). -/
def State.applyAtom (s : State) (w : Wave) (op : AtomOp) (n : Nat) (who : Stamp) (l : QLane) : State × Nat :=
  let old := s.atomOld w l.pa n
  match atomNew op (8 * n) old (l.b.toNat % 2 ^ (8 * n)) (l.cmp.toNat % 2 ^ (8 * n)) with
  | some v =>
    let bs := leBytes n v
    (if w.sup then s.supCells w (cellsOf l.pa bs) else s.storeCells (some (dieOf w.core)) w.world who (cellsOf l.pa bs), old)
  | none => ((s.useLine who (l.pa / 128)).dropStale (dieOf w.core) (l.pa / 128), old)

/-- The die cache accepts lanes of an entry (R125, R282). -/
def State.accept (s : State) (id : Nat) (w : Wave) (q : QEntry) (ls : List QLane) : State :=
  match q.kind with
  | .store =>
    let cells := storeCellsOf ls
    if w.sup then s.supCells w cells
    else (s.storeCells (some (dieOf w.core)) w.world q.who cells).wholeLines w.world q.whole
  | .atomic op n ret =>
    let r := ls.foldl (fun (acc : State × List (Nat × Nat)) l =>
      let x := acc.1.applyAtom w op n q.who l
      (x.1, acc.2 ++ [(l.lane, x.2)])) (s, [])
    match ret with
    | none => r.1
    | some d => r.1.updWave id (fun w => { w with regs := r.2.foldl (fun (g : Regs) x =>
        (g.writeLane d (n / 4) x.1 x.2).setFull d (n / 4) x.1) w.regs })
  | .clean lines invalidate =>
    let mine (c : DieLine) : Bool := decide (c.die = dieOf w.core ∧ c.world = w.world) && lines.contains c.line
    let t := (s.cache.filter mine).foldl (fun (s : State) c => s.writeBack c q.who) s
    { t with cache := s.cache.filterMap (fun c =>
        if mine c then (if invalidate then none else some { c with dirty := 0#2 }) else some c) }

/-- The gate of a returning atomic opens when no lane of it is left (R126). -/
def State.afterDrain (s : State) (id : Nat) (q : QEntry) : State :=
  match q.kind with
  | .atomic _ _ (some _) => ((s.seeAt id q.stamp).openGate id q.stamp).landed id
  | _ => s

/-- Lanes of an entry reach the die cache, or the remote interface for another node; an entry with none left is removed. -/
def State.drain (s : State) (id : Nat) (w : Wave) (q : QEntry) (pick : QLane → Bool) : State :=
  let ls := q.lanes.filter pick
  let rest := q.lanes.filter (fun l => !pick l)
  let full := q.whole.filter (fun line => !rest.any (fun l => l.pa / 64 == line))
  let who := if q.covered then { q.who with op := none } else q.who
  let s := s.accept id w { q with whole := full, who := who } (ls.filter (fun l => !l.posted))
  let s := (ls.filter (fun l => l.posted)).foldl (fun (s : State) l => s.sendPosted id w q l) s
  let q' := { q with lanes := rest }
  let s := s.updWave id (fun w => { w with storeQ := w.storeQ.filterMap (fun p =>
    if p.stamp = q.stamp then (if rest.isEmpty then none else some q') else some p) })
  if rest.isEmpty then s.afterDrain id q else s

/-- The lanes that a drain takes: with `flag` those bound for slice `c`, with `nums` those to the units it lists. A lane that has
gone to another node already waits for its answer (R423). -/
def drainPick (a : Arg) (unit : Nat) (l : QLane) : Bool :=
  !l.away && (!a.flag || decide ((Config.sliceOf (l.pa / 128)).val = a.c)) && (a.nums.isEmpty || a.nums.contains (l.pa / unit))

/-- A lane of a store cut at the units that no other party sees apart (R112). -/
def QLane.units (l : QLane) (unit : Nat) : List QLane :=
  if l.posted then [l]
  else (pieces l.pa l.bytes.length unit).map (fun p => { l with pa := l.pa + p.1, bytes := (l.bytes.drop p.1).take p.2, va := l.va + p.1 })

/-- A store as parts that may reach the die cache apart (R112, R114); the lines that it writes whole are noted (R275). -/
def QEntry.torn (q : QEntry) : QEntry :=
  let cells := storeCellsOf (q.lanes.filter (fun l => !l.posted))
  { q with
    lanes := q.lanes.flatMap (fun l => l.units q.unit)
    whole := q.whole ++ ((dedupN (cells.map (fun c => c.1 / 64))).filter (fun line => decide (coverOf cells line = 2 ^ 64 - 1))) }

/-- STORE_QUEUE_DRAIN (R125): entry `b` of the queue of wave `a`; with `flag`, only its lanes bound for slice `c`, and with
`nums`, only those to the sectors that it lists, or, where `val` is not 0, the parts of a store in the units that it lists. -/
def execStoreQueueDrain (s : State) : Out :=
  .next (match tget s.waves s.arg.a with
    | none => s
    | some w =>
      match w.storeQ[s.arg.b]? with
      | none => s
      | some q =>
        let tear := s.arg.val ≠ 0#64 ∧ q.kind = .store
        let q := if tear then q.torn else q
        let pick := drainPick s.arg (if tear then q.unit else 64)
        let secs := (q.lanes.filter pick).flatMap QLane.sectors
        if s.loadsBefore s.arg.a w q secs || s.blockedBy s.arg.a w.core q secs then s else s.drain s.arg.a w q pick)

/-! ### Lines -/

/-- Completions of host writes and answers to other nodes go out once all their lines are confirmed (R373, R381). -/
def State.sendDone (s : State) : State :=
  let open' (ls : List Nat) : Bool := s.unconf.any (fun u => ls.contains u.line)
  if s.host.writes.isEmpty && s.fab.owed.isEmpty then s
  else
    { s with
      host := { s.host with writes := s.host.writes.filter (fun e => open' e.2)
                            completed := s.host.completed ++ (s.host.writes.filter (fun e => !open' e.2)).map (fun e => e.1) }
      fab := { s.fab with owed := s.fab.owed.filter (fun e => open' e.1)
                          answered := match (s.fab.owed.filter (fun e => !open' e.1)).getLast? with
                            | some e => some e.2
                            | none => s.fab.answered } }

/-- A party acknowledges the invalidation of a line: its old copy goes, and the line is confirmed when none is left
(R125, R373). -/
def State.confirm (s : State) (line die : Nat) : State :=
  match s.unconf.find? (fun u => decide (u.line = line)) with
  | none => s
  | some u =>
    if !u.waiting.contains die then s
    else
      let waiting := u.waiting.filter (fun d => decide (d ≠ die))
      let rest := s.unconf.filter (fun x => decide (x.line ≠ line))
      { s with
        cache := s.cache.filter (fun c => !(decide (c.die = die ∧ c.line = line) && !c.remote && c.inv.isNone && c.data.isSome))
        unconf := if waiting.isEmpty then rest else { u with waiting := waiting } :: rest }

/-- LINE_CONFIRM (R125): line `a`, the die (or 100 + LD for a host) `b`. -/
def execLineConfirm (s : State) : Out := .next (s.confirm s.arg.a s.arg.b).sendDone

/-- CXL_CACHE_SNOOP (R129): the host, as home of line `a` (a number as State.hostPa gives it), takes back what the die caches hold; with `flag` their copies
are invalidated, and `bytes`, where it is a whole line, is what the host then writes there. -/
def execCxlCacheSnoop (s : State) : Out :=
  let line := s.arg.a
  let home (c : DieLine) : Bool := decide (c.line = line) && !c.remote && c.inv.isNone
  .next (
    if paKind (line * 128) ≠ 1 ∧ paKind (line * 128) ≠ 2 then s
    else if s.arg.flag then
      { s with
        cache := s.cache.filter (fun c => !home c)
        unconf := s.unconf.filter (fun u => decide (u.line ≠ line))
        mem := if s.arg.bytes.length = 128 then cwrite s.mem (line * 128) s.arg.bytes else s.mem
        side := if s.arg.bytes.length = 128 then tdel (tdel s.side (2 * line)) (2 * line + 1) else s.side }
    else { s with cache := s.cache.map (fun c => if home c then { c with dirty := 0#2 } else c) })

/-! ### DRAM slots (R104 to R107) -/

/-- Deadline order: an earlier stamp first, none last (R102, R104). -/
def earlier (a b : Option Word) : Bool :=
  match a, b with
  | some x, some y => decide (sdiff32 x.toNat y.toNat < 0)
  | some _, none => true
  | _, _ => false

/-- The best request of a list: the highest class, or only a class; then deadline and arrival (R104). -/
def bestReq (byClass : Bool) : List (Nat × DramReq) → Option (Nat × DramReq)
  | [] => none
  | x :: t =>
    match bestReq byClass t with
    | none => some x
    | some y =>
      if byClass && decide (y.2.who.cls < x.2.who.cls) then some y
      else if byClass && decide (x.2.who.cls < y.2.who.cls) then some x
      else if earlier y.2.who.deadline x.2.who.deadline then some y else some x

/-- Counts a missed deadline against the requester (R106): in the core, or in its I/O die for the service cores (8) and the fault
unit (9). -/
def State.countMiss (s : State) (r : DramReq) : State :=
  match r.who.deadline with
  | none => s
  | some d =>
    if sdiff32 s.clock.toNat d.toNat ≤ 0 then s
    else
      let up (x : Word) : Word := if x = 0xFFFFFFFF#32 then x else x + 1#32
      if r.who.core < Config.cores ∧ r.who.index < 8 then
        let c := s.core r.who.core
        s.putCore r.who.core { c with dlmiss := tset c.dlmiss r.who.index (up (tgetD c.dlmiss r.who.index 0#32)) }
      else
        let k := 2 * ((r.who.core - Config.cores) / 16) + (r.who.index - 8)
        { s with plat := { s.plat with ioMiss := tset s.plat.ioMiss k (up (tgetD s.plat.ioMiss k 0#32)) } }

/-- One column slot of a pseudo-channel (R104, R105, R107). A slot for which nothing is ready counts as a slot too, and so does the
guard sequence, which runs on without a break (log 24, DESIGN CHOICE). -/
def State.dramSlot (s : State) (k : Nat) (ch : Chan) : State :=
  let put (s : State) (c : Chan) : State := { s with plat := { s.plat with chans := tset s.plat.chans k c } }
  let rebuild := (s.stackAt (k / 96)).rebuild.isSome
  let n := ch.slot % 16
  if rebuild && decide (n = 0) then put s { ch with slot := ch.slot + 1 }
  else
    let ready := ch.pending.zipIdx.filter (fun x => !(ch.pending.take x.2).any (fun y => decide (y.sector = x.1.sector)))
    let cand := ready.map (fun x => (x.2, x.1))
    let isGuard := decide (n = if rebuild then 1 else 0)
    let cls := 3 - ch.guard % 3
    let pick := match (if isGuard then bestReq false (cand.filter (fun x => decide (x.2.who.cls = cls))) else none) with
      | some x => some x
      | none => bestReq true cand
    let ch' := { ch with slot := ch.slot + 1, guard := if isGuard then ch.guard + 1 else ch.guard }
    match pick with
    | none => put s ch'
    | some x => (put s { ch' with pending := ch.pending.eraseIdx x.1 }).countMiss x.2

/-- DRAM_REQUEST_SERVE (R104): pseudo-channel `a`, whose stack is in the address map and not in self-refresh (R398). -/
def execDramRequestServe (s : State) : Out :=
  let st := s.stackAt (s.arg.a / 96)
  .next (if 768 ≤ s.arg.a ∨ st.out ∨ st.selfRefresh then s
    else s.dramSlot s.arg.a (tgetD s.plat.chans s.arg.a { slot := 0, guard := 0, pending := [] }))

/-! ### Walks and page requests -/

/-- TRANSLATION_WALK (R82): a walk for world `a` and virtual address `b` in cluster `c`. -/
def execTranslationWalk (s : State) : Out :=
  .next (if 2 ^ 57 ≤ s.arg.b then s
    else match s.walkFlat { cluster := s.arg.c, world := s.arg.a } s.arg.b s.arg.acc [] with
      | .ok _ s' | .cond _ s' | .wait s' => s'
      | .miss u s' => s'.joinPending s'.ioStamp u)

/-- The page request of a world and page is over (R83). -/
def State.endRequest (s : State) (world page : Nat) : State :=
  { s with xl := { s.xl with requests := s.xl.requests.filter (fun r => decide (r ≠ (world, page))) } }

/-- PAGE_INSTALL (R83): the supervisor has written the entries of page `b` of world `a`, and replies; the fault unit's traffic carries
the stamp of the first access that has parked (R102). -/
def execPageInstall (s : State) : Out :=
  .next (if s.xl.requests.contains (s.arg.a, s.arg.b) then
    (s.request s.privBase { s.unitStamp (.page s.arg.a s.arg.b) with core := Config.cores, index := 9 } false).endRequest s.arg.a s.arg.b
  else s)

/-- PAGE_DENY (R83): every access that waits for page `b` of world `a` meets PERMISSION in its replay. -/
def execPageDeny (s : State) : Out :=
  let u : MissUnit := .page s.arg.a s.arg.b
  .next (if !s.xl.requests.contains (s.arg.a, s.arg.b) then s
    else
      let s' := s.endRequest s.arg.a s.arg.b
      { s' with
        waves := s.waves.map (fun e => match e.2.status with
          | .parked us => if us.contains u then (e.1, { e.2 with denied := s.arg.b :: e.2.denied }) else e
          | .leaving (.park us) => if us.contains u then (e.1, { e.2 with denied := s.arg.b :: e.2.denied }) else e
          | _ => e)
        ops := s.ops.map (fun e => if e.2.state = .wait u then (e.1, { e.2 with noPages := s.arg.b :: e.2.noPages }) else e)
        queues := s.queues.map (fun e => if e.2.world = s.arg.a ∧ e.2.missed = some s.arg.b then
          (e.1, { e.2 with denied := [s.arg.b] }) else e) })

/-! ### Missing units -/

/-- A missing unit is there (R95). A name that waits for a free entry waits until the table can give one (R36). -/
def State.available (s : State) (u : MissUnit) : Bool :=
  match u with
  | .page w p => !s.xl.requests.contains (w, p)
  | .tier w n pa =>
    match s.tierAt w n pa with
    | some (r, k) => let t := tgetD s.xl.tiers k Tier.init; !t.m && (t.res || r.pol)
    | none => true
  | .objPage h p => decide ((s.rotAt h).state ≠ .resident) || (bit (s.mapEntry h p) 0 && !bit (s.mapEntry h p) 2)
  | .obj h => decide ((s.rotAt h).state ≠ .arriving) && decide ((s.rotAt h).state ≠ .departed)
  | .resolve w r n => (s.rotFind r n).isSome || ((s.nameAnswer w r n).isSome && s.takeHandle.isSome)

/-- Waves and operations that wait for a unit count one less; at zero a wave is to be requeued (R95 to R97, R358). -/
def State.unitReady (s : State) (u : MissUnit) : State :=
  { s with
    xl := { s.xl with pending := s.xl.pending.filter (fun p => decide (p.1 ≠ u)) }
    waves := s.waves.map (fun e => match e.2.status with
      | .parked us =>
        if us.contains u then
          let l := us.filter (fun x => decide (x ≠ u))
          (e.1, { e.2 with status := if l = [] then .cleared else .parked l })
        else e
      | .leaving (.park us) => (e.1, { e.2 with status := .leaving (.park (us.filter (fun x => decide (x ≠ u)))) })
      | _ => e)
    ops := s.ops.map (fun e => if e.2.state = .wait u then (e.1, e.2.resumed) else e) }

/-- MISSING_UNIT_AVAILABLE (R95): the unit `unit`. -/
def execMissingUnitAvailable (s : State) : Out := .next (if s.available s.arg.unit then s.unitReady s.arg.unit else s)

/-! ### Migration and demotion -/

/-- PAGE_MIGRATE (R90, R92, R94): the tier page at physical address `b` in range `c` of world `a`; with no free frame the wait is
counted once, and a page of the world is demoted. -/
def execPageMigrate (s : State) : Out :=
  .next (match s.tierAt s.arg.a s.arg.c s.arg.b with
    | some (_, k) => s.beginMigrate s.arg.a k
    | none => s)

/-- PAGE_DEMOTE (R92): the resident tier page whose home is at physical address `b` in range `c` of world `a`. -/
def execPageDemote (s : State) : Out :=
  .next (match s.tierAt s.arg.a s.arg.c s.arg.b with
    | some (_, k) => s.beginDemote k
    | none => s)

/-- MIGRATION_COMPLETE (R90, R92, R93): the unit `unit`; for an object page, `a` is its frame's IA in 64 KiB units, and
`nums` and `bytes` give offsets and bytes of the page. -/
def execMigrationComplete (s : State) : Out :=
  .next (match s.arg.unit with
    | .tier w n pa => (match s.tierAt w n pa with
      | some (r, k) => s.tierDone w r k
      | none => s)
    | .objPage h p => s.objPageDone h p s.arg.a (s.arg.nums.zip s.arg.bytes)
    | _ => s)

/-! ### Names and objects -/

/-- An answer of the directory agent that R31 allows: an object has 1 to 2^40 bytes. -/
def answerOk : NameRes → Bool
  | .object extent _ => decide (1 ≤ extent ∧ extent ≤ 2 ^ 40)
  | _ => true

/-- NAME_RESOLVED (R38, R40): the directory agent's answer `res` for world `a`, realm `b` and serial `val`. -/
def execNameResolved (s : State) : Out :=
  let r := BitVec.ofNat 16 s.arg.b
  let u : MissUnit := .resolve s.arg.a r s.arg.val
  .next (if !s.xl.pending.any (fun p => decide (p.1 = u)) || !answerOk s.arg.res || (s.nameAnswer s.arg.a r s.arg.val).isSome then s
    else { s with xl := { s.xl with
      pending := s.xl.pending.filter (fun p => decide (p.1 ≠ u))
      resolved := (s.arg.a, r, s.arg.val, s.arg.res) :: s.xl.resolved } })

/-- OBJECT_DEPART (R34, R35): object `a`, once every access that has passed translation through its pages is complete. -/
def execObjectDepart (s : State) : Out :=
  let h := s.arg.a
  let e := s.rotAt h
  .next (if e.state ≠ .resident || s.objBusy h e then s
    else
      let who := s.unitStamp (.obj h)
      let s := (e.pages.filterMap (s.objFrame h)).foldl (fun (s : State) f => s.pageTraffic f who false) s
      let s := (((s.departImage h e).dropObjLines h e).unmapObject h e).dropTlb (fun t => decide (t.obj = some h))
      (s.putRot h { s.rotAt h with state := .departed, epoch := s.currentSeq }).settleDoomed)

/-- OBJECT_ARRIVE (R34, R88): the page map of object `a`, at physical address `b`, is installed; of its entries only W holds what
the supervisor wrote. -/
def execObjectArrive (s : State) : Out :=
  let h := s.arg.a
  let e := s.rotAt h
  let e' := { e with state := .resident, map := s.arg.b % 2 ^ 52 / 4096 * 4096 }
  .next (if e.state ≠ .arriving then s
    else (e.pages.foldl (fun (s : State) p => s.setMap h p (s.mapEntry h p &&& 2))
      ((s.dropTlb (fun t => decide (t.obj = some h))).putRot h e')).settleDoomed)

/-- OBJECT_DESTROY (R34): the owner destroys object `a`. -/
def execObjectDestroy (s : State) : Out :=
  let e := s.rotAt s.arg.a
  .next (if e.state = .absent ∨ e.state = .gone ∨ e.doomed then s
    else (s.putRot s.arg.a { e with doomed := true, epoch := s.currentSeq }).settleDoomed)

/-- The sweep of R37: ended epochs move up to the oldest live number minus 1. -/
def State.sweepEpochs (s : State) : State :=
  match oldestOf s.liveSeqs with
  | none => s
  | some o => { s with rot := s.rot.map (fun e =>
      if (e.2.state = .departed ∨ e.2.doomed) ∧ s.epochOver e.2.epoch then (e.1, { e.2 with epoch := o - 1#32 }) else e) }

/-- EPOCH_SWEEP (R37): the sweep that follows the placement at which the launch counter has come to a multiple of 2^28; the
placement itself runs it too. -/
def execEpochSweep (s : State) : Out := .next (if s.plat.launchSeq.toNat % 2 ^ 28 ≠ 0 then s else s.sweepEpochs)

end Sys2Proof.Machine
end

