-- ==== Sys2Proof/Machine/WorkEvents.lean ====
section
/-! DEFINITION. From queue record to issue slot (R346 to R357): windows, heads and their schedules, the turns of worlds,
placement, the end of a workgroup and of a launch (R64, R73, R187). -/

namespace Sys2Proof.Machine

/-! ### Windows (R350) -/

/-- The clock at which the oldest record of a queue was pushed. -/
def Queue.headPushed (q : Queue) : Nat :=
  q.pushes.foldl (fun best e => if e.1 ≤ q.rc then e.2 else best) 0

/-- A queue waits for a window. -/
def Queue.wantsWindow (q : Queue) : Bool := decide (q.state = 1#3) && !q.win && decide (q.rc < q.wc)

/-- The queue whose oldest record was pushed first, of those that wait for a window. -/
def State.nextWindow (s : State) : Option Nat :=
  (s.queues.foldl (fun (best : Option (Nat × Nat)) e =>
    if !e.2.wantsWindow then best
    else match best with
      | some b => if e.2.headPushed < b.2 then some (e.1, e.2.headPushed) else best
      | none => some (e.1, e.2.headPushed)) none).map (fun x => x.1)

/-- WINDOW_GRANT (R350). Where no window can be granted, queue `a` goes on with what its memory made it wait for. -/
def execWindowGrant (s : State) : Out :=
  .next (match s.nextWindow with
    | none => s.settleQueue s.arg.a
    | some k =>
      if Config.windows ≤ (s.queues.filter (fun e => e.2.win)).length then s.settleQueue s.arg.a
      else (s.putQueue k { s.queue k with win := true, emptySince := s.clock.toNat }).fillWindow k 32)

/-- WINDOW_RECLAIM (R350): queue `a` has stayed empty for 65,536 clk. -/
def execWindowReclaim (s : State) : Out :=
  let q := s.queue s.arg.a
  .next (if q.win ∧ q.rc = q.wc ∧ q.emptySince + 65536 ≤ s.clock.toNat then s.putQueue s.arg.a { q with win := false } else s)

/-! ### A record and its schedule (R346, R353, R357) -/

/-- Reads runs of a queue's memory one after the other. -/
def State.qReadAll (k va : Nat) : List (Nat × Nat) → List Byte → State → QMem (List Byte)
  | [], acc, s => .ok acc s
  | (off, n) :: t, acc, s =>
    match s.qRead k (va + off) n with
    | .ok bs s => qReadAll k va t (acc ++ bs) s
    | .miss s => .miss s
    | .bad => .bad

/-- Reads `n` bytes of a queue's memory as one number, page by page. -/
def State.qNum (s : State) (k va n : Nat) : QMem Nat :=
  match State.qReadAll k va (pieces va n 65536) [] s with
  | .ok bs s => .ok (leNat bs) s
  | .miss s => .miss s
  | .bad => .bad

/-- The record is one that R357 refuses by itself; `n` is its 256 bits. -/
def recordBad (n : Nat) : Bool :=
  let kind := bits n 0 8
  (decide (kind ≠ 1) && decide (kind ≠ 2)) || decide (bits n 10 6 ≠ 0) || decide (bits n 21 11 ≠ 0) || decide (bits n 242 14 ≠ 0)
    || (decide (kind = 1) && (decide (bits n 128 32 = 0) || decide (bits n 160 32 = 0) || decide (bits n 192 32 = 0)))

/-- A kernel table entry holds a field outside its range, or marks itself unused (R353). -/
def kernelBad (e : Nat) : Bool :=
  decide (bits e 0 57 = 0) || decide (bits e 0 57 % 256 ≠ 0) || decide (bits e 57 7 ≠ 0) || decide (bits e 137 7 ≠ 0)
    || decide (bits e 224 32 ≠ 0)

/-- A bucket holds a field outside its range (R14, R353). -/
def bucketBad (b : Nat) : Bool :=
  decide (bits b 224 6 = 0) || decide (48 < bits b 224 6) || decide (bits b 230 6 = 0) || decide (32 < bits b 230 6)
    || decide (bits b 242 14 ≠ 0) || decide (bits b 256 16 = 0) || decide (bits b 272 16 = 0) || decide (bits b 288 16 = 0)
    || decide (bits b 304 16 ≠ 0) || decide (bits b 352 160 ≠ 0) || decide (Config.lBytes < bits b 320 32)
    || decide (bits b 320 32 % 128 ≠ 0)

/-- The bucket admits a shape (R353). -/
def bucketHas (b x y z : Nat) : Bool :=
  decide (bits b 0 32 ≤ x ∧ x ≤ bits b 32 32) && decide (bits b 64 32 ≤ y ∧ y ≤ bits b 96 32)
    && decide (bits b 128 32 ≤ z ∧ z ≤ bits b 160 32)

/-- Items of `w` bytes each of a table read as one number. -/
def tableItems (n w count : Nat) : List Nat := (List.range count).map (fun i => bits n (8 * w * i) (8 * w))

/-- Ridge-map entries (R353) as numbers and members. -/
def ridgeItems (n count : Nat) : List (Nat × BitVec 48) :=
  (tableItems n 8 count).map (fun e => (bits e 48 8, BitVec.ofNat 48 (bits e 0 48)))

/-- A ridge map breaks R14 or R353 for a workgroup size. R14 makes a repeated directive an error of the assembler and no rule of the device
names a map that holds one ridge number twice: the launch starts, and the number names the first entry (log 57, DESIGN CHOICE). -/
def ridgesBad (n count wgsize : Nat) : Bool :=
  (tableItems n 8 count).any (fun e => decide (bits e 56 8 ≠ 0) || decide (bits e 48 8 = 0) || decide (2 ^ wgsize ≤ bits e 0 48))
    || (List.range 48).any (fun w => decide (4 < ((ridgeItems n count).filter (fun r => r.2.getLsbD w)).length))

/-- A carry table holds a field outside its range (R353). -/
def carryBad (n count : Nat) : Bool := (tableItems n 48 count).any (fun e => decide (bits e 359 25 ≠ 0))

/-- Carry sites (R353). -/
def carryItems (n count : Nat) : List CarrySite :=
  (tableItems n 48 count).map (fun e =>
    { pc := BitVec.ofNat 32 (bits e 0 32), v := BitVec.ofNat 256 (bits e 32 256), s := BitVec.ofNat 64 (bits e 288 64)
      p := BitVec.ofNat 7 (bits e 352 7) })

/-- A workgroup could never fit one core (R54, R356): its fullest quadrant holds ⌈WGSIZE/4⌉ of its waves. -/
def neverFits (wgsize vunits : Nat) : Bool := decide (192 < vunits * ceilDiv wgsize 4)

/-- What a queue's head is (R351, R357). -/
inductive Head where
  | none
  /-- The queue enters ERROR. -/
  | bad
  /-- An access waits for missing units. -/
  | miss (s : State)
  /-- WAITSIG or BARRIER holds it back. -/
  | held (s : State)
  | start (l : Launch) (s : State)

/-- The launch of a record, still without its sequence number; a marker keeps no schedule. -/
def markerOf (q : Queue) (k n : Nat) : Launch :=
  { seq := none, world := q.world, queue := k, pos := q.rc, marker := decide (bits n 0 8 = 2)
    args := BitVec.ofNat 64 (bits n 64 64), shx := bits n 128 32, shy := bits n 160 32, shz := bits n 192 32
    svc := max (bits n 240 2) q.svcmin.toNat, sysrel := bit n 9, donesig := bits n 224 16, sigbase := q.sigbase.toNat
    codeBase := 0, extent := 0, depth := 1, entry := 0#32, wgsize := 0, vunits := 0, cairns := 0, px := 1, py := 1, pz := 1
    lmem := 0, ridges := [], carry := [], budget := 0#64, chans := [], next := 0, live := 0, dropped := false
    killed := false }

/-- The schedule of a launch from its kernel entry `e`, bucket `b`, ridge map `r` and carry table `c` (R353). -/
def withSchedule (l : Launch) (e b r c : Nat) : Launch :=
  { l with
    codeBase := bits e 0 57, extent := bits e 64 32, depth := bits e 132 5 + 1, entry := BitVec.ofNat 32 (bits b 192 32)
    wgsize := bits b 224 6, vunits := bits b 230 6, cairns := bits b 236 6, px := bits b 256 16, py := bits b 272 16
    pz := bits b 288 16, lmem := bits b 320 32, ridges := ridgeItems r (bits e 176 8), carry := carryItems c (bits e 216 8) }

/-- Reads the schedule of a launch record (R353, R357). A ridge map that names a wave at or beyond the WGSIZE of any bucket is
bad, as R14 has it; R357 names the selected bucket alone (log 57, DEDUCED). -/
def State.schedule (s : State) (k n : Nat) (l : Launch) : Head :=
  let q := s.queue k
  match s.qNum k (q.ktab + 32 * bits n 32 16) 32 with
  | .bad => .bad
  | .miss s => .miss s
  | .ok e s =>
    if kernelBad e then .bad
    else
      let code := bits e 0 57
      match s.qNum k (code + bits e 96 32) (64 * (bits e 128 4 + 1)) with
      | .bad => .bad
      | .miss s => .miss s
      | .ok d s =>
        match s.qNum k (code + bits e 144 32) (8 * bits e 176 8) with
        | .bad => .bad
        | .miss s => .miss s
        | .ok r s =>
          match s.qNum k (code + bits e 184 32) (48 * bits e 216 8) with
          | .bad => .bad
          | .miss s => .miss s
          | .ok c s =>
            let bs := tableItems d 64 (bits e 128 4 + 1)
            match bs.find? (fun b => bucketHas b l.shx l.shy l.shz) with
            | none => .bad
            | some b =>
              if bs.any bucketBad || bs.any (fun b => ridgesBad r (bits e 176 8) (bits b 224 6)) || carryBad c (bits e 216 8)
                  || neverFits (bits b 224 6) (bits b 230 6) then .bad
              else .start (withSchedule l e b r c) s

/-- Signal `n` of a table is 0 or negative (R351, R352), as the newest value shows. -/
def signalDone (v : Nat) : Bool := decide (sextN 64 v ≤ 0)

/-- Tests WAITSIG and BARRIER of a head (R351, R352). -/
def State.testHead (s : State) (k n : Nat) (l : Launch) : Head :=
  if bit n 8 && !(s.queue k).started.isEmpty then .held s
  else if bits n 48 16 = 0xFFFF then .start l s
  else match s.qNum k ((s.queue k).sigbase.toNat * 4096 + 8 * bits n 48 16) 8 with
    | .bad => .bad
    | .miss s => .miss s
    | .ok v s => if signalDone v then .start l s else .held s

/-- Examines the head of a windowed ACTIVE queue that waves do not serve, where it has not yet started (R351, R357). -/
def State.examine (s : State) (k : Nat) : Head :=
  let q := s.queue k
  if q.state ≠ 1#3 ∨ !q.win ∨ q.waves ∨ q.started.any (fun x => decide (x.1 = q.rc)) then .none
  else match q.window with
    | [] => .none
    | r :: _ =>
      let n := leNat r
      let l := markerOf q k n
      if recordBad n then .bad
      else if l.marker then s.testHead k n l
      else match s.schedule k n l with
        | .start l s => s.testHead k n l
        | h => h

/-- SIGNAL_RETEST (R352): the head of queue `a` is examined; what it reads may raise a condition or wait (R357). -/
def execSignalRetest (s : State) : Out :=
  .next (match s.examine s.arg.a with
    | .bad => s.queueError s.arg.a
    | .miss s' => s.keepMiss s' s.arg.a
    | .held s' => s'
    | _ => s)

/-! ### Placement (R356) -/

/-- Waves of a workgroup that fall into a quadrant. -/
def inQuad (wgsize q : Nat) : Nat := (wgsize + 3 - q) / 4

/-- Workgroups of a core; a saved one keeps its slot and its cairn claim only (R365). -/
def State.wgsOn (s : State) (core : Nat) : List (Nat × Wg) := s.wgs.filter (fun e => decide (e.2.core = core))

/-- The lowest free workgroup slot of a core. -/
def State.freeSlot (s : State) (core : Nat) : Option Nat :=
  firstBelow 96 (fun k => (s.wgsOn core).all (fun e => decide (e.2.slot ≠ k)))

/-- The lowest contiguous free run of a core's scratchpad (R62). -/
def State.freeSpan (s : State) (core n : Nat) : Option Nat :=
  let used := ((s.wgsOn core).filter (fun e => e.2.saved.isNone && decide (0 < e.2.lsize))).map (fun e => (e.2.lbase, e.2.lsize))
  let fits (a : Nat) : Bool := decide (a + n ≤ Config.lBytes) && used.all (fun u => decide (a + n ≤ u.1 ∨ u.1 + u.2 ≤ a))
  (0 :: used.map (fun u => u.1 + u.2)).foldl (fun (best : Option Nat) a =>
    if !fits a then best
    else match best with
      | some b => if a < b then some a else best
      | none => some a) none

/-- Free register units of a core, over its four quadrants. -/
def State.freeUnits (s : State) (core : Nat) : Nat :=
  (List.range 4).foldl (fun n q => n + (192 - (s.quadUse core q).2)) 0

/-- The world's workgroups may be placed on a core now (R390). -/
def State.worldMay (s : State) (core world : Nat) : Bool :=
  !(s.world world).left && (if (s.world world).protected then (s.world world).cores.contains core && decide (s.sliceOwner core = some world)
    else (s.protectors core).isEmpty)

/-- A saved workgroup may come back to its core now (R364 to R367). -/
def State.mayRestore (s : State) (g : Wg) : Bool :=
  g.saved.isSome && !s.stopNow g.core g.world && !(s.core g.core).stranded

/-- Waves to be requeued and workgroups to be restored go before new work on a core (R201, R356, R366). -/
def State.othersFirst (s : State) (core : Nat) : Bool :=
  s.waves.any (fun e => decide (e.2.core = core) && decide (e.2.status = .cleared) && !e.2.sup
      && !s.stopNow core e.2.world)
    || (s.wgsOn core).any (fun e => s.mayRestore e.2)

/-- The workgroups of a launch fit a core (R356), which has left reset (R395). -/
def State.coreFits (s : State) (l : Launch) (core : Nat) : Bool :=
  let c := s.core core
  decide (s.plat.boot = .running) && decide (c.power ≠ .powerGated) && !c.stranded && !c.retiring && s.worldMay core l.world && !s.othersFirst core
    && (s.freeSlot core).isSome && (s.freeSpan core l.lmem).isSome
    && (List.range 4).all (fun q =>
      let u := s.quadUse core q
      decide (u.1 + inQuad l.wgsize q ≤ 24) && decide (u.2 + inQuad l.wgsize q * l.vunits ≤ 192))
    && decide ((s.wgsOn core).foldl (fun n e => n + e.2.cairnRes) 0 + l.cairns ≤ 64)
    && decide (c.ridges.length + 1 + l.ridges.length ≤ 256)

/-- The core that takes the next workgroup: of those that fit, the one with the fewest free register units, and the
lowest of these (R356). -/
def State.coreFor (s : State) (l : Launch) : Option Nat :=
  ((List.range Config.cores).foldl (fun (best : Option (Nat × Nat)) k =>
    if !s.coreFits l k then best
    else match best with
      | some b => if s.freeUnits k < b.2 then some (k, s.freeUnits k) else best
      | none => some (k, s.freeUnits k)) none).map (fun x => x.1)

/-- A launch without a number may take one (R37): it lies less than 2^30 ahead of the oldest live number. -/
def State.mayNumber (s : State) (l : Launch) : Bool :=
  l.seq.isSome || (match oldestOf s.liveSeqs with
    | none => true
    | some o => decide (sdiff32 s.plat.launchSeq.toNat o.toNat < 2 ^ 30))

/-! ### Turns (R355) -/

/-- What a queue has to place: a started launch with its handle, or a startable head. -/
def State.workOf (s : State) (k : Nat) : Option (Option Nat × Launch) :=
  let q := s.queue k
  if q.state ≠ 1#3 then none
  else match s.launches.find? (fun e => decide (e.2.queue = k) && decide (e.2.next < e.2.total) && !e.2.dropped) with
    | some e => some (some e.1, e.2)
    | none => match s.examine k with
      | .start l _ => if l.marker then none else some (none, l)
      | _ => none

/-- Queues of a world with work, in increasing number. -/
def State.workQueues (s : State) (world : Nat) : List (Nat × Option Nat × Launch) :=
  (s.queues.filter (fun e => decide (e.2.world = world))).filterMap (fun e => (s.workOf e.1).map (fun w => (e.1, w)))

/-- A list from the first element that comes after a number, wrapping round. -/
def rotate {α : Type} (key : α → Nat) (last : Option Nat) (l : List α) : List α :=
  match last with
  | none => l
  | some n => l.filter (fun x => decide (n < key x)) ++ l.filter (fun x => decide (key x ≤ n))

/-- The next queue of a world whose workgroup fits some core. -/
def State.turnQueue (s : State) (world : Nat) : Option (Nat × Option Nat × Launch) :=
  (rotate (fun x => x.1) (tget s.plat.qturn world) (s.workQueues world)).find? (fun x =>
    s.mayNumber x.2.2 && (s.coreFor x.2.2).isSome)

/-- The turn: world, queue, and the launch or head that is placed (R355). -/
def State.turn (s : State) : Option (Nat × Nat × Option Nat × Launch) :=
  let ws := (rotate (fun e => e.1) (some s.plat.turn) s.worlds).filter (fun e => decide (0 < e.2.deficit))
  ws.findSome? (fun e => (s.turnQueue e.1).map (fun x => (e.1, x)))

/-- Worlds with work. -/
def State.busyWorlds (s : State) : List Nat := (s.worlds.filter (fun e => !(s.workQueues e.1).isEmpty)).map (fun e => e.1)

/-- The largest WEIGHT among the ACTIVE queues of a world. -/
def State.weightOf (s : State) (world : Nat) : Nat :=
  s.queues.foldl (fun n e => if e.2.world = world ∧ e.2.state = 1#3 then max n e.2.weight.toNat else n) 0

/-- A refill is due: every world with work has a deficit of 0 or below. -/
def State.refillDue (s : State) : Bool :=
  let b := s.busyWorlds
  !b.isEmpty && b.all (fun w => decide ((s.world w).deficit ≤ 0))

/-- The refill (R355). -/
def State.refill (s : State) : State :=
  let b := s.busyWorlds
  { s with worlds := s.worlds.map (fun (e : Nat × World) =>
      let quantum : Int := 65536 * (s.weightOf e.1 : Int)
      (e.1, { e.2 with deficit := if b.contains e.1 then min (e.2.deficit + quantum) quantum else min e.2.deficit 0 })) }

/-- The record of a queue starts: it joins the started records under a handle, and notes those that have not completed. -/
def State.startRecord (s : State) (k : Nat) (l : Launch) : State :=
  let q := s.queue k
  ((s.putLaunch s.nextId { l with earlier := q.started.map (fun x => x.2) }).putQueue k { q with started := q.started ++ [(q.rc, s.nextId)] }).bump

/-- RECORD_START (R351, R355, R357): the head of queue `a`. -/
def execRecordStart (s : State) : Out :=
  let k := s.arg.a
  .next (match s.examine k with
    | .none => s
    | .bad => s.queueError k
    | .miss s' => s.keepMiss s' k
    | .held s' => s'
    | .start l s' =>
      if l.marker then (s'.startRecord k l).dropHead k
      else if s.refillDue then s.refill
      else match s.turn with
        | some (_, j, none, _) => if j = k then s'.startRecord k l else s
        | _ => s)

/-! ### Placing a workgroup -/

/-- The first placement of a launch: its number, its budgets, its channel table (R34, R103, R285); a sweep follows each
multiple of 2^28 (R37). -/
def State.numberLaunch (s : State) (h : Nat) (l : Launch) : State :=
  if l.seq.isSome then s
  else
    let l' := { l with seq := some s.plat.launchSeq, budget := (s.world l.world).budget, chans := (s.queue l.queue).chans }
    let n := s.plat.launchSeq + 1#32
    let s := { s.putLaunch h l' with plat := { s.plat with launchSeq := n } }
    if n.toNat % 2 ^ 28 = 0 then s.sweepEpochs else s

/-- The next allocation tag of a core (R62). -/
def CoreSt.nextTag (c : CoreSt) : Nat := if c.tagCtr = 65535 then 1 else c.tagCtr + 1

/-- A table with the entries of a run of numbers replaced. -/
def tabRun {α : Type} (t : Tab α) (lo : Nat) (l : List α) : Tab α :=
  t.filter (fun e => decide (e.1 < lo)) ++ l.zipIdx.map (fun x => (lo + x.2, x.1))
    ++ t.filter (fun e => decide (lo + l.length ≤ e.1))

/-- Allocates a run of scratchpad: a fresh tag on every granule, V clear (R62). -/
def CoreSt.allocate (c : CoreSt) (base n : Nat) : CoreSt :=
  { c with
    tagCtr := c.nextTag
    gran := tabRun c.gran (base / 128) (List.replicate (n / 128) { tag := c.nextTag, v := false }) }

/-- Free entries of a core's ridge table, lowest first. -/
def CoreSt.freeRidges (c : CoreSt) (n : Nat) : List Nat := ((List.range 256).filter (fun k => (tget c.ridges k).isNone)).take n

/-- The ridges of a workgroup: ridge 0 with every wave, and the named ones (R188). -/
def Launch.allRidges (l : Launch) : List (Nat × BitVec 48) := (0, BitVec.ofNat 48 (2 ^ l.wgsize - 1)) :: l.ridges

/-- A ridge-table entry as placement writes it (R188). -/
def newRidge (slot : Nat) (x : Nat × BitVec 48) : Ridge :=
  { members := x.2, num := x.1, owner := slot, arrived := 0, expect := 0, expset := false, phase := false, hold := false }

/-- The least place of the device-private region that no wave's phase record has (R87; log 7, DESIGN CHOICE). -/
def State.freeRec (s : State) : Nat :=
  let used := (s.waves.filter (fun e => !e.2.sup)).map (fun e => e.2.recSlot)
  (firstBelow (used.length + 1) (fun k => !used.contains k)).getD 0

/-- A wave as it starts (R22, R55, R180, R189): g0 holds ARGS, every other register a free value. The phase bit of its ridge records
is 0 until its first arrival, which the spec leaves open (log 11, DESIGN CHOICE). -/
def State.newWave (s : State) (l : Launch) (core wg num fill : Nat) (inside : Bool) : Wave :=
  let regs : Regs := { fill := some fill, v := [], s := [], p := [], vEmpty := [], sEmpty := [] }
  let w : Wave :=
    { sup := false, core := core, wg := wg, num := num, world := l.world, launch := l.seq.getD 0#32, nv := 8 * l.vunits
      depth := l.depth, svc := l.svc, codeBase := l.codeBase, extent := l.extent
      valid := if inside then 0xFFFFFFFF#32 else 0#32, regs := regs.writeSs 0 l.args.toNat 2, fpflags := 0#7
      fpmode := 0#3, bundle := none, others := [], exited := 0#32, snap := [], clause := none, left := [], ctl := false
      yielded := 0#32, cnt := [0, 0, 0, 0, 0], seq := [0, 0, 0, 0, 0]
      ridges := (l.allRidges.filter (fun r => r.2.getLsbD num)).map (fun r => { num := r.1, pending := false, phase := false })
      lowerReq := false, storeQ := [], loads := [], gates := [], status := .slot, stalled := false, hold := []
      recKind := 0#2, recCnt := [], recSeq := [], cause := none, denied := [], replay := none, edits := []
      slotSince := some s.clock.toNat, charge := 0, sv := SupRegs.init, recSlot := s.freeRec }
  let e : Entry := { pc := l.entry, prio := s.prioAt w l.entry, ridx := 0, yld := false, hld := false, bwt := none, passed := false
                     mask := 0xFFFFFFFF#32 }
  { w with bundle := some e, snap := [e] }

/-- Places the next workgroup of a launch on a core (R354, R356); a protected world that comes to a die with a thermal trip is paused (R390). -/
def State.placeWg (s : State) (h core slot base : Nat) (l : Launch) : State :=
  let id := s.nextId
  let x := l.next % l.gridX
  let y := l.next / l.gridX % l.gridY
  let z := l.next / (l.gridX * l.gridY)
  let inside := decide (x < l.shx) && decide (y < l.shy) && decide (z < l.shz)
  let c := s.core core
  let ents := (c.freeRidges l.allRidges.length).zip l.allRidges
  let c := c.allocate base l.lmem
  let c := { c with power := .on, ridges := ents.foldl (fun t r => tset t r.1 (newRidge slot r.2)) c.ridges }
  let g : Wg :=
    { core := core, slot := slot, launch := h, world := l.world, x := x, y := y, z := z, nwaves := l.wgsize
      lbase := base, lsize := l.lmem, tag := c.tagCtr, ridgeMap := ents.map (fun r => (r.2.1, r.1)), cairnRes := l.cairns
      drain := [], reruns := 0#32, charge := 0, saved := none }
  let s := ((s.putCore core c).putWg id g).putLaunch h { l with next := l.next + 1, live := l.live + 1 }
  let s := { s with nextId := id + 1 }
  let s := (List.range l.wgsize).foldl (fun (s : State) n =>
    (s.putWave s.nextId (s.newWave l core id n (s.free + regFree * n) inside)).bump) s
  let s := s.draw (regFree * l.wgsize)
  let s := if l.sysrel then s.dropRemote (dieOf core) l.world else s
  let s := if (s.world l.world).protected && s.plat.throttled.contains (dieOf core) then
      s.putWorld l.world { s.world l.world with tripped := dedupN ((s.world l.world).tripped ++ [dieOf core]) } else s
  if l.next + 1 = l.total then s.dropHead l.queue else s

/-- WORKGROUP_PLACE (R355, R356): one scheduler turn places one workgroup of a started launch. -/
def execWorkgroupPlace (s : State) : Out :=
  .next (if s.refillDue then s.refill
    else match s.turn with
      | some (w, k, some h, _) =>
        let s := match tget s.launches h with
          | some l => s.numberLaunch h l
          | none => s
        (match tget s.launches h with
        | none => s
        | some l =>
          match s.coreFor l with
          | none => s
          | some core =>
            match s.freeSlot core, s.freeSpan core l.lmem with
            | some slot, some base =>
              let s := s.placeWg h core slot base l
              { s with plat := { s.plat with turn := w, qturn := tset s.plat.qturn w k } }
            | _, _ => s)
      | _ => s)

/-! ### The end of a workgroup and of a launch -/

/-- The workgroup has ended (R64, R187): every wave has, and no operation or store of theirs is left. -/
def State.wgOver (s : State) (id : Nat) : Bool :=
  s.waves.all (fun e => e.2.sup || decide (e.2.wg ≠ id) || (decide (e.2.status = .ended) && e.2.storeQ.isEmpty))
    && s.ops.all (fun e => decide (e.2.wg ≠ id) || s.opSup e.2)

/-- Releases what a workgroup holds on its core (R62, R64, R73, R188, R306). -/
def State.releaseWg (s : State) (id : Nat) (g : Wg) : State :=
  let c := s.core g.core
  let c := if g.saved.isSome then c else
    { c with
      gran := c.gran.filter (fun e => !decide (g.lbase / 128 ≤ e.1 ∧ e.1 < (g.lbase + g.lsize) / 128))
      lmem := czero c.lmem g.lbase g.lsize
      badWords := c.badWords.filter (fun b => decide (b.1 ≠ 3) || decide (8 * b.2 < g.lbase) || decide (g.lbase + g.lsize ≤ 8 * b.2))
      cairns := c.cairns.map (fun e => if cOwner e.2 = g.slot then (e.1, cSetState e.2 0) else e)
      ridges := c.ridges.filter (fun e => !g.ridgeMap.any (fun r => decide (r.2 = e.1))) }
  let c := { c with token := match c.token with
    | some t => if t.wg = id then none else some t
    | none => none }
  (s.putCore g.core c).touch g.core

/-- WORKGROUP_END (R64, R355): the workgroup in slot `b` of core `a`. -/
def execWorkgroupEnd (s : State) : Out :=
  .next (match s.wgs.find? (fun e => decide (e.2.core = s.arg.a ∧ e.2.slot = s.arg.b)) with
    | none => s
    | some (id, g) =>
      if !s.wgOver id then s
      else
        let charge := (s.waves.filter (fun e => decide (e.2.wg = id) && !e.2.sup)).foldl (fun n e => n + e.2.charge) g.charge
        let s := s.releaseWg id g
        let s := { s with
          waves := s.waves.filter (fun e => e.2.sup || decide (e.2.wg ≠ id))
          wgs := tdel s.wgs id }
        let x := s.world g.world
        let s := s.putWorld g.world { x with deficit := x.deficit - (ceilDiv charge 96 : Nat) }
        match tget s.launches g.launch with
        | none => s
        | some l =>
          let s := s.putLaunch g.launch { l with live := l.live - 1 }
          if l.dropped ∧ l.live ≤ 1 then s.dropLaunch g.launch else s)

/-- A started record is ready to complete (R351). -/
def State.launchDone (s : State) (l : Launch) : Bool :=
  if l.marker then l.earlier.all (fun k => (tget s.launches k).isNone)
  else decide (l.next = l.total) && decide (l.live = 0) && !l.dropped

/-- Subtracts 1 from a signal of a launch's table, and gives the new value (R352). -/
def State.decrement (s : State) (l : Launch) : QMem Nat :=
  match s.qAddrFor l.world l.queue (l.sigbase * 4096 + 8 * l.donesig) .atomic with
  | .bad => .bad
  | .miss s => .miss s
  | .ok pa s =>
    if s.isRemote pa then
      (match s.qRemote l.world pa 8 (leBytes 8 (2 ^ 64 - 1) ++ leBytes 8 0) (some .add) with
      | .ok bs s => .ok (wrapN 64 ((leNat bs : Int) - 1)) s
      | .miss s => .miss s
      | .bad => .bad)
    else
      let r := s.checkRead (some l.world) pa 8
      if r.2 then .bad
      else
        let v := wrapN 64 ((r.1.peekNat pa 8 : Int) - 1)
        .ok v (r.1.storeCells (some ioDie) l.world r.1.ioStamp (cellsOf pa (leBytes 8 v)))

/-- LAUNCH_COMPLETE (R351, R352, R377): launch or marker `a`; the release waits until every line is confirmed. Once the world has left
RUN an interrupt is sent only where the release was performed before (R393). -/
def execLaunchComplete (s : State) : Out :=
  let h := s.arg.a
  .next (match tget s.launches h with
    | none => s
    | some l =>
      if !s.launchDone l || !s.unconf.isEmpty then s
      else if l.donesig = 0xFFFF then s.dropLaunch h
      else match s.decrement l with
        | .bad =>
          let own := (s.queue l.queue).started.any (fun x => decide (x.2 = h))
          if own then (s.dropLaunch h).queueError l.queue else s.dropLaunch h
        | .miss s' => (s.keepMiss s' l.queue).putLaunch h { l with released := l.released || !(s.world l.world).left }
        | .ok v s' =>
          let q := s'.queue l.queue
          let s' := s'.dropLaunch h
          if q.ce ∧ sextN 64 v ≤ 0 ∧ (l.released ∨ !(s.world l.world).left) then s'.interrupt l.world q.vec.toNat else s')

end Sys2Proof.Machine
end

