-- ==== Sys2Proof/Machine/FaultEvents.lean ====
section
/-! DEFINITION. Entries for supervisors (R361), the return of waves to issue and their lowering (R194, R200, R201),
pre-emption, saving and restoring of workgroups, retirement of cores (R364 to R367). -/

namespace Sys2Proof.Machine

/-! ### Fault queues and serving waves (R361) -/

/-- The queue of an entry has room. -/
def World.roomFor (w : World) (p : Post) : Bool :=
  decide ((if p.kind = 1 then w.reqRing else w.faultQ).length < Config.faultQueueLen)

/-- FAULT_QUEUE_POST (R361): the first waiting entry of world `a` whose queue has room; KIND 1 goes to the request ring. -/
def execFaultQueuePost (s : State) : Out :=
  let w := s.world s.arg.a
  .next (match w.toPost.find? w.roomFor with
    | none => s
    | some p =>
      let w' := { w with toPost := w.toPost.erase p }
      s.putWorld s.arg.a (if p.kind = 1 then { w' with reqRing := w.reqRing ++ [p] } else { w' with faultQ := w.faultQ ++ [p] }))

/-- SV_CAUSE at an entry that is handed over: CODE 0, STEP 7, LEVEL 7 (R226, R361). -/
def entryCause : DWord := 0x700#64

/-- Hands an entry to a serving wave: s0 to s15 hold it, and the wave enters at its SV_TRAPBASE (R361). -/
def State.handOver (s : State) (id : Nat) (w : Wave) (p : Post) : State :=
  s.enterTrap id { w with regs := w.regs.writeSs 0 p.toNat 16, sv := { w.sv with handling := true } } entryCause w.sv.faultAddr

/-- SUPERVISOR_ENTRY (R361): wave `a` takes the first entry of world `b`'s fault queue, or with `flag` of its request
ring. -/
def execSupervisorEntry (s : State) : Out :=
  .next (match tget s.waves s.arg.a with
    | none => s
    | some w =>
      let x := s.world s.arg.b
      if !w.sup ∨ w.sv.handling ∨ !x.serving.contains s.arg.a ∨ w.status ≠ .slot ∨ !w.loads.isEmpty ∨ !w.hold.isEmpty ∨ w.ldn.isSome then s
      else match (if s.arg.flag then x.reqRing else x.faultQ) with
        | [] => s
        | p :: t =>
          (s.putWorld s.arg.b (if s.arg.flag then { x with reqRing := t } else { x with faultQ := t })).handOver s.arg.a w p)

/-! ### Issue, requeueing and lowering -/

/-- WAVE_ISSUE (R185, R200): a wave of quadrant `b` of core `a` that may issue goes next: the one after the last in the order of
numbers, wrapping round. -/
def execWaveIssue (s : State) : Out :=
  let l := s.waves.filter (fun e => decide (e.2.core = s.arg.a) && decide (e.2.num % 4 = s.arg.b) && s.mayGo e.1 e.2)
  .next (match (rotate (fun e => e.1) (some s.cur) l).head? with
    | some e => { s with cur := e.1 - 1, bg := false }
    | none => s)

/-- The wave's workgroup is saved (R365). -/
def State.isSaved (s : State) (w : Wave) : Bool :=
  match s.wgOf w with
  | some g => g.saved.isSome
  | none => false

/-- A wave whose condition has cleared may take a slot again, were there room (R201, R358, R364). One in whose lanes a routine
runs does so under a pre-emption too, and the routine finishes at RDONE; a pre-emption of a halted core waits (R369). -/
def State.wantsSlot (s : State) (id : Nat) (w : Wave) : Bool :=
  decide (w.status = .cleared) && !w.sup && !s.isSaved w && (!s.stopNow w.core w.world || s.inRoutine id || (s.core w.core).halt.isSome)
    && decide ((s.core w.core).power ≠ .powerGated)

/-- WAVE_REQUEUE (R201): wave `a`. -/
def execWaveRequeue (s : State) : Out :=
  .next (match tget s.waves s.arg.a with
    | some w => if s.wantsSlot s.arg.a w && s.quadFits w.core (w.num % 4) w.nv then
          (s.putCore w.core { s.core w.core with power := .on }).requeue s.arg.a w
        else s
    | none => s)

/-- A wave of the core waits for room, and no quadrant has it (R194, R201). -/
def State.roomDue (s : State) (core : Nat) : Bool :=
  s.waves.any (fun e => decide (e.2.core = core) && s.wantsSlot e.1 e.2 && !s.quadFits core (e.2.num % 4) e.2.nv)

/-- The scheduler holds a workgroup for the core that lacks room (R194). -/
def State.workDue (s : State) (core : Nat) : Bool :=
  s.worlds.any (fun e => s.worldMay core e.1 && (s.workQueues e.1).any (fun x => (s.coreFor x.2.2).isNone))

/-- WAVE_LOWER (R194, R339): wave `a`, which waits at a barrier. -/
def execWaveLower (s : State) : Out :=
  .next (match tget s.waves s.arg.a with
    | none => s
    | some w =>
      if w.sup ∨ w.status ≠ .slot ∨ !w.waiting ∨ s.inPool w then s
      else if s.lowerDue w || s.roomDue w.core || s.workDue w.core then s.lowerWave s.arg.a w else s)

/-! ### Pre-emption (R364) -/

/-- Opcodes at which a wave waits for counters, the token or a ring: EXIT, TKTAKE, WAITC and the ring instructions (R152, R155,
R304, R331). -/
def waitOps : List Nat := [0x0C4, 0x2A0, 0x2F1, 0x301, 0x302, 0x303]

/-- A wave that waits in the middle of a clause stops there (R364): on a register that is empty, at an instruction that waits for
counters, the token or a ring, or for room in a full counter, whose notices may be among what the pre-emption holds back
(log 62, DEDUCED for EXIT and the full counter). -/
def State.stopsHere (w : Wave) : Bool :=
  w.waits && (match w.bundle, w.clause with
    | some b, some c => (match c.words[b.ridx]? with
      | none => false
      | some x => waitOps.contains (field x 54 10) || w.cnt.contains 63 || (match decodeWord x with
        | .ok i => (match regState w.regs (w.active i) (regSlots i) with
          | .stall => true
          | _ => false)
        | .error _ => false))
    | _, _ => false)

/-- The wave waits at a clause header (R150). -/
def Wave.clauseWaits (w : Wave) : Bool := match w.clause with
  | some c => !c.waited && w.waits
  | none => false

/-- A wave stops where R364 says: at a clause boundary, a clause wait among them, or where it waits; not while other nodes still
owe it answers. A routine of an unfolding that runs in its lanes goes on to RDONE, unless the wave waits. -/
def State.preemptWave (s : State) (id : Nat) (w : Wave) : State :=
  if w.status = .slot ∧ w.hold = [] ∧ w.ldn = none ∧ w.push = none ∧ ((w.atBoundary ∧ (!s.inRoutine id ∨ w.clauseWaits)) ∨ State.stopsHere w) then
    s.leave id w .preempt
  else s

/-- Pre-empts the waves of a world on a core and suspends its operations there; a halted core's wait (R369). -/
def State.preempt (s : State) (core world : Nat) : State :=
  if (s.core core).halt.isSome ∨ !s.stopNow core world then s
  else
    let mine := s.waves.filter (fun e => decide (e.2.core = core) && decide (e.2.world = world) && !e.2.sup)
    let s := mine.foldl (fun (s : State) e => s.preemptWave e.1 (tgetD s.waves e.1 e.2)) s
    { s with ops := s.ops.map (fun (e : Nat × EngOp) =>
        if e.2.core = core ∧ e.2.world = world ∧ s.stopsOp e.2 then (e.1, { e.2 with state := .suspended }) else e) }

/-- PREEMPT (R364): the waves of world `b` on core `a`. -/
def execPreempt (s : State) : Out := .next (s.preempt s.arg.a s.arg.b)

/-- A wave or an operation of a protected world that does not own the slice of a core has still to stop there (R390). -/
def State.sliceDue (s : State) (core : Nat) : Bool :=
  (s.core core).halt.isNone && (s.protectors core).any (fun x => s.stopNow core x.1
    && (s.waves.any (fun e => decide (e.2.core = core ∧ e.2.world = x.1) && !e.2.sup && decide (e.2.status = .slot))
      || s.ops.any (fun e => decide (e.2.core = core ∧ e.2.world = x.1) && s.stopsOp e.2)))

/-- SLICE_END (R390): the waves on core `a` of protected worlds that do not own the slice. -/
def execSliceEnd (s : State) : Out :=
  .next ((s.protectors s.arg.a).foldl (fun (s : State) x => s.preempt s.arg.a x.1) s)

/-! ### Saving and restoring (R365, R366) -/

/-- Records of a workgroup slot that are held or draining. -/
def CoreSt.slotRecs (c : CoreSt) (slot : Nat) : Tab (BitVec 128) :=
  c.cairns.filter (fun e => (decide (cState e.2 = 1) || decide (cState e.2 = 2)) && decide (cOwner e.2 = slot))

/-- A line of a typed buffer lies in one of some records. -/
def lineIn (rs : Tab (BitVec 128)) (b line : Nat) : Bool :=
  rs.any (fun e => decide (cBuf e.2 = b) && decide (cBase e.2 ≤ line * 512) && decide (line * 512 < cBase e.2 + cLines e.2 * 512))

/-- What a test on lines of the typed buffers, granules and ridge entries leaves of a core's memories. -/
def CoreSt.only (c : CoreSt) (line : Nat → Nat → Bool) (gran : Nat → Bool) (ridge : Nat → Bool) : CoreSt :=
  { c with
    lmem := c.lmem.filter (fun x => gran (x.1 / 128)), gran := c.gran.filter (fun x => gran x.1)
    wbuf := c.wbuf.filter (fun x => line 0 (x.1 / 512)), wtag := c.wtag.filter (fun x => line 0 x.1)
    abuf := c.abuf.filter (fun x => line 1 (x.1 / 512)), atag := c.atag.filter (fun x => line 1 x.1)
    cbuf := c.cbuf.filter (fun x => line 2 (x.1 / 512)), ctag := c.ctag.filter (fun x => line 2 x.1)
    badWords := c.badWords.filter (fun x => if x.1 = 3 then gran (x.2 / 16) else line x.1 (x.2 / 64))
    ridges := c.ridges.filter (fun x => ridge x.1) }

/-- A granule of a workgroup's run, and an entry of its ridge map. -/
def Wg.hasGran (g : Wg) (k : Nat) : Bool := decide (g.lbase / 128 ≤ k ∧ k < (g.lbase + g.lsize) / 128)
@[inherit_doc Wg.hasGran] def Wg.hasRidge (g : Wg) (k : Nat) : Bool := g.ridgeMap.any (fun r => decide (r.2 = k))

/-- The context record of a workgroup (R365). -/
def CoreSt.context (c : CoreSt) (g : Wg) (id : Nat) : CoreSt :=
  let rs := c.slotRecs g.slot
  let x := c.only (lineIn rs) g.hasGran g.hasRidge
  { CoreSt.init with
    lmem := x.lmem, gran := x.gran, wbuf := x.wbuf, wtag := x.wtag, abuf := x.abuf, atag := x.atag, cbuf := x.cbuf
    ctag := x.ctag, badWords := x.badWords, ridges := x.ridges, cairns := rs
    token := match c.token with
      | some t => if t.wg = id then some t else none
      | none => none }

/-- The core without a workgroup's context; the token stays held (R365). -/
def CoreSt.without (c : CoreSt) (g : Wg) : CoreSt :=
  let rs := c.slotRecs g.slot
  { c.only (fun b l => !lineIn rs b l) (fun k => !g.hasGran k) (fun k => !g.hasRidge k) with
    cairns := c.cairns.map (fun e => if rs.any (fun r => decide (r.1 = e.1)) then (e.1, cSetState e.2 0) else e) }

/-- An operation lets its workgroup be saved: it is suspended, frozen, or complete behind one that is not (R364). -/
def State.opSaved (s : State) (key : Nat) (o : EngOp) : Bool :=
  match o.state with
  | .suspended | .frozen _ => true
  | .complete => s.heldBack key o
  | _ => false

/-- A workgroup's context can be saved (R364, R365); on a core that retires, once multicast writes on their way there have landed or
been dropped (R367). -/
def State.canSave (s : State) (id : Nat) (g : Wg) : Bool :=
  g.saved.isNone && s.stopNow g.core g.world && (s.core g.core).halt.isNone
    && s.waves.all (fun e => decide (e.2.wg ≠ id) || e.2.sup || ((e.2.status.inRecord || decide (e.2.status = .ended))
        && e.2.storeQ.isEmpty))
    && s.ops.all (fun e => decide (e.2.wg ≠ id) || s.opSup e.2 || s.opSaved e.1 e.2)
    && (!(s.core g.core).retiring || s.fab.multicasts.all (fun e => decide (e.2.core ≠ g.core)))

/-- WORKGROUP_SAVE (R365): the workgroup in slot `b` of core `a`. -/
def execWorkgroupSave (s : State) : Out :=
  .next (match s.wgs.find? (fun e => decide (e.2.core = s.arg.a ∧ e.2.slot = s.arg.b)) with
    | none => s
    | some (id, g) =>
      if !s.canSave id g then s
      else
        let c := s.core g.core
        ((s.putWg id { g with saved := some (c.context g id), moved := c.retiring }).putCore g.core (c.without g)).touch g.core)

/-- Two cairn records share a line. -/
def recsMeet (x y : BitVec 128) : Bool :=
  decide (cBuf x = cBuf y) && decide (cBase x < cBase y + cLines y * 512) && decide (cBase y < cBase x + cLines x * 512)

/-- The offsets of a saved workgroup are free on its core (R366). -/
def State.offsetsFree (s : State) (id : Nat) (g : Wg) (x : CoreSt) : Bool :=
  let c := s.core g.core
  (s.wgsOn g.core).all (fun e => decide (e.1 = id) || e.2.saved.isSome || decide (e.2.lsize = 0)
      || decide (e.2.lbase + e.2.lsize ≤ g.lbase) || decide (g.lbase + g.lsize ≤ e.2.lbase))
    && x.cairns.all (fun r => c.cairns.all (fun e => decide (cState e.2 = 0)
        || (decide (e.1 ≠ r.1) && !recsMeet e.2 r.2)))
    && g.ridgeMap.all (fun r => (tget c.ridges r.2).isNone)

/-- Memory put into a memory. -/
def putCells (m l : Memory) : Memory := l.foldl (fun m x => cset m x.1 x.2) m
/-- Entries put into a table. -/
def putTab {α : Type} (t l : Tab α) : Tab α := l.foldl (fun t x => tset t x.1 x.2) t

/-- The core with a workgroup's context placed again, over lines and granules that others may have used meanwhile; its allocation
takes a fresh tag (R62, R74, R366). -/
def CoreSt.restore (c : CoreSt) (g : Wg) (x : CoreSt) : CoreSt :=
  let c := (c.only (fun b l => !lineIn x.cairns b l) (fun k => !g.hasGran k) (fun k => !g.hasRidge k)).allocate g.lbase g.lsize
  { c with
    lmem := putCells c.lmem x.lmem
    gran := x.gran.foldl (fun t e => tset t e.1 { tag := c.tagCtr, v := e.2.v }) c.gran
    wbuf := putCells c.wbuf x.wbuf, wtag := putTab c.wtag x.wtag, abuf := putCells c.abuf x.abuf
    atag := putTab c.atag x.atag, cbuf := putCells c.cbuf x.cbuf, ctag := putTab c.ctag x.ctag
    badWords := x.badWords ++ c.badWords, ridges := putTab c.ridges x.ridges, cairns := putTab c.cairns x.cairns, power := .on }

/-- The operations of a workgroup go on, and its pre-empted waves are to be requeued (R366). -/
def State.wakeWg (s : State) (id : Nat) : State :=
  let ops := s.ops.map (fun (e : Nat × EngOp) => if e.2.wg = id ∧ e.2.state = .suspended then (e.1, e.2.resumed) else e)
  let waves := s.waves.map (fun (e : Nat × Wave) =>
    if e.2.wg = id ∧ !e.2.sup ∧ e.2.status = .preempted then (e.1, { e.2 with status := .cleared }) else e)
  { s with ops := ops, waves := waves }

/-- Multicasts that a retirement has kept waiting go to the new tag of a workgroup (R367). -/
def State.retag (s : State) (id tag : Nat) : State :=
  { s with ops := s.ops.map (fun (e : Nat × EngOp) =>
      (e.1, { e.2 with dests := e.2.dests.map (fun d => if d.wg = id then { d with tag := tag } else d) })) }

/-- A saved workgroup comes back (R366). -/
def State.restoreWg (s : State) (id : Nat) (g : Wg) (x : CoreSt) : State :=
  let c := (s.core g.core).restore g x
  let s := if g.moved then s.retag id c.tagCtr else s
  ((s.putCore g.core c).putWg id { g with saved := none, tag := c.tagCtr, moved := false }).wakeWg id

/-- WORKGROUP_RESTORE (R366): the saved workgroup of slot `b` of core `a`, once its offsets are free and no DRAIN halt holds the
core's spaces still (R159); one that has stopped but was not saved only goes on. -/
def execWorkgroupRestore (s : State) : Out :=
  .next (match s.wgs.find? (fun e => decide (e.2.core = s.arg.a ∧ e.2.slot = s.arg.b)) with
    | none => s
    | some (id, g) =>
      match g.saved with
      | none => if s.stopNow g.core g.world then s else s.wakeWg id
      | some x =>
        if s.mayRestore g && s.offsetsFree id g x && decide ((s.core g.core).power ≠ .powerGated) && !(s.core g.core).still then
          s.restoreWg id g x
        else s)

/-! ### Retirement (R367) -/

/-- Nothing of a retiring core is left outside its context records, and no multicast write is on its way there. -/
def State.coreEmptied (s : State) (core : Nat) : Bool :=
  (s.wgsOn core).all (fun e => e.2.saved.isSome) && s.fab.multicasts.all (fun e => decide (e.2.core ≠ core))

/-- CORE_RETIRE (R367): core `a`. The first event stops its work; once its workgroups are saved, the logical number moves
to a spare of the die, or, at the third retirement of a die, stays without one. -/
def execCoreRetire (s : State) : Out :=
  let k := s.arg.a
  let c := s.core k
  let die := dieOf k
  .next (if Config.cores ≤ k ∨ c.stranded then s
    else if !c.retiring then (s.putCore k { c with retiring := true }).ras 8 die k 0
    else if !s.coreEmptied k ∨ c.halt.isSome then s
    else if tgetD s.plat.retired die 0 < 2 then
      let s := s.putCore k { c with retiring := false, power := .on, lastWork := s.clock.toNat, badWords := [] }
      { s with plat := { s.plat with retired := tset s.plat.retired die (tgetD s.plat.retired die 0 + 1) } }
    else (s.putCore k { c with retiring := false, stranded := true }).ras 9 die k 0)

end Sys2Proof.Machine
end

