-- ==== Sys2Proof/Machine/HostEvents.lean ====
section
/-! DEFINITION. The outside world: answers and requests of the fabric (R378 to R383, R423), host accesses and decoders (R372,
R373), notify registers and interrupts (R375 to R377), ports and bindings (R370, R371, R381). -/

namespace Sys2Proof.Machine

/-! ### Requests of this device (R381, R382, R423) -/

/-- A request is over. -/
def State.dropRequest (s : State) (id : Nat) : State := { s with fab := { s.fab with requests := tdel s.fab.requests id } }

/-- POSTED_WRITE_ACK (R381): request `a`, a posted write, is performed at its home. -/
def execPostedWriteAck (s : State) : Out :=
  .next (match tget s.fab.requests s.arg.a with
    | some r => if r.posted then (s.dropRequest s.arg.a).ackPosted r.op else s
    | none => s)

/-- Something waits for the answer of a request: an operation, a walk or the queue scheduler, a wave's bundle, or one that the
wave has set aside (R423). -/
def State.awaited (s : State) (id : Nat) (r : Request) : Bool :=
  r.op.isSome || r.walk || s.waves.any (fun e =>
    e.2.hold.any (fun h => decide (h.2 = id)) || e.2.others.any (fun x => x.wait.any (fun h => decide (h.2 = id))))

/-- The answer of a request reaches its waiter; a posted write's refusal counts as its end (R382, R423). -/
def State.answer (s : State) (id : Nat) (r : Request) (ans : RemoteAns) : State :=
  if r.posted then
    match ans with
    | .refused c => ((s.dropRequest id).refusePosted r.op r.lane c.toNat r.va).ackPosted r.op
    | .value _ => s
  else if r.answer.isSome then s
  else if !s.awaited id r then s.dropRequest id
  else { s with fab := { s.fab with requests := tset s.fab.requests id { r with answer := some ans } } }

/-- A whole line that a home has returned stays in the die as a remote-marked copy (R128); what comes after the request was answered or
refused is discarded (R381). -/
def State.keepRemote (s : State) (r : Request) (line : List Byte) : State :=
  if r.install ∧ r.answer = none ∧ line.length = 128 then
    let who := match tget s.waves r.wave with
      | some w => s.stampOf w
      | none => s.ioStamp
    s.install who { die := r.die, line := r.addr / 128, world := r.world, remote := true, inv := none, valid := 3#2, dirty := 0#2
                    data := some line }
  else s

/-- REMOTE_RESPONSE (R423): the answer `ans` to request `a`; where `bytes` is a whole line, the home has returned the line,
and the value is taken from it. -/
def execRemoteResponse (s : State) : Out :=
  .next (match tget s.fab.requests s.arg.a with
    | none => s
    | some r =>
      if r.posted then s.answer s.arg.a r s.arg.ans
      else match s.arg.ans with
        | .refused c => s.answer s.arg.a r (.refused c)
        | .value bs =>
          if s.arg.bytes.length = 128 ∧ r.atomic = none then
            (s.keepRemote r s.arg.bytes).answer s.arg.a r (.value ((s.arg.bytes.drop (r.addr % 128)).take r.width))
          else if bs.length = r.width then s.answer s.arg.a r (.value bs) else s)

/-- A request is refused with POISON (R381, R392). -/
def State.refuseRequest (s : State) (id : Nat) : State :=
  match tget s.fab.requests id with
  | some r => s.answer id r (.refused (BitVec.ofNat 8 cPoison))
  | none => s

/-- REMOTE_TIMEOUT (R381): request `a` has had no answer for 16,777,216 clk. -/
def execRemoteTimeout (s : State) : Out :=
  .next (match tget s.fab.requests s.arg.a with
    | some r => if s.clock.toNat < r.sent + 16777216 then s else s.refuseRequest s.arg.a
    | none => s)

/-! ### Requests of other nodes (R380) -/

/-- Kind-0 output ranges of a world as first byte and size. -/
def World.dramRanges (w : World) : List (Nat × Nat) :=
  (w.valids.filter (fun r => decide (paKind r.out = 0))).map (fun r => (r.out, r.size))

/-- A run of bytes lies within the union of ranges: each pass moves past one range that holds the first byte left. -/
def covered (rs : List (Nat × Nat)) (a n : Nat) : Nat → Bool
  | 0 => decide (n = 0)
  | fuel + 1 =>
    if n = 0 then true
    else match rs.find? (fun r => decide (r.1 ≤ a ∧ a < r.1 + r.2)) with
      | some r => covered rs (r.1 + r.2) (n - (r.1 + r.2 - a)) fuel
      | none => false

/-- A run of physical bytes maps onto a world's kind-0 ranges (R372, R380). -/
def World.holds (w : World) (a n : Nat) : Bool := covered w.dramRanges a n (w.dramRanges.length + 1)

/-- Fields of an import table entry (R380). -/
def impWorld (e : Nat) : Nat := bits e 10 6
@[inherit_doc impWorld] def impBase (e : Nat) : Nat := bits e 64 18 * 2 ^ 21
@[inherit_doc impWorld] def impSize (e : Nat) : Nat := bits e 96 19 * 2 ^ 21

/-- The device takes the entry as valid (R380). -/
def State.impValid (s : State) (e : Nat) : Bool :=
  bit e 0 && decide (bits e 38 26 = 0) && decide (bits e 82 14 = 0) && decide (bits e 115 13 = 0)
    && decide (0 < impSize e) && decide (impSize e ≤ 262144 * 2 ^ 21) && decide (impBase e + impSize e ≤ s.privBase)
    && (s.world (impWorld e)).holds (impBase e) (impSize e)

/-- First byte and length of a request. -/
def reqRun : FabricReq → Nat × Nat
  | .read a n => (a, n)
  | .write a bs => (a, bs.length)
  | .atomic _ a n _ _ => (a, n)

/-- The lowest entry that admits a request (R380). -/
def State.importFor (s : State) (node world a n : Nat) : Option Nat :=
  (s.fab.imports.find? (fun x =>
    let e := x.2.toNat
    s.impValid e && decide (bits e 16 11 ≤ node ∧ node ≤ bits e 27 11) && decide (bits e 4 6 = world)
      && decide (impBase e ≤ a ∧ a + n ≤ impBase e + impSize e))).map (fun x => x.2.toNat)

/-- The entry permits the operation. -/
def impAllows (e : Nat) : FabricReq → Bool
  | .read _ _ => bit e 1
  | .write _ _ => bit e 2
  | .atomic _ _ _ _ _ => bit e 1 && bit e 2 && bit e 3

/-- A run touches a line that is not yet confirmed. -/
def State.runUnconfirmed (s : State) (a n : Nat) : Bool :=
  s.unconf.any (fun u => (linesOf a n).any (fun l => decide (l / 2 = u.line)))

/-- The home drops every coherent die copy of the lines of a run: a write of another node is performed when it is
acknowledged (R120, R381). -/
def State.dropCopies (s : State) (a n : Nat) : State :=
  { s with cache := s.cache.filter (fun c => c.remote || c.inv.isSome || !(linesOf a n).any (fun l => decide (l / 2 = c.line))) }

/-- The answer to a request of another node. -/
def State.respond (s : State) (ans : RemoteAns) : State := { s with fab := { s.fab with answered := some ans } }

/-- Hosts that may hold a line which another node has written are snooped, and the line is unconfirmed until they have answered
(R373). -/
def State.snoopHosts (s : State) (line : Nat) : State :=
  let ws := s.outerParties line
  if ws = [] then s
  else
    let prev := s.unconf.find? (fun u => decide (u.line = line))
    { s with unconf := { line := line
                         waiting := dedupN ((prev.map (fun u => u.waiting)).getD [] ++ ws), users := (prev.map (fun u => u.users)).getD [] }
               :: s.unconf.filter (fun u => decide (u.line ≠ line)) }

/-- Another node's write is answered once it is device-performed: when its lines are confirmed (R381). -/
def State.respondAfter (s : State) (lines : List Nat) (ans : RemoteAns) : State :=
  if s.unconf.any (fun u => lines.contains u.line) then { s with fab := { s.fab with owed := s.fab.owed ++ [(lines, ans)] } }
  else s.respond ans

/-- Another node writes bytes: die copies go at once, and hosts are snooped. -/
def State.peerWrite (s : State) (world a : Nat) (bs : List Byte) : State :=
  (dedupN ((linesOf a bs.length).map (fun l => l / 2))).foldl (fun (s : State) l => s.snoopHosts l)
    ((s.dropCopies a bs.length).pokeCells world (cellsOf a bs))

/-- An admitted request acts at the home directory in its local world (R380). -/
def State.serve (s : State) (world : Nat) (req : FabricReq) : State :=
  match req with
  | .read a n =>
    let r := s.checkRead (some world) a n
    if r.2 then r.1.respond (.refused (BitVec.ofNat 8 cPoison)) else r.1.respond (.value (r.1.peek a n))
  | .write a bs => (s.peerWrite world a bs).respondAfter ((linesOf a bs.length).map (fun l => l / 2)) (.value [])
  | .atomic op a n b cmp =>
    let r := s.checkRead (some world) a n
    if r.2 then r.1.respond (.refused (BitVec.ofNat 8 cPoison))
    else
      let old := r.1.peekNat a n
      let s := match atomNew op (8 * n) old (b.toNat % 2 ^ (8 * n)) (cmp.toNat % 2 ^ (8 * n)) with
        | some v => r.1.peerWrite world a (leBytes n v)
        | none => r.1
      s.respondAfter ((linesOf a n).map (fun l => l / 2)) (.value (leBytes n old))

/-- FABRIC_REQUEST (R380): `req` from node `a` and world `b`; it waits while one of its lines is not confirmed (R125). -/
def execFabricRequest (s : State) : Out :=
  let run := reqRun s.arg.req
  .next (if s.plat.boot ≠ .running ∨ !s.fab.ports.any (fun e => e.2.up) then s
    else match s.importFor s.arg.a s.arg.b run.1 run.2 with
      | none => s.respond (.refused (BitVec.ofNat 8 cWorld))
      | some e =>
        if !impAllows e s.arg.req then s.respond (.refused (BitVec.ofNat 8 cPerm))
        else if s.runUnconfirmed run.1 run.2 then s
        else s.serve (impWorld e) s.arg.req)

/-- FLIT_RECEIVE (R378, R392): a flit on port `a`. With `flag` clear its CRC fails, and the link replays it. A flit of
protected world `b` that names slot `c`, and that fails authentication (`val` 0) or names an empty slot, refuses its
request: request `nums` of this device, or with none a request of another node. -/
def execFlitReceive (s : State) : Out :=
  let w := s.world s.arg.b
  .next (if !(tgetD s.fab.ports s.arg.a { up := false, failed := 0, nodes := [] }).up ∨ !s.arg.flag ∨ !w.protected then s
    else if s.arg.val ≠ 0#64 ∧ (tget w.groupKeys s.arg.c).isSome then s
    else match s.arg.nums with
      | id :: _ => s.refuseRequest id
      | [] => s.respond (.refused (BitVec.ofNat 8 cPoison)))

/-! ### Links -/

/-- A Nymnik port. -/
def State.port (s : State) (k : Nat) : Port := tgetD s.fab.ports k { up := false, failed := 0, nodes := [] }
/-- Puts a Nymnik port. -/
def State.putPort (s : State) (k : Nat) (p : Port) : State := { s with fab := { s.fab with ports := tset s.fab.ports k p } }

/-- The I/O die that RAS records name for a port: ports 0 to 8 on die 8, 9 to 17 on die 9 (log 13, DESIGN CHOICE). -/
def portDie (k : Nat) : Nat := 8 + k / 9

/-- LANE_SPARE (R378): the first failed lane of port `a` is replaced by the spare. -/
def execLaneSpare (s : State) : Out :=
  let p := s.port s.arg.a
  .next (if !p.up ∨ p.failed ≠ 0 then s else (s.putPort s.arg.a { p with failed := 1 }).ras 10 (portDie s.arg.a) s.arg.a 0)

/-- PORT_DOWN (R378): a second lane of port `a` has failed. -/
def execPortDown (s : State) : Out :=
  let p := s.port s.arg.a
  .next (if !p.up ∨ p.failed = 0 then s
    else (s.putPort s.arg.a { p with up := false, failed := 2 }).ras 11 (portDie s.arg.a) s.arg.a 0)

/-- The compute dies leave reset once the firmware has tried every CXL and Nymnik port and set the bring-up parameters (R395). -/
def State.maybeRun (s : State) : State :=
  if s.plat.boot = .firmware ∧ s.plat.paramsSet ∧ (List.range 20).all s.plat.portsTried.contains then
    { s with plat := { s.plat with boot := .running } }
  else s

/-- The firmware has tried to train a port (R395). -/
def State.tried (s : State) (k : Nat) : State :=
  { s with plat := { s.plat with portsTried := dedupN (s.plat.portsTried ++ [k]) } }.maybeRun

/-- NYMNIK_PORT_TRAINING (R378, R381, R395): port `a` trains and leads to the nodes `nums`; with `flag` it fails and stays down, as does
a port that a second lane failure has taken down. -/
def execNymnikPortTraining (s : State) : Out :=
  .next (if 18 ≤ s.arg.a ∨ (s.plat.boot ≠ .firmware ∧ s.plat.boot ≠ .running) ∨ (s.port s.arg.a).up then s
    else if s.arg.flag ∨ (s.port s.arg.a).failed = 2 then s.tried (2 + s.arg.a)
    else (s.putPort s.arg.a { up := true, failed := 0, nodes := s.arg.nums.filter (fun n => decide (n ≤ 1151)) }).tried (2 + s.arg.a))

/-- CXL_PORT_TRAINING (R370): CXL port `a` trains at `b` GT/s with `c` lanes in 256-byte flit mode, to a host or with `flag` to a
switch, with the IDE settings `nums`, or, where it can do neither, stays down with a RAS record. -/
def execCxlPortTraining (s : State) : Out :=
  .next (if 2 ≤ s.arg.a ∨ (s.plat.boot ≠ .firmware ∧ s.plat.boot ≠ .running) then s
    else if (s.arg.b = 64 ∨ s.arg.b = 32) ∧ (s.arg.c = 16 ∨ s.arg.c = 8) then
      { s with host := { s.host with
        cxl := tset s.host.cxl s.arg.a (s.arg.b, s.arg.c)
        switched := s.host.switched.filter (fun k => decide (k ≠ s.arg.a)) ++ (if s.arg.flag then [s.arg.a] else [])
        ide := tset s.host.ide s.arg.a s.arg.nums } }.tried s.arg.a
    else ({ s with host := { s.host with cxl := tdel s.host.cxl s.arg.a } }.ras 15 (8 + s.arg.a) s.arg.a 0).tried s.arg.a)

/-! ### Hosts (R371 to R377) -/

/-- Puts a logical device. -/
def State.putLd (s : State) (k : Nat) (x : Ld) : State := { s with host := { s.host with lds := tset s.host.lds k x } }

/-- A CXL port is up: without one no access of a host reaches the device (R370), and in recovery the ports offer CXL.io alone
(R395). -/
def State.linked (s : State) : Bool := !s.host.cxl.isEmpty && decide (s.plat.boot ≠ .recovery)

/-- Logical devices that the CXL ports give: 1 for a port attached to a host directly, up to 16 behind a switch (R370; log 60,
DEDUCED for two ports). -/
def State.ldLimit (s : State) : Nat :=
  min 16 (s.host.cxl.foldl (fun n e => n + if s.host.switched.contains e.1 then 16 else 1) 0)

/-- LD_BINDING_CHANGE (R371): logical device `a` is bound to host `b`, behind the CXL port that `nums` names, which assigns a capacity
window of `c` bytes, or, without `flag`, to none; not while a world is assigned to it. -/
def execLdBindingChange (s : State) : Out :=
  .next (if s.ldLimit ≤ s.arg.a ∨ s.worlds.any (fun e => decide (e.2.ld = some s.arg.a)) then s
    else s.putLd s.arg.a { host := if s.arg.flag then some s.arg.b else none, hdm := []
                           capacity := if s.arg.flag then s.arg.c else 0, port := s.arg.nums.headD 0 })

/-- HDM_DECODER_COMMIT (R372): of LD `a`, host addresses from `b` on for `c` bytes, to the physical bytes from `nums` on. -/
def execHdmDecoderCommit (s : State) : Out :=
  let pa := s.arg.nums.headD 0
  let ok (e : Nat × World) : Bool := decide (e.2.ld = some s.arg.a) && e.2.holds pa s.arg.c
  .next (if s.arg.c = 0 ∨ !s.linked then s
    else match s.worlds.find? ok with
      | none => s
      | some e =>
        let l := s.ldAt s.arg.a
        s.putLd s.arg.a { l with hdm := l.hdm ++ [{ base := s.arg.b, size := s.arg.c, pa := pa, world := e.1 }] })

/-- The decoder of an LD that matches a host access, with the first physical byte. -/
def State.decoder (s : State) (ld a n : Nat) : Option (Nat × Nat) :=
  ((s.ldAt ld).hdm.find? (fun h => decide (h.base ≤ a ∧ a + n ≤ h.base + h.size))).map (fun h => (h.world, h.pa + (a - h.base)))

/-- What a host read returns: bytes, or poison. -/
def State.hostGets (s : State) (bs : List Byte) (poison : Bool) : State := { s with host := { s.host with lastRead := some (bs, poison) } }

/-- HOST_HDM_READ (R372, R373): LD `a`, address `b`, `c` bytes; it waits for the confirmation of its lines. -/
def execHostHdmRead (s : State) : Out :=
  .next (if !s.linked then s
    else match s.decoder s.arg.a s.arg.b s.arg.c with
    | none => s.hostGets [] true
    | some (w, pa) =>
      if s.runUnconfirmed pa s.arg.c then s
      else
        let r := s.checkRead (some w) pa s.arg.c
        if r.2 then r.1.hostGets [] true else r.1.hostGets (r.1.peek pa s.arg.c) false)

/-- HOST_HDM_WRITE (R372, R373): LD `a`, address `b`, the bytes `bytes`; its lines are then unconfirmed until every die has
acknowledged, and the completion is sent to the host when they are confirmed. -/
def execHostHdmWrite (s : State) : Out :=
  .next (if !s.linked then s
    else match s.decoder s.arg.a s.arg.b s.arg.bytes.length with
    | none => s
    | some (w, pa) =>
      let lines := dedupN ((linesOf pa s.arg.bytes.length).map (fun l => l / 2))
      let s := s.storeCells none w s.ioStamp (cellsOf pa s.arg.bytes)
      ({ s with host := { s.host with writes := tset s.host.writes s.nextId lines } }.bump).sendDone)

/-- A dropped write of a function is counted; NDROP saturates (R375). -/
def State.countDropped (s : State) (fn : Nat) : State :=
  match tget s.host.fns fn with
  | none => s
  | some f =>
    let n : DWord := if f.ndrop = 0xFFFFFFFFFFFFFFFF#64 then f.ndrop else f.ndrop + 1#64
    { s with host := { s.host with fns := tset s.host.fns fn { f with ndrop := n } } }

/-- The register pair of a queue is one that the function reaches (R375). -/
def State.reaches (s : State) (fn q : Nat) : Bool :=
  match tget s.host.fns fn with
  | some f => decide (q < Config.queues) && decide ((s.queue q).world = f.world)
  | none => false

/-- The access is one aligned one of 8 bytes: `c` bytes at the offset within the register that `nums` gives, 0 with none (R375). -/
def State.whole8 (s : State) : Bool := decide (s.arg.c = 8) && decide (s.arg.nums.headD 0 = 0)

/-- A host reads `c` bytes of a 64-bit register, at the offset within it that `nums` gives (R375). -/
def State.hostReads (s : State) (v : Nat) : State := s.hostGets (((leBytes 8 v).drop (s.arg.nums.headD 0)).take s.arg.c) false

/-- ICTL of a queue (R375). -/
def Queue.ictl (q : Queue) : Nat := q.vec.toNat + b2n q.ce * 2 ^ 11 + b2n q.ee * 2 ^ 12

/-- NOTIFY (R349, R375): function `a` writes `val` to the notify register of queue `b` with a write of `c` bytes, or, with `flag`, reads
WC there. An access to another world's pair is dropped and counted; a read then gives no data. -/
def execNotify (s : State) : Out :=
  let k := s.arg.b
  let q := s.queue k
  let wc := s.arg.val.toNat
  .next (if !s.linked then s
    else if s.arg.flag then (if s.reaches s.arg.a k then s.hostReads q.wc else (s.countDropped s.arg.a).hostGets [] true)
    else if !s.reaches s.arg.a k ∨ !s.whole8 ∨ q.state ≠ 1#3 then s.countDropped s.arg.a
    else if wc = q.wc then s
    else if wc < q.wc ∨ q.rc + q.nrec < wc then s.queueError k
    else ((s.putQueue k { q with wc := wc }).notePush k q.wc).fillWindow k 32)

/-- ICTL (R375): function `a` writes `val` to the interrupt register of queue `b` with a write of `c` bytes, or, with `flag`, reads it. -/
def execIctl (s : State) : Out :=
  let k := s.arg.b
  let v := s.arg.val.toNat
  .next (if !s.linked then s
    else if s.arg.flag then (if s.reaches s.arg.a k then s.hostReads (s.queue k).ictl else (s.countDropped s.arg.a).hostGets [] true)
    else if !s.reaches s.arg.a k ∨ !s.whole8 ∨ bits v 13 51 ≠ 0 then s.countDropped s.arg.a
    else s.putQueue k { s.queue k with vec := BitVec.ofNat 11 v, ce := bit v 11, ee := bit v 12 })

/-- NDROP_CLEAR (R375): a host writes `val` to the NDROP of function `a`, which 0 clears, or, with `flag`, reads it. -/
def execNdropClear (s : State) : Out :=
  .next (if !s.linked then s
    else match tget s.host.fns s.arg.a with
    | none => s
    | some f =>
      if s.arg.flag then s.hostReads f.ndrop.toNat
      else if s.arg.val ≠ 0#64 then s
      else { s with host := { s.host with fns := tset s.host.fns s.arg.a { f with ndrop := 0#64 } } })

/-- MSIX_VECTOR_UNMASK (R377): the host unmasks vector `b` of function `a`, and a pending message is sent; with `flag` it
masks the vector. -/
def execMsixVectorUnmask (s : State) : Out :=
  let v := s.arg.b
  .next (if !s.linked then s
    else match tget s.host.fns s.arg.a with
    | none => s
    | some f =>
      let f' : Fn := if s.arg.flag then { f with masked := dedupN (f.masked ++ [v]) }
        else { f with
          masked := f.masked.filter (fun k => decide (k ≠ v)), pending := f.pending.filter (fun k => decide (k ≠ v))
          sent := if f.pending.contains v ∧ f.masked.contains v then f.sent ++ [v] else f.sent }
      { s with host := { s.host with fns := tset s.host.fns s.arg.a f' } })

end Sys2Proof.Machine
end

