-- ==== Sys2Proof/Machine/CareEvents.lean ====
section
/-! DEFINITION. Worlds and trust (R385 to R394), boot and bring-up (R395 to R397), power (R398), thermal trips (R399), layers and
scrubbing (R107 to R110, R401). -/

namespace Sys2Proof.Machine

/-! ### DRAM -/

/-- What has condemned a layer is dealt with (R107, R108). -/
def State.handled (s : State) (stack layer : Nat) : State :=
  { s with plat := { s.plat with failing := s.plat.failing.filter (fun k => decide (k ≠ 16 * stack + layer)) } }

/-- A layer is condemned: an uncorrectable error in it, or too many corrected ones (R107). -/
def State.condemned (s : State) (stack layer : Nat) : Bool := s.plat.failing.contains (16 * stack + layer)

/-- LAYER_RETIRE (R107): layer `b` of stack `a`, which is condemned; the spare layer begins its rebuild. -/
def execLayerRetire (s : State) : Out :=
  let st := s.stackAt s.arg.a
  .next (if 8 ≤ s.arg.a ∨ 16 ≤ s.arg.b ∨ st.out ∨ st.retired ≠ [] ∨ !s.condemned s.arg.a s.arg.b then s
    else ((s.handled s.arg.a s.arg.b).putStack s.arg.a { st with retired := [s.arg.b], rebuild := some s.arg.b }).ras 3 s.arg.a s.arg.b 0)

/-- A line lies in a layer of a stack (log 5, DESIGN CHOICE). -/
def State.inLayer (s : State) (stack layer line : Nat) : Bool :=
  decide (s.channelOf (line / 8) / 96 = stack) && decide ((Config.layerOf (line / 8)).val = layer)

/-- LAYER_REBUILD_DONE (R107): the layer map of stack `a` switches; a sector that ECC could not correct is poisoned on the
spare, and a corrected one is written whole. -/
def execLayerRebuildDone (s : State) : Out :=
  let st := s.stackAt s.arg.a
  .next (match st.rebuild with
    | none => s
    | some layer =>
      let side := s.side.map (fun (e : Nat × Side) =>
        if s.inLayer s.arg.a layer e.1 then (e.1, { e.2 with errs := 0, pz := e.2.pz || decide (e.2.errs = 2) }) else e)
      (({ s with side := side }.handled s.arg.a layer).putStack s.arg.a { st with rebuild := none }).ras 4 s.arg.a layer 0)

/-- SECOND_LAYER_FAILURE (R108): layer `b` of stack `a`, condemned after a takeover (the number of the layer that was taken over
stands for the spare), stays in service; a record is made each time. -/
def execSecondLayerFailure (s : State) : Out :=
  let st := s.stackAt s.arg.a
  .next (if st.retired = [] ∨ st.rebuild = some s.arg.b ∨ 16 ≤ s.arg.b ∨ !s.condemned s.arg.a s.arg.b then s
    else ((s.handled s.arg.a s.arg.b).putStack s.arg.a { st with retired := dedupN (st.retired ++ [s.arg.b]) }).ras 5 s.arg.a s.arg.b 0)

/-- SCRUB_LINE (R110): scrub-pending line `a` becomes zeros, which every later owner reads as zeros; other lines are skipped. -/
def execScrubLine (s : State) : Out :=
  .next (if !(s.sideAt s.arg.a).sp then s else { s with mem := czero s.mem (s.arg.a * 64) 64 }.putSide s.arg.a Side.init)

/-! ### ECC of on-chip SRAM (R402) -/

/-- A die-cache line with an uncorrectable error is lost: what was clean is fetched again, and a dirty sector is poisoned in
memory (R402). -/
def State.loseLine (s : State) (die line : Nat) : State :=
  let mine (c : DieLine) : Bool := decide (c.die = die ∧ c.line = line)
  let dirty (i : Nat) : Bool := s.cache.any (fun c => mine c && !c.remote && c.data.isNone && c.dirty.getLsbD i)
  let s := (List.range 2).foldl (fun (s : State) i =>
    if dirty i then s.putSide (2 * line + i) { s.sideAt (2 * line + i) with pz := true } else s) s
  { s with cache := s.cache.filter (fun c => !mine c) }

/-- An error in a 64-bit word of on-chip SRAM, which the scrub or a use has found: place 0 to 3 is word `ys` of `w:`, `a:`, `c:`
or `l:` of core `x`, place 4 to 6 the vector, scalar or predicate words `ys` of wave `x`, place 7 line `ys` of the cache of die
`x`, place 8 words `ys` of the SRAM of I/O die `x`, which no rule reads or writes. The spec gives no layout of registers in words, so that the event names the registers (log 52, DESIGN CHOICE). A corrected
error is counted, TYPE 6; an uncorrectable one is TYPE 7 and spoils the word (R402). -/
def State.sramError (s : State) (place x : Nat) (ys : List Nat) (hard : Bool) : State :=
  let type := if hard then 7 else 6
  if place < 4 then
    let c := s.core x
    if Config.cores ≤ x then s
    else
      let bad := ys.foldl (fun l y => if l.contains (place, y) then l else (place, y) :: l) c.badWords
      let c' := if hard then { c with badWords := bad } else c
      (s.putCore x c').ras type (dieOf x) x 0
  else if place < 7 then
    match tget s.waves x with
    | none => s
    | some w =>
      let g := w.regs
      let g' : Regs :=
        if place = 4 then { g with vBad := dedupN (ys ++ g.vBad) }
        else if place = 5 then { g with sBad := dedupN (ys ++ g.sBad) }
        else { g with pBad := dedupN (ys ++ g.pBad) }
      (if hard then s.putWave x { w with regs := g' } else s).ras type (dieOf w.core) w.core 0
  else if place = 8 then
    if x ≠ 8 ∧ x ≠ 9 then s
    else
      let bad := (ys.filter (fun y => decide (8 * y < Config.ioSramBytes))).map (fun y => (x, y))
      (if hard then { s with plat := { s.plat with ioBad := bad ++ s.plat.ioBad.filter (fun b => !bad.contains b) } } else s).ras type x 0 0
  else
    let line := ys.headD 0
    (if hard then s.loseLine x line else s).ras type x 0 (line * 128)

/-- PATROL_SCRUB (R401, R402): the scrubber reads line `a`; `b` is the ECC class that the array shows there (0 none, 1 corrected, 2
uncorrectable), and `flag` says that the bits under the MAC have changed. The read is a request of class 3 without a deadline. A corrected line is rewritten, and a poisoned line
stays as it is. Where `nums` gives a place, a number and words, it is an error of class `b` in on-chip SRAM instead. -/
def execPatrolScrub (s : State) : Out :=
  let x := s.sideAt s.arg.a
  .next (match s.arg.nums with
    | place :: k :: ys => if s.arg.b = 0 then s else s.sramError place k ys (decide (2 ≤ s.arg.b))
    | _ =>
      if x.sp ∨ 8 * 2 ^ 30 ≤ s.arg.a then s
      else
        let s := (s.request (s.arg.a * 64) { cls := 3, core := Config.cores, index := 9, deadline := none } false).putSide s.arg.a { x with errs := max x.errs (min s.arg.b 2), macBad := x.macBad || s.arg.flag }
        if (s.sideAt s.arg.a).errs = 2 then (s.rasLine 2 s.arg.a).condemn (s.lineLayer s.arg.a) else if x.pz then s else s.corrected s.arg.a)

/-- STACK_SELF_REFRESH (R398): stack `a`, whose pseudo-channels have seen no request for 1 ms. -/
def execStackSelfRefresh (s : State) : Out :=
  let st := s.stackAt s.arg.a
  let quiet := (List.range 96).all (fun i => match tget s.plat.chans (96 * s.arg.a + i) with
    | some c => c.pending.isEmpty
    | none => true)
  .next (if 8 ≤ s.arg.a ∨ st.out ∨ st.selfRefresh ∨ !quiet ∨ s.clock.toNat < st.lastReq + 1100000 then s
    else s.putStack s.arg.a { st with selfRefresh := true })

/-- STACK_SELF_REFRESH_EXIT (R398): stack `a`. -/
def execStackSelfRefreshExit (s : State) : Out :=
  let st := s.stackAt s.arg.a
  .next (if st.selfRefresh then s.putStack s.arg.a { st with selfRefresh := false } else s)

/-! ### Temperature and power -/

/-- A world has work on a die. -/
def State.worksOn (s : State) (world die : Nat) : Bool := s.wgs.any (fun e => decide (e.2.world = world) && decide (dieOf e.2.core = die))

/-- The sensors show `b` degrees at die `a` and a module draw of `c` watts (R399). -/
def State.sensed (s : State) : State :=
  { s with plat := { s.plat with temps := tset s.plat.temps s.arg.a s.arg.b, power := s.arg.c } }

/-- THERMAL_TRIP (R390, R397, R399): what the sensors show at die `a` trips it, where the die has reached TTRIP or the module draw
2,600 W. -/
def execThermalTrip (s : State) : Out :=
  let die := s.arg.a
  let s := s.sensed
  .next (if s.arg.b < s.plat.ttrip ∧ s.arg.c < 2600 then s else { s with
    plat := { s.plat with throttled := dedupN (s.plat.throttled ++ [die]) }
    worlds := s.worlds.map (fun (e : Nat × World) =>
      if e.2.protected && s.worksOn e.1 die then (e.1, { e.2 with tripped := dedupN (e.2.tripped ++ [die]) }) else e) }.ras 14 die 0 0)

/-- THERMAL_RELEASE (R390, R397, R399): what the sensors show at die `a` lifts its trip, where the die has come down to TREL and the
draw is below 2,500 W. -/
def execThermalRelease (s : State) : Out :=
  let die := s.arg.a
  let s := s.sensed
  .next (if s.plat.trel < s.arg.b ∨ 2500 ≤ s.arg.c then s else { s with
    plat := { s.plat with throttled := s.plat.throttled.filter (fun d => decide (d ≠ die)) }
    worlds := s.worlds.map (fun (e : Nat × World) => (e.1, { e.2 with tripped := e.2.tripped.filter (fun d => decide (d ≠ die)) })) })

/-- An engine of a core, by its class, has no queued operation: it is clock-gated, which changes no value (R398). -/
def State.engineGated (s : State) (core cls : Nat) : Bool := s.ops.all (fun e => decide (e.2.core ≠ core) || decide (e.2.cls ≠ cls))

/-- A core has no resident wave and no outstanding operation: every engine of it is gated (R398). Class 7 is that of an unfolding whose
notice has retired. -/
def State.coreIdle (s : State) (core : Nat) : Bool :=
  s.waves.all (fun e => decide (e.2.core ≠ core) || (match e.2.status with
    | .slot | .leaving _ => false
    | _ => true))
    && (List.range 8).all (s.engineGated core)

/-- A core that has been idle for a time takes a deeper power state. -/
def State.gate (s : State) (core n : Nat) (p : CorePower) : State :=
  let c := s.core core
  if core < Config.cores ∧ s.coreIdle core ∧ c.lastWork + n ≤ s.clock.toNat ∧ c.power ≠ .powerGated then
    s.putCore core { c with power := p, waking := none }
  else s

/-- CORE_CLOCK_GATE (R398): core `a`, after 256 clk. -/
def execCoreClockGate (s : State) : Out := .next (s.gate s.arg.a 256 .clockGated)
/-- CORE_POWER_GATE (R398): core `a`, after 65,536 clk. -/
def execCorePowerGate (s : State) : Out := .next (s.gate s.arg.a 65536 .powerGated)

/-- CORE_WAKE (R398): power-gated core `a` begins to wake, and has woken 2,048 clk later. -/
def execCoreWake (s : State) : Out :=
  let c := s.core s.arg.a
  .next (if c.power ≠ .powerGated then s
    else match c.waking with
      | none => s.putCore s.arg.a { c with waking := some s.clock.toNat }
      | some t =>
        if s.clock.toNat < t + 2048 then s
        else s.putCore s.arg.a { c with power := .on, waking := none, lastWork := s.clock.toNat })

/-! ### Fuses and boot (R394 to R397) -/

/-- The anti-rollback counter (R394): one more than the highest pair of which either bit is blown. -/
def counterOf (p : Platform) : Nat :=
  match ((List.range 64).filter (fun i => p.fuseBit.getLsbD i || p.fuseConfirm.getLsbD i)).getLast? with
  | some i => i + 1
  | none => 0

/-- The fields of an image's header (R396). -/
def imageVersion (i : Image) : Nat := bits i.header.toNat 0 7
@[inherit_doc imageVersion] def imageCommit (i : Image) : Bool := i.header.getLsbD 7
@[inherit_doc imageVersion] def imageReserved (i : Image) : Nat := bits i.header.toNat 8 24
@[inherit_doc imageVersion] def imageLength (i : Image) : Nat := bits i.header.toNat 32 32
@[inherit_doc imageVersion] def imageSig (i : Image) : BitVec 4096 := BitVec.ofNat 4096 (i.header.toNat / 2 ^ 64)

/-- What the signature covers: the header's fields before SIG, and the body (R396). -/
def imageSigned (i : Image) : List Byte := leBytes 8 (i.header.toNat % 2 ^ 64) ++ i.body

/-- The measurement of an image: SHA-512 of the whole (R388). -/
def imageDigest (i : Image) : BitVec 512 := Config.sha512 (leBytes 520 i.header.toNat ++ i.body)

/-- The boot ROM accepts an image (R394, R395, R396): its signature verifies under the fused key, its fields hold what they may, LENGTH is
that of the body, and its version is not below the counter. -/
def imageOk (i : Image) (counter : Nat) : Bool :=
  Config.pssValid Config.fusedKeyHash (imageSigned i) (imageSig i) && decide (imageReserved i = 0) && decide (imageLength i ≤ 64 * 2 ^ 20)
    && decide (i.body.length = imageLength i) && decide (imageVersion i ≤ 64) && decide (counter ≤ imageVersion i)

/-- The bits of a fuse pair that are not blown. -/
def unblown (p : Platform) (k : Nat) : List Nat :=
  (if p.fuseBit.getLsbD k then [] else [2 * k]) ++ (if p.fuseConfirm.getLsbD k then [] else [2 * k + 1])

/-- The fuse bits that a boot programs, in order: what is missing below the counter, and then, for an image that commits a higher
version, every pair up to it, the highest last (R394). -/
def fuseList (p : Platform) (i : Image) : List Nat :=
  let n := counterOf p
  (List.range (if imageOk i n && imageCommit i then max n (imageVersion i) else n)).flatMap (unblown p)

/-- Programs one fuse bit. -/
def blowBit (p : Platform) (k : Nat) : Platform :=
  let m : BitVec 64 := BitVec.ofNat 64 (2 ^ (k / 2))
  if k % 2 = 0 then { p with fuseBit := p.fuseBit ||| m } else { p with fuseConfirm := p.fuseConfirm ||| m }

/-- A firmware wave as the boot ROM starts it on a service core (R224, R395): its registers are free values but for the
special ones. -/
def firmwareWave (core fill length : Nat) : Wave :=
  let e : Entry := { pc := 0#32, prio := 0#16, ridx := 0, yld := false, hld := false, bwt := none, passed := false, mask := 1#32 }
  { sup := true, core := core, wg := 0, num := 0, world := 0, launch := 0#32, nv := 256, depth := 1, svc := 0
    codeBase := Config.firmwareBase, extent := length, valid := 1#32
    regs := { fill := some fill, v := [], s := [], p := [], vEmpty := [], sEmpty := [] }
    fpflags := 0#7, fpmode := 0#3, bundle := some e, others := [], exited := 0#32, snap := [e], clause := none, left := []
    ctl := false, yielded := 0#32, cnt := [0, 0, 0, 0, 0], seq := [0, 0, 0, 0, 0], ridges := [], lowerReq := false
    storeQ := [], loads := [], gates := [], status := .slot, stalled := false, hold := [], recKind := 0#2, recCnt := []
    recSeq := [], cause := none, denied := [], replay := none, edits := [], slotSince := some 0, charge := 0
    sv := SupRegs.init }

/-- The device as a fundamental reset leaves it: the model's own counters, what is to land, fuses and flash stay, and so does the
memory of the hosts and of the capacity tier, which is no part of the device (R87, R129). -/
def State.afterReset (s : State) : State :=
  { State.reset with
    agenda := s.agenda, arg := s.arg, free := s.free, nextId := s.nextId
    mem := s.mem.filter (fun c => decide (paKind c.1 ≠ 0)), side := s.side.filter (fun e => decide (paKind (e.1 * 64) ≠ 0))
    plat := { Platform.init with fuseBit := s.plat.fuseBit, fuseConfirm := s.plat.fuseConfirm, flash := s.plat.flash } }

/-- Stacks that fail training leave the address map, each with a record (R395). -/
def State.trainStacks (s : State) (failed : List Nat) : State :=
  (dedupN (failed.filter (fun k => decide (k < 8)))).foldl (fun (s : State) k =>
    (s.putStack k { s.stackAt k with out := true }).ras 15 k 0 0) s

/-- Starts the firmware in world 0 on every service core (R395). -/
def State.startFirmware (s : State) (length : Nat) (body : List Byte) : State :=
  let s := (List.range Config.serviceCores).foldl (fun (s : State) i =>
    ((s.putWave s.nextId (firmwareWave (Config.cores + i) s.free length)).bump).draw regFree) s
  { s with mem := cwrite s.mem Config.firmwareBase body, cur := 0 }

/-- The end of the boot ROM's work, once every fuse is programmed (R394, R395): recovery, or the firmware in world 0. -/
def State.romDone (s : State) (img : Image) (failed : List Nat) : State :=
  if !imageOk img (counterOf s.plat) then
    { s with plat := { s.plat with boot := .recovery, booting := none, meas := tset (tset [] 1 Config.romDigest) 2 (imageDigest img) } }
  else
    let meas := tset (tset (tset [] 1 Config.romDigest) 2 (imageDigest img)) 3 (Config.measure [imageVersion img, counterOf s.plat])
    ({ s with plat := { s.plat with boot := .firmware, booting := none, meas := meas, flash := some img } }.trainStacks failed).startFirmware
      (imageLength img) img.body

/-- The boot ROM goes on: the next fuse bit, and after the last one its end. A loss of power may come between any two (R394). -/
def State.romStep (s : State) : State :=
  match s.plat.booting with
  | none => s
  | some (img, failed) =>
    match s.plat.blowing with
    | [] => s.romDone img failed
    | k :: t =>
      let s : State := { s with plat := { blowBit s.plat k with blowing := t } }
      if t = [] then s.romDone img failed else s

/-- POWER_ON_RESET (R394, R395): the boot ROM runs on the flash's image, or on `img` where no update has replaced what the
module was shipped with; `nums` lists the stacks that fail training. With `flag`, a boot that programs fuses goes on. -/
def execPowerOnReset (s : State) : Out :=
  .next (if s.arg.flag ∧ s.plat.boot = .rom then s.romStep
    else
      let img := s.plat.flash.getD s.arg.img
      let failed := s.arg.nums
      let s := s.afterReset
      let l := fuseList s.plat img
      let s : State := { s with plat := { s.plat with boot := .rom, blowing := l, booting := some (img, failed) } }
      if l = [] then s.romDone img failed else s)

/-- FIRMWARE_UPDATE (R395): in recovery, image `img` is accepted into the flash. -/
def execFirmwareUpdate (s : State) : Out :=
  .next (if s.plat.boot = .recovery then { s with plat := { s.plat with flash := some s.arg.img } } else s)

/-- A parameter is absent or lies in a range (R397). -/
def inRange (x : Option Nat) (lo hi : Nat) : Bool :=
  match x with
  | some v => decide (lo ≤ v ∧ v ≤ hi)
  | none => true

/-- The parameters lie in their ranges (R397). -/
def State.bringOk (s : State) (p : BringUp) : Bool :=
  let priv := s.dramBytes - p.privateGiB.getD 2 * 2 ^ 30
  let trip := p.ttrip.getD 105
  let rel := p.trel.getD 95
  inRange p.node 0 1151 && inRange p.privateGiB 1 64 && inRange p.cethr 1 65535 && inRange p.ttrip 85 110 && inRange p.trel 85 110
    && decide (rel + 5 ≤ trip)
    && (match p.protBlock with
      | some a => decide (a % 64 = 0) && decide (priv ≤ a) && decide (a < s.dramBytes)
      | none => true)
    && p.serving.all (fun e => decide (e.1 < 64) && decide (1 ≤ e.2.length) && decide (e.2.length ≤ 16)
      && e.2.all (fun id => match tget s.waves id with
        | some w => w.sup
        | none => false))

/-- BRINGUP_PARAMETERS (R395, R397): the parameters `bring`; the compute dies leave reset when the ports are trained as well. A value
outside its range leaves the device in recovery. -/
def execBringupParameters (s : State) : Out :=
  let p := s.arg.bring
  .next (if s.plat.boot ≠ .firmware then s
    else if !s.bringOk p then { s with plat := { s.plat with boot := .recovery } }
    else
      let first := (s.waves.filter (fun e => e.2.sup)).map (fun e => e.1)
      let s := (List.range 64).foldl (fun (s : State) k =>
        let serving := match p.serving.find? (fun e => decide (e.1 = k)) with
          | some e => e.2
          | none => first.take 1
        s.putWorld k { s.world k with serving := serving }) s
      { s with plat := { s.plat with
        paramsSet := true, node := p.node.getD 0, privateGiB := p.privateGiB.getD 2, protBlock := p.protBlock
        cethr := p.cethr.getD 256, ttrip := p.ttrip.getD 105, trel := p.trel.getD 95 } }.maybeRun)

/-- POWER_LOSS (R394): the device stops. Fuse bits that are not yet programmed stay as they are. Only a power-on follows. -/
def execPowerLoss (s : State) : Out :=
  .next { s with
    plat := { s.plat with boot := .lost, blowing := [], booting := none }
    agenda := s.agenda.dropWhile (fun e => decide (e.1 ≠ .powerOnReset)) }

/-! ### Worlds (R384 to R393) -/

/-- WORLD_BIND (R385): world `a` to function `b` of logical device `c`; its key set is generated. Vectors begin masked
(log 13, DESIGN CHOICE). -/
def execWorldBind (s : State) : Out :=
  let x := s.world s.arg.a
  .next (if s.arg.a = 0 ∨ 64 ≤ s.arg.a ∨ x.bound ∨ (tget s.host.lds s.arg.c).isNone ∨ (tget s.host.fns s.arg.b).isSome then s
    else
      let f : Fn := { world := s.arg.a, ndrop := 0#64, vectors := 2048, masked := List.range 2048, pending := [], sent := [], ld := s.arg.c }
      { (s.dropTlb (fun t => decide (t.world = s.arg.a))).putWorld s.arg.a { x with bound := true, fn := some s.arg.b, ld := some s.arg.c, keyGen := x.keyGen + 1 } with
        host := { s.host with fns := tset s.host.fns s.arg.b f } })

/-- The responder supports the selection of a session request (R388): versions 1.2 and 1.3 as 12 and 13; algorithms by
number: 0 RSASSA-PSS 4,096, 0 SHA-512, 0 ffdhe4096 or 1 P-384, 0 AES-256-GCM (log 13, DESIGN CHOICE). -/
def spdmOk (version asym hash kex aead heartbeat : Nat) : Bool :=
  (decide (version = 12) || decide (version = 13)) && decide (asym = 0) && decide (hash = 0) && decide (kex ≤ 1) && decide (aead = 0)
    && decide (1 ≤ heartbeat) && decide (heartbeat ≤ 255)

/-- The responder's answer. -/
def State.spdmSays (s : State) (x : Option (BitVec 512)) : State := { s with plat := { s.plat with spdmAnswer := x } }

/-- SPDM_REQUEST (R388): request `spdm`; measurements 4 and 5 are those of world `a`, and the device's certificate chain lies in slot 0. -/
def execSpdmRequest (s : State) : Out :=
  .next (if s.plat.boot ≠ .firmware ∧ s.plat.boot ≠ .running ∧ s.plat.boot ≠ .recovery then s
    else match s.arg.spdm with
      | .measure i =>
        let k := if i < 4 then i else 64 * i + s.arg.a
        if 1 ≤ i ∧ i ≤ 5 then s.spdmSays (tget s.plat.meas k) else s.spdmSays none
      | .certificate slot =>
        { s with plat := { s.plat with spdmChain := if slot = 0 then some (Config.certChain Config.identityKey) else none } }
      | .session version asym hash kex aead hb =>
        if spdmOk version asym hash kex aead hb then
          ({ s with plat := { s.plat with spdmSessions := tset s.plat.spdmSessions s.nextId hb } }.spdmSays
            (some (BitVec.ofNat 512 s.nextId))).bump
        else s.spdmSays none)

/-- The protected-mode configuration block admits a world (R389): SLICE and CORES, none where the lock fails. -/
def State.protConfig (s : State) (world : Nat) : Option (Nat × List Nat) :=
  match s.plat.protBlock with
  | none => none
  | some a =>
    let head := s.peekNat a 64
    let mine := s.peekNat (a + 64 + 64 * world) 64
    let sound := (List.range 64).all (fun k => decide (bits (s.peekNat (a + 64 + 64 * k) 64) 320 192 = 0))
    let cores := (List.range Config.cores).filter (fun k => bit mine k)
    if bits head 0 32 = 0 ∨ bits head 32 480 ≠ 0 ∨ !sound ∨ cores = [] then none else some (bits head 0 32, cores)

/-- The answer to a LOCK_INTERFACE request: `bad` is a TDISP error (R389). -/
def State.tdispSays (s : State) (world : Nat) (bad : Bool) : State := { s with plat := { s.plat with tdispAnswer := some (world, bad) } }

/-- The CXL link of a logical device's port and its IDE settings, as measurement 5 takes them (R388). -/
def State.linkOf (s : State) (ld : Nat) : List Nat :=
  let k := (s.ldAt ld).port
  let x := tgetD s.host.cxl k (0, 0)
  [k, x.1, x.2] ++ tgetD s.host.ide k []

/-- LOCK_INTERFACE (R388, R389): world `a` in session `b`; measurements 4 and 5 are taken, or the request fails with a TDISP error. -/
def execLockInterface (s : State) : Out :=
  let k := s.arg.a
  let x := s.world k
  let live := s.launches.any (fun e => decide (e.2.world = k))
  let taken := s.worlds.any (fun e => decide (e.1 ≠ k) && decide (e.2.session = some s.arg.b))
  .next (if !x.bound ∨ x.tdisp ≠ .configUnlocked ∨ live ∨ taken ∨ (tget s.plat.spdmSessions s.arg.b).isNone then s.tdispSays k true
    else match s.protConfig k with
      | none => s.tdispSays k true
      | some (slice, cores) =>
        let block := s.peek (s.plat.protBlock.getD 0) (64 + 64 * 64)
        let ld := x.ld.getD 0
        let meas := tset (tset s.plat.meas (64 * 4 + k) (Config.sha512 block)) (64 * 5 + k) (Config.measure (k :: ld :: s.linkOf ld))
        ({ s.putWorld k { x with tdisp := .configLocked, session := some s.arg.b, slice := slice, cores := cores } with
          plat := { s.plat with meas := meas } }).tdispSays k false)

/-- TDI_ENTER_RUN (R389): world `a`. -/
def execTdiEnterRun (s : State) : Out :=
  let x := s.world s.arg.a
  .next (if x.tdisp = .configLocked ∧ !x.leaving then s.putWorld s.arg.a { x with tdisp := .run } else s)

/-- A group-key message is accepted: the world is protected, and the message came in its own session (R391). -/
def World.admitsKey (x : World) (slot session : Nat) : Bool := x.protected && !x.leaving && decide (slot < 2) && decide (x.session = some session)

/-- SET_GROUP_KEY (R391): slot `b` of world `a`, in session `c`: identifier `val` and key `key`. -/
def execSetGroupKey (s : State) : Out :=
  let x := s.world s.arg.a
  .next (if x.admitsKey s.arg.b s.arg.c then
      s.putWorld s.arg.a { x with groupKeys := tset x.groupKeys s.arg.b (BitVec.ofNat 32 s.arg.val.toNat, s.arg.key) }
    else s)

/-- SWITCH_GROUP_KEY (R391): world `a` sends with slot `b`; the message came in session `c`. -/
def execSwitchGroupKey (s : State) : Out :=
  let x := s.world s.arg.a
  .next (if x.admitsKey s.arg.b s.arg.c then s.putWorld s.arg.a { x with sendSlot := some s.arg.b } else s)

/-- Writes of an entry to host memory beyond the cut at the next 128-byte boundary are dropped (R393). -/
def QEntry.cut (q : QEntry) : QEntry :=
  let host := q.lanes.filter (fun l => decide (paKind l.pa = 2))
  match host with
  | [] => q
  | x :: _ => { q with lanes := q.lanes.filter (fun l => decide (paKind l.pa ≠ 2) || decide (l.pa / 128 = x.pa / 128)) }

/-- Data that a load still awaits from host memory beyond the cut arrives poisoned (R393). -/
def LoadOp.cut (l : LoadOp) : LoadOp :=
  let host := l.lanes.filterMap (fun x => match x.2 with
    | .phys pa | .half pa _ _ => if paKind pa = 2 then some pa else none
    | _ => none)
  match host with
  | [] => l
  | a :: _ => { l with lanes := l.lanes.map (fun x => match x.2 with
      | .phys pa | .half pa _ _ => if paKind pa = 2 ∧ pa / 128 ≠ a / 128 then (x.1, .cut) else x
      | _ => x) }

/-- A wave's transfers to and from the host are cut: a returning atomic beyond the cut gives poisoned data (R393). -/
def Wave.cut (w : Wave) : Wave :=
  let lost := w.storeQ.flatMap (fun q => match q.kind with
    | .atomic _ n (some d) => (q.lanes.filter (fun l => !q.cut.lanes.contains l)).map (fun l => (d, n / 4, l.lane))
    | _ => [])
  { w with
    storeQ := w.storeQ.map QEntry.cut, loads := w.loads.map LoadOp.cut
    regs := lost.foldl (fun (g : Regs) x => (g.setFull x.1 x.2.1 x.2.2).setBad x.1 x.2.1 x.2.2) w.regs }

/-- A world leaves its running state (R393, steps 1 to 3): queues stop and waiting QPUSHes fail, transfers to and from the host are cut,
records that barriers have left become KIND 2, and from now on its waves are lowered and its operations suspended by R364. -/
def State.leaveRun (s : State) (world : Nat) : State :=
  let s := (s.queues.filter (fun e => decide (e.2.world = world))).foldl (fun (s : State) e => s.failPushes e.1) s
  let queues := s.queues.map (fun (e : Nat × Queue) =>
    if e.2.world = world ∧ e.2.state = 1#3 then (e.1, { e.2 with state := 2#3 }) else e)
  let waves := s.waves.map (fun (e : Nat × Wave) =>
    if e.2.world = world ∧ !e.2.sup then
      (e.1, if e.2.status.inRecord then { e.2.cut with recKind := 2#2 } else e.2.cut) else e)
  { s with queues := queues, waves := waves }.putWorld world { s.world world with leaving := true }

/-- Every wave of a world is lowered, and every operation suspended, frozen or over (R393, step 3). -/
def State.worldStopped (s : State) (world : Nat) : Bool :=
  s.waves.all (fun e => decide (e.2.world ≠ world) || e.2.sup || e.2.status.inRecord || decide (e.2.status = .ended))
    && s.ops.all (fun e => decide (e.2.world ≠ world) || e.2.ghost || s.opSup e.2 || (match e.2.state with
      | .suspended | .frozen _ | .complete => true
      | _ => decide (e.2.kind = .posted)))

/-- TDI_LEAVE_RUN (R393): world `a` leaves RUN, or, once steps 1 to 3 are done, its TDI enters ERROR (step 4). -/
def execTdiLeaveRun (s : State) : Out :=
  let x := s.world s.arg.a
  .next (if x.leaving then
      (if s.worldStopped s.arg.a then s.putWorld s.arg.a { x with leaving := false, tdisp := .error } else s)
    else if x.tdisp = .run then s.leaveRun s.arg.a else s)

/-- The SPDM session of a world ends (R393). -/
def State.endSession (s : State) (world : Nat) : State :=
  match (s.world world).session with
  | none => s
  | some k =>
    let s := if (s.world world).protected then s.leaveRun world else s
    { s.putWorld world { s.world world with session := none } with
      plat := { s.plat with spdmSessions := tdel s.plat.spdmSessions k } }

/-- END_SESSION (R393): world `a`. -/
def execEndSession (s : State) : Out := .next (s.endSession s.arg.a)
/-- HEARTBEAT_EXPIRY (R393): a heartbeat period of world `a`'s session has passed with no message. -/
def execHeartbeatExpiry (s : State) : Out := .next (s.endSession s.arg.a)

/-- RETURN_TO_CONFIG_UNLOCKED (R393): world `a`; the world reset runs, and where its workgroups have not all ended, the event
comes again until its last step has taken effect. -/
def execReturnToConfigUnlocked (s : State) : Out :=
  let k := s.arg.a
  .next (if (s.world k).tdisp = .configUnlocked then s
    else
      let s := if (s.world k).protected then s.leaveRun k else s
      let s := s.resetBegin k
      if s.worldEmpty k then
        let s := s.resetEnd k
        s.putWorld k { s.world k with tdisp := .configUnlocked, leaving := false, session := none, cores := [], slice := 0 }
      else s.putWorld k { s.world k with resetBy := some 0 })

end Sys2Proof.Machine
end

