-- ==== Sys2Proof/Machine/Dispatch.lean ====
section
/-! DEFINITION. One arm for each row of the opcode table: the call of its meaning. -/

namespace Sys2Proof.Machine

/-- The meaning of an instruction or event. -/
def exec (i : Instr) (s : State) : Host.Outcome State Fault Refusal :=
  match i with
  | .iadd f => Sys2Proof.Machine.execIadd f s
  | .isub f => Sys2Proof.Machine.execIsub f s
  | .imul f => Sys2Proof.Machine.execImul f s
  | .imulh f => Sys2Proof.Machine.execImulh f s
  | .imad f => Sys2Proof.Machine.execImad f s
  | .imadw f => Sys2Proof.Machine.execImadw f s
  | .idiv f => Sys2Proof.Machine.execIdiv f s
  | .irem f => Sys2Proof.Machine.execIrem f s
  | .imin f => Sys2Proof.Machine.execImin f s
  | .imax f => Sys2Proof.Machine.execImax f s
  | .iabs f => Sys2Proof.Machine.execIabs f s
  | .ineg f => Sys2Proof.Machine.execIneg f s
  | .iadds f => Sys2Proof.Machine.execIadds f s
  | .isubs f => Sys2Proof.Machine.execIsubs f s
  | .andOp f => Sys2Proof.Machine.execAndOp f s
  | .orOp f => Sys2Proof.Machine.execOrOp f s
  | .xorOp f => Sys2Proof.Machine.execXorOp f s
  | .andn f => Sys2Proof.Machine.execAndn f s
  | .shl f => Sys2Proof.Machine.execShl f s
  | .shr f => Sys2Proof.Machine.execShr f s
  | .sar f => Sys2Proof.Machine.execSar f s
  | .shf f => Sys2Proof.Machine.execShf f s
  | .bfe f => Sys2Proof.Machine.execBfe f s
  | .bfi f => Sys2Proof.Machine.execBfi f s
  | .popc f => Sys2Proof.Machine.execPopc f s
  | .clz f => Sys2Proof.Machine.execClz f s
  | .ctz f => Sys2Proof.Machine.execCtz f s
  | .brev f => Sys2Proof.Machine.execBrev f s
  | .permb f => Sys2Proof.Machine.execPermb f s
  | .isetp f => Sys2Proof.Machine.execIsetp f s
  | .sel f => Sys2Proof.Machine.execSel f s
  | .mov f => Sys2Proof.Machine.execMov f s
  | .nop f => Sys2Proof.Machine.execNop f s
  | .psetp f => Sys2Proof.Machine.execPsetp f s
  | .p2v f => Sys2Proof.Machine.execP2v f s
  | .v2p f => Sys2Proof.Machine.execV2p f s
  | .iaddImm f => Sys2Proof.Machine.execIaddImm f s
  | .iaddImm64 f => Sys2Proof.Machine.execIaddImm64 f s
  | .imulImm f => Sys2Proof.Machine.execImulImm f s
  | .andImm f => Sys2Proof.Machine.execAndImm f s
  | .orImm f => Sys2Proof.Machine.execOrImm f s
  | .xorImm f => Sys2Proof.Machine.execXorImm f s
  | .movi f => Sys2Proof.Machine.execMovi f s
  | .moviI64 f => Sys2Proof.Machine.execMoviI64 f s
  | .moviF64 f => Sys2Proof.Machine.execMoviF64 f s
  | .lea f => Sys2Proof.Machine.execLea f s
  | .vote f => Sys2Proof.Machine.execVote f s
  | .matchOp f => Sys2Proof.Machine.execMatchOp f s
  | .shfl f => Sys2Proof.Machine.execShfl f s
  | .syncw f => Sys2Proof.Machine.execSyncw f s
  | .srd f => Sys2Proof.Machine.execSrd f s
  | .clock f => Sys2Proof.Machine.execClock f s
  | .bra f => Sys2Proof.Machine.execBra f s
  | .brx f => Sys2Proof.Machine.execBrx f s
  | .call f => Sys2Proof.Machine.execCall f s
  | .ret f => Sys2Proof.Machine.execRet f s
  | .exitOp f => Sys2Proof.Machine.execExitOp f s
  | .yield f => Sys2Proof.Machine.execYield f s
  | .fadd f => Sys2Proof.Machine.execFadd f s
  | .fsub f => Sys2Proof.Machine.execFsub f s
  | .fmul f => Sys2Proof.Machine.execFmul f s
  | .ffma f => Sys2Proof.Machine.execFfma f s
  | .fabs f => Sys2Proof.Machine.execFabs f s
  | .fneg f => Sys2Proof.Machine.execFneg f s
  | .fdiv f => Sys2Proof.Machine.execFdiv f s
  | .fsqrt f => Sys2Proof.Machine.execFsqrt f s
  | .frsq f => Sys2Proof.Machine.execFrsq f s
  | .fexp2 f => Sys2Proof.Machine.execFexp2 f s
  | .flog2 f => Sys2Proof.Machine.execFlog2 f s
  | .fscale f => Sys2Proof.Machine.execFscale f s
  | .fgetexp f => Sys2Proof.Machine.execFgetexp f s
  | .fcopysign f => Sys2Proof.Machine.execFcopysign f s
  | .fmin f => Sys2Proof.Machine.execFmin f s
  | .fmax f => Sys2Proof.Machine.execFmax f s
  | .fminm f => Sys2Proof.Machine.execFminm f s
  | .fmaxm f => Sys2Proof.Machine.execFmaxm f s
  | .fsetp f => Sys2Proof.Machine.execFsetp f s
  | .fclass f => Sys2Proof.Machine.execFclass f s
  | .frnd f => Sys2Proof.Machine.execFrnd f s
  | .fcvt f => Sys2Proof.Machine.execFcvt f s
  | .fcvtSat f => Sys2Proof.Machine.execFcvtSat f s
  | .fcvti t f => Sys2Proof.Machine.execFcvti t f s
  | .icvtf f => Sys2Proof.Machine.execIcvtf f s
  | .fpack f => Sys2Proof.Machine.execFpack f s
  | .funpk f => Sys2Proof.Machine.execFunpk f s
  | .fdot2 f => Sys2Proof.Machine.execFdot2 f s
  | .fqblk f => Sys2Proof.Machine.execFqblk f s
  | .fnxenc f => Sys2Proof.Machine.execFnxenc f s
  | .fnxdec f => Sys2Proof.Machine.execFnxdec f s
  | .ldGlobal f => Sys2Proof.Machine.execLdGlobal f s
  | .ldGlobalSigned f => Sys2Proof.Machine.execLdGlobalSigned f s
  | .ldScratch f => Sys2Proof.Machine.execLdScratch f s
  | .ldScratchSigned f => Sys2Proof.Machine.execLdScratchSigned f s
  | .ldWeight f => Sys2Proof.Machine.execLdWeight f s
  | .ldActivation f => Sys2Proof.Machine.execLdActivation f s
  | .ldAccumulator f => Sys2Proof.Machine.execLdAccumulator f s
  | .stGlobal f => Sys2Proof.Machine.execStGlobal f s
  | .stScratch f => Sys2Proof.Machine.execStScratch f s
  | .stWeight f => Sys2Proof.Machine.execStWeight f s
  | .stActivation f => Sys2Proof.Machine.execStActivation f s
  | .stAccumulator f => Sys2Proof.Machine.execStAccumulator f s
  | .ldn f => Sys2Proof.Machine.execLdn f s
  | .stn f => Sys2Proof.Machine.execStn f s
  | .padd f => Sys2Proof.Machine.execPadd f s
  | .psub f => Sys2Proof.Machine.execPsub f s
  | .peq f => Sys2Proof.Machine.execPeq f s
  | .plt f => Sys2Proof.Machine.execPlt f s
  | .ple f => Sys2Proof.Machine.execPle f s
  | .pname f => Sys2Proof.Machine.execPname f s
  | .pext f => Sys2Proof.Machine.execPext f s
  | .atomAdd f => Sys2Proof.Machine.execAtomAdd f s
  | .atomMin f => Sys2Proof.Machine.execAtomMin f s
  | .atomMinUnsigned f => Sys2Proof.Machine.execAtomMinUnsigned f s
  | .atomMax f => Sys2Proof.Machine.execAtomMax f s
  | .atomMaxUnsigned f => Sys2Proof.Machine.execAtomMaxUnsigned f s
  | .atomAnd f => Sys2Proof.Machine.execAtomAnd f s
  | .atomOr f => Sys2Proof.Machine.execAtomOr f s
  | .atomXor f => Sys2Proof.Machine.execAtomXor f s
  | .atomExch f => Sys2Proof.Machine.execAtomExch f s
  | .atomCas f => Sys2Proof.Machine.execAtomCas f s
  | .atomInc f => Sys2Proof.Machine.execAtomInc f s
  | .atomDec f => Sys2Proof.Machine.execAtomDec f s
  | .atomFadd f => Sys2Proof.Machine.execAtomFadd f s
  | .atomFmin f => Sys2Proof.Machine.execAtomFmin f s
  | .atomFmax f => Sys2Proof.Machine.execAtomFmax f s
  | .redAdd f => Sys2Proof.Machine.execRedAdd f s
  | .redMin f => Sys2Proof.Machine.execRedMin f s
  | .redMinUnsigned f => Sys2Proof.Machine.execRedMinUnsigned f s
  | .redMax f => Sys2Proof.Machine.execRedMax f s
  | .redMaxUnsigned f => Sys2Proof.Machine.execRedMaxUnsigned f s
  | .redAnd f => Sys2Proof.Machine.execRedAnd f s
  | .redOr f => Sys2Proof.Machine.execRedOr f s
  | .redXor f => Sys2Proof.Machine.execRedXor f s
  | .redInc f => Sys2Proof.Machine.execRedInc f s
  | .redDec f => Sys2Proof.Machine.execRedDec f s
  | .redFadd f => Sys2Proof.Machine.execRedFadd f s
  | .redFmin f => Sys2Proof.Machine.execRedFmin f s
  | .redFmax f => Sys2Proof.Machine.execRedFmax f s
  | .ldg2l f => Sys2Proof.Machine.execLdg2l f s
  | .prefetch f => Sys2Proof.Machine.execPrefetch f s
  | .cinv f => Sys2Proof.Machine.execCinv f s
  | .cclean f => Sys2Proof.Machine.execCclean f s
  | .fence f => Sys2Proof.Machine.execFence f s
  | .fenceSc f => Sys2Proof.Machine.execFenceSc f s
  | .qpush f => Sys2Proof.Machine.execQpush f s
  | .qpop f => Sys2Proof.Machine.execQpop f s
  | .qstat f => Sys2Proof.Machine.execQstat f s
  | .cairn f => Sys2Proof.Machine.execCairn f s
  | .cairnq f => Sys2Proof.Machine.execCairnq f s
  | .cairnx f => Sys2Proof.Machine.execCairnx f s
  | .mma f => Sys2Proof.Machine.execMma f s
  | .mzero f => Sys2Proof.Machine.execMzero f s
  | .mdrain f => Sys2Proof.Machine.execMdrain f s
  | .dpload f => Sys2Proof.Machine.execDpload f s
  | .tktake f => Sys2Proof.Machine.execTktake f s
  | .tkpass f => Sys2Proof.Machine.execTkpass f s
  | .tkpassEnd f => Sys2Proof.Machine.execTkpassEnd f s
  | .mstat f => Sys2Proof.Machine.execMstat f s
  | .xcopy f => Sys2Proof.Machine.execXcopy f s
  | .xgather f => Sys2Proof.Machine.execXgather f s
  | .xlevel f => Sys2Proof.Machine.execXlevel f s
  | .xstat f => Sys2Proof.Machine.execXstat f s
  | .waitc f => Sys2Proof.Machine.execWaitc f s
  | .sring f => Sys2Proof.Machine.execSring f s
  | .sawaitFree f => Sys2Proof.Machine.execSawaitFree f s
  | .sawaitFull f => Sys2Proof.Machine.execSawaitFull f s
  | .spub f => Sys2Proof.Machine.execSpub f s
  | .srel f => Sys2Proof.Machine.execSrel f s
  | .rbegin f => Sys2Proof.Machine.execRbegin f s
  | .rchild f => Sys2Proof.Machine.execRchild f s
  | .rdone f => Sys2Proof.Machine.execRdone f s
  | .rframe f => Sys2Proof.Machine.execRframe f s
  | .rres f => Sys2Proof.Machine.execRres f s
  | .rarriveM f => Sys2Proof.Machine.execRarriveM f s
  | .rarriveK f => Sys2Proof.Machine.execRarriveK f s
  | .rsyncM f => Sys2Proof.Machine.execRsyncM f s
  | .rsyncK f => Sys2Proof.Machine.execRsyncK f s
  | .rwait f => Sys2Proof.Machine.execRwait f s
  | .rquery f => Sys2Proof.Machine.execRquery f s
  | .lower f => Sys2Proof.Machine.execLower f s
  | .trap f => Sys2Proof.Machine.execTrap f s
  | .bkpt f => Sys2Proof.Machine.execBkpt f s
  | .svret f => Sys2Proof.Machine.execSvret f s
  | .srdp f => Sys2Proof.Machine.execSrdp f s
  | .swrp f => Sys2Proof.Machine.execSwrp f s
  | .tlbiWorld f => Sys2Proof.Machine.execTlbiWorld f s
  | .tlbiPage f => Sys2Proof.Machine.execTlbiPage f s
  | .tlbiAll f => Sys2Proof.Machine.execTlbiAll f s
  | .wsetResume f => Sys2Proof.Machine.execWsetResume f s
  | .wsetRestart f => Sys2Proof.Machine.execWsetRestart f s
  | .wsetCancel f => Sys2Proof.Machine.execWsetCancel f s
  | .wsetKill f => Sys2Proof.Machine.execWsetKill f s
  | .wsetPause f => Sys2Proof.Machine.execWsetPause f s
  | .wsetUnpause f => Sys2Proof.Machine.execWsetUnpause f s
  | .wsetReset f => Sys2Proof.Machine.execWsetReset f s
  | .haltcDrain f => Sys2Proof.Machine.execHaltcDrain f s
  | .haltcImm f => Sys2Proof.Machine.execHaltcImm f s
  | .haltcResume f => Sys2Proof.Machine.execHaltcResume f s
  | .haltcStep f => Sys2Proof.Machine.execHaltcStep f s
  | .clauseFetch => Sys2Proof.Machine.execClauseFetch s
  | .waveIssue => Sys2Proof.Machine.execWaveIssue s
  | .translationWalk => Sys2Proof.Machine.execTranslationWalk s
  | .pageInstall => Sys2Proof.Machine.execPageInstall s
  | .pageDeny => Sys2Proof.Machine.execPageDeny s
  | .missingUnitAvailable => Sys2Proof.Machine.execMissingUnitAvailable s
  | .waveRequeue => Sys2Proof.Machine.execWaveRequeue s
  | .waveLower => Sys2Proof.Machine.execWaveLower s
  | .pageMigrate => Sys2Proof.Machine.execPageMigrate s
  | .pageDemote => Sys2Proof.Machine.execPageDemote s
  | .migrationComplete => Sys2Proof.Machine.execMigrationComplete s
  | .nameResolved => Sys2Proof.Machine.execNameResolved s
  | .objectDepart => Sys2Proof.Machine.execObjectDepart s
  | .objectArrive => Sys2Proof.Machine.execObjectArrive s
  | .objectDestroy => Sys2Proof.Machine.execObjectDestroy s
  | .epochSweep => Sys2Proof.Machine.execEpochSweep s
  | .engineOpProgress => Sys2Proof.Machine.execEngineOpProgress s
  | .engineOpFreeze => Sys2Proof.Machine.execEngineOpFreeze s
  | .engineOpComplete => Sys2Proof.Machine.execEngineOpComplete s
  | .completionNoticeRetire => Sys2Proof.Machine.execCompletionNoticeRetire s
  | .frameDispatch => Sys2Proof.Machine.execFrameDispatch s
  | .unfoldingEnd => Sys2Proof.Machine.execUnfoldingEnd s
  | .multicastWriteArrive => Sys2Proof.Machine.execMulticastWriteArrive s
  | .multicastTimeout => Sys2Proof.Machine.execMulticastTimeout s
  | .storeQueueDrain => Sys2Proof.Machine.execStoreQueueDrain s
  | .dramRequestServe => Sys2Proof.Machine.execDramRequestServe s
  | .postedWriteAck => Sys2Proof.Machine.execPostedWriteAck s
  | .fabricRequest => Sys2Proof.Machine.execFabricRequest s
  | .remoteResponse => Sys2Proof.Machine.execRemoteResponse s
  | .remoteTimeout => Sys2Proof.Machine.execRemoteTimeout s
  | .flitReceive => Sys2Proof.Machine.execFlitReceive s
  | .laneSpare => Sys2Proof.Machine.execLaneSpare s
  | .portDown => Sys2Proof.Machine.execPortDown s
  | .hostHdmRead => Sys2Proof.Machine.execHostHdmRead s
  | .hostHdmWrite => Sys2Proof.Machine.execHostHdmWrite s
  | .hdmDecoderCommit => Sys2Proof.Machine.execHdmDecoderCommit s
  | .notify => Sys2Proof.Machine.execNotify s
  | .ictl => Sys2Proof.Machine.execIctl s
  | .ndropClear => Sys2Proof.Machine.execNdropClear s
  | .windowGrant => Sys2Proof.Machine.execWindowGrant s
  | .windowReclaim => Sys2Proof.Machine.execWindowReclaim s
  | .recordStart => Sys2Proof.Machine.execRecordStart s
  | .signalRetest => Sys2Proof.Machine.execSignalRetest s
  | .workgroupPlace => Sys2Proof.Machine.execWorkgroupPlace s
  | .workgroupEnd => Sys2Proof.Machine.execWorkgroupEnd s
  | .launchComplete => Sys2Proof.Machine.execLaunchComplete s
  | .queueBind f => Sys2Proof.Machine.execQueueBind f s
  | .queueStop f => Sys2Proof.Machine.execQueueStop f s
  | .queueReactivate f => Sys2Proof.Machine.execQueueReactivate f s
  | .queueUnbind f => Sys2Proof.Machine.execQueueUnbind f s
  | .svRangeStage f => Sys2Proof.Machine.execSvRangeStage f s
  | .svRangeApply f => Sys2Proof.Machine.execSvRangeApply f s
  | .faultQueuePost => Sys2Proof.Machine.execFaultQueuePost s
  | .supervisorEntry => Sys2Proof.Machine.execSupervisorEntry s
  | .sliceEnd => Sys2Proof.Machine.execSliceEnd s
  | .preempt => Sys2Proof.Machine.execPreempt s
  | .workgroupSave => Sys2Proof.Machine.execWorkgroupSave s
  | .workgroupRestore => Sys2Proof.Machine.execWorkgroupRestore s
  | .coreRetire => Sys2Proof.Machine.execCoreRetire s
  | .layerRetire => Sys2Proof.Machine.execLayerRetire s
  | .layerRebuildDone => Sys2Proof.Machine.execLayerRebuildDone s
  | .secondLayerFailure => Sys2Proof.Machine.execSecondLayerFailure s
  | .scrubLine => Sys2Proof.Machine.execScrubLine s
  | .patrolScrub => Sys2Proof.Machine.execPatrolScrub s
  | .thermalTrip => Sys2Proof.Machine.execThermalTrip s
  | .thermalRelease => Sys2Proof.Machine.execThermalRelease s
  | .coreClockGate => Sys2Proof.Machine.execCoreClockGate s
  | .corePowerGate => Sys2Proof.Machine.execCorePowerGate s
  | .coreWake => Sys2Proof.Machine.execCoreWake s
  | .stackSelfRefresh => Sys2Proof.Machine.execStackSelfRefresh s
  | .stackSelfRefreshExit => Sys2Proof.Machine.execStackSelfRefreshExit s
  | .powerOnReset => Sys2Proof.Machine.execPowerOnReset s
  | .firmwareUpdate => Sys2Proof.Machine.execFirmwareUpdate s
  | .bringupParameters => Sys2Proof.Machine.execBringupParameters s
  | .spdmRequest => Sys2Proof.Machine.execSpdmRequest s
  | .lockInterface => Sys2Proof.Machine.execLockInterface s
  | .setGroupKey => Sys2Proof.Machine.execSetGroupKey s
  | .switchGroupKey => Sys2Proof.Machine.execSwitchGroupKey s
  | .endSession => Sys2Proof.Machine.execEndSession s
  | .heartbeatExpiry => Sys2Proof.Machine.execHeartbeatExpiry s
  | .tdiLeaveRun => Sys2Proof.Machine.execTdiLeaveRun s
  | .loadValueReturn => Sys2Proof.Machine.execLoadValueReturn s
  | .lineConfirm => Sys2Proof.Machine.execLineConfirm s
  | .cxlCacheSnoop => Sys2Proof.Machine.execCxlCacheSnoop s
  | .returnToConfigUnlocked => Sys2Proof.Machine.execReturnToConfigUnlocked s
  | .tdiEnterRun => Sys2Proof.Machine.execTdiEnterRun s
  | .worldBind => Sys2Proof.Machine.execWorldBind s
  | .ldBindingChange => Sys2Proof.Machine.execLdBindingChange s
  | .msixVectorUnmask => Sys2Proof.Machine.execMsixVectorUnmask s
  | .nymnikPortTraining => Sys2Proof.Machine.execNymnikPortTraining s
  | .cxlPortTraining => Sys2Proof.Machine.execCxlPortTraining s
  | .powerLoss => Sys2Proof.Machine.execPowerLoss s

end Sys2Proof.Machine
end

