-- ==== Sys2Proof/Machine/Schedule.lean ====
section
/-! DEFINITION. What one step of the machine chooses: the wave that issues (R200), the word it decodes (R219), the
background event that lands when no event is listed (log 1, DESIGN CHOICE). -/

namespace Sys2Proof.Machine

/-- One more arithmetic clock. -/
def State.tick (s : State) : State := { s with clock := s.clock + 1#64 }

/-- Waves that wait try again; the next step issues. -/
def State.retry (s : State) : State :=
  { s with bg := false, waves := s.waves.map (fun e => (e.1, { e.2 with stalled := false })) }

/-- The wave that issues next: the ready waves take turns in the order of their numbers, and one whose clause carries Y lets
another of its quadrant go first (R185, R200, log 1, DESIGN CHOICE). -/
def State.pick (s : State) : Option (Nat × Wave) :=
  match s.waves.find? (fun e => decide (s.cur < e.1) && s.mayGo e.1 e.2) with
  | some x => some x
  | none => s.waves.find? (fun e => s.mayGo e.1 e.2)

/-- A word that decodes to no instruction reaches issue (R219): the condition it meets. -/
def State.refuseWord (s : State) (id : Nat) (w : Wave) (x : DWord) (e : DecodeError) : State :=
  let op := field x 54 10
  let code := if !w.sup ∧ 0x360 ≤ op ∧ op < 0x380 then cPrivilege
    else match e with
      | .illegalOpcode => cIllegal
      | .malformedClause => cMalformed
      | .reservedField => cReserved
      | .tooShort => cMalformed
  s.deliver id w (w.mkRec code stDecode (Mask.first w.bundleMask))

/-- The word that the summit issues next; none while its clause is to be fetched, or waits (R150). -/
def Wave.word (w : Wave) : Option DWord :=
  match w.bundle, w.clause with
  | some b, some c => if c.waited then c.words[b.ridx]? else none
  | _, _ => none

/-! ### Background events (log 1, DESIGN CHOICE) -/

/-- An event of one number, or of two. -/
def ev1 (i : Instr) (a : Nat) : Instr × Arg := (i, { a := a })
@[inherit_doc ev1] def ev2 (i : Instr) (a b : Nat) : Instr × Arg := (i, { a := a, b := b })
/-- An event of a missing unit. -/
def evUnit (i : Instr) (u : MissUnit) (a b : Nat) : Instr × Arg := (i, { a := a, b := b, unit := u })

/-- Events that a wave waits for. -/
def State.waveEvents (s : State) (id : Nat) (w : Wave) : List (Instr × Arg) :=
  (if w.loads.isEmpty then [] else [ev1 .loadValueReturn id])
    ++ (if w.storeQ.isEmpty then [] else [ev2 .storeQueueDrain id 0])
    ++ (if s.wantsSlot id w then [ev1 .waveRequeue id] else [])
    ++ (if w.status = .slot ∧ !w.sup ∧ s.stopNow w.core w.world then [ev2 .preempt w.core w.world] else [])
    ++ (if w.status = .slot ∧ !w.sup ∧ w.waiting then [ev1 .waveLower id] else [])

/-- Events of an engine operation. -/
def State.opEvents (s : State) (key : Nat) (o : EngOp) : List (Instr × Arg) :=
  (if s.stopsOp o then [ev2 .preempt o.core o.world] else []) ++ match o.state with
  | .fetch | .check => [ev1 .engineOpProgress key]
  | .run => (match o.unfold with
    | some u => [ev1 .engineOpProgress key, ev1 .unfoldingEnd key]
        ++ ((List.range u.budget).filter (fun p => (u.due p).isSome)).map (ev2 .frameDispatch key)
    | none => if o.kind = .posted then [] else [ev1 .engineOpProgress key])
  | .due _ => [ev1 .engineOpFreeze key]
  | .finished => [ev1 .engineOpComplete key]
  | .complete => [ev2 .completionNoticeRetire o.wave o.cls]
  | _ => []

/-- The unit of a tier page by its key (R89). -/
def State.tierUnit (s : State) (k : Nat) : Option MissUnit :=
  let w := k / 2 ^ 40 / 48
  let n := k / 2 ^ 40 % 48
  ((s.world w).tierRange n).map (fun r => .tier w n (r.out + k % 2 ^ 40 * 65536))

/-- Events of missing units: a tier page is migrated in, any other unit is waited for; pages in demotion (R90, R92). -/
def State.unitEvents (s : State) : List (Instr × Arg) :=
  s.xl.pending.flatMap (fun p =>
    evUnit .missingUnitAvailable p.1 0 0 :: (match p.1 with
      | .tier w n pa => [(.pageMigrate, { a := w, b := pa, c := n }), evUnit .migrationComplete p.1 0 0]
      | _ => []))
    ++ (s.xl.demoting.filterMap s.tierUnit).map (fun u => evUnit .migrationComplete u 0 0)

/-- Events of a world: entries for its supervisors. -/
def worldEvents (k : Nat) (x : World) : List (Instr × Arg) :=
  (if x.toPost.isEmpty then [] else [ev1 .faultQueuePost k])
    ++ (if x.faultQ.isEmpty then [] else x.serving.map (fun id => ev2 .supervisorEntry id k))
    ++ (if x.reqRing.isEmpty then [] else x.serving.map (fun id => (.supervisorEntry, { a := id, b := k, flag := true })))

/-- Events of a workgroup. -/
def State.wgEvents (s : State) (id : Nat) (g : Wg) : List (Instr × Arg) :=
  (if s.wgOver id then [ev2 .workgroupEnd g.core g.slot] else [])
    ++ (if s.canSave id g then [ev2 .workgroupSave g.core g.slot] else [])
    ++ (if s.mayRestore g then [ev2 .workgroupRestore g.core g.slot] else [])

/-- Events of queues and launches. -/
def State.workEvents (s : State) : List (Instr × Arg) :=
  (if s.nextWindow.isSome then [ev1 .windowGrant 0] else [])
    ++ (s.queues.filter (fun e => e.2.owes)).map (fun e => ev1 .windowGrant e.1)
    ++ (s.queues.filter (fun e => e.2.win && decide (e.2.rc = e.2.wc ∧ e.2.emptySince + 65536 ≤ s.clock.toNat))).map
        (fun e => ev1 .windowReclaim e.1)
    ++ (s.queues.filter (fun e => !e.2.window.isEmpty && decide (e.2.state = 1#3) && !e.2.waves)).map (fun e => ev1 .recordStart e.1)
    ++ (if s.launches.any (fun e => decide (e.2.next < e.2.total)) then [ev1 .workgroupPlace 0] else [])
    ++ (s.launches.filter (fun e => s.launchDone e.2)).map (fun e => ev1 .launchComplete e.1)

/-- Events that a limit of time or a failure brings about: multicasts and requests out of time (R63, R381), layers (R107, R108), stacks
and cores that sleep and wake (R398), a boot that programs fuses (R394), world resets that the device manager has begun, TDIs that leave RUN (R393), slices that end (R390). -/
def State.careEvents (s : State) : List (Instr × Arg) :=
  let now := s.clock.toNat
  (s.fab.multicasts.filter (fun e => decide (e.2.sent + 65536 ≤ now))).map (fun e => ev1 .multicastTimeout e.1)
    ++ (s.fab.requests.filter (fun e => decide (e.2.sent + 16777216 ≤ now))).map (fun e => ev1 .remoteTimeout e.1)
    ++ s.plat.failing.flatMap (fun k => [ev2 .layerRetire (k / 16) (k % 16), ev2 .secondLayerFailure (k / 16) (k % 16)])
    ++ (s.plat.dram.filter (fun e => e.2.rebuild.isSome)).map (fun e => ev1 .layerRebuildDone e.1)
    ++ (s.plat.dram.filter (fun e => e.2.selfRefresh)).map (fun e => ev1 .stackSelfRefreshExit e.1)
    ++ (s.plat.dram.filter (fun e => !e.2.selfRefresh && decide (e.2.lastReq + 1100000 ≤ now))).map (fun e => ev1 .stackSelfRefresh e.1)
    ++ (s.cores.filter (fun e => decide (e.2.power = .powerGated))).map (fun e => ev1 .coreWake e.1)
    ++ (s.cores.filter (fun e => decide (e.2.power = .on ∧ e.2.lastWork + 256 ≤ now) && s.coreIdle e.1)).map (fun e => ev1 .coreClockGate e.1)
    ++ (s.cores.filter (fun e => decide (e.2.power ≠ .powerGated ∧ e.2.lastWork + 65536 ≤ now) && s.coreIdle e.1)).map (fun e => ev1 .corePowerGate e.1)
    ++ (if s.plat.boot = .rom then [(.powerOnReset, { flag := true })] else [])
    ++ (s.worlds.filter (fun e => decide (e.2.resetBy = some 0))).map (fun e => ev1 .returnToConfigUnlocked e.1)
    ++ (s.worlds.filter (fun e => e.2.leaving && s.worldStopped e.1)).map (fun e => ev1 .tdiLeaveRun e.1)
    ++ ((dedupN (s.worlds.flatMap (fun e => if e.2.protected then e.2.cores else []))).filter s.sliceDue).map (ev1 .sliceEnd)

/-- The device's own events that may land now; what the outside world does is listed by `agenda` only. -/
def State.candidates (s : State) : List (Instr × Arg) :=
  s.waves.flatMap (fun e => s.waveEvents e.1 e.2)
    ++ s.unconf.flatMap (fun u => (u.waiting.filter (fun d => decide (d < 100))).map (ev2 .lineConfirm u.line))
    ++ s.ops.flatMap (fun e => s.opEvents e.1 e.2)
    ++ s.fab.multicasts.map (fun e => ev1 .multicastWriteArrive e.1)
    ++ s.unitEvents ++ s.worlds.flatMap (fun e => worldEvents e.1 e.2) ++ s.wgs.flatMap (fun e => s.wgEvents e.1 e.2)
    ++ s.workEvents ++ s.careEvents
    ++ (s.plat.chans.filter (fun e => !e.2.pending.isEmpty)).map (fun e => ev1 .dramRequestServe e.1)

/-- What an issue step leaves of a debugger's step (R344, R369): a wave that turns out not to be ready stays where it is, and the
core halts again at once; `issued` says that the step has come past the fetch of the clause. -/
def State.afterIssue (s : State) (id : Nat) (issued : Bool) : State :=
  match tget s.waves id with
  | none => s
  | some w =>
    let c := s.core w.core
    if c.stepping ≠ some id then s
    else if w.stalled && !c.stepGo && w.hold.isEmpty && w.ldn.isNone && w.push.isNone then
      (s.putCore w.core { c with stepping := none }).putWave id (if c.halt = some .drain then { w with clause := none } else w)
    else if issued && !c.stepGo then s.putCore w.core { c with stepGo := true }
    else s

/-- The background event that lands next: the candidates take turns with the clock, of which an issue step may take every
second (log 1, DESIGN CHOICE). -/
def State.nextEvent (s : State) : Option (Instr × Arg) :=
  let l := s.candidates
  l[s.clock.toNat / 2 % l.length]?

end Sys2Proof.Machine
end

