-- ==== Sys2Proof/Machine/Step.lean ====
section
/-! DEFINITION. One step of the machine (log 1, DESIGN CHOICE): the next listed event lands; with none listed, issue and background
events take turns. -/

namespace Sys2Proof.Machine

/-- An event lands, after which waves that wait try again. -/
def stepEvent (i : Instr) (a : Arg) (s : State) : Host.Outcome State Fault Refusal :=
  match exec i { s with arg := a } with
  | .next t => .next t.retry
  | o => o

/-- A background step. -/
def stepBackground (s : State) : Host.Outcome State Fault Refusal :=
  match s.nextEvent with
  | some (i, a) => stepEvent i a s
  | none => .next s.retry

/-- An issue step of a wave: the fetch of its summit's clause, or the instruction at its resume index. A wave whose bundle other
nodes still owe answers turns to another of its entries (R423). -/
def stepIssue (s : State) (id : Nat) (w : Wave) : Host.Outcome State Fault Refusal :=
  if !s.answered w then .next ({ s with cur := id, bg := true }.turnAside id w)
  else
    match (match w.word with
      | none => exec .clauseFetch { s with cur := id, bg := true, arg := { a := id } }
      | some x =>
        match decodeWord x with
        | .ok i => exec i { s with cur := id, bg := true }
        | .error e => .next ({ s with cur := id, bg := true }.refuseWord id w x e)) with
    | .next t => .next (t.afterIssue id w.word.isSome)
    | o => o

/-- One step. -/
def step (s : State) : Host.Outcome State Fault Refusal :=
  let s := s.tick
  match s.agenda with
  | (i, a) :: t => stepEvent i a { s with agenda := t }
  | [] =>
    if s.plat.boot = .lost then .fault .powerOff
    else if s.bg then stepBackground s
    else match s.pick with
      | some (id, w) => stepIssue s id w
      | none => stepBackground s

/-- The wave that `withFetchWord` places: every lane on a slot of core 0, or, for a privileged opcode, a supervisor
wave on the first service core (R224); its clause is fetched and holds the word. -/
def placedWave (x : DWord) : Wave :=
  let sup := decide (0x360 ≤ field x 54 10 ∧ field x 54 10 < 0x380)
  let lanes : Mask := if sup then 1#32 else 0xFFFFFFFF#32
  let e : Entry := { pc := 0#32, prio := 0#16, ridx := 0, yld := false, hld := false, bwt := none, passed := false
                     mask := lanes }
  { sup := sup, core := if sup then Config.cores else 0, wg := 0, num := 0, world := 0, launch := 0#32, nv := 256
    depth := 1, svc := 0, codeBase := 4096, extent := 16, valid := lanes
    regs := { fill := none, v := [], s := [], p := [], vEmpty := [], sEmpty := [] }
    fpflags := 0#7, fpmode := 0#3, bundle := some e, others := [], exited := 0#32, snap := [e]
    clause := some { pc := 0#32, header := 0xFC0FFFFF00000000#64, words := [x] }
    left := [], ctl := false, yielded := 0#32, cnt := [0, 0, 0, 0, 0], seq := [0, 0, 0, 0, 0], ridges := []
    lowerReq := false, storeQ := [], loads := [], gates := [], status := .slot, stalled := false, hold := []
    recKind := 0#2, recCnt := [], recSeq := [], cause := none, denied := [], replay := none, edits := []
    slotSince := some 0, charge := 0, sv := SupRegs.init }

/-- The machine with an instruction where `step` fetches its next one: a wave is placed, as a launch or bring-up places
one, and its clause holds the instruction. -/
def State.withFetchWord (s : State) (nbits w : Nat) : State :=
  let x : DWord := BitVec.ofNat 64 (w % 2 ^ (min nbits 64))
  { s with agenda := [], bg := false, cur := s.nextId - 1, nextId := s.nextId + 1
           plat := { s.plat with boot := .running }, waves := tset s.waves s.nextId (placedWave x) }

end Sys2Proof.Machine
end

