-- ==== Sys2Proof/Safety.lean ====
section
/-! DEFINITION. What counts as a safe run, and the terms in which the statements speak of one: the canonical form of
memory, the issue of an instruction by a wave, and the effect of an instruction on its destination. -/

namespace Sys2Proof.Machine

/-- The canonical form of device memory (log 4, DESIGN CHOICE): addresses rise strictly, and no cell holds zero. -/
def State.memOk (s : State) : Bool := Memory.wf s.mem

/-! ### Issue -/

/-- The issuing wave is `w`; it is on its slot with a summit, the decode and register-state steps of `i` pass (R217, R219, R221,
R224), and no word that `i` reads has an uncorrectable error (R402). -/
def issues (i : Instr) (s : State) (w : Wave) : Bool :=
  decide (s.curWave = some w) && decide (w.status = .slot) && w.bundle.isSome && (!privileged i || w.sup)
    && fieldsOk i && fieldsFit w.nv w.firstFrontier i && decide (regState w.regs (w.active i) (regSlots i) = .full)
    && decide (badLane w.regs (predOf i) w.bundleMask (w.active i) (regSlots i) = none)

/-- The instruction runs as soon as its wave issues it, and takes the wave to `f` of it in the active lanes. -/
def GivesWave (i : Instr) (f : State → Wave → Mask → Wave) : Prop :=
  ∀ s w, issues i s w = true → exec i s = .next ((s.putWave s.cur (f s w (w.active i))).advance s.cur)

/-- The instruction writes `val` of each active lane into a destination of `n` words, and does nothing else. -/
def Gives (i : Instr) (o : Operand) (n : Nat) (val : State → Wave → Nat → Nat) : Prop :=
  GivesWave i (fun s w m => w.put o n m (val s w))

/-- The instruction writes the bits of `val` into a destination of `n` words, and ORs the flags of the active lanes
into %fpflags. -/
def GivesF (i : Instr) (o : Operand) (n : Nat) (val : Wave → Nat → Nat × Flags) : Prop :=
  GivesWave i (fun _ w m =>
    { w.put o n m (fun l => (val w l).1) with
      fpflags := (Mask.lanes m).foldl (fun acc l => acc ||| (val w l).2) w.fpflags })

/-! ### Values -/

/-- The bits of a source of `n` words in a lane. -/
def Wave.bv (w : Wave) (o : Operand) (n l : Nat) : BitVec (32 * n) := BitVec.ofNat (32 * n) (w.src o n l)

/-- Byte `k` of a number. -/
def byteAt (x k : Nat) : BitVec 8 := BitVec.ofNat 8 (x / 2 ^ (8 * k))

/-- Four bytes as a number. -/
def pack4 (g : Nat → BitVec 8) : Nat :=
  (g 0).toNat + (g 1).toNat * 2 ^ 8 + (g 2).toNat * 2 ^ 16 + (g 3).toNat * 2 ^ 24

/-- An operation of the type's width, or of each of four bytes for .4i8 (R227, R231). -/
def byType (ty : BitVec 4) (g : (n : Nat) → BitVec n → BitVec n → BitVec n) (x y : Nat) : Nat :=
  if ty = 9#4 then pack4 (fun k => g 8 (byteAt x k) (byteAt y k))
  else (g (32 * wordsI ty) (BitVec.ofNat _ x) (BitVec.ofNat _ y)).toNat

/-- The type is one of the .i types of full width, or .4i8. -/
def isSigned (ty : BitVec 4) : Bool := decide (ty = 2#4) || decide (ty = 3#4) || decide (ty = 9#4)

/-- The number that bits stand for. -/
def asInt {n : Nat} (signed : Bool) (x : BitVec n) : Int := if signed then x.toInt else x.toNat

/-- The nearer bound where a number lies outside the range of `t` bits (R230). -/
def saturate (signed : Bool) (t : Nat) (x : Int) : Int :=
  if signed then max (-(2 ^ (t - 1))) (min (2 ^ (t - 1) - 1) x) else max 0 (min (2 ^ t - 1) x)

/-- The value of IADDS and ISUBS: exact, brought into the range of the type's `t` bits, and extended to the register
width, or each of four bytes for .4i8 (R230, R231). -/
def satType (ty : BitVec 4) (g : Int → Int → Int) (x y : Nat) : Nat :=
  if ty = 9#4 then
    pack4 (fun k => BitVec.ofInt 8 (saturate true 8 (g (byteAt x k).toInt (byteAt y k).toInt)))
  else
    let t := if ty = 0#4 ∨ ty = 4#4 then 8 else if ty = 1#4 ∨ ty = 5#4 then 16 else 32 * wordsI ty
    let sg := decide (ty.toNat < 4)
    (BitVec.ofInt (32 * wordsI ty)
      (saturate sg t (g (asInt sg (BitVec.ofNat t x)) (asInt sg (BitVec.ofNat t y))))).toNat

end Sys2Proof.Machine
end

