-- ==== Sys2Proof/Certificates/Slice0/Obligations.lean ====
section
/-! DEFINITION. The statements for the provers. -/

open Sys2Proof Sys2Proof.Machine

/-! ### Integer, logic, moves and immediates -/

/-- R228, R231: the results of the integer instructions that take no division. -/
def Obligations.IntegerArithmetic : Prop := ∀ f : FmtA3,
  let n := wordsI f.ty
  Gives (.iadd f) f.dst n (fun _ w l =>
    byType f.ty (fun _ x y => x + y) (w.isrc f.a f.ty l) (w.isrc f.b f.ty l)) ∧
  Gives (.isub f) f.dst n (fun _ w l =>
    byType f.ty (fun _ x y => x - y) (w.isrc f.a f.ty l) (w.isrc f.b f.ty l)) ∧
  Gives (.imul f) f.dst n (fun _ w l => (w.bv f.a n l * w.bv f.b n l).toNat) ∧
  Gives (.imulh f) f.dst n (fun _ w l =>
    let sg := isSigned f.ty
    (BitVec.ofInt (32 * n) (asInt sg (w.bv f.a n l) * asInt sg (w.bv f.b n l) / 2 ^ (32 * n))).toNat) ∧
  Gives (.imad f) f.dst n (fun _ w l => (w.bv f.a n l * w.bv f.b n l + w.bv f.c n l).toNat) ∧
  Gives (.imadw f) f.dst 2 (fun _ w l =>
    let sg := isSigned f.ty
    (BitVec.ofInt 64 (asInt sg (w.bv f.a 1 l) * asInt sg (w.bv f.b 1 l) + (w.bv f.c 2 l).toInt)).toNat) ∧
  Gives (.imin f) f.dst n (fun _ w l =>
    byType f.ty (fun _ x y => if (if isSigned f.ty then y.slt x else y.ult x) then y else x)
      (w.isrc f.a f.ty l) (w.isrc f.b f.ty l)) ∧
  Gives (.imax f) f.dst n (fun _ w l =>
    byType f.ty (fun _ x y => if (if isSigned f.ty then x.slt y else x.ult y) then y else x)
      (w.isrc f.a f.ty l) (w.isrc f.b f.ty l)) ∧
  Gives (.iabs f) f.dst n (fun _ w l =>
    byType f.ty (fun _ x _ => if x.msb then -x else x) (w.isrc f.a f.ty l) 0) ∧
  Gives (.ineg f) f.dst n (fun _ w l => (-w.bv f.a n l).toNat)

/-- R229: division truncates toward zero, and neither a zero divisor nor the overflowing quotient faults. R230, R231:
IADDS and ISUBS saturate. -/
def Obligations.DivisionAndSaturation : Prop := ∀ f : FmtA3,
  let n := wordsI f.ty
  Gives (.idiv f) f.dst n (fun _ w l =>
    let x := w.bv f.a n l
    let y := w.bv f.b n l
    if y = 0 then 2 ^ (32 * n) - 1 else if isSigned f.ty then (x.sdiv y).toNat else (x / y).toNat) ∧
  Gives (.irem f) f.dst n (fun _ w l =>
    let x := w.bv f.a n l
    let y := w.bv f.b n l
    if isSigned f.ty then (x.srem y).toNat else (x % y).toNat) ∧
  Gives (.iadds f) f.dst (wordsI f.ty) (fun _ w l =>
    satType f.ty (fun x y => x + y) (w.isrc f.a f.ty l) (w.isrc f.b f.ty l)) ∧
  Gives (.isubs f) f.dst (wordsI f.ty) (fun _ w l =>
    satType f.ty (fun x y => x - y) (w.isrc f.a f.ty l) (w.isrc f.b f.ty l))

/-- R232: logic and shifts. The shift amount is the low register of b; a shift by the width or more gives zero, or
for SAR the sign in every bit. -/
def Obligations.LogicAndShifts : Prop := ∀ f : FmtA3,
  let n := wordsI f.ty
  Gives (.andOp f) f.dst n (fun _ w l => (w.bv f.a n l &&& w.bv f.b n l).toNat) ∧
  Gives (.orOp f) f.dst n (fun _ w l => (w.bv f.a n l ||| w.bv f.b n l).toNat) ∧
  Gives (.xorOp f) f.dst n (fun _ w l => (w.bv f.a n l ^^^ w.bv f.b n l).toNat) ∧
  Gives (.andn f) f.dst n (fun _ w l => (w.bv f.a n l &&& ~~~w.bv f.b n l).toNat) ∧
  Gives (.shl f) f.dst n (fun _ w l => (w.bv f.a n l <<< (w.src f.b n l % 2 ^ 32)).toNat) ∧
  Gives (.shr f) f.dst n (fun _ w l => (w.bv f.a n l >>> (w.src f.b n l % 2 ^ 32)).toNat) ∧
  Gives (.sar f) f.dst n (fun _ w l => ((w.bv f.a n l).sshiftRight (w.src f.b n l % 2 ^ 32)).toNat) ∧
  Gives (.shf f) f.dst 1 (fun _ w l =>
    let u : BitVec 64 := w.bv f.b 1 l ++ w.bv f.a 1 l
    let k := min (w.src f.c 1 l) 32
    (if f.flg = 0#4 then (u <<< k).extractLsb' 32 32 else (u >>> k).extractLsb' 0 32).toNat)

/-- R233, R234: bit fields, counts and permutes. -/
def Obligations.BitFields : Prop := ∀ f : FmtA3,
  let n := wordsI f.ty
  Gives (.bfe f) f.dst n (fun _ w l =>
    let k := min (w.src f.c 1 l) (32 * n)
    let v := BitVec.ofInt k (asInt (isSigned f.ty) (w.bv f.a n l) / 2 ^ min (w.src f.b 1 l) (32 * n))
    if k = 0 then 0 else if isSigned f.ty then (v.signExtend (32 * n)).toNat else v.toNat) ∧
  Gives (.bfi f) f.dst n (fun _ w l =>
    let c := w.src f.c 1 l
    let k := min (c / 2 ^ 8 % 2 ^ 8) (32 * n)
    let m : BitVec (32 * n) := BitVec.ofNat _ (2 ^ k - 1) <<< (c % 2 ^ 8)
    ((w.bv f.b n l &&& ~~~m) ||| (w.bv f.a n l <<< (c % 2 ^ 8) &&& m)).toNat) ∧
  Gives (.popc f) f.dst 1 (fun _ w l => (w.bv f.a n l).cpop.toNat) ∧
  Gives (.clz f) f.dst 1 (fun _ w l => (w.bv f.a n l).clz.toNat) ∧
  Gives (.ctz f) f.dst 1 (fun _ w l => (w.bv f.a n l).ctz.toNat) ∧
  Gives (.brev f) f.dst n (fun _ w l => (w.bv f.a n l).reverse.toNat) ∧
  Gives (.permb f) f.dst 1 (fun _ w l =>
    let c := w.src f.c 1 l
    pack4 (fun j =>
      let k := c / 2 ^ (4 * j) % 16
      let b := if k % 8 < 4 then byteAt (w.src f.a 1 l) (k % 8) else byteAt (w.src f.b 1 l) (k % 8 - 4)
      if k < 8 then b else if b.msb then 0xFF#8 else 0#8))

/-- R235, R236: compares, selects, moves and predicates; NOP changes nothing. -/
def Obligations.ComparesAndMoves : Prop := ∀ f : FmtA3,
  let n := wordsI f.ty
  Gives (.isetp f) f.dst 1 (fun _ w l =>
    let x := asInt (isSigned f.ty) (w.bv f.a n l)
    let y := asInt (isSigned f.ty) (w.bv f.b n l)
    let z := asInt (isSigned f.ty) (w.bv f.c n l)
    b2n (match f.flg.toNat with
      | 0 => decide (x = y)
      | 1 => decide (x ≠ y)
      | 2 => decide (x < y)
      | 3 => decide (x ≤ y)
      | 4 => decide (x > y)
      | 5 => decide (x ≥ y)
      | 6 => decide (y ≤ x ∧ x < z)
      | _ => decide ¬(y ≤ x ∧ x < z))) ∧
  Gives (.sel f) f.dst n (fun _ w l => if w.src f.c 1 l = 1 then w.src f.a n l else w.src f.b n l) ∧
  Gives (.mov f) f.dst n (fun _ w l => w.src f.a n l) ∧
  GivesWave (.nop f) (fun _ w _ => w) ∧
  Gives (.psetp f) f.dst 1 (fun _ w l =>
    let x := decide (w.src f.a 1 l = 1)
    let y := decide (w.src f.b 1 l = 1)
    b2n (match f.flg.toNat with
      | 0 => x && y
      | 1 => x || y
      | 2 => x != y
      | 3 => x && !y
      | 4 => x || !y
      | _ => !x)) ∧
  Gives (.p2v f) f.dst 1 (fun _ w l =>
    let p (j : Nat) : Nat := b2n ((w.readP j).has l)
    p 0 + 2 * p 1 + 4 * p 2 + 8 * p 3 + 16 * p 4 + 32 * p 5 + 64 * p 6 + 128 * p 7) ∧
  (∀ s w, issues (.v2p f) s w = true → ∃ p,
    exec (.v2p f) s = .next ((s.putWave s.cur { w with regs := { w.regs with p := p } }).advance s.cur) ∧
    ∀ j, j < 6 → ∀ l, l < 32 →
      (({ w.regs with p := p } : Regs).readP j).has l =
        if (w.src f.b 1 0).testBit j ∧ (w.active (.v2p f)).has l then (w.src f.a 1 l).testBit j
        else (w.regs.readP j).has l)

/-- R237, R238: the forms with a 32-bit literal, and LEA. -/
def Obligations.ImmediateForms : Prop := ∀ f : FmtAI,
  Gives (.iaddImm f) f.dst 1 (fun _ w l => (w.bv f.a 1 l + f.imm).toNat) ∧
  Gives (.iaddImm64 f) f.dst 2 (fun _ w l => (w.bv f.a 2 l + f.imm.signExtend 64).toNat) ∧
  Gives (.imulImm f) f.dst 1 (fun _ w l => (w.bv f.a 1 l * f.imm).toNat) ∧
  Gives (.andImm f) f.dst 1 (fun _ w l => (w.bv f.a 1 l &&& f.imm).toNat) ∧
  Gives (.orImm f) f.dst 1 (fun _ w l => (w.bv f.a 1 l ||| f.imm).toNat) ∧
  Gives (.xorImm f) f.dst 1 (fun _ w l => (w.bv f.a 1 l ^^^ f.imm).toNat) ∧
  Gives (.movi f) f.dst 1 (fun _ _ _ => f.imm.toNat) ∧
  Gives (.moviI64 f) f.dst 2 (fun _ _ _ => (f.imm.signExtend 64).toNat) ∧
  Gives (.moviF64 f) f.dst 2 (fun _ _ _ => widenF32 f.imm.toNat) ∧
  Gives (.lea f) f.dst 2 (fun _ w _ =>
    (BitVec.ofNat 64 (w.codeBase + w.pcNat) + f.imm.signExtend 64).toNat)

/-! ### Wave operations, special registers and the clock -/

/-- R240 to R242: VOTE, MATCH and SHFL combine the participants, the active lanes of the bundle. SHFL reads any lane of
its segment; it runs where its source is full there, with no on-chip data still to come (R56) and no word with an
uncorrectable error (R402). -/
def Obligations.WaveOperations : Prop := ∀ f : FmtA3,
  let n := wordsI f.ty
  let sum (l : List Nat) : Nat := (l.map (fun k => 2 ^ k)).sum
  Gives (.vote f) f.dst 1 (fun _ w _ =>
    let part := Mask.lanes (w.active (.vote f))
    let yes := part.filter (fun k => decide (w.src f.a 1 k ≠ 0))
    match f.flg.toNat with
    | 0 => b2n (decide (yes ≠ []))
    | 1 => b2n (decide (yes = part))
    | 2 => b2n (decide (yes = [] ∨ yes = part))
    | 3 => sum yes
    | 4 => yes.length
    | _ => yes.headD 32) ∧
  Gives (.matchOp f) f.dst 1 (fun _ w l =>
    let part := Mask.lanes (w.active (.matchOp f))
    let peers := part.filter (fun k => decide (w.src f.a n k = w.src f.a n l))
    match f.flg.toNat with
    | 0 => sum peers
    | 1 => if peers = part then sum part else 0
    | _ => (peers.filter (fun k => decide (k < l))).length) ∧
  (∀ s w, issues (.shfl f) s w = true →
    let seg := w.src f.c 1 0
    let from' (l : Nat) : Nat :=
      let o : Int := l % seg
      let b : Int := w.src f.b 1 l
      l - l % seg + (match f.flg.toNat with
        | 0 => b % seg
        | 1 => (o + b) % seg
        | 2 => (o - b) % seg
        | _ => ((l % seg ^^^ w.src f.b 1 l : Nat) : Int) % seg).toNat
    (∀ l ∈ Mask.lanes (w.active (.shfl f)), w.regs.empty f.a n (Mask.single (from' l)) = false ∧
      w.regs.busy f.a n (Mask.single (from' l)) = false ∧ w.regs.bad f.a n (Mask.single (from' l)) = false) →
    exec (.shfl f) s = .next ((s.putWave s.cur
      (w.put f.dst n (w.active (.shfl f)) (fun l => w.src f.a n (from' l)))).advance s.cur))

/-- R223, R244, R245: SRD reads the special registers of the wave; CLOCK waits until no register of the wave is empty or waits for
on-chip data, and then samples %clock. The values in a supervisor wave are the model's (log 54, DESIGN CHOICE). -/
def Obligations.SpecialRegisters : Prop := ∀ f : FmtX,
  Gives (.srd f) f.dst (if f.sel = 11#16 then 2 else 1) (fun s w l =>
    let g := s.wgOf w
    let k := g.bind (fun g => tget s.launches g.launch)
    match f.sel.toNat with
    | 0 => l
    | 1 => w.num
    | 2 => (g.map (fun g => g.slot)).getD 0
    | 3 => w.core
    | 4 => if w.core < 320 then w.core / 40 else 8 + (w.core - 320) / 16
    | 5 => (k.map (fun k => k.shx)).getD 0
    | 6 => (k.map (fun k => k.shy)).getD 0
    | 7 => (k.map (fun k => k.shz)).getD 0
    | 8 => (g.map (fun g => g.x)).getD 0
    | 9 => (g.map (fun g => g.y)).getD 0
    | 10 => (g.map (fun g => g.z)).getD 0
    | 11 => s.clock.toNat
    | 12 => w.fpflags.toNat
    | 13 => w.fpmode.toNat
    | 14 => w.svc
    | _ => w.world) ∧
  (∀ s w, issues (.clock f) s w = true →
    (w.active (.clock f) = 0#32 ∨ (w.regs.vEmpty = [] ∧ w.regs.sEmpty = [] ∧ w.regs.vBusy = [] ∧ w.regs.sBusy = [])) →
    exec (.clock f) s =
      .next ((s.putWave s.cur (w.put f.dst 2 (w.active (.clock f)) (fun _ => s.clock.toNat))).advance s.cur))

/-! ### Control flow and the frontier -/

/-- The wave after lanes `m` have left its bundle for `targets` (R182). -/
def leaves (w : Wave) (b : Entry) (m : Mask) (targets : List (Word × Mask)) : Wave :=
  { w with bundle := some { b with mask := b.mask &&& ~~~m }
           left := targets.foldl (fun l x => addLeft l x.1 x.2) w.left, ctl := true }

/-- R182, R183, R247 to R251: the control instructions. Each moves its active lanes where the frontier stays within
its depth; with no active lane it does nothing. BRX and RET go where every acting lane's address is canonical, in the
code object and aligned. A target below 0 or past 2^32 is a PC in no code object (R210). EXIT of the last lanes ends the
wave once every counter is 0. -/
def Obligations.ControlTransfers : Prop := ∀ (f : FmtB) (s : State) (w : Wave) (b : Entry), w.bundle = some b →
  let t : Int := (b.pc.toNat : Int) + 8 * f.target.toInt
  let pc : Word := if t < 0 ∨ 2 ^ 32 ≤ t then 0xFFFFFFF8#32 else BitVec.ofNat 32 t.toNat
  let fits (m : Mask) (l : List (Word × Mask)) : Prop :=
    frontierCount w b (s.clauseLen w b) m (l.map (fun x => x.1)) ≤ w.depth
  let ok (a : Nat) : Prop := a < 2 ^ 57 ∧ w.codeBase ≤ a ∧ a < w.codeBase + w.extent ∧ a % 8 = 0
  let goes (m : Mask) : List (Word × Mask) := (Mask.lanes m).foldl (fun t l =>
    addLeft t (BitVec.ofNat 32 (w.src f.opnd 2 l - w.codeBase)) (Mask.single l)) []
  (∀ i ∈ ([.bra f, .brx f, .call f, .ret f, .exitOp f, .yield f] : List Instr), issues i s w = true →
    w.active i = 0#32 → exec i s = .next (s.advance s.cur)) ∧
  (issues (.bra f) s w = true → let m := w.active (.bra f)
    m ≠ 0#32 → fits m [(pc, m)] →
    exec (.bra f) s = .next ((s.putWave s.cur (leaves w b m [(pc, m)])).advance s.cur)) ∧
  (issues (.call f) s w = true → let m := w.active (.call f)
    m ≠ 0#32 → fits m [(pc, m)] →
    exec (.call f) s = .next ((s.putWave s.cur (leaves (w.put f.opnd 2 m (fun _ =>
      w.codeBase + (nextPc b.pc (s.clauseLen w b)).toNat)) b m [(pc, m)])).advance s.cur)) ∧
  (∀ i ∈ ([.brx f, .ret f] : List Instr), issues i s w = true → let m := w.active i
    m ≠ 0#32 → (∀ l ∈ Mask.lanes m, ok (w.src f.opnd 2 l)) → fits m (goes m) →
    exec i s = .next ((s.putWave s.cur (leaves w b m (goes m))).advance s.cur)) ∧
  (issues (.yield f) s w = true → let m := w.active (.yield f)
    m ≠ 0#32 → fits 0#32 [] →
    exec (.yield f) s = .next ((s.putWave s.cur
      { leaves w b 0#32 [] with yielded := w.yielded ||| m }).advance s.cur)) ∧
  (issues (.exitOp f) s w = true → let m := w.active (.exitOp f)
    m ≠ 0#32 → ¬(b.mask &&& ~~~m = 0#32 ∧ w.left = [] ∧ w.others = []) → fits m [] →
    exec (.exitOp f) s = .next ((s.putWave s.cur
      { leaves w b m [] with exited := w.exited ||| m }).advance s.cur)) ∧
  (issues (.exitOp f) s w = true → let m := w.active (.exitOp f)
    m ≠ 0#32 → b.mask &&& ~~~m = 0#32 → w.left = [] → w.others = [] → (∀ c, c < 5 → w.cntOf c = 0) →
    ∃ t w', exec (.exitOp f) s = .next t ∧ tget t.waves s.cur = some w' ∧ w'.status = .ended ∧ w'.bundle = none ∧
      w'.others = [] ∧ w'.exited = w.exited ||| m ∧ w'.regs = w.regs ∧ w'.fpflags = w.fpflags ∧ t.mem = s.mem)

/-- R247: where an acting lane's address is not canonical, lies outside the code object or is no multiple of 8, BRX and
RET raise the condition of the lowest such lane of the first of these checks that fails, and no lane moves. -/
def Obligations.JumpConditions : Prop := ∀ (f : FmtB) (s : State) (w : Wave),
  ∀ i ∈ ([.brx f, .ret f] : List Instr), issues i s w = true → ∀ l, l ∈ Mask.lanes (w.active i) →
  (∀ k ∈ Mask.lanes (w.active i), k < l → ∃ pc, w.jumpTo f.opnd k = .ok pc) →
  let a := w.src f.opnd 2 l
  (2 ^ 57 ≤ a → exec i s = .next (s.deliver s.cur w (w.mkRec 0x10 2 l a))) ∧
  (a < 2 ^ 57 → a < w.codeBase ∨ w.codeBase + w.extent ≤ a →
    exec i s = .next (s.deliver s.cur w (w.mkRec 0x11 2 l a))) ∧
  (a < 2 ^ 57 → w.codeBase ≤ a → a < w.codeBase + w.extent → a % 8 ≠ 0 →
    exec i s = .next (s.deliver s.cur w (w.mkRec 0x12 2 l a)))

/-- R181: the summit is a free entry that no free entry ranks before; there is none only where no entry is free. -/
def Obligations.SummitRanksFirst : Prop := ∀ l : List Entry,
  (∀ e, chooseSummit l = some e → e ∈ l ∧ e.hld = false ∧ e.bwt = none ∧
    ∀ x ∈ l, x.hld = false → x.bwt = none → e.rank ≤ x.rank) ∧
  (chooseSummit l = none → ∀ x ∈ l, x.hld = true ∨ x.bwt ≠ none)

/-! ### Barriers -/

/-- R190 to R193, R337 to R339: once every lane of its mask is active in the bundle, a masked instruction acts. SYNCW
goes on. An arrival that its checks pass adds its lanes to the ridge's phase and makes the wave's record pending, and
completes the phase where the expected count is reached and no unfolding holds the ridge; RARRIVE goes on at once,
RSYNC once the phase is complete. RWAIT goes on where no arrival of the wave is pending. As a release at CORE scope (R118) an
arrival waits for the wave's open acquires and fences and for its cache maintenance (R283). With no active lane they do nothing. RQUERY reads the ridge's entry, and LOWER asks for the wave to be lowered. -/
def Obligations.Barriers : Prop := ∀ (f : FmtAI) (x : FmtX) (s : State) (w : Wave),
  let met (i : Instr) (mk : Nat → Mask) : Prop := issues i s w = true ∧ w.active i ≠ 0#32 ∧
    (∀ l ∈ Mask.lanes (w.active i), mk l = w.active i) ∧ w.active i &&& w.exited = 0#32
  let regMask (l : Nat) : Mask := BitVec.ofNat 32 (w.src f.a 1 l)
  let litOrReg (l : Nat) : Mask := if f.a = Operand.zero then f.imm else regMask l
  let ridge (i : Instr) (k : Nat) (e : Ridge) : Prop :=
    s.ridgeOf w (w.src f.dst 1 (Mask.first (w.active i))) = some (k, e) ∧ e.members.getLsbD w.num = true ∧
    ∀ l ∈ Mask.lanes (w.active i), w.src f.dst 1 l = w.src f.dst 1 (Mask.first (w.active i))
  let counts (i : Instr) (e : Ridge) (n : Nat) : Prop := 0 < n ∧ n ≤ 32 * e.members.cpop.toNat ∧
    (e.expset = true → n = e.expect) ∧ e.arrived + (Mask.lanes (w.active i)).length ≤ n
  let arrived (i : Instr) (k : Nat) (e : Ridge) (n : Nat) : State :=
    (s.putWave s.cur (w.setRidge { num := e.num, pending := true, phase := e.phase })).putRidge w.core k
      { e with arrived := e.arrived + (Mask.lanes (w.active i)).length, expect := n, expset := true }
  let open' (i : Instr) (e : Ridge) (n : Nat) : Prop :=
    e.arrived + (Mask.lanes (w.active i)).length < n ∨ e.hold = true
  let done (i : Instr) (k : Nat) (e : Ridge) (n : Nat) : State :=
    (arrived i k e n).completePhase w.wg w.core k
      { e with arrived := e.arrived + (Mask.lanes (w.active i)).length, expect := n, expset := true }
  let arrives (i j : Instr) (mk : Nat → Mask) (cnt : Nat → Nat) : Prop := ∀ k e n,
    (met i mk → w.gates = [] → w.cleanDue = false → ridge i k e → counts i e n → (∀ l ∈ Mask.lanes (w.active i), cnt l = n) →
      (open' i e n → exec i s = .next ((arrived i k e n).advance s.cur)) ∧
      (¬open' i e n → exec i s = .next ((done i k e n).advance s.cur))) ∧
    (met j mk → w.gates = [] → w.cleanDue = false → ridge j k e → counts j e n → (∀ l ∈ Mask.lanes (w.active j), cnt l = n) → ¬open' j e n →
      exec j s = .next ((done j k e n).advance s.cur))
  (∀ i ∈ ([.syncw f, .rarriveM f, .rarriveK f, .rsyncM f, .rsyncK f, .rwait f] : List Instr),
    issues i s w = true → w.active i = 0#32 → exec i s = .next (s.advance s.cur)) ∧
  (met (.syncw f) litOrReg → w.gates = [] → w.cleanDue = false → exec (.syncw f) s = .next (s.advance s.cur)) ∧
  arrives (.rarriveM f) (.rsyncM f) (fun _ => f.imm) (fun l => w.src f.a 1 l) ∧
  arrives (.rarriveK f) (.rsyncK f) regMask (fun _ => f.imm.toNat) ∧
  (∀ k e, met (.rwait f) litOrReg → ridge (.rwait f) k e →
    (∀ y, w.ridgeRec (w.src f.dst 1 (Mask.first (w.active (.rwait f)))) = some y → y.pending = false) →
    exec (.rwait f) s = .next (s.advance s.cur)) ∧
  (issues (.rquery x) s w = true →
    let v := match s.ridgeOf w (w.src x.a 1 (Mask.first (w.active (.rquery x)))) with
      | some e => e.2.toNat
      | none => 0
    exec (.rquery x) s =
      .next ((s.putWave s.cur (w.put x.dst 4 (w.active (.rquery x)) (fun _ => v))).advance s.cur)) ∧
  (issues (.lower x) s w = true → w.active (.lower x) ≠ 0#32 →
    exec (.lower x) s = .next ((s.putWave s.cur { w with lowerReq := true }).advance s.cur))

/-- R192: complete(r) toggles the phase bit and empties the count; every wave of the workgroup whose record of the ridge
is pending with the old phase has it cleared. -/
def Obligations.PhaseCompletion : Prop := ∀ (s : State) (wg core k : Nat) (e : Ridge),
  let t := s.completePhase wg core k e
  tget (t.core core).ridges k = some { e with phase := !e.phase, arrived := 0, expset := false } ∧
  t.mem = s.mem ∧
  ∀ id w, tget s.waves id = some w → w.wg = wg → w.sup = false → (s.waves.map (fun x => x.1)).Nodup →
    (∃ x, w.ridgeRec e.num = some x ∧ x.pending = true ∧ x.phase = e.phase) →
    ∃ w', tget t.waves id = some w' ∧ ∀ x, w'.ridgeRec e.num = some x → x.pending = false

/-! ### Floating point -/

/-- The mode of an instruction (R168, R215): the round field's, or %fpmode's where the field is 5. -/
def modeOf (w : Wave) (f : FmtA3) : Rnd :=
  match (if f.rnd = 5#3 then w.fpmode.toNat else f.rnd.toNat) with
  | 1 => .rtz
  | 2 => .rdn
  | 3 => .rup
  | 4 => .rna
  | _ => .rne

/-- The flags and bits of an operation on the elements of an A3 instruction's three sources, in its own type and mode;
a packed type takes the low and the high 16 bits apart (R252). -/
def elements (f : FmtA3) (g : Fmt → Rnd → Nat → Nat → Nat → Nat × Flags) (w : Wave) (l : Nat) : Nat × Flags :=
  let t := f.ty.toNat
  let h := g (fmtF t) (modeOf w f)
  let x := w.fsrc f.a t l
  let y := w.fsrc f.b t l
  let z := w.fsrc f.c t l
  if f.ty = 8#4 ∨ f.ty = 9#4 then
    let lo := h (x % 2 ^ 16) (y % 2 ^ 16) (z % 2 ^ 16)
    let hi := h (x / 2 ^ 16) (y / 2 ^ 16) (z / 2 ^ 16)
    (lo.1 + hi.1 * 2 ^ 16, lo.2 ||| hi.2)
  else h x y z

/-- The sign bits of an instruction's type. -/
def signBits (f : FmtA3) : Nat := if f.ty = 8#4 ∨ f.ty = 9#4 then 0x80008000 else 2 ^ ((fmtF f.ty.toNat).width - 1)

/-- R254: sums, products and fused products are rounded once, and their flags are ORed into %fpflags; FABS and FNEG are
bit operations, which raise no flag. -/
def Obligations.FloatArithmetic : Prop := ∀ f : FmtA3,
  let n := wordsF f.ty
  GivesF (.fadd f) f.dst n (elements f (fun t r x y _ => fAdd t r (t.decode x) (t.decode y))) ∧
  GivesF (.fsub f) f.dst n (elements f (fun t r x y _ => fAdd t r (t.decode x) (t.decode y).neg)) ∧
  GivesF (.fmul f) f.dst n (elements f (fun t r x y _ => fMul t r (t.decode x) (t.decode y))) ∧
  GivesF (.ffma f) f.dst n (elements f (fun t r x y z => fFma t r (t.decode x) (t.decode y) (t.decode z))) ∧
  Gives (.fabs f) f.dst n (fun _ w l =>
    let x := w.fsrc f.a f.ty.toNat l
    x - (x &&& signBits f)) ∧
  Gives (.fneg f) f.dst n (fun _ w l => w.fsrc f.a f.ty.toNat l ^^^ signBits f) ∧
  Gives (.fcopysign f) f.dst n (fun _ w l =>
    let x := w.fsrc f.a f.ty.toNat l
    x - (x &&& signBits f) + (w.fsrc f.b f.ty.toNat l &&& signBits f))

/-- R255 to R259: quotients, roots, exponentials, logarithms and scalings; minima, maxima, tests and classes. -/
def Obligations.FloatFunctionsAndTests : Prop := ∀ f : FmtA3,
  let n := wordsF f.ty
  let t := fmtF f.ty.toNat
  GivesF (.fdiv f) f.dst n (fun w l =>
    fDiv t (modeOf w f) (t.decode (w.fsrc f.a f.ty.toNat l)) (t.decode (w.fsrc f.b f.ty.toNat l))) ∧
  GivesF (.fsqrt f) f.dst n (fun w l => fSqrt t (modeOf w f) (t.decode (w.fsrc f.a f.ty.toNat l))) ∧
  GivesF (.frsq f) f.dst n (fun w l => fRsq t (modeOf w f) (t.decode (w.fsrc f.a f.ty.toNat l))) ∧
  GivesF (.fexp2 f) f.dst n (fun w l => fExp2 t (modeOf w f) (w.fsrc f.a f.ty.toNat l)) ∧
  GivesF (.flog2 f) f.dst n (fun w l => fLog2 t (modeOf w f) (w.fsrc f.a f.ty.toNat l)) ∧
  GivesF (.fscale f) f.dst n (fun w l =>
    fScale t (modeOf w f) (t.decode (w.fsrc f.a f.ty.toNat l)) (w.bv f.b 1 l).toInt) ∧
  GivesF (.fgetexp f) f.dst 1 (fun w l => fGetexp (t.decode (w.fsrc f.a f.ty.toNat l))) ∧
  GivesF (.fmin f) f.dst n (elements f (fun t _ x y _ => fMinMax t false true x y)) ∧
  GivesF (.fmax f) f.dst n (elements f (fun t _ x y _ => fMinMax t true true x y)) ∧
  GivesF (.fminm f) f.dst n (elements f (fun t _ x y _ => fMinMax t false false x y)) ∧
  GivesF (.fmaxm f) f.dst n (elements f (fun t _ x y _ => fMinMax t true false x y)) ∧
  GivesF (.fsetp f) f.dst 1 (fun w l =>
    let r := fTest f.flg.toNat (t.decode (w.fsrc f.a f.ty.toNat l)) (t.decode (w.fsrc f.b f.ty.toNat l))
      (t.decode (w.fsrc f.c f.ty.toNat l))
    (b2n r.1, r.2)) ∧
  Gives (.fclass f) f.dst 1 (fun _ w l => fClass t (t.decode (w.fsrc f.a f.ty.toNat l)))

/-- R260 to R264: roundings to integral values, conversions between formats and integers, packing and unpacking. -/
def Obligations.FloatConversions : Prop := ∀ f : FmtA3,
  let n := wordsF f.ty
  let t := fmtF f.ty.toNat
  let src := fmtF f.flg.toNat
  GivesF (.frnd f) f.dst n (elements f (fun t r x _ _ => fRound t r (decide (f.flg = 1#4)) x)) ∧
  GivesF (.fcvt f) f.dst n (fun w l => fCvt t src (modeOf w f) false (w.fsrc f.a f.flg.toNat l)) ∧
  GivesF (.fcvtSat f) f.dst n (fun w l => fCvt t src (modeOf w f) true (w.fsrc f.a f.flg.toNat l)) ∧
  (∀ x ∈ [(CvtInt.i8, 8, true), (.i16, 16, true), (.i32, 32, true), (.i64, 64, true), (.i4, 4, true),
      (.n8, 8, false), (.n16, 16, false), (.n32, 32, false), (.n64, 64, false)],
    let k := if x.2.1 = 64 then 2 else 1
    GivesF (.fcvti x.1 f) f.dst k (fun w l =>
      let r := fCvtInt src (modeOf w f) x.2.1 x.2.2 (w.fsrc f.a f.flg.toNat l)
      ((BitVec.ofInt (32 * k) r.1).toNat, r.2))) ∧
  GivesF (.icvtf f) f.dst n (fun w l =>
    let b := if f.flg.toNat ∈ [0, 4] then 8 else if f.flg.toNat ∈ [1, 5] then 16 else if f.flg.toNat ∈ [2, 6] then 32
      else if f.flg.toNat = 8 then 4 else 64
    let x := asInt (decide (f.flg.toNat < 4 ∨ f.flg.toNat = 8)) (BitVec.ofNat b (w.src f.a (wordsI f.flg) l))
    t.roundInt (modeOf w f) false x 0 false) ∧
  GivesF (.fpack f) f.dst 1 (fun w l =>
    let lo := fCvt t f32 (modeOf w f) false (w.fsrc f.a 2 l)
    let hi := fCvt t f32 (modeOf w f) false (w.fsrc f.b 2 l)
    (lo.1 + hi.1 * 2 ^ 16, lo.2 ||| hi.2)) ∧
  GivesF (.funpk f) f.dst 1 (fun w l =>
    let x := w.fsrc f.a f.ty.toNat l
    fCvt f32 t .rne false (if f.flg = 1#4 then x / 2 ^ 16 else x % 2 ^ 16))

/-- R265 to R268: the dot product, and the quantising instructions, which read all 32 lanes as one block. With a scalar
destination an FNXENC or FNXDEC acts once, and its block has one element, of the lowest active lane: the model's reading
(log 53, DEDUCED). -/
def Obligations.DotAndQuantise : Prop := ∀ f : FmtA3,
  let t := fmtF f.ty.toNat
  GivesF (.fdot2 f) f.dst 1 (fun w l =>
    fDot2 t (modeOf w f) (w.fsrc f.a f.ty.toNat l) (w.fsrc f.b f.ty.toNat l) (w.fsrc f.c 2 l)) ∧
  GivesWave (.fqblk f) (fun _ w m =>
    let r := quantBlock (decide (f.ty = 4#4)) f.flg.toNat (w.block f.a m)
    if m = 0#32 then w
    else { w.put f.dst 1 m (fun l => r.2.2.1.getD l 0 + r.1 * 2 ^ 8 + r.2.1 * 2 ^ 16) with
           fpflags := w.fpflags ||| r.2.2.2 }) ∧
  GivesWave (.fnxenc f) (fun _ w m0 =>
    let m := if isLaneReg f.dst then m0 else Mask.lowest m0
    let xs := w.block f.a m
    let r := n4Encode xs
    let lost := (xs.zip (n4Decode r.1).1).any (fun p => fDiffers p.1 p.2)
    if m = 0#32 then w
    else { w.put f.dst 1 m (fun l => r.1.getD l 0) with
           fpflags := w.fpflags ||| r.2 ||| (if lost then 16#7 else 0#7) }) ∧
  GivesWave (.fnxdec f) (fun _ w m0 =>
    let m := if isLaneReg f.dst then m0 else Mask.lowest m0
    let r := n4Decode ((List.range 32).map (fun l => if m.has l then w.src f.a 1 l % 16 else 0))
    if m = 0#32 then w
    else { w.put f.dst 1 m (fun l => match r.1.getD l (.fin false 0 0) with
             | .nan sg _ _ => t.nanBits sg
             | v => t.encode v) with
           fpflags := w.fpflags ||| (if r.2 then 32#7 else 0#7) })

/-- R168: the multiple of 2^d that each mode chooses for m, with the sign of the value; RNE and RNA choose a nearest one,
RNE the even one of two, RNA the one away from zero; RTZ, RDN and RUP choose the neighbour on their side. -/
def Obligations.RoundingModes : Prop := ∀ (m d : Nat) (s : Bool),
  let n (r : Rnd) : Nat := (roundAt r s m 0 d false).1
  let x (r : Rnd) : Int := (n r : Int) * 2 ^ d - m
  2 * (x .rne).natAbs ≤ 2 ^ d ∧ (2 * (x .rne).natAbs = 2 ^ d → 0 < d → n .rne % 2 = 0) ∧
  2 * (x .rna).natAbs ≤ 2 ^ d ∧ (2 * (x .rna).natAbs = 2 ^ d → 0 < d → 0 < x .rna) ∧
  (x .rtz ≤ 0 ∧ -x .rtz < 2 ^ d) ∧
  (if s then 0 ≤ x .rdn ∧ x .rdn < 2 ^ d else x .rdn ≤ 0 ∧ -x .rdn < 2 ^ d) ∧
  (if s then x .rup ≤ 0 ∧ -x .rup < 2 ^ d else 0 ≤ x .rup ∧ x .rup < 2 ^ d) ∧
  ((roundAt .rne s m 0 d false).2 = true ↔ ¬ 2 ^ d ∣ m)

/-! ### Reset, decoding and the step -/

/-- R7, R22, R32, R103, R347, R395, R397: the machine after reset. The clock is 0, nothing runs, every object entry is absent, every
queue is unbound, and the bring-up parameters have their defaults. That no device memory is listed, so that all of it reads as zero, is the
model's choice (log 4, DESIGN CHOICE): the spec gives DRAM no contents after power-on. -/
def Obligations.ResetState : Prop :=
  let s := State.reset
  s.clock = 0#64 ∧ s.waves = [] ∧ s.launches = [] ∧ s.mem = [] ∧
  (∀ h, (s.rotAt h).state = .absent ∧ (s.rotAt h).gen = 0#3) ∧
  (∀ k, (s.queue k).state = 0#3 ∧ (s.queue k).win = false ∧ (s.queue k).rc = 0 ∧ (s.queue k).wc = 0) ∧
  (∀ w, (s.world w).budget = 0x1000040001000040#64 ∧ (s.world w).paused = false ∧ (s.world w).tdisp = .configUnlocked) ∧
  s.plat.privateGiB = 2 ∧ s.plat.cethr = 256 ∧ s.plat.ttrip = 105 ∧ s.plat.trel = 95 ∧ s.plat.launchSeq = 0#32

/-- Memory after reset has the canonical form. -/
def Obligations.ResetMemoryCanonical : Prop := State.reset.memOk = true

/-- Every step keeps the canonical form of memory: addresses rise strictly, and no cell holds the value that an unlisted
address reads as. -/
def Obligations.StepKeepsMemoryCanonical : Prop :=
  ∀ s t, s.memOk = true → step s = .next t → t.memOk = true

/-- R208, R211: decoding the word of a well-formed instruction gives the instruction back, with every operand at every
value that the encoding admits. -/
def Obligations.DecodeOfEncode : Prop :=
  ∀ i : Instr, i.wf = true → ∃ w, encode i = some w ∧ decodeWord w = .ok i ∧ decodeBytes (wordBytes w) = .ok (i, [])

/-- R208, R218: an instruction that a word decodes to has that word: no bit is dropped, and no two words mean one
instruction. -/
def Obligations.EncodeOfDecode : Prop := ∀ (w : DWord) (i : Instr), decodeWord w = .ok i → encode i = some w

/-- Words that the spec encodes, read as it reads them. -/
def Obligations.DecodedWords : Prop :=
  let v (n : Nat) : Operand := .v (BitVec.ofNat 8 n)
  let k (n : Nat) : Operand := .pos (BitVec.ofNat 6 n)
  decodeWord 0x0100902C2005C800#64 = .ok (.imad { dst := v 4, a := .s 2#6, b := k 4, c := v 1, pred := 7#4, ty := 2#4,
                                                   rnd := 0#3, mark := 0#3, flg := 0#4 }) ∧
  decodeWord 0x2000202000003E87#64 = .ok (.iaddImm { dst := v 1, a := v 2, imm := 1000#32, pred := 7#4 }) ∧
  decodeWord 0x18E0580000870000#64 = .ok (.srd { dst := .s 2#6, a := k 0, sel := 8#16, pred := 7#4, rsv := 0#16 }) ∧
  decodeWord 0x3024300000000009#64 = .ok (.bra { pred := 9#4, mode := 0#4, opnd := k 0, rsv := 0#5, target := 9#32 }) ∧
  decodeWord 0x7000700C00000E81#64 = .ok (.ldGlobal { data := v 3, base := .s 0#6, index := k 0, imm := 0#14,
                                                      pred := 7#4, width := 2#3, scope := 0#3, order := 1#3 }) ∧
  decodeWord 0x7F01C06C00000EA6#64 = .ok (.redFadd { data := v 14, base := v 6, index := k 0, imm := 0#14,
                                                     pred := 7#4, width := 2#3, scope := 4#3, order := 6#3 }) ∧
  decodeWord 0x7481408C8601C800#64 = .ok (.padd { dst := v 10, a := v 8, b := k 16, c := k 0, pred := 7#4, ty := 2#4,
                                                  rnd := 0#3, mark := 0#3, flg := 0#4 }) ∧
  decodeWord 0xE000000000000000#64 = .error .illegalOpcode ∧ decodeWord 0xF800000000000000#64 = .error .malformedClause

/-- A step runs the instruction that the word at the wave's resume index decodes to, with the clock advanced by one and
the wave as the issuing one; a word that decodes to nothing is refused (R219). A wave without a clause fetches it; one
whose bundle waits for other nodes turns to another of its entries (R423). A word that decodes to nothing names the lowest lane of
the bundle in its record, which is the model's reading (log 34, DEDUCED), and in an ordinary wave a code of the privileged part of the
opcode map raises PRIVILEGE, assigned or not (R219, R224, R317). After an issue the core of a debugger's step
halts again where the wave was not ready (R369), and nothing else happens around it. The choice of the wave and of the
event is the model's (log 1, DESIGN CHOICE): the first listed event lands before anything else, issue and
background events take turns, and after power is lost and every listed event has landed, the machine stops (R394). -/
def Obligations.StepRunsDecoded : Prop := ∀ s : State,
  let u : State := { s with clock := s.clock + 1#64 }
  (∀ i a rest t, s.agenda = (i, a) :: rest → exec i { u with agenda := rest, arg := a } = .next t →
    step s = .next t.retry) ∧
  (s.agenda = [] → s.plat.boot = .lost → step s = .fault .powerOff) ∧
  (s.agenda = [] → s.plat.boot ≠ .lost → s.bg = true →
    (∀ i a t, u.nextEvent = some (i, a) → exec i { u with arg := a } = .next t → step s = .next t.retry) ∧
    (u.nextEvent = none → step s = .next u.retry)) ∧
  (∀ v id b, (∀ x, tget v.waves id = some x → (v.core x.core).stepping ≠ some id) → State.afterIssue v id b = v) ∧
  ∀ id w, s.agenda = [] → s.plat.boot ≠ .lost → s.bg = false → u.pick = some (id, w) →
    let t : State := { u with cur := id, bg := true }
    (u.answered w = false → step s = .next (t.turnAside id w)) ∧
    (u.answered w = true → w.word = none → ∀ v, exec .clauseFetch { t with arg := { a := id } } = .next v →
      step s = .next (v.afterIssue id false)) ∧
    ∀ x, u.answered w = true → w.word = some x →
      (∀ i v, decodeWord x = .ok i → exec i t = .next v → step s = .next (v.afterIssue id true)) ∧
      (∀ e, decodeWord x = .error e → ∃ c, step s =
          .next ((t.deliver id w (w.mkRec c 0 (Mask.first w.bundleMask))).afterIssue id true) ∧
        c = if w.sup = false ∧ 0x360 ≤ x.toNat / 2 ^ 54 ∧ x.toNat / 2 ^ 54 < 0x380 then 0x04
            else if e = .illegalOpcode then 0x01 else if e = .reservedField then 0x03 else 0x02)

/-! ### The fault order, conditions and the frontier -/

/-- R219, R224: a privileged instruction raises PRIVILEGE in a wave that is no supervisor wave; else an instruction of an
assigned opcode whose fields hold a value that is refused raises RESERVED_FIELD. Both belong to the decode step, and
nothing else happens. The lane that the record names is the model's reading (log 34, DEDUCED). -/
def Obligations.DecodeStepConditions : Prop := ∀ (i : Instr) (s : State) (w : Wave),
  encodable i = true → s.curWave = some w → w.status = .slot → w.bundle ≠ none →
  (privileged i = true → w.sup = false →
    exec i s = .next (s.deliver s.cur w (w.mkRec 0x04 0 (Mask.first w.bundleMask)))) ∧
  ((privileged i = true → w.sup = true) → (fieldsOk i && fieldsFit w.nv w.firstFrontier i) = false →
    exec i s = .next (s.deliver s.cur w (w.mkRec 0x03 0 (Mask.first w.bundleMask))))

/-- R217: with its fields allowed, an instruction whose operands are empty stalls, unchanged; one that reads an empty
register through a trap-on-empty mark raises EMPTY_READ in the register-state step. An instruction that holds its bundle
for other nodes has passed this step, and a bundle that was set aside may go on instead (R423). -/
def Obligations.EmptyRegisters : Prop := ∀ (i : Instr) (s : State) (w : Wave),
  encodable i = true → s.curWave = some w → w.status = .slot → w.bundle ≠ none → (privileged i = true → w.sup = true) →
  (fieldsOk i && fieldsFit w.nv w.firstFrontier i) = true → w.hold = [] → w.ldn = none →
  (regState w.regs (w.active i) (regSlots i) = .stall → w.asideDue = false →
    exec i s = .next (s.putWave s.cur { w with stalled := true, waits := true })) ∧
  (∀ l, regState w.regs (w.active i) (regSlots i) = .emptyRead l →
    exec i s = .next (s.deliver s.cur w (w.mkRec 0x05 1 l)))

/-- R57, R359, R361: taking a condition lowers an ordinary wave whose fills have landed: its cause is the fault record, its
registers keep their contents and are full, its slot is free, and an entry is handed to its world's fault queue. Memory and every
other wave stay as they are. R225, R226, R360: a supervisor wave takes a condition by entering at SV_TRAPBASE, with the
low 37 bits of the fault record in SV_CAUSE, its PC and resume index in SV_EPC, and the record's address in SV_FAULTADDR;
the layout of SV_EPC is the model's (log 10, DESIGN CHOICE). -/
def Obligations.TakingACondition : Prop := ∀ (s : State) (id : Nat) (w : Wave) (r : FaultRec),
  (w.sup = false → w.fillsDue = false → s.managerToo w.world r = false →
  let t := s.deliver id w r
  (∃ w', tget t.waves id = some w' ∧ w'.status = .faulted ∧ w'.cause = some r ∧ w'.recKind ≠ 0#2 ∧ w'.bundle = none ∧
    w'.regs = { w.regs with vEmpty := [], sEmpty := [], vBusy := [], sBusy := [] } ∧
    w'.fpflags = w.fpflags ∧ w'.fpmode = w.fpmode ∧ w'.recCnt = w.cnt ∧ w'.recSeq = w.seq) ∧
  (∃ p : Post, (t.world w.world).toPost = (s.world w.world).toPost ++ [p] ∧ p.record = r ∧ p.kind = 0 ∧
    p.world = w.world ∧ p.core = w.core ∧ p.wave = w.num ∧ p.launch = w.launch ∧ p.prec = s.recAddr w.recSlot) ∧
  t.mem = s.mem ∧ ∀ k, k ≠ id → tget t.waves k = tget s.waves k) ∧
  ∀ b, w.sup = true → w.bundle = some b →
  ∃ w' b', s.deliver id w r = s.putWave id w' ∧ w'.bundle = some b' ∧
    b'.pc = pcOf w.codeBase w.sv.trapBase.toNat ∧ b'.ridx = 0 ∧ w'.others = [] ∧
    w'.sv = { w.sv with cause := BitVec.ofNat 64 (r.toNat % 2 ^ 37), faultAddr := r.addr,
                        epc := BitVec.ofNat 64 (b.pc.toNat * 16 + b.ridx % 16) } ∧
    w'.regs = w.regs ∧ w'.status = w.status

/-- R182: passing on, clause boundary included, moves lanes between the entries of the wave's own frontier and no more:
it leaves every register, flag, counter and pending access of the wave and all memory as they are; of another wave it may
end that it stands back for a clause (R185). A wave that leaves its slot has every register full (R57), and a bundle that a
remote access held takes its answers up again (R423). Within a clause only the resume index moves on (R181). -/
def Obligations.AdvanceFrame : Prop := ∀ (s : State) (id : Nat),
  let t := s.advance id
  t = { s with waves := t.waves, cores := t.cores, worlds := t.worlds } ∧
  (∀ k, k ≠ id → (∀ v, tget s.waves k = some v → ∃ x, tget t.waves k = some { v with behind := x }) ∧
    (tget s.waves k = none → tget t.waves k = none)) ∧
  (∀ k, let c := s.core k
        t.core k = { c with lastWork := (t.core k).lastWork, tkWait := (t.core k).tkWait, stepping := (t.core k).stepping }) ∧
  (∀ k, t.world k = { s.world k with toPost := (t.world k).toPost }) ∧
  (∀ w, tget s.waves id = some w → ∃ w', tget t.waves id = some w' ∧ (w'.status = .slot → w'.regs = w.regs) ∧
    w'.regs = { w.regs with vEmpty := w'.regs.vEmpty, sEmpty := w'.regs.sEmpty, vBusy := w'.regs.vBusy,
                            sBusy := w'.regs.sBusy } ∧
    w'.fpflags = w.fpflags ∧ w'.fpmode = w.fpmode ∧ w'.valid = w.valid ∧ w'.exited = w.exited ∧ w'.cnt = w.cnt ∧ w'.seq = w.seq ∧
    w'.ridges = w.ridges ∧ w'.storeQ = w.storeQ ∧ w'.loads = w.loads ∧ w'.gates = w.gates ∧ (w'.hold = w.hold ∨ ∃ e ∈ w.others, w'.hold = e.wait) ∧
    (w.sup = false → w'.sv = w.sv)) ∧
  ∀ w b c, tget s.waves id = some w → w.bundle = some b → w.clause = some c → b.mask ≠ 0#32 →
    b.ridx + 1 < c.words.length → t = s.putWave id { w with bundle := some { b with ridx := b.ridx + 1 }, waits := false }

/-- R18, R30, R209, R222: what a write of a destination of `n` words does, from a function of the lane. A vector
destination takes the words of the value in the active lanes, a predicate its low bit there, and a scalar destination
the value whole, which is the same in every active lane; every other register keeps its contents. -/
def Obligations.DestinationWrite : Prop := ∀ (w : Wave) (o : Operand) (n : Nat) (m : Mask) (f : Nat → Nat),
  let g := (w.put o n m f).regs
  (∀ r l, l < 32 → g.readV r l = match o with
    | .v k => if k.toNat ≤ r ∧ r < k.toNat + n ∧ m.has l then BitVec.ofNat 32 (f l / 2 ^ (32 * (r - k.toNat)))
              else w.regs.readV r l
    | _ => w.regs.readV r l) ∧
  (∀ r x, (∀ l, l < 32 → m.has l = true → f l = x) → g.readS r = match o with
    | .s k => if k.toNat ≤ r ∧ r < k.toNat + n ∧ m ≠ 0#32 then BitVec.ofNat 32 (x / 2 ^ (32 * (r - k.toNat)))
              else w.regs.readS r
    | _ => w.regs.readS r) ∧
  (∀ r l, l < 32 → (g.readP r).has l = match o with
    | .p k => if k.toNat = r ∧ m.has l then decide (f l % 2 = 1) else (w.regs.readP r).has l
    | _ => (w.regs.readP r).has l) ∧
  g.vEmpty = w.regs.vEmpty ∧ g.sEmpty = w.regs.sEmpty ∧ w.put o n m f = { w with regs := g }

/-- The instructions that change nothing but registers, flags and the frontier of their wave: integer, floating-point and
wave operations, SRD and the pointer instructions without an access. V2P writes the predicates that its k selects. -/
def registerOnly : Instr → Bool
  | .iadd _ | .isub _ | .imul _ | .imulh _ | .imad _ | .imadw _ | .idiv _ | .irem _ | .imin _ | .imax _ | .iabs _
  | .ineg _ | .iadds _ | .isubs _ | .andOp _ | .orOp _ | .xorOp _ | .andn _ | .shl _ | .shr _ | .sar _ | .shf _
  | .bfe _ | .bfi _ | .popc _ | .clz _ | .ctz _ | .brev _ | .permb _ | .isetp _ | .sel _ | .mov _ | .nop _ | .psetp _
  | .p2v _ | .iaddImm _ | .iaddImm64 _ | .imulImm _ | .andImm _ | .orImm _ | .xorImm _ | .movi _ | .moviI64 _
  | .moviF64 _ | .lea _ | .vote _ | .matchOp _ | .srd _ | .fadd _ | .fsub _ | .fmul _ | .ffma _ | .fabs _ | .fneg _
  | .fdiv _ | .fsqrt _ | .frsq _ | .fexp2 _ | .flog2 _ | .fscale _ | .fgetexp _ | .fcopysign _ | .fmin _ | .fmax _
  | .fminm _ | .fmaxm _ | .fsetp _ | .fclass _ | .frnd _ | .fcvt _ | .fcvtSat _ | .fcvti _ _ | .icvtf _ | .fpack _
  | .funpk _ | .fdot2 _ | .fqblk _ | .fnxenc _ | .fnxdec _ | .psub _ | .peq _ | .plt _ | .ple _ | .pext _ => true
  | _ => false

/-- R18, R172, R222: the frame of the register-only instructions. A register changes only where a destination of the
instruction names it, and there only in active lanes; flags only become set, and only by a floating-point instruction;
every byte of memory, of the on-chip spaces and every other wave stay as they are; a wave that stood back for one clause
may go ahead at the clause boundary (R185). A wave that leaves its slot there has every register full (R57). -/
def Obligations.RegisterFrame : Prop := ∀ (i : Instr) (s : State) (w : Wave) (t : State),
  registerOnly i = true → issues i s w = true → exec i s = .next t →
  let dst (o : Nat → Operand → Nat → Bool) (r : Nat) : Prop := ∃ x ∈ slots i, x.isDst = true ∧ o r x.op x.count = true
  let inV (r : Nat) (o : Operand) (n : Nat) : Bool := match o with
    | .v k => decide (k.toNat ≤ r ∧ r < k.toNat + n)
    | _ => false
  let inS (r : Nat) (o : Operand) (n : Nat) : Bool := match o with
    | .s k => decide (k.toNat ≤ r ∧ r < k.toNat + n)
    | _ => false
  let inP (r : Nat) (o : Operand) (_ : Nat) : Bool := match o with
    | .p k => decide (k.toNat = r)
    | _ => false
  t.mem = s.mem ∧ (∀ a, cget t.mem a = cget s.mem a) ∧ t.side = s.side ∧ t.cache = s.cache ∧ t.ops = s.ops ∧
  (∀ k, (t.core k).lmem = (s.core k).lmem ∧ (t.core k).wbuf = (s.core k).wbuf ∧ (t.core k).abuf = (s.core k).abuf ∧
    (t.core k).cbuf = (s.core k).cbuf ∧ (t.core k).cairns = (s.core k).cairns ∧ (t.core k).ridges = (s.core k).ridges) ∧
  (∀ k, k ≠ s.cur → (∀ v, tget s.waves k = some v → ∃ x, tget t.waves k = some { v with behind := x }) ∧
    (tget s.waves k = none → tget t.waves k = none)) ∧
  ∃ w', tget t.waves s.cur = some w' ∧
    (∀ r l, l < 32 → ¬dst inV r ∨ (w.active i).has l = false → w'.regs.readV r l = w.regs.readV r l) ∧
    (∀ r, ¬dst inS r ∨ w.active i = 0#32 → w'.regs.readS r = w.regs.readS r) ∧
    (∀ r l, l < 32 → ¬dst inP r ∨ (w.active i).has l = false → (w'.regs.readP r).has l = (w.regs.readP r).has l) ∧
    (w'.status = .slot → w'.regs.vEmpty = w.regs.vEmpty ∧ w'.regs.sEmpty = w.regs.sEmpty) ∧
    w'.fpmode = w.fpmode ∧ w'.fpflags &&& w.fpflags = w.fpflags ∧
    w'.cnt = w.cnt ∧ w'.seq = w.seq ∧ w'.storeQ = w.storeQ ∧ w'.loads = w.loads ∧ w'.ridges = w.ridges ∧
    w'.valid = w.valid ∧ (w.sup = false → w'.sv = w.sv)

/-! ### Memory: loads, stores, atomics, fences -/

/-- A format M instruction has passed its register-state step and the waits of its order and scope (R116, R119, R126):
`s1` is the state in which its access goes on. -/
def goesOn (i : Instr) (f : FmtM) (order : Nat) (s : State) (w : Wave) (s1 : State) : Prop :=
  issues i s w = true ∧ actingLanes f (w.active i) ≠ 0#32 ∧ s.before s.cur w order f.scope.toNat = .go s1

/-- Address formation and translation have passed in every acting lane (R25, R26, R95), and every lane's address is of
this node: `l` holds the formed addresses, `pas` the physical ones, and `s2` is the state after the walks' own writes. -/
def reaches (i : Instr) (f : FmtM) (useIndex : Bool) (n : Nat) (acc : Access) (s : State) (w : Wave) (s1 : State)
    (l : List (Nat × GAddr)) (pas : List (Nat × Nat)) (s2 : State) : Prop :=
  let w1 := tgetD s1.waves s.cur w
  formLanes (s1.formLane w1 f useIndex n) (Mask.lanes (actingLanes f (w.active i))) = .ok l ∧
  (∃ s', s1.xlateFor w1 acc l = .ok pas s' ∧ s2 = s'.updWave s.cur (fun w => { w with denied := [] })) ∧
  ∀ x ∈ pas, s2.isRemote x.2 = false

/-- The loads from on-chip spaces: the buffer, none for `l:`, and whether the value is sign-extended. -/
def chipLoads (f : FmtM) : List (Instr × Option Nat × Bool) :=
  [(.ldScratch f, none, false), (.ldScratchSigned f, none, true), (.ldWeight f, some 0, false),
   (.ldActivation f, some 1, false), (.ldAccumulator f, some 2, false)]

/-- The stores to on-chip spaces. -/
def chipStores (f : FmtM) : List (Instr × Option Nat) :=
  [(.stScratch f, none), (.stWeight f, some 0), (.stActivation f, some 1), (.stAccumulator f, some 2)]

/-- Base + index + immediate of an on-chip operand, exactly (R24). -/
def chipAddr (w : Wave) (f : FmtM) (l : Nat) : Int := (w.src f.base 1 l : Int) + w.src f.index 1 l + f.imm.toInt

/-- R24, R58, R72: an on-chip address is aligned and in bounds in every acting lane; in a typed buffer the access is of
four bytes or more, and a held cairn of the workgroup covers it. -/
def chipFits (s : State) (w : Wave) (f : FmtM) (b : Option Nat) (m : Mask) : Prop := ∀ l ∈ Mask.lanes m,
  let n : Nat := 2 ^ f.width.toNat
  let size : Nat := match b with
    | none => s.lSize w
    | some 0 => 8388608
    | some 1 => 6291456
    | _ => 8388608
  chipAddr w f l % n = 0 ∧ 0 ≤ chipAddr w f l ∧ chipAddr w f l + n ≤ size ∧
  ∀ k, b = some k → 4 ≤ n ∧ ((s.core w.core).covering (s.slotOf w) k (chipAddr w f l).toNat n).isSome = true

/-- The first byte of a lane's access in its space: `l:` begins at the workgroup's base. -/
def chipByte (s : State) (w : Wave) (f : FmtM) (b : Option Nat) (l : Nat) : Nat :=
  (match b with
    | none => s.lBase w
    | some _ => 0) + (chipAddr w f l).toNat

/-- The bytes of an on-chip space. -/
def chipRead (c : CoreSt) (b : Option Nat) (a n : Nat) : List Byte := match b with
  | none => c.lRead a n
  | some k => c.bRead k a n

/-- R24, R272: a load from an on-chip space writes the bytes at each lane's address, extended by sign or zero, into its
destination; the data lands at once, and no full/empty bit is cleared. A word with an uncorrectable error raises POISON
(R402), so the loads are of words without one. Behind a load that has no value yet, the load joins the wave's outstanding
loads, which take their values in order (R123), and its destination waits for the data (R56). -/
def Obligations.OnChipLoads : Prop := ∀ (f : FmtM) (s : State) (w : Wave) (s1 : State), ∀ x ∈ chipLoads f,
  goesOn x.1 f f.order.toNat s w s1 →
  let w1 := tgetD s1.waves s.cur w
  let m := actingLanes f (w.active x.1)
  let n := 2 ^ f.width.toNat
  chipFits s1 w1 f x.2.1 m →
  (∀ l ∈ Mask.lanes m, (s1.core w1.core).badAt (x.2.1.getD 3) (chipByte s1 w1 f x.2.1 l) n = false) →
  (w1.loads = [] →
    exec x.1 s = .next ((s1.putWave s.cur (w1.put f.data (wordsM f.width) m (fun l =>
      let v := leNat (chipRead (s1.core w1.core) x.2.1 (chipByte s1 w1 f x.2.1 l) n)
      if n < 4 ∧ x.2.2 = true then ((BitVec.ofNat (8 * n) v).signExtend 32).toNat else v))).advance s.cur)) ∧
  (w1.loads ≠ [] →
    let op : LoadOp := { stamp := s1.nextId, dst := f.data, width := n, signed := x.2.2, inv := false, who := s1.stampOf w1,
                         lanes := (Mask.lanes m).map (fun l => (l, .chip x.2.1 (chipByte s1 w1 f x.2.1 l))) }
    exec x.1 s = .next (((s1.putWave s.cur { w1 with
      regs := w1.regs.setBusy f.data (wordsM f.width) m, loads := w1.loads ++ [op]
      gates := w1.gates ++ (if f.order = 2#3 ∨ f.order = 5#3 then [.acquire s1.nextId f.scope.toNat] else []) }).bump).advance
        s.cur))

/-- R62, R70, R113, R272: a store to an on-chip space writes the low bytes of its data at each lane's address, and where
lanes overlap the highest lane's value stands. Every other byte of the space reads as before, device memory and every
register stay as they are, and an sc store is followed by a fence. The store comes after the on-chip loads of its core that
have no data yet (R120). -/
def Obligations.OnChipStores : Prop := ∀ (f : FmtM) (s : State) (w : Wave) (s1 : State), ∀ x ∈ chipStores f,
  goesOn x.1 f (if f.order = 5#3 then 3 else f.order.toNat) s w s1 →
  let w1 := tgetD s1.waves s.cur w
  let m := actingLanes f (w.active x.1)
  let n := 2 ^ f.width.toNat
  let addr (l : Nat) : Nat := chipByte s1 w1 f x.2 l
  chipFits s1 w1 f x.2 m → s1.chipDue w1.core = false → (∀ k, Memory.wf (s1.core k).lmem = true ∧ ∀ b, Memory.wf ((s1.core k).buf b) = true) →
  ∃ u : State, exec x.1 s = .next ((if f.order = 5#3 then
      u.updWave s.cur (fun w => { w with gates := w.gates ++ [.fence f.scope.toNat] }) else u).advance s.cur) ∧
    u = { s1 with cores := u.cores } ∧ (∀ k, k ≠ w1.core → u.core k = s1.core k) ∧
    (∀ l ∈ Mask.lanes m, (∀ k ∈ Mask.lanes m, l < k → addr k + n ≤ addr l ∨ addr l + n ≤ addr k) →
      chipRead (u.core w1.core) x.2 (addr l) n = leBytes n (w1.storeVal f l)) ∧
    (∀ a, (∀ l ∈ Mask.lanes m, a < addr l ∨ addr l + n ≤ a) →
      chipRead (u.core w1.core) x.2 a 1 = chipRead (s1.core w1.core) x.2 a 1)

/-- R32, R55, R88, R195, R272: a `g:` load empties its destination in the acting lanes and joins the wave's outstanding loads; memory is
read when its value returns. A supervisor wave's load of the device-private region takes the bytes of the record, entry or
map that stands there (log 18, DESIGN CHOICE), once no store of its core to them is queued. The lines it reads have passed
the checks of the data step (R275, R387). -/
def Obligations.GlobalLoads : Prop := ∀ (f : FmtM) (s : State) (w : Wave) (s1 s2 s3 : State) (l : List (Nat × GAddr))
    (pas : List (Nat × Nat)), ∀ x ∈ ([(.ldGlobal f, false), (.ldGlobalSigned f, true)] : List (Instr × Bool)),
  goesOn x.1 f f.order.toNat s w s1 → reaches x.1 f true (2 ^ f.width.toNat) .load s w s1 l pas s2 →
  s2.dataCheck (tgetD s1.waves s.cur w) (2 ^ f.width.toNat) pas = .ok s3 →
  let w3 := tgetD s3.waves s.cur (tgetD s1.waves s.cur w)
  let n := 2 ^ f.width.toNat
  w.hold = [] → w3.hold = [] → ¬(w3.sup = true ∧ ∃ y ∈ pas, s3.inPrivate y.2 = true ∧ s3.queued w3.core y.2 n = true) →
  let u := s3.fillRequests w3 pas
  let op : LoadOp := { stamp := u.nextId, dst := f.data, width := n, signed := x.2, inv := decide (f.order = 1#3), who := u.stampOf w3,
                       lanes := pas.map (fun y => (y.1, match (if w3.sup = true ∧ u.inPrivate y.2 = true then u.viewBytes y.2 n
                                                              else none) with
                         | some bs => LoadSrc.known bs
                         | none => .phys y.2)) }
  let gate : List Gate := if f.order = 2#3 ∨ f.order = 5#3 then [.acquire u.nextId f.scope.toNat] else []
  exec x.1 s = .next ({ u.putWave s.cur { w3 with
      regs := w3.regs.clearFull f.data (wordsM f.width) (actingLanes f (w.active x.1))
      loads := w3.loads ++ [op], gates := w3.gates ++ gate } with nextId := u.nextId + 1 }.advance s.cur)

/-- R125, R272: a `g:` store joins the wave's store queue with the low bytes of its data in each acting lane; memory
changes only when the queue drains. STN puts the slot of its pointer there (R41), in one unit. Of a world that has left RUN, what is bound for
the host is dropped (R393). -/
def Obligations.GlobalStores : Prop := ∀ (f : FmtM) (s : State) (w : Wave) (s1 s2 : State) (l : List (Nat × GAddr))
    (pas : List (Nat × Nat)),
  let w1 := tgetD s1.waves s.cur w
  let w2 := tgetD s2.waves s.cur w1
  let queued (i : Instr) (bytes : Nat → List Byte) (gates : List Gate) (unit : Nat) : Prop :=
    let u := s2.fillRequests w2 pas
    let q : QEntry := { stamp := u.nextId, kind := .store, remoteOp := none, engine := false, whole := [], who := u.stampOf w2,
                        after := w2.seen, unit := unit,
                        lanes := (pas.filter (fun x => !s2.cutOff w2.world x.2)).map (fun x =>
                          { lane := x.1, pa := x.2, bytes := bytes x.1, b := 0#64, cmp := 0#64, posted := false
                            va := s1.laneAddr l x.1 }) }
    ∃ t : State, exec i s = .next (t.advance s.cur) ∧ t.mem = s2.mem ∧ t.nextId = u.nextId + 1 ∧
      tget t.waves s.cur = some { w2 with storeQ := w2.storeQ ++ [q], gates := w2.gates ++ gates } ∧
      ∀ k, k ≠ s.cur → tget t.waves k = tget s2.waves k
  (goesOn (.stGlobal f) f (if f.order = 5#3 then 3 else f.order.toNat) s w s1 →
    reaches (.stGlobal f) f true (2 ^ f.width.toNat) .store s w s1 l pas s2 → w1.queueRoom = true → w2.queueRoom = true →
    (∃ w', tget s2.waves s.cur = some w') →
    queued (.stGlobal f) (fun k => leBytes (2 ^ f.width.toNat) (w2.storeVal f k))
      (if f.order = 5#3 then [.fence f.scope.toNat] else []) 8) ∧
  (goesOn (.stn f) f f.order.toNat s w s1 → reaches (.stn f) f true 16 .store s w s1 l pas s2 →
    w1.queueRoom = true → w2.queueRoom = true → (∃ w', tget s2.waves s.cur = some w') →
    ∀ slot : Nat → Nat, (∀ k ∈ Mask.lanes (actingLanes f (w.active (.stn f))),
      s2.nameSlot w2.world (w2.src f.data 2 k) (s1.laneAddr l k) = .ok (slot k)) →
    (pas.map (fun x => x.1) = Mask.lanes (actingLanes f (w.active (.stn f)))) →
    queued (.stn f) (fun k => leBytes 16 (slot k)) [] 16)

/-- The atomics: the instructions of an operation that return the old value. -/
def atoms (f : FmtM) : List (Instr × AtomOp) :=
  [(.atomAdd f, .add), (.atomMin f, .min), (.atomMinUnsigned f, .minu), (.atomMax f, .max), (.atomMaxUnsigned f, .maxu),
   (.atomAnd f, .and), (.atomOr f, .or), (.atomXor f, .xor), (.atomExch f, .exch), (.atomCas f, .cas), (.atomInc f, .inc),
   (.atomDec f, .dec), (.atomFadd f, .fadd), (.atomFmin f, .fmin), (.atomFmax f, .fmax)]

/-- The reductions: the instructions that return nothing. -/
def reds (f : FmtM) : List (Instr × AtomOp) :=
  [(.redAdd f, .add), (.redMin f, .min), (.redMinUnsigned f, .minu), (.redMax f, .max), (.redMaxUnsigned f, .maxu),
   (.redAnd f, .and), (.redOr f, .or), (.redXor f, .xor), (.redInc f, .inc), (.redDec f, .dec), (.redFadd f, .fadd),
   (.redFmin f, .fmin), (.redFmax f, .fmax)]

/-- R125, R277, R278: ATOM and RED join the wave's store queue with their operands in each acting lane; ATOM empties its
destination there, and an acquire or sc order puts its gate behind it. Of a world that has left RUN, what is bound for the host is dropped
(R393). -/
def Obligations.Atomics : Prop := ∀ (f : FmtM) (s : State) (w : Wave) (s1 s2 s3 : State) (l : List (Nat × GAddr))
    (pas : List (Nat × Nat)),
  let w1 := tgetD s1.waves s.cur w
  let w3 := tgetD s3.waves s.cur w1
  let words := wordsM f.width
  let lanes (op : AtomOp) (o : Operand) : List QLane := (pas.filter (fun x => !s3.cutOff w3.world x.2)).map (fun x =>
    { lane := x.1, pa := x.2, bytes := [], b := BitVec.ofNat 64 (w3.atomOperand op o words x.1).1,
      cmp := BitVec.ofNat 64 (w3.atomOperand op o words x.1).2, posted := false, va := s1.laneAddr l x.1 })
  let ready (i : Instr) (index : Bool) : Prop := goesOn i f f.order.toNat s w s1 ∧
    reaches i f index (2 ^ f.width.toNat) .atomic s w s1 l pas s2 ∧ s2.dataCheck w1 (2 ^ f.width.toNat) pas = .ok s3 ∧
    pas ≠ [] ∧ (pas.map (fun x => x.1) = Mask.lanes (actingLanes f (w.active i))) ∧
    w1.queueRoom = true ∧ w3.queueRoom = true ∧ (∃ w', tget s3.waves s.cur = some w') ∧ w.hold = [] ∧ w.replay = none ∧ w3.replay = none
  let u := s3.fillRequests w3 pas
  let gates : List Gate := if f.order = 5#3 then [.acquire u.nextId f.scope.toNat, .fence f.scope.toNat]
    else if f.order = 2#3 ∨ f.order = 4#3 then [.acquire u.nextId f.scope.toNat] else []
  (∀ x ∈ atoms f, ready x.1 false →
    let q : QEntry := { stamp := u.nextId, kind := .atomic x.2 (2 ^ f.width.toNat) (some f.data),
                        lanes := lanes x.2 f.index, remoteOp := none, engine := false, whole := [], who := u.stampOf w3,
                        after := w3.seen }
    ∃ t : State, exec x.1 s = .next (t.advance s.cur) ∧ t.mem = s3.mem ∧
      tget t.waves s.cur = some { w3 with
        regs := w3.regs.clearFull f.data words (actingLanes f (w.active x.1))
        storeQ := w3.storeQ ++ [q], gates := w3.gates ++ gates }) ∧
  (∀ x ∈ reds f, ready x.1 true →
    let q : QEntry := { stamp := u.nextId, kind := .atomic x.2 (2 ^ f.width.toNat) none,
                        lanes := lanes x.2 f.data, remoteOp := none, engine := false, whole := [], who := u.stampOf w3,
                        after := w3.seen }
    ∃ t : State, exec x.1 s = .next (t.advance s.cur) ∧ t.mem = s3.mem ∧
      tget t.waves s.cur = some { w3 with storeQ := w3.storeQ ++ [q] })

/-- R277, R279: the new value of every atomic operation on the old value m and the operand b, both of W bits; none where
cas finds another value than its comparand. -/
def Obligations.AtomicTable : Prop := ∀ W ∈ [32, 64], ∀ m b c : BitVec W,
  let new (op : AtomOp) : Option Nat := atomNew op W m.toNat b.toNat c.toNat
  let t := if W = 64 then f64 else f32
  new .add = some (m + b).toNat ∧ new .min = some (if b.slt m then b else m).toNat ∧
  new .minu = some (if b.ult m then b else m).toNat ∧ new .max = some (if m.slt b then b else m).toNat ∧
  new .maxu = some (if m.ult b then b else m).toNat ∧ new .and = some (m &&& b).toNat ∧
  new .or = some (m ||| b).toNat ∧ new .xor = some (m ^^^ b).toNat ∧ new .exch = some b.toNat ∧
  new .cas = (if m = c then some b.toNat else none) ∧
  new .inc = some (if b ≤ m then 0 else m + 1).toNat ∧ new .dec = some (if m = 0 ∨ b < m then b else m - 1).toNat ∧
  new .fadd = some (fAdd t .rne (t.decode m.toNat) (t.decode b.toNat)).1 ∧
  new .fmin = some (fMinMax t false true m.toNat b.toNat).1 ∧
  new .fmax = some (fMinMax t true true m.toNat b.toNat).1

/-- R18, R209: with no acting lane these instructions do nothing. -/
def Obligations.NoActingLane : Prop := ∀ (f : FmtM) (e : FmtE) (x : FmtX) (s : State) (w : Wave),
  (∀ i ∈ ([.ldGlobal f, .ldGlobalSigned f, .ldScratch f, .ldScratchSigned f, .ldWeight f, .ldActivation f,
      .ldAccumulator f, .stGlobal f, .stScratch f, .stWeight f, .stActivation f, .stAccumulator f, .ldn f, .stn f,
      .ldg2l f, .prefetch f, .cinv f, .cclean f, .fence f, .fenceSc f, .qpush f, .qpop f, .qstat x, .mma e, .mdrain e,
      .dpload e, .xcopy e, .xgather e, .xlevel e, .rbegin e, .waitc e] : List Instr),
    issues i s w = true → w.active i = 0#32 → exec i s = .next (s.advance s.cur)) ∧
  (∀ y ∈ reds f, issues y.1 s w = true → w.active y.1 = 0#32 → exec y.1 s = .next (s.advance s.cur)) ∧
  (∀ y ∈ atoms f, issues y.1 s w = true → w.active y.1 = 0#32 → w.hold = [] → w.replay = none →
    exec y.1 s = .next ((s.putWave s.cur w).advance s.cur))

/-- R117, R119, R126, R284: a fence goes on once its waits are over. A release has waited for the stores before it at its
scope, an acquire for the values of earlier loads; an acquire at DOMAIN or SYSTEM scope drops the die's remote-marked
lines of the world. FENCE_SC waits for both and acts as an acquire. A release lets a wave go on only once its scope's
conditions hold: at WAVE and CORE scope no CINV or CCLEAN of the wave is due (R283); at CLUSTER scope and above every
store of the wave has left its queue, but for the writes of engine operations that no wait has covered (R132), its loads have their
values, and so it is with those accesses of its core's other waves that were issued before the wave last took a value or came past
what another wave has released, which is the model's reading of what a release covers (log 20, DEDUCED); at DEVICE scope and above every line that the wave
has used, or a wave of its die before the wave last took a value, is confirmed by the dies and hosts, at SYSTEM scope by the CXL home as
well, but for uses by engine operations that no wait has covered; at DOMAIN scope and above no posted write of the wave is outstanding. -/
def Obligations.Fences : Prop := ∀ (f : FmtM) (s : State) (w : Wave),
  let w1 (s1 : State) : Wave := tgetD s1.waves s.cur w
  let acq (s1 : State) : State := if 5 ≤ f.scope.toNat then s1.dropRemote (dieOf (w1 s1).core) (w1 s1).world else s1
  (∀ s1, issues (.fence f) s w = true → w.active (.fence f) ≠ 0#32 →
    s.before s.cur w (if f.order = 2#3 then 0 else 3) f.scope.toNat = .go s1 →
    (f.order = 3#3 → exec (.fence f) s = .next (s1.advance s.cur)) ∧
    (f.order ≠ 3#3 → (w1 s1).loads = [] → (w1 s1).atomicsDue = false →
      exec (.fence f) s = .next ((acq s1).advance s.cur))) ∧
  (∀ s1, issues (.fenceSc f) s w = true → w.active (.fenceSc f) ≠ 0#32 →
    s.before s.cur w 5 f.scope.toNat = .go s1 → exec (.fenceSc f) s = .next (s1.advance s.cur)) ∧
  ∀ id scope, s.release id w scope = .ready →
    (scope < 2 → w.cleanDue = false) ∧
    (2 ≤ scope → ∀ k v, (k, v) ∈ s.waves → v.core = w.core → (∀ l ∈ v.loads, k ≠ id ∧ w.seen ≤ l.stamp) ∧
      ∀ q ∈ v.storeQ, (q.engine = true ∧ q.covered = false) ∨ (k ≠ id ∧ w.seen ≤ q.stamp)) ∧
    (4 ≤ scope → ∀ u ∈ s.unconf, ∀ x ∈ u.users, x.op = none → dieOf x.core = dieOf w.core →
      (x.core = w.core ∧ x.wg = w.wg ∧ x.num = w.num) ∨ x.stamp ≤ w.seen → scope < 6 ∧ ∀ p ∈ u.waiting, p = 99) ∧
    (5 ≤ scope → w.cntOf 3 = 0)


/-- R280 to R283: LDG2L counts one gather operation over the lanes' addresses, once both addresses of every acting lane
are well formed, the wave's own stores have drained (R132) and its core's on-chip loads have their data. PREFETCH raises no
condition and parks nothing: it leaves every wave, register and on-chip byte as it is; a supervisor wave's of flat addresses,
which walks no table, leaves memory as it is too. CINV and CCLEAN take their place among the wave's
stores, with the lines of their targets. -/
def Obligations.CacheInstructions : Prop := ∀ (f : FmtM) (s : State) (w : Wave),
  (∀ s1 l, goesOn (.ldg2l f) { f with scope := 0#3 } 0 s w s1 →
    let w1 := tgetD s1.waves s.cur w
    let m := actingLanes f (w.active (.ldg2l f))
    let n := 2 ^ f.width.toNat
    (∀ k ∈ Mask.lanes m, w1.src f.data 1 k % n = 0 ∧ w1.src f.data 1 k + n ≤ s1.lSize w1) →
    formLanes (s1.formLane w1 f true n) (Mask.lanes m) = .ok l →
    (∀ q ∈ w1.storeQ, q.engine = true ∧ q.covered = false) → s1.chipDue w1.core = false → w1.cntOf 2 < 63 →
    ∃ op : EngOp, exec (.ldg2l f) s =
        .next ((((s1.putOp s1.nextId op).putWave s.cur (w1.count 2 1)).bump).advance s.cur) ∧
      op.kind = .ldg2l ∧ op.cls = 2 ∧ op.seq = w1.seqOf 2 ∧ op.wave = s.cur ∧ op.world = w1.world ∧ op.state = .run ∧
      op.args = [n] ∧ op.lanes = l.map (fun x => (x.1, w1.src f.data 1 x.1, BitVec.ofNat 64 (s1.faultAddr x.2)))) ∧
  (issues (.prefetch f) s w = true → ∃ t : State, exec (.prefetch f) s = .next (t.advance s.cur) ∧
    t = { s with mem := t.mem, side := t.side, cache := t.cache, unconf := t.unconf, xl := t.xl, fab := t.fab,
                 plat := t.plat, nextId := t.nextId, free := t.free } ∧
    (w.sup = true → (∀ l ∈ Mask.lanes (w.active (.prefetch f)), w.src f.base 2 l < 2 ^ 63) → t.mem = s.mem)) ∧
  (∀ s1 s2 l pas, ∀ x ∈ ([(.cinv f, true), (.cclean f, false)] : List (Instr × Bool)),
    goesOn x.1 { f with scope := 0#3 } 0 s w s1 →
    let w1 := tgetD s1.waves s.cur w
    let w2 := tgetD s2.waves s.cur w1
    w1.queueRoom = true → formLanes (s1.formLane w1 f true 1) (Mask.lanes (actingLanes f (w.active x.1))) = .ok l →
    s1.cleanAll w1 l = .ok pas s2 →
    ∃ t : State, exec x.1 s = .next (t.advance s.cur) ∧ t.mem = s2.mem ∧
      tget t.waves s.cur = some { w2 with storeQ := w2.storeQ ++
        [{ stamp := s2.nextId, kind := .clean (dedupN (pas.flatMap (fun y => cleanLines (f.width == 1#3) y.2))) x.2, lanes := []
           remoteOp := none, engine := false, whole := [], who := s2.stampOf w2, after := w2.seen }] })

/-! ### Pointers and names -/

/-- R43 to R47: the pointer instructions. PADD keeps N, GEN and HANDLE of a near pointer, and adds to a flat address
where the sum stays canonical. Pointers are compared and subtracted where both are near pointers of one object or both
flat. PNAME takes the slot of each pointer (R41) as an outstanding value. -/
def Obligations.PointerInstructions : Prop := ∀ f : FmtA3,
  let near (a : Nat) : Bool := a.testBit 63
  let pair (a b : Nat) : Bool := decide (near a = true ∧ near b = true ∧ a / 2 ^ 40 = b / 2 ^ 40) || decide (a < 2 ^ 57 ∧ b < 2 ^ 57)
  let a (w : Wave) (l : Nat) : Nat := w.src f.a 2 l
  let b (w : Wave) (l : Nat) : Nat := w.src f.b 2 l
  (∀ s w, issues (.padd f) s w = true →
    let d (l : Nat) : Int := if f.ty = 2#4 then (w.bv f.b 1 l).toInt else (w.bv f.b 2 l).toInt
    (∀ l ∈ Mask.lanes (w.active (.padd f)), near (a w l) = true ∨
      (a w l < 2 ^ 57 ∧ 0 ≤ (a w l : Int) + d l ∧ (a w l : Int) + d l < 2 ^ 57)) →
    exec (.padd f) s = .next ((s.putWave s.cur (w.put f.dst 2 (w.active (.padd f)) (fun l =>
      if near (a w l) then a w l / 2 ^ 40 * 2 ^ 40 + (((a w l % 2 ^ 40 : Nat) + d l) % 2 ^ 40).toNat
      else ((a w l : Int) + d l).toNat))).advance s.cur)) ∧
  GivesWave (.psub f) (fun _ w m =>
    (w.put f.dst 2 m (fun l => if pair (a w l) (b w l) then (BitVec.ofInt 64 ((a w l : Int) - b w l)).toNat else 0)).put
      f.c 1 m (fun l => b2n (pair (a w l) (b w l)))) ∧
  Gives (.peq f) f.dst 1 (fun _ w l => b2n (decide (a w l = b w l))) ∧
  Gives (.plt f) f.dst 1 (fun _ w l => b2n (pair (a w l) (b w l) && decide (a w l < b w l))) ∧
  Gives (.ple f) f.dst 1 (fun _ w l => b2n (pair (a w l) (b w l) && decide (a w l ≤ b w l))) ∧
  Gives (.pext f) f.dst 1 (fun _ w l =>
    let x := w.bv f.a 2 l
    let flat := decide (x.toNat < 2 ^ 57)
    match w.src f.b 1 l with
    | 0 => (x.extractLsb' 0 32).toNat
    | 1 => if x.msb then (x.extractLsb' 32 8).toNat else if flat then (x.extractLsb' 32 25).toNat else (x.extractLsb' 32 32).toNat
    | 2 => if x.msb then (x.extractLsb' 40 20).toNat else 0xFFFFFFFF
    | 3 => if x.msb then (x.extractLsb' 60 3).toNat else 0xFFFFFFFF
    | _ => if x.msb then 1 else if flat then 0 else 2) ∧
  (∀ s w, issues (.pname f) s w = true → w.active (.pname f) = 0#32 → exec (.pname f) s = .next (s.advance s.cur)) ∧
  (∀ s w (slot : Nat → Nat), issues (.pname f) s w = true → w.active (.pname f) ≠ 0#32 →
    (∀ l ∈ Mask.lanes (w.active (.pname f)), s.nameSlot w.world (a w l) 0 = .ok (slot l)) →
    let op : LoadOp := { stamp := s.nextId, dst := f.dst, width := 16, signed := false, inv := false, who := s.stampOf w,
                         lanes := (Mask.lanes (w.active (.pname f))).map (fun l => (l, .known (leBytes 16 (slot l)))) }
    exec (.pname f) s = .next (((s.putWave s.cur { w with
      regs := w.regs.clearFull f.dst 4 (w.active (.pname f)), loads := w.loads ++ [op] }).bump).advance s.cur))

/-- R38, R39, R41: LDN reads its slots and writes, in every acting lane, the pointer that the slot's name resolves to, and
the destination is full then; it completes at once where every name has an entry and no earlier access of its core to the
slots is still due. A slot with N = 0 holds a flat address; a far name whose object is in the
table gives its near pointer, and STN writes the name back from it. -/
def Obligations.NamesResolve : Prop :=
  (∀ (f : FmtM) (s : State) (w : Wave) (s1 s2 s3 : State) (l : List (Nat × GAddr)) (pas : List (Nat × Nat)) (val : Nat → Nat),
    goesOn (.ldn f) f f.order.toNat s w s1 → w.hold = [] → w.ldn = none → w.loads = [] →
    reaches (.ldn f) f true 16 .load s w s1 l pas s2 →
    let w1 := tgetD s1.waves s.cur w
    (∀ x ∈ pas, s2.atomicOn w1.core x.2 16 = false ∧ s2.loadsOn w1.core x.2 16 = false ∧
      w1.cinvDue s2.nextId (x.2 / 128) = false) →
    s2.dataCheck w1 16 pas = .ok s3 → (∀ c ∈ s3.cache, c.data = none) →
    let w3 := tgetD s3.waves s.cur w1
    let m := actingLanes f (w.active (.ldn f))
    let full : Wave := { w3 with hold := [], ldn := none, regs := (Mask.lanes m).foldl (fun g k => g.setFull f.data 2 k) w3.regs }
    w3.hold = [] → pas.map (fun x => x.1) = Mask.lanes (actingLanes f (w.active (.ldn f))) →
    (∀ x ∈ pas, s3.slotVal w3.world (leNat (s3.slotBytes w3 x.2).2) (s1.laneAddr l x.1) = .value (val x.1) ∧
      ((val x.1).testBit 63 = false ∨ (s3.rotAt (val x.1 / 2 ^ 40 % 2 ^ 20)).state ≠ .departed)) →
    ∃ t : State, exec (.ldn f) s = .next (t.advance s.cur) ∧ t.mem = s3.mem ∧
      tget t.waves s.cur = some { full.put f.data 2 m val with seen := t.nextId }) ∧
  (∀ (s : State) (world slot addr : Nat), slot < 2 ^ 57 → s.slotVal world slot addr = .value slot) ∧
  (∀ (s : State) (world addr h off : Nat) (e : RotEnt), s.rotFind e.realm e.serial = some (h, e) → e.world = world →
    e.doomed = false → e.state ≠ .gone → off < 2 ^ 40 →
    s.slotVal world (farName e.realm.toNat e.serial.toNat off) addr =
      .value (2 ^ 63 + e.gen.toNat * 2 ^ 60 + h * 2 ^ 40 + off)) ∧
  (∀ (s : State) (world addr h off : Nat), let e := s.rotAt h
    h < 2 ^ 20 → off < 2 ^ 40 → e.state ≠ .absent → e.state ≠ .gone → e.world = world →
    s.nameSlot world (2 ^ 63 + e.gen.toNat * 2 ^ 60 + h * 2 ^ 40 + off) addr =
      .ok (farName e.realm.toNat e.serial.toNat off))

/-! ### Channels -/

/-- R285 to R289: the channel instructions. QPUSH, a release at DEVICE scope, enters one record for each acting lane and
spends as much of the allowance; QPOP, an acquire, fills a record for each acting lane, zeros where the queue is empty;
QSTAT reads the queue, whose depth leaves out records that a failed QPUSH has taken back (log 56, DEDUCED). A queue with room, whose window is in step and has room, takes the records into it; the checks come
once, and no QPUSH that has passed them before may still be entering its records (log 56, DEDUCED). -/
def Obligations.Channels : Prop :=
  (∀ (f : FmtM) (s : State) (w : Wave) (s1 s2 : State) (l : List (Nat × Nat)),
    let w1 := tgetD s1.waves s.cur w
    let e := s1.channel w1 (chanNum f.data)
    let k := chanQueue e
    let q := s1.queue k
    (issues (.qpush f) s w = true → w.push = none → s.before s.cur w 3 4 = .go s1 →
      let m := actingLanes f (w.active (.qpush f))
      let n := Mask.count m
      let recs := l.map (fun x => (s1.core w1.core).lRead (s1.lBase w1 + x.2) 32)
      m ≠ 0#32 → s1.recordLanes w1 f m = .ok l → s1.chanValid w1 e = true → e.getLsbD 1 = true →
      (chanAllow e = 0xFFFFFFFF ∨ n ≤ chanAllow e) → q.state = 1#3 →
      (∀ x ∈ l, (s1.core w1.core).badAt 3 (s1.lBase w1 + x.2) 32 = false) → (∀ r ∈ recs, r.getD 0 0#8 ≠ 0#8) →
      (s1.world w1.world).left = false → (∀ x ∈ s1.waves, ∀ o, x.2.push = some o → o.queue ≠ k ∨ o.failed = true) →
      State.pushSome k recs ((s1.bump.spend w1 (chanNum f.data) n).updWave s.cur (fun w =>
        { w with push := some { queue := k, stamp := s1.nextId, left := recs } })) = ([], s2, false) →
      exec (.qpush f) s = .next (((s2.notePush k q.wc).updWave s.cur (fun w => { w with push := none })).advance s.cur)) ∧
    (issues (.qpop f) s w = true → s.before s.cur w 2 4 = .go s1 →
      let m := actingLanes f (w.active (.qpop f))
      m ≠ 0#32 → s1.recordLanes w1 f m = .ok l → s1.chanValid w1 e = true → e.getLsbD 2 = true → q.waves = true →
      State.popLanes k w1 l s1 = .ok () s2 → exec (.qpop f) s = .next (s2.advance s.cur))) ∧
  (∀ (f : FmtX) (s : State) (w : Wave), issues (.qstat f) s w = true → w.active (.qstat f) ≠ 0#32 →
    let e := s.channel w (chanNum f.a)
    let q := s.queue (chanQueue e)
    s.chanValid w e = true → e.getLsbD 3 = true →
    exec (.qstat f) s = .next ((s.putWave s.cur (w.put f.dst 1 (w.active (.qstat f)) (fun _ =>
      match f.sel.toNat with
      | 0 => min (q.wc - q.rc - q.gone.length) 0xFFFFFFFF
      | 1 => q.stateWord % 2 ^ 19
      | _ => e.toNat / 2 ^ 32))).advance s.cur)) ∧
  (∀ (s : State) (k : Nat) (recs : List (List Byte)), let q := s.queue k
    recs ≠ [] → q.win = true → q.rc + q.window.length = q.wc → q.window.length + recs.length ≤ 32 →
    q.window.length + recs.length ≤ q.nrec →
    ∃ t, State.pushSome k recs s = ([], t, false) ∧
      t.queue k = { q with window := q.window ++ recs, wc := q.wc + recs.length } ∧ t.mem = s.mem) ∧
  (∀ (s : State) (k : Nat) (w : Wave) (l : List (Nat × Nat)), (s.queue k).window = [] → (s.queue k).wc ≤ (s.queue k).rc →
    (s.queue k).gone = [] → ∃ t, State.popLanes k w l s = .ok () t ∧ t.queue k = s.queue k ∧ t.mem = s.mem ∧
      ∀ j, j ≠ w.core → t.core j = s.core j)

/-! ### Cairns, tokens and the matrix samples -/

/-- R73, R292 to R294, R304 to R307: CAIRN takes the lowest free record for the descriptor of its operands, and clears the
tags of its lines; CAIRNQ reads a record of the workgroup, 0 for any other; CAIRNX frees a held record, or lets it drain
while an operation names it. TKTAKE takes a free token in its turn; TKPASS hands it to the next member, TKPASS.END frees
it. MSTAT samples. -/
def Obligations.CairnsAndTokens : Prop := ∀ (g : FmtA3) (f : FmtX) (s : State) (w : Wave),
  let c := s.core w.core
  let slot := s.slotOf w
  (∀ k wg, issues (.cairn g) s w = true → w.active (.cairn g) ≠ 0#32 →
    let d := BitVec.ofNat 128 (w.src g.a 4 0)
    cairnClean d = true → cSc d = decide (cFmt d < 2) → s.wgOf w = some wg → c.freeCairn = some k →
    c.ownedBy slot < wg.cairnRes → cairnOk c d = true → slot < 128 →
    ∃ t : State, exec (.cairn g) s = .next ((t.putWave s.cur (w.put g.dst 1 (w.active (.cairn g)) (fun _ => k))).advance s.cur) ∧
      (∀ j, j < k → cState (c.cairn j) ≠ 0) ∧
      (let r := (t.core w.core).cairn k
       cState r = 1 ∧ cOwner r = slot ∧ cBuf r = cBuf d ∧ cBase r = cBase d ∧ cLines r = cLines d ∧ cFmt r = cFmt d ∧
       cPlanes r = cPlanes d ∧ cSwz r = cSwz d ∧ cKblk r = cKblk d ∧ cRows r = cRows d) ∧
      (∀ j, j ≠ k → (t.core w.core).cairn j = c.cairn j) ∧
      (∀ n, cBase d / 512 ≤ n → n < cBase d / 512 + cLines d → tget ((t.core w.core).tags (cBuf d)) n = none) ∧
      t.mem = s.mem ∧ t.waves = s.waves ∧ ∀ j, j ≠ w.core → t.core j = s.core j) ∧
  (issues (.cairnq f) s w = true → w.active (.cairnq f) ≠ 0#32 →
    let k := w.src f.a 1 0
    let r := c.cairn k
    exec (.cairnq f) s = .next ((s.putWave s.cur (w.put f.dst 4 (w.active (.cairnq f)) (fun _ =>
      if k < 64 ∧ (cState r = 1 ∨ cState r = 2) ∧ cOwner r = slot then r.toNat else 0))).advance s.cur)) ∧
  (issues (.cairnx f) s w = true → w.active (.cairnx f) ≠ 0#32 →
    let k := w.src f.a 1 0
    k < 64 → cState (c.cairn k) = 1 → cOwner (c.cairn k) = slot →
    ∃ t : State, exec (.cairnx f) s = .next (t.advance s.cur) ∧ t = { s with cores := t.cores } ∧
      cState ((t.core w.core).cairn k) = (if s.named w.wg k then 2 else 0) ∧
      ∀ j, j ≠ k → (t.core w.core).cairn j = c.cairn j) ∧
  (∀ i ∈ ([.tktake f, .tkpass f, .tkpassEnd f] : List Instr), issues i s w = true → w.active i ≠ 0#32 → ∀ r k e,
    w.src f.a 1 (Mask.first (w.active i)) = r → (∀ l ∈ Mask.lanes (w.active i), w.src f.a 1 l = r) →
    s.ridgeOf w r = some (k, e) → e.members.getLsbD w.num = true →
    (i = .tktake f → w.gates = [] → c.token = none → (c.tkWait = [] ∨ c.tkWait.head? = some s.cur) →
      exec i s = .next (((s.see s.cur).putCore w.core { c with
        token := some { wg := w.wg, ridge := r, holder := w.num }
        tkWait := c.tkWait.filter (fun j => decide (j ≠ s.cur)) }).advance s.cur)) ∧
    (c.token = some { wg := w.wg, ridge := r, holder := w.num } → w.sup = false → w.gates = [] → w.cleanDue = false →
      s.chipDue w.core = false →
      (i = .tkpass f → ∀ n, s.nextMember w.wg e.members w.num = some n →
        exec i s = .next ((s.putCore w.core { c with token := some { wg := w.wg, ridge := r, holder := n } }).advance s.cur)) ∧
      (i = .tkpassEnd f → exec i s = .next ((s.putCore w.core { c with token := none }).advance s.cur)))) ∧
  Gives (.mstat f) f.dst 1 (fun s w _ => match f.sel.toNat with
    | 0 => (s.ops.filter (fun e => decide (e.2.wg = w.wg ∧ e.2.cls = 1))).length
    | 1 => (match (s.core w.core).token with
      | some t => if t.wg = w.wg then
          1 + (if t.holder = w.num then 2 else 0) + t.ridge % 256 * 4 + t.holder % 64 * 2 ^ 10 else 0
      | none => 0)
    | _ => ((s.wgOf w).map (fun g => g.reruns.toNat)).getD 0)

/-! ### Engine commands -/

/-- R146, R147, R291, R295, R302, R303, R316: MMA, MZERO, MDRAIN, DPLOAD, XCOPY, XGATHER, XLEVEL and RBEGIN complete: each
issues one operation for each active lane, in increasing lane order, each under the next sequence number of its class, and
counts as many; the block is read from registers or `l:` at issue, and from `g:` later. Each goes ahead where its counter has
room, its block is well formed, without an uncorrectable error, in every active lane, and the core's on-chip loads have their
data; one that may read `g:` also waits until the wave's own stores have drained (R132). MMA needs the token where the workgroup
is in token mode, RBEGIN a ridge. MZERO issues from its registers. -/
def Obligations.EngineCommands : Prop := ∀ (f : FmtE) (g : FmtA3) (s : State) (w : Wave) (s1 : State),
  let w1 := tgetD s1.waves s.cur w
  let issued (i : Instr) (kind : OpKind) (cls : Nat) (op : Nat → EngOp → Prop) : Prop :=
    let m := w.active i
    let n := (Mask.lanes m).length
    ∃ t : State, exec i s = .next (t.advance s.cur) ∧ t.mem = s1.mem ∧ t.nextId = s1.nextId + n ∧
      (∃ w', tget t.waves s.cur = some w' ∧ w'.cntOf cls = w1.cntOf cls + n ∧
        w'.seqOf cls = (w1.seqOf cls + n) % 65536 ∧ (∀ c, c ≠ cls → w'.cntOf c = w1.cntOf c ∧ w'.seqOf c = w1.seqOf c) ∧
        w'.regs = w1.regs ∧ w'.storeQ = w1.storeQ ∧ w'.loads = w1.loads) ∧
      (∀ k, k ≠ s.cur → tget t.waves k = tget s1.waves k) ∧
      ∀ j l, (Mask.lanes m)[j]? = some l → ∃ o : EngOp, tget t.ops (s1.nextId + j) = some o ∧ o.kind = kind ∧ o.wave = s.cur ∧
        o.wg = w1.wg ∧ o.core = w1.core ∧ o.world = w1.world ∧ o.cls = cls ∧ o.lane = l ∧ o.progress = 0 ∧
        o.seq = (w1.seqOf cls + j) % 65536 ∧ op l o
  let there (i : Instr) (cls : Nat) : Prop := issues i s w = true ∧ w.active i ≠ 0#32 ∧ s.before s.cur w 0 0 = .go s1 ∧
    (∃ w', tget s1.waves s.cur = some w') ∧ w1.seq.length = 5 ∧ w1.cnt.length = 5 ∧ (∀ c, w1.seqOf c < 65536) ∧
    w1.cntOf cls + (Mask.lanes (w.active i)).length ≤ 63 ∧ s1.chipDue w1.core = false
  let block (i : Instr) (n : Nat) : Prop := ∀ l ∈ Mask.lanes (w.active i), ∃ b, s1.blockAt w1 f n l = .ok b ∧
    (f.mode = 1#3 → (s1.core w1.core).badAt 3 (s1.lBase w1 + b.1.toNat) b.2.length = false)
  let drained : Prop := ∀ q ∈ w1.storeQ, q.engine = true ∧ q.covered = false
  let held (n : Nat) (l : Nat) (o : EngOp) : Prop := s1.blockAt w1 f n l = .ok (o.blockAddr, o.block) ∧
    o.blockLen = n ∧ o.state = (if f.mode = 2#3 then .fetch else .check)
  (there (.mma f) 1 → block (.mma f) 64 → (f.mode = 2#3 → drained) →
    (∀ t, (s1.core w1.core).token = some t → t.wg = w1.wg → w1.sup = false → t.holder = w1.num) →
    issued (.mma f) .mma 1 (held 64)) ∧
  (there (.mzero g) 1 → issued (.mzero g) .mzero 1 (fun l o =>
    o.args = [w1.src g.a 1 l, w1.src g.b 1 l, w1.src g.c 1 l] ∧ o.state = .check)) ∧
  (there (.mdrain f) 1 → block (.mdrain f) 64 → (f.mode = 2#3 → drained) → issued (.mdrain f) .mdrain 1 (held 64)) ∧
  (there (.dpload f) 1 → block (.dpload f) 128 → (f.mode = 2#3 → drained) → issued (.dpload f) .dpload 1 (held 128)) ∧
  (there (.xcopy f) 0 → block (.xcopy f) 64 → drained → issued (.xcopy f) .xcopy 0 (held 64)) ∧
  (there (.xgather f) 2 → block (.xgather f) 64 → drained → issued (.xgather f) .xgather 2 (held 64)) ∧
  (there (.xlevel f) 0 → block (.xlevel f) 64 → drained → issued (.xlevel f) .xlevel 0 (held 64)) ∧
  (there (.rbegin f) 4 → block (.rbegin f) 128 → drained → (∃ r, s1.ridgeOf w1 (w1.src f.q 1 0) = some r) →
    issued (.rbegin f) .rbegin 4 (held 128)) ∧
  (∀ n l r, f.mode = 0#3 → f.p = .s r → s1.blockAt w1 f n l = .ok (0#64, leBytes n (w1.readSs r.toNat 16)))

/-- R154, R155, R330 to R332: XSTAT reads a counter or a sequence number; WAITC goes on once the counter is at most its
threshold, and from then on the wave's releases order what the operations that it covers have written (R132). As acquires and
releases at CORE scope SAWAIT, SPUB and SREL come after the wave's open acquires and fences (R119). SRING writes a ring's descriptor; SAWAIT goes on where the ring has space, or the slot is published; SPUB and
SREL move WPTR and RPTR from their sequence number on by one, and leave a pointer that is already past it. -/
def Obligations.RingsAndWaits : Prop := ∀ (e : FmtE) (x : FmtX) (f : FmtA3),
  Gives (.xstat x) x.dst 1 (fun _ w _ => if x.sel.toNat < 8 then w.cntOf x.sel.toNat else w.seqOf (x.sel.toNat - 8)) ∧
  (∀ s w, issues (.waitc e) s w = true → w.active (.waitc e) ≠ 0#32 → w.cntOf e.cls.toNat ≤ w.src e.p 1 0 →
    let l := [(e.cls.toNat, w.src e.p 1 0)]
    exec (.waitc e) s = .next (((s.coverUses w l).putWave s.cur (w.cover l)).advance s.cur)) ∧
  (∀ s w, let c := s.core w.core
    let a := w.src f.a 1 0
    let k := w.src f.b 1 0
    let at' := s.lBase w + a
    let r := ringOf (c.lRead at' 32)
    let ahead (p : Nat) : Int := (BitVec.ofNat 32 p - BitVec.ofNat 32 k).toInt
    let ready (i : Instr) : Prop := issues i s w = true ∧ w.active i ≠ 0#32 ∧ a % 32 = 0 ∧ a + 32 ≤ s.lSize w
    let wrote (i : Instr) (off : Nat) (bs : List Byte) : Prop :=
      exec i s = .next ((s.putCore w.core (c.lWrite (at' + off) bs)).advance s.cur)
    (∀ i ∈ ([.sring f, .sawaitFree f, .sawaitFull f, .spub f, .srel f] : List Instr),
      issues i s w = true → w.active i = 0#32 → exec i s = .next (s.advance s.cur)) ∧
    (ready (.sring f) → let d := w.src f.b 2 0
      let base := d % 2 ^ 32
      let slot := d / 2 ^ 32 % 2 ^ 16
      let logn := d / 2 ^ 48 % 2 ^ 4
      base + 2 ^ logn * slot ≤ s.lSize w → logn ≤ 8 → base % 16 = 0 → slot % 16 = 0 → 16 ≤ slot → d / 2 ^ 52 % 2 ^ 12 = 0 →
      wrote (.sring f) 0 (leBytes 32 (d % 2 ^ 52))) ∧
    (r.bad = false → c.badAt 3 at' 32 = false → w.gates = [] →
      (ready (.sawaitFree f) → (BitVec.ofNat 32 k - BitVec.ofNat 32 r.rptr).toInt < 2 ^ r.logn →
        exec (.sawaitFree f) s = .next ((s.see s.cur).advance s.cur)) ∧
      (ready (.sawaitFull f) → 0 < ahead r.wptr → exec (.sawaitFull f) s = .next ((s.see s.cur).advance s.cur)) ∧
      (ready (.spub f) → w.cleanDue = false → s.chipDue w.core = false →
        (0 < ahead r.wptr → exec (.spub f) s = .next (s.advance s.cur)) ∧
        (r.wptr = k → wrote (.spub f) 8 (leBytes 4 (k + 1)))) ∧
      (ready (.srel f) → w.cleanDue = false → s.chipDue w.core = false →
        (0 < ahead r.rptr → exec (.srel f) s = .next (s.advance s.cur)) ∧
        (r.rptr = k → wrote (.srel f) 12 (leBytes 4 (k + 1))))))

/-- R197 to R199, R336: the instructions of an unfolding's routines, in lanes that run one. RFRAME and RRES read the lane's
frame; RCHILD in one lane appends a child below it, within the limits, whose frame data is undefined; RDONE, a release at CORE
scope, ends the routine and sends its lane back to the
entry at the barrier. The frame headers that a routine has changed are written afterwards, and not by RDONE itself, which leaves memory as
it is: the model's reading (log 33, DEDUCED). -/
def Obligations.UnfoldingInstructions : Prop := ∀ (f : FmtX) (s : State) (w : Wave),
  let runs (i : Instr) : Prop := issues i s w = true ∧
    ∀ l ∈ Mask.lanes (w.active i), ∃ x, s.runningAt s.cur l = some x
  (runs (.rframe f) → exec (.rframe f) s = .next ((s.putWave s.cur (w.put f.dst (if f.sel = 2#16 then 1 else 2)
    (w.active (.rframe f)) (fun l => match s.runningAt s.cur l with
      | some (_, _, u, r) => (match f.sel.toNat with
        | 0 => moveAddr u.heap.toNat ((u.frame r.frame).off + 16)
        | 1 => moveAddr u.heap.toNat ((u.frame r.frame).off + 16 + u.frameSz)
        | _ => (u.frame r.frame).depth % 128 + (u.frame r.frame).children.length % 16 * 2 ^ 7 +
            (u.frame r.frame).cidx % 8 * 2 ^ 11 + r.routine % 4 * 2 ^ 14)
      | none => 0))).advance s.cur)) ∧
  (∀ child : Nat → Nat, runs (.rres f) → (∀ l ∈ Mask.lanes (w.active (.rres f)), ∀ key o u r,
      s.runningAt s.cur l = some (key, o, u, r) → (u.frame r.frame).children[w.src f.a 1 l]? = some (child l)) →
    exec (.rres f) s = .next ((s.putWave s.cur (w.put f.dst 2 (w.active (.rres f)) (fun l =>
      match s.runningAt s.cur l with
      | some (_, _, u, _) => u.resAddr (child l)
      | none => 0))).advance s.cur)) ∧
  (∀ l key o u r, runs (.rchild f) → w.active (.rchild f) = Mask.single l → l < 32 →
    s.runningAt s.cur l = some (key, o, u, r) → r.routine = 0 → u.stopped = false → u.stoppers = [] →
    r.frame < u.frames.length → u.childCheck r = none →
    ∃ (v : Unfold) (t : State) (w' : Wave), exec (.rchild f) s = .next (t.advance s.cur) ∧
      tget t.ops key = some { o with unfold := some v } ∧ tget t.waves s.cur = some w' ∧
      w'.regs = (w.put f.dst 2 (Mask.single l) (fun _ => v.dataAddr u.frames.length)).regs ∧
      v.frames.length = u.frames.length + 1 ∧ (v.frame u.frames.length).depth = (u.frame r.frame).depth + 1 ∧
      (v.frame u.frames.length).parent = some r.frame ∧ (v.frame u.frames.length).cidx = (u.frame r.frame).children.length) ∧
  (runs (.rdone f) → w.gates = [] → w.cleanDue = false → s.chipDue w.core = false → ∃ t : State, exec (.rdone f) s = .next (t.advance s.cur) ∧ t.mem = s.mem ∧
    (w.active (.rdone f) = 0#32 → t = s) ∧
    ∀ l key o u r, w.active (.rdone f) = Mask.single l → l < 32 → s.runningAt s.cur l = some (key, o, u, r) →
      o.cls ≠ 7 → tget t.ops key = some { o with unfold := some (u.finish r) } ∧
      ∃ w', tget t.waves s.cur = some w' ∧ w'.regs = w.regs ∧ w'.bundle = w.bundle.map (fun b =>
        { b with mask := b.mask &&& ~~~(Mask.single l) }))

/-! ### Traps, returns and the supervisor -/

/-- R225, R340, R341: TRAP, a release at DEVICE scope, lowers its wave to a full record with INFO the immediate, and hands a
request (KIND 1) to its world; its PC and resume index are those after the instruction. BKPT takes BREAKPOINT at the
instruction after it. SVRET resumes a supervisor wave at SV_EPC, and ends its handling of an entry. In no active lane they
do nothing (R18), but a TRAP of a supervisor wave, which raises RESERVED_FIELD in the decode step whatever its predicate (R219, R340). TRAP and BKPT complete where the wave waits for no earlier access. The layout of SV_EPC is the model's (log 10, DESIGN CHOICE). -/
def Obligations.TrapsAndReturn : Prop := ∀ (f : FmtX) (s : State) (w : Wave) (b : Entry), w.bundle = some b →
  (∀ i ∈ ([.trap f, .bkpt f, .svret f] : List Instr), issues i s w = true → w.active i = 0#32 → i ≠ .trap f ∨ w.sup = false →
    exec i s = .next (s.advance s.cur)) ∧
  (issues (.trap f) s w = true → w.sup = true → exec (.trap f) s = .next (s.deliver s.cur w (w.mkRec 0x03 0 (Mask.first w.bundleMask)))) ∧
  (issues (.trap f) s w = true → w.active (.trap f) ≠ 0#32 → w.sup = false → w.gates = [] → s.release s.cur w 4 = .ready →
    w.fillsDue = false → ∃ t w' p, exec (.trap f) s = .next t ∧ tget t.waves s.cur = some w' ∧ w'.status = .faulted ∧
      w'.bundle = none ∧ w'.regs = { w.regs with vEmpty := [], sEmpty := [], vBusy := [], sBusy := [] } ∧
      w'.recKind ≠ 0#2 ∧ (t.world w.world).toPost = (s.world w.world).toPost ++ [p] ∧
      p.kind = 1 ∧ p.record.info = f.sel ∧ p.record.code = 0#8 ∧ p.record.mask = b.mask ∧
      (p.record.pc, p.record.ridx.toNat) = (if b.ridx + 1 < s.clauseLen w b then (b.pc, (b.ridx + 1) % 16)
        else (nextPc b.pc (s.clauseLen w b), 0)) ∧ t.mem = s.mem) ∧
  (issues (.bkpt f) s w = true → w.active (.bkpt f) ≠ 0#32 → (w.sup = true ∨ w.asideDue = false) →
    exec (.bkpt f) s = .next (s.deliver s.cur (s.pastInstr w b)
      { w.mkRec 0x48 5 (Mask.first (w.active (.bkpt f))) with info := f.sel })) ∧
  (issues (.svret f) s w = true → w.active (.svret f) ≠ 0#32 → ∃ w' b', exec (.svret f) s = .next (s.putWave s.cur w') ∧ w'.bundle = some b' ∧
    b'.pc = (if w.sv.epc.toNat / 16 < 2 ^ 32 then BitVec.ofNat 32 (w.sv.epc.toNat / 16) else 0xFFFFFFF8#32) ∧ b'.ridx = w.sv.epc.toNat % 16 ∧ b'.mask = 1#32 ∧ w'.others = [] ∧
    w'.clause = none ∧ w'.sv = { w.sv with handling := false } ∧ w'.regs = w.regs ∧ w'.storeQ = w.storeQ)

/-- The instructions that write a supervisor register: SWRP, and its forms under names of their own. -/
def svWrites (f : FmtX) : List Instr :=
  [.swrp f, .queueBind f, .queueStop f, .queueReactivate f, .queueUnbind f, .svRangeStage f, .svRangeApply f]

/-- R86, R225, R341, R347, R348: SRDP reads a supervisor register into its destination. A write takes effect whole, or the
device refuses it and nothing changes; the predicate says which. What a write has put into a register that reads back whole
is what a read of it gives. Queue states change as the table of R348 says; that a write which
keeps STATE is taken, and changes WORLD and WEIGHT, is the model's reading (log 36, DEDUCED). Unbinding discards window and counts; a binding
with a bad base, size or weight enters ERROR. While another supervisor wave resets a world, accesses to that world's registers
wait, because operations of supervisor waves act whole, one after another (R345). -/
def Obligations.SupervisorRegisters : Prop := ∀ (f : FmtX) (s : State) (w : Wave),
  (issues (.srdp f) s w = true → s.regHeld w f.sel.toNat = false → exec (.srdp f) s = .next ((s.putWave s.cur
    (w.put f.dst (if sv32 f.sel then 1 else 2) (w.active (.srdp f)) (fun _ => s.svRead w f.sel.toNat))).advance s.cur)) ∧
  (∀ i ∈ svWrites f, issues i s w = true →
    let m := w.active i
    let said (t : State) (b : Nat) : State := match f.dst with
      | .p _ => t.updWave s.cur (fun w => w.put f.dst 1 m (fun _ => b))
      | _ => t
    (m = 0#32 → exec i s = .next (s.advance s.cur)) ∧
    (m ≠ 0#32 → s.regHeld w f.sel.toNat = false → ∀ v : DWord, w.src f.a 2 0 = v.toNat →
      (∀ t, s.svWrite s.cur w f.sel.toNat v = some t → exec i s = .next ((said t 1).advance s.cur)) ∧
      (s.svWrite s.cur w f.sel.toNat v = none → exec i s = .next ((said s 0).advance s.cur)))) ∧
  (∀ id sel v t, tget s.waves id = some w → s.svWrite id w sel v = some t →
    (sel ∈ [0x100, 0x102, 0x104, 0x105, 0x106, 0x107, 0x180, 0x181, 0x182, 0x184, 0x190] ∨ (0x1A0 ≤ sel ∧ sel < 0x1B0)) →
    ∃ w', tget t.waves id = some w' ∧ t.svRead w' sel = v.toNat) ∧
  (∀ k v, let q := s.queue k
    let st := v % 8
    let old := q.state.toNat
    (s.queueStateWrite k v = none ↔
      ¬(st = old ∨ (old = 0 ∧ st = 1) ∨ (old = 1 ∧ st = 2) ∨ (old = 2 ∧ st = 1) ∨ (old = 2 ∧ st = 0) ∨ (old = 3 ∧ st = 0))) ∧
    ∀ t, s.queueStateWrite k v = some t →
      (t.queue k).weight = BitVec.ofNat 8 (v / 2 ^ 11) ∧ (t.queue k).world = v / 2 ^ 3 % 64 ∧
      ((t.queue k).state.toNat = st ∨ (old = 0 ∧ st = 1 ∧ (t.queue k).state = 3#3 ∧
        (q.first % 32 ≠ 0 ∨ q.nrec = 0 ∨ BitVec.ofNat 8 (v / 2 ^ 11) = 0#8))) ∧
      (st = 0 ∧ old ≠ 0 → (t.queue k).window = [] ∧ (t.queue k).rc = 0 ∧ (t.queue k).wc = 0 ∧ (t.queue k).win = false))

/-- R158, R342 to R345, R369, R398: the operations of a supervisor wave on translations, waves, worlds and cores. They act
whole, one after another (R345): each completes where no other supervisor wave resets the world, or halts or steps the core.
TLBI drops the cached translations it names, and the table entries of their worlds; with `.sync` it goes on once accesses of the worlds concerned are complete.
WSET.RESUME, RESTART and CANCEL let a lowered wave of the world issue again; KILL ends a launch; PAUSE stops a world's
placement and UNPAUSE lets it go on, but not in ERROR (R393); RESET ends once no work of the world is left. HALTC halts a core and writes its report,
which the statement follows where it lies in plain memory, resumes it, or lets one wave issue a clause: STEP arms the wave, and
returns once the core has halted again. -/
def Obligations.SupervisorOperations : Prop := ∀ (f : FmtX) (s : State) (w : Wave),
  let act (i : Instr) : Prop := issues i s w = true ∧ w.active i ≠ 0#32
  let k := w.selWorld
  let c := s.core w.selCore
  let sync (t : State) (p : Nat → Bool) : Prop := f.sel.getLsbD 2 = true → t.idle (fun x => p x.world) = true
  let free : Prop := s.resetting k = false
  let drops (i : Instr) (p : Tlb → Bool) (q : Nat → Bool) : Prop := ∃ u : State,
    u = { s with xl := { s.xl with tlb := s.xl.tlb.filter p, tables := s.xl.tables.filter (fun e => !q e.world) }, fab := u.fab } ∧
    (sync u q → exec i s = .next (u.advance s.cur))
  let worldOnly (t : State) : Prop := t = { s with worlds := t.worlds } ∧ ∀ j, j ≠ k → t.world j = s.world j
  (act (.tlbiWorld f) → free → drops (.tlbiWorld f) (fun t => decide (t.world ≠ k)) (fun j => decide (j = k))) ∧
  (act (.tlbiPage f) → free → drops (.tlbiPage f)
    (fun t => decide ¬(t.world = k ∧ t.base ≤ w.src f.a 2 0 ∧ w.src f.a 2 0 < t.base + t.size)) (fun j => decide (j = k))) ∧
  (act (.tlbiAll f) → (∀ e ∈ s.worlds, s.resetting e.1 = false) → drops (.tlbiAll f) (fun _ => false) (fun _ => true)) ∧
  (∀ i ∈ ([.wsetResume f, .wsetRestart f, .wsetCancel f] : List Instr), act i → free → ∀ id x,
    s.wsetRecord k (w.src f.a 2 0) = some (id, x) → id ≠ s.cur → tget s.waves id = some x →
    ∃ t : State, exec i s = .next (t.advance s.cur) ∧ (i ≠ .wsetCancel f → t.mem = s.mem) ∧
      (∃ x', tget t.waves id = some x' ∧ x'.status = .cleared ∧ x'.regs = x.regs) ∧
      (i = .wsetResume f → t.ops = s.ops) ∧
      ∀ key o r, s.frozenOf id x = some (key, o, r) →
        (i = .wsetRestart f → r.rst = true → tget t.ops key = some { o.resumed with lines := [] }) ∧
        (i = .wsetCancel f → tget t.ops key = some { o with state := .complete })) ∧
  (act (.wsetKill f) → free → exec (.wsetKill f) s = .next ((s.killWhere (fun l => decide (l.world = k ∧
    l.seq = some (BitVec.ofNat 32 (w.src f.a 2 0))))).advance s.cur)) ∧
  (act (.wsetPause f) → free → (s.world k).tdisp ≠ .error → ∃ t : State, exec (.wsetPause f) s = .next (t.advance s.cur) ∧ worldOnly t ∧
    t.world k = { s.world k with paused := true }) ∧
  (act (.wsetUnpause f) → free → (s.world k).tdisp ≠ .error → ∃ t : State, exec (.wsetUnpause f) s = .next (t.advance s.cur) ∧ worldOnly t ∧
    t.world k = { s.world k with paused := false }) ∧
  (∀ i ∈ ([.wsetPause f, .wsetUnpause f] : List Instr), act i → free → (s.world k).tdisp = .error →
    exec i s = .next (s.deliver s.cur w (w.mkRec 0x03 5 (Mask.first (w.active i))))) ∧
  (act (.wsetReset f) → free → (s.resetBegin k).worldEmpty k = true → ∃ t : State, exec (.wsetReset f) s = .next (t.advance s.cur) ∧
    (t.world k).ranges = [] ∧ (t.world k).s1root = 0#64 ∧ (t.world k).faultQ = [] ∧ (t.world k).reqRing = [] ∧
    (t.world k).keyGen = (s.world k).keyGen + 1 ∧ (∀ x ∈ t.cache, x.world ≠ k) ∧ (∀ x ∈ t.xl.tlb, x.world ≠ k) ∧
    ∀ l ∈ t.host.lds, ∀ h ∈ l.2.hdm, h.world ≠ k) ∧
  (∀ x ∈ ([(.haltcDrain f, .drain), (.haltcImm f, .immediate)] : List (Instr × HaltMode)), act x.1 →
    let a := w.src f.a 2 0
    let u := s.putCore w.selCore { c with halt := some x.2, report := some (s.cur, a), stepping := none }
    let r := u.haltReport w.selCore x.2
    a % 64 = 0 → s.memOk = true → s.coreHeld w.selCore = false → (x.2 = .drain → u.drained w.selCore = true) →
    u.plainCells (cellsOf a r) = cellsOf a r → (paKind a = 0 → a + r.length ≤ 2 ^ 50) →
    ∃ t : State, exec x.1 s = .next (t.advance s.cur) ∧ t.core w.selCore = { c with halt := some x.2, report := none, stepping := none } ∧
      t.waves = s.waves ∧ t.peek a r.length = r) ∧
  (act (.haltcResume f) → s.coreHeld w.selCore = false →
    exec (.haltcResume f) s = .next (((s.putCore w.selCore { c with halt := none, stepping := none }).reap).advance s.cur)) ∧
  (act (.haltcStep f) → s.coreHeld w.selCore = false → c.halt.isSome = true →
    (c.stepBy = some s.cur → c.stepping = none → (c.halt = some .drain → s.drained w.selCore = true) →
      exec (.haltcStep f) s = .next ((s.putCore w.selCore { c with stepBy := none }).advance s.cur)) ∧
    (c.stepBy = none → ∀ id x,
      s.waves.find? (fun e => decide (e.2.core = w.selCore) && !e.2.sup && decide (s.slotOf e.2 = w.src f.a 2 0 % 128) &&
        decide (e.2.num = w.src f.a 2 0 / 128 % 64)) = some (id, x) →
      let x' := { x with stalled := false }
      let u := (s.putCore w.selCore { c with stepping := some id, stepBy := some s.cur, stepGo := false }).putWave id x'
      (u.ready id x' = true → exec (.haltcStep f) s = .next (u.stall s.cur)) ∧
      (u.ready id x' = false → exec (.haltcStep f) s = .next (s.advance s.cur))))

/-! ### Events of memory -/

/-- R55, R56, R112, R113, R123, R125, R272: the value of a wave's oldest load, where no load of its core is older, no store of the
core is still queued and its lines are coherent: each lane's destination takes the bytes of memory, or of its on-chip space, as they are now, extended as the load says, and is full again.
Memory and every other register stay as they are. An invariant load reads within one line that it holds no copy of. The load may also take what
lies in some 8-byte units alone, and the rest at a later event; its destination stays as it is meanwhile. -/
def Obligations.LoadsTakeValues : Prop := ∀ (s : State) (w : Wave) (op : LoadOp) (rest : List LoadOp) (k : BitVec 8),
  let id := s.arg.a
  let n := if op.width < 4 then 1 else op.width / 4
  tget s.waves id = some w → w.loads = op :: rest → op.held = false → w.status = .slot → op.dst = .v k → op.width ∈ [1, 2, 4, 8, 16] →
  k.toNat + n ≤ 256 → (op.lanes.map (fun x => x.1)).Nodup →
  (∀ x ∈ op.lanes, x.1 < 32 ∧ ((∃ bs, x.2 = .known bs ∧ bs.length = op.width) ∨ (∃ b a, x.2 = .chip b a) ∨
    ∃ pa, x.2 = .phys pa ∧ pa % 128 + op.width ≤ 128)) →
  (∀ j v, (j, v) ∈ s.waves → v.core = w.core → v.storeQ = [] ∧ ∀ l ∈ v.loads, op.stamp ≤ l.stamp) → (∀ c ∈ s.cache, c.data = none) →
  (s.arg.nums ≠ [] → ∃ t w' lanes, exec .loadValueReturn s = .next t ∧ tget t.waves id = some w' ∧
    w'.loads = { op with lanes := lanes } :: rest ∧ w'.regs = w.regs ∧ t.mem = s.mem ∧ lanes = op.lanes.map (fun x => (x.1, match x.2 with
      | .phys pa =>
        let lo := decide (pa / 8 ∈ s.arg.nums)
        let hi := decide (pa / 8 + 1 ∈ s.arg.nums)
        if op.width < 16 then (if lo then .known (s.peek pa op.width) else x.2)
        else if lo && hi then .known (s.peek pa 16)
        else if lo then .half pa true (s.peek pa 8)
        else if hi then .half pa false (s.peek (pa + 8) 8) else x.2
      | src => src))) ∧
  (s.arg.nums = [] → ∃ t w', exec .loadValueReturn s = .next t ∧ tget t.waves id = some w' ∧ w'.loads = rest ∧ t.mem = s.mem ∧
    (∀ x ∈ op.lanes, w'.src op.dst n x.1 = extend op.signed (match x.2 with
      | .known bs => bs
      | .phys pa => s.peek pa op.width
      | .chip b a => chipRead (s.core w.core) b a op.width
      | _ => [])) ∧
    (∀ x ∈ op.lanes, ∀ j, j < n → 32 * (k.toNat + j) + x.1 ∉ w'.regs.vEmpty) ∧
    (∀ r l, l < 32 → (l ∉ op.lanes.map (fun x => x.1) ∨ r < k.toNat ∨ k.toNat + n ≤ r) → w'.regs.readV r l = w.regs.readV r l) ∧
    (∀ r, w'.regs.readS r = w.regs.readS r) ∧ ∀ j, j ≠ id → tget t.waves j = tget s.waves j)

/-- R113, R121, R125, R277, R278, R282: what the draining of a whole store-queue entry does to memory. Stored bytes stand, of
overlapping lanes the highest lane's; an atomic takes the old value, writes the new one, and returns the old one where it
is asked to; CINV and CCLEAN write no byte. Every other byte of memory reads as before. -/
def Obligations.StoresDrain : Prop := ∀ (s : State) (w : Wave) (q : QEntry),
  let id := s.arg.a
  tget s.waves id = some w → w.storeQ[s.arg.b]? = some q → s.arg.flag = false → s.arg.nums = [] → s.arg.val = 0#64 → w.sup = false →
  w.status = .slot →
  s.memOk = true → (∀ j v, (j, v) ∈ s.waves → v.core = w.core → v.loads = [] ∧ ∀ p ∈ v.storeQ, q.stamp ≤ p.stamp) →
  (∀ l ∈ q.lanes, l.posted = false ∧ l.away = false ∧ l.lane < 32) → (∀ line ∈ q.whole, (s.sideAt line).sp = false) →
  ∃ t w', exec .storeQueueDrain s = .next t ∧ tget t.waves id = some w' ∧ (∀ p ∈ w'.storeQ, p.stamp ≠ q.stamp) ∧
    (∀ j, j ≠ id → tget t.waves j = tget s.waves j) ∧
    (q.kind = .store → (∀ l ∈ q.lanes, l.pa % 128 + l.bytes.length ≤ 128) → w'.regs = w.regs ∧
      (∀ a, (∀ l ∈ q.lanes, a < l.pa ∨ l.pa + l.bytes.length ≤ a) → t.peek a 1 = s.peek a 1) ∧
      ∀ (j : Nat) (l : QLane), q.lanes[j]? = some l →
        (∀ (i : Nat) (p : QLane), j < i → q.lanes[i]? = some p →
          p.pa + p.bytes.length ≤ l.pa ∨ l.pa + l.bytes.length ≤ p.pa) →
        t.peek l.pa l.bytes.length = l.bytes) ∧
    (∀ op n ret l, q.kind = .atomic op n ret → q.lanes = [l] → (n = 4 ∨ n = 8) → l.pa % 128 + n ≤ 128 →
      let old := s.peekNat l.pa n
      (∀ a, a < l.pa ∨ l.pa + n ≤ a → t.peek a 1 = s.peek a 1) ∧
      t.peekNat l.pa n = (atomNew op (8 * n) old (l.b.toNat % 2 ^ (8 * n)) (l.cmp.toNat % 2 ^ (8 * n))).getD old ∧
      (ret = none → w'.regs = w.regs) ∧
      ∀ k : BitVec 8, ret = some (.v k) → k.toNat + n / 4 ≤ 256 → w'.src (.v k) (n / 4) l.lane = old) ∧
    (∀ lines inv, q.kind = .clean lines inv → t.mem = s.mem ∧ w'.regs = w.regs ∧
      (inv = true → ∀ c ∈ t.cache, c.die = dieOf w.core → c.world = w.world → c.line ∉ lines))

/-- R104, R125, R129, R371 to R373: lines are confirmed by the last acknowledgement, when the acknowledging die's old copy
goes; a host takes its lines back; a DRAM slot serves a request; and a host reads and writes the device's
memory through its committed decoders, where a CXL port is up (R370). The completion of its write goes to the host once every line of it is
confirmed. That a snoop may carry the bytes that the host then writes is the model's reading (log 42, DEDUCED). -/
def Obligations.LinesAndHosts : Prop := ∀ s : State,
  let a := s.arg.a
  let b := s.arg.b
  (∀ u, s.unconf.find? (fun u => decide (u.line = a)) = some u → b ∈ u.waiting → ∃ t, exec .lineConfirm s = .next t ∧
    t = { s with cache := t.cache, unconf := t.unconf, host := t.host, fab := t.fab } ∧
    (∀ c ∈ t.cache, c.die = b → c.line = a → c.remote = false → c.inv = none → c.data = none) ∧
    t.unconf.find? (fun u => decide (u.line = a)) = (if u.waiting.filter (fun d => decide (d ≠ b)) = [] then none
      else some { u with waiting := u.waiting.filter (fun d => decide (d ≠ b)) })) ∧
  (paKind (a * 128) = 1 ∨ paKind (a * 128) = 2 → ∃ t, exec .cxlCacheSnoop s = .next t ∧ t.waves = s.waves ∧
    (s.arg.flag = false → t.mem = s.mem ∧
      ∀ c ∈ t.cache, c.line = a → c.remote = false → c.inv = none → c.dirty = 0#2) ∧
    (s.arg.flag = true → s.memOk = true → (∀ c ∈ t.cache, c.line = a → c.remote = true ∨ c.inv ≠ none) ∧
      (∀ x, (x < a * 128 ∨ a * 128 + 128 ≤ x) → cget t.mem x = cget s.mem x) ∧
      (s.arg.bytes.length = 128 → t.peek (a * 128) 128 = s.arg.bytes))) ∧
  (∀ ch r, a < 768 → (s.stackAt (a / 96)).out = false → (s.stackAt (a / 96)).selfRefresh = false →
    (s.stackAt (a / 96)).rebuild = none → tget s.plat.chans a = some ch → ch.pending = [r] →
    ∃ t, exec .dramRequestServe s = .next t ∧ t.mem = s.mem ∧ ∃ ch', tget t.plat.chans a = some ch' ∧ ch'.pending = [] ∧
      ch'.slot = ch.slot + 1) ∧
  (a < s.ldLimit → (∀ e ∈ s.worlds, e.2.ld ≠ some a) → exec .ldBindingChange s = .next (s.putLd a
    { host := if s.arg.flag then some b else none, hdm := [], capacity := if s.arg.flag then s.arg.c else 0, port := s.arg.nums.headD 0 })) ∧
  (∀ e, s.arg.c ≠ 0 → s.linked = true → s.worlds.find? (fun e => decide (e.2.ld = some a) && e.2.holds (s.arg.nums.headD 0) s.arg.c) = some e →
    exec .hdmDecoderCommit s = .next (s.putLd a { s.ldAt a with
      hdm := (s.ldAt a).hdm ++ [{ base := b, size := s.arg.c, pa := s.arg.nums.headD 0, world := e.1 }] })) ∧
  (∀ world pa u, s.linked = true → s.decoder a b s.arg.c = some (world, pa) → s.runUnconfirmed pa s.arg.c = false →
    s.checkRead (some world) pa s.arg.c = (u, false) →
    exec .hostHdmRead s = .next { u with host := { u.host with lastRead := some (u.peek pa s.arg.c, false) } }) ∧
  (∀ world pa, let bs := s.arg.bytes
    s.linked = true → s.decoder a b bs.length = some (world, pa) → pa % 128 + bs.length ≤ 128 → s.memOk = true →
    ∃ t, exec .hostHdmWrite s = .next t ∧ t.peek pa bs.length = bs ∧ t.waves = s.waves ∧
      (∀ x, x < pa ∨ pa + bs.length ≤ x → t.peek x 1 = s.peek x 1) ∧
      (0 < bs.length → s.host.writes = [] → (∀ u ∈ t.unconf, u.line ≠ pa / 128) → t.host.completed = s.host.completed ++ [s.nextId]) ∧
      (0 < bs.length → s.host.writes = [] → (∃ u ∈ t.unconf, u.line = pa / 128) → t.host.completed = s.host.completed ∧
        tget t.host.writes s.nextId = some [pa / 128]))

/-- R34, R35, R37, R38, R40, R82, R83, R88 to R97: walks and page requests, missing units, migration of tier pages, and the
life of an object. A page waits for a frame once; its world then demotes one of its own pages. -/
def Obligations.TranslationAndObjects : Prop := ∀ s : State,
  let a := s.arg.a
  let b := s.arg.b
  let tier (k : Nat) : Tier := tgetD s.xl.tiers k Tier.init
  let e := s.rotAt a
  (b < 2 ^ 57 →
    (∀ pa t, s.walkFlat { cluster := s.arg.c, world := a } b s.arg.acc [] = .ok pa t → exec .translationWalk s = .next t) ∧
    (∀ u, s.walk { cluster := s.arg.c, world := a } b 5 (s.world a).s1root.toNat = .invalid u → ∃ t, exec .translationWalk s = .next t ∧
      t = { u with xl := t.xl, plat := t.plat } ∧ (a, b / 65536) ∈ t.xl.requests ∧ ∃ p ∈ t.xl.pending, p.1 = .page a (b / 65536))) ∧
  (∃ t, exec .pageInstall s = .next t ∧ t = { s with xl := t.xl } ∧
    ∀ r, r ∈ t.xl.requests ↔ r ∈ s.xl.requests ∧ r ≠ (a, b)) ∧
  ((a, b) ∈ s.xl.requests → ∃ t, exec .pageDeny s = .next t ∧ (a, b) ∉ t.xl.requests ∧ t.mem = s.mem ∧
    ∀ id w us, tget s.waves id = some w → w.status = .parked us → .page a b ∈ us →
      tget t.waves id = some { w with denied := b :: w.denied }) ∧
  (s.available s.arg.unit = true → ∃ t, exec .missingUnitAvailable s = .next t ∧ t.mem = s.mem ∧
    (∀ p ∈ t.xl.pending, p.1 ≠ s.arg.unit) ∧
    ∀ id w us, tget s.waves id = some w → w.status = .parked us → s.arg.unit ∈ us →
      let l := us.filter (fun x => decide (x ≠ s.arg.unit))
      tget t.waves id = some { w with status := if l = [] then .cleared else .parked l }) ∧
  (∀ r k, s.tierAt a s.arg.c b = some (r, k) → (tier k).res = false → (tier k).m = false →
    (∀ f, freeFrame s.xl.frames (s.world a).pool = some f → exec .pageMigrate s = .next { s with xl := { s.xl with
      tiers := tset s.xl.tiers k { tier k with m := true }, frames := tset s.xl.frames f k
      starved := s.xl.starved.filter (fun j => decide (j ≠ k)) } }) ∧
    (freeFrame s.xl.frames (s.world a).pool = none → ∃ t, exec .pageMigrate s = .next t ∧ t.mem = s.mem ∧ k ∈ t.xl.starved ∧
      (t.world a).poolExhausted = (s.world a).poolExhausted + (if k ∈ s.xl.starved then 0 else 1) ∧
      ((∃ f ∈ s.xl.frames, f.2 / 2 ^ 40 / 48 = a ∧ (tier f.2).res = true ∧ (tier f.2).m = false) →
        ∃ j ∈ t.xl.demoting, j / 2 ^ 40 / 48 = a))) ∧
  (∀ r k, s.tierAt a s.arg.c b = some (r, k) → (tier k).res = true → (tier k).m = false →
    exec .pageDemote s = .next { s with xl := { s.xl with
      tiers := tset s.xl.tiers k { tier k with m := true }
      demoting := dedupN (s.xl.demoting ++ [k]) } }) ∧
  (∀ w n pa r k f, s.arg.unit = .tier w n pa → s.tierAt w n pa = some (r, k) → (tier k).m = true → k ∉ s.xl.demoting →
    s.frameOf k = some f → s.pageBusy (s.homePage w r k) = false → s.memOk = true → f ≠ s.homePage w r k → paKind (s.homePage w r k * 65536) ≠ 0 →
    (∀ i, i < 1024 → s.lost (s.homePage w r k * 1024 + i) = false) → ∃ t, exec .migrationComplete s = .next t ∧
      (tgetD t.xl.tiers k Tier.init).res = true ∧ (tgetD t.xl.tiers k Tier.init).m = false ∧
      (tgetD t.xl.tiers k Tier.init).frame = f ∧
      (∀ i, i < 65536 → cget t.mem (f * 65536 + i) = cget s.mem (s.homePage w r k * 65536 + i)) ∧
      ∀ x, x / 65536 ≠ f → cget t.mem x = cget s.mem x) ∧
  (let r := BitVec.ofNat 16 b
   (∃ p ∈ s.xl.pending, p.1 = .resolve a r s.arg.val) → answerOk s.arg.res = true → s.nameAnswer a r s.arg.val = none → ∃ t, exec .nameResolved s = .next t ∧ t = { s with xl := t.xl } ∧
    t.nameAnswer a r s.arg.val = some s.arg.res) ∧
  (e.state = .resident → s.objBusy a e = false → ∃ t, exec .objectDepart s = .next t ∧
    (t.rotAt a).serial = e.serial ∧ (t.rotAt a).epoch = s.currentSeq ∧
    ((t.rotAt a).state = .departed ∨ (e.doomed = true ∧ (t.rotAt a).state = .gone))) ∧
  (e.state = .arriving → s.memOk = true → let map := b % 2 ^ 52 / 4096 * 4096
    ∃ t, exec .objectArrive s = .next t ∧ (t.rotAt a).map = map ∧
    (∀ x, (x < map ∨ map + 8 * e.pages.length ≤ x) → t.peek x 1 = s.peek x 1) ∧
    ((t.rotAt a).state = .resident ∨ (e.doomed = true ∧ (t.rotAt a).state = .gone))) ∧
  (e.state ≠ .absent → e.state ≠ .gone → e.doomed = false → ∃ t, exec .objectDestroy s = .next t ∧ t.mem = s.mem ∧
    (t.rotAt a).doomed = true ∧ (t.rotAt a).epoch = s.currentSeq ∧ ((t.rotAt a).state = e.state ∨ (t.rotAt a).state = .gone)) ∧
  (∀ o, oldestOf s.liveSeqs = some o → s.plat.launchSeq.toNat % 2 ^ 28 = 0 → ∃ t, exec .epochSweep s = .next t ∧
    t = { s with rot := t.rot } ∧ ∀ h x, tget s.rot h = some x → tget t.rot h = some (
      if (x.state = .departed ∨ x.doomed = true) ∧ s.epochOver x.epoch = true then { x with epoch := o - 1#32 } else x))

/-! ### Events of engines and of waves -/

/-- R63, R148, R149, R156, R157, R159, R177, R197, R198, R299, R303, R308, R364, R402: the life of an engine operation. A matrix
operation whose block is in checks it once it may start, unless a DRAIN halt holds its core still or a pre-emption stops it; a condition falls due where a check fails, or where it reads a word with
an uncorrectable error; a due condition freezes it; a finished operation whose writes have left its core completes, an MMA
whose checksum meets no error by writing its tile; the notice of the first operation of its class retires,
which lowers the counter and ORs the flags in. A frame is dispatched, an unfolding's result written. A multicast write
takes effect where the tag at its address matches and it is not older than 65,536 clk, and is counted where it is not so. -/
def Obligations.EngineEvents : Prop := ∀ (s : State) (o : EngOp),
  let k := s.arg.a
  (tget s.ops k = some o →
    (o.kind = .mma → o.cls = 1 → o.state = .check → (s.core o.core).still = false → s.stopsOp o = false → s.mayStart k o = true → ∃ t, exec .engineOpProgress s = .next t ∧
      t.mem = s.mem ∧ t.cores = s.cores ∧ ∃ p, tget t.ops k = some p ∧ p.seq = o.seq ∧ p.block = o.block ∧
        match mmaCheck (s.core o.core) o.cairns o.block with
        | none => if mmaBad (s.core o.core) o.block = true then ∃ r : FaultRec, p.state = .due r ∧ r.code = 0x1A#8 ∧ r.step = 6#3 ∧
            r.seq = BitVec.ofNat 16 o.seq
          else p.state = .finished
        | some code => ∃ r : FaultRec, p.state = .due r ∧ r.code = BitVec.ofNat 8 code ∧ r.step = 6#3 ∧ r.seq = BitVec.ofNat 16 o.seq) ∧
    (∀ r, o.state = .due r →
      (s.leavesRest o r = false → exec .engineOpFreeze s = .next (s.putOp k { o with state := .frozen r })) ∧
      ∃ t p, exec .engineOpFreeze s = .next t ∧ tget t.ops k = some p ∧ p.state = .frozen r ∧ p.seq = o.seq ∧ p.block = o.block) ∧
    (o.state = .finished → s.unsent k o = false → o.kind ∈ [.mzero, .dpload, .xlevel, .ldg2l] →
      exec .engineOpComplete s = .next (s.putOp k { o with state := .complete })) ∧
    (∀ p, o.state = .finished → s.unsent k o = false → o.kind = .mma → mmaBlock o.block = some p → s.arg.b = 0 → ∃ t c, exec .engineOpComplete s = .next t ∧
      t.mem = s.mem ∧ t.core o.core = c ∧ c = (s.core o.core).putTile p (mmaOut (s.core o.core) p).1 ∧
      tget t.ops k = some { o with state := .complete, flags := o.flags ||| (mmaOut (s.core o.core) p).2 }) ∧
    (∀ u, o.unfold = some u → o.state = .run → o.cls ≠ 7 →
      (u.phase = .result → u.running = [] → exec .unfoldingEnd s = .next ((s.copyResult k o u).retireNotice o.wave o.cls)) ∧
      (u.stopped = false → (∀ x ∈ u.frames, x.dirty = false) → s.firstOnRidge k o = true →
        exec .frameDispatch s = .next (s.dispatch k o u s.arg.b)))) ∧
  (∀ key w rest, s.opsOf s.arg.a s.arg.b = (key, o) :: rest → tget s.waves s.arg.a = some w → o.state = .complete →
    o.unacked = 0 → o.denied = [] → o.kind ≠ .rbegin → s.arg.b < w.cnt.length → ∃ t w', exec .completionNoticeRetire s = .next t ∧
      t.mem = s.mem ∧ tget t.waves s.arg.a = some w' ∧ w'.cntOf s.arg.b = w.cntOf s.arg.b - 1 ∧
      (∀ c, c ≠ s.arg.b → w'.cntOf c = w.cntOf c) ∧ w'.fpflags = w.fpflags ||| o.flags ∧ w'.regs = w.regs ∧ w'.seq = w.seq ∧
      tget t.ops key = none) ∧
  (∀ m, tget s.fab.multicasts k = some m → tget s.ops m.op = none →
    (let hit : Bool := decide (s.clock.toNat ≤ m.sent + 65536 ∧
        (tget (s.core m.core).gran (m.addr / 128)).map (fun g => g.tag) = some m.tag)
     ((s.core m.core).still = false ∨ hit = false) → ∃ t, exec .multicastWriteArrive s = .next t ∧
      tget t.fab.multicasts k = none ∧ t.mem = s.mem ∧
      t.core m.core = if hit = true then (s.core m.core).lWrite m.addr m.bytes
        else { s.core m.core with lmdrop := if (s.core m.core).lmdrop = 0xFFFFFFFF#32 then 0xFFFFFFFF#32
                                            else (s.core m.core).lmdrop + 1#32 }) ∧
    (m.sent + 65536 ≤ s.clock.toNat → ∃ t, exec .multicastTimeout s = .next t ∧ tget t.fab.multicasts k = none ∧
      (t.core m.core).lmem = (s.core m.core).lmem ∧
      (t.core m.core).lmdrop = if (s.core m.core).lmdrop = 0xFFFFFFFF#32 then 0xFFFFFFFF#32
        else (s.core m.core).lmdrop + 1#32))

/-- R150, R186, R194, R200, R201, R205, R361, R364 to R367, R390: the events of a wave and its workgroup. A fetch reads the
header and the words of the summit's clause, checks them, and imposes the header's waits; a supervisor wave fetches from
physical memory (log 9, DEDUCED: no rule gives its fetch addresses). A lowered wave returns to issue when its quadrant has room, by the checks of R186 where its record is
full. Entries reach their world's queues and a serving supervisor wave. Workgroups are saved and restored, cores retired.
Which ready wave issues is the model's choice (log 1, DESIGN CHOICE). -/
def Obligations.SchedulingEvents : Prop := ∀ (s : State) (w : Wave),
  let id := s.arg.a
  (∀ b h ws s1 s2, tget s.waves id = some w → w.bundle = some b → w.clause = none →
    s.ready id { w with stalled := false } = true → b.pc.toNat % 8 = 0 → b.pc.toNat < w.extent →
    s.codeRead id w [(32, b.pc.toNat)] = .got [h] s1 →
    let b1 := { b with prio := BitVec.ofNat 16 (h / 2 ^ 16 % 2 ^ 16) }
    let w1 := (tgetD s1.waves id w).learn b.pc b1.prio
    let n := h / 2 ^ 52 % 16 + 1
    headerBad h = false → b.pc.toNat + 8 * (1 + n) ≤ w1.extent → b.ridx < n → b.passed = false → w1.judge = 0 →
    (s1.putWave id w1).codeRead id w1 ((List.range n).map (fun k => (k, b.pc.toNat + 8 * (1 + k)))) = .got ws s2 →
    (∀ x ∈ (ws.map (BitVec.ofNat 64)).zipIdx, wordBad (h / 2 ^ 56 % 8) x.2 x.1 = false) →
    let waits := if b.ridx = 0 then headerWaits (BitVec.ofNat 64 h).toNat else []
    let w2 := { tgetD s2.waves id w1 with judge := 0, behind := h.testBit 14, bundle := some b1 }
    let c : Clause := { pc := b.pc, header := BitVec.ofNat 64 h, words := ws.map (BitVec.ofNat 64) }
    ((∀ k t, (k, t) ∈ waits → w2.cntOf k ≤ t) → exec .clauseFetch s = .next ((s2.coverUses w2 waits).putWave id { w2.cover waits with
      waits := false, clause := some { c with waited := true }, bundle := some { b1 with yld := false, passed := false } })) ∧
    ((∃ k t, (k, t) ∈ waits ∧ t < w2.cntOf k) → s2.firstFrozen id w2 waits = none →
      exec .clauseFetch s = .next ((s2.putWave id { w2 with clause := some { c with waited := false } }).stall id))) ∧
  (∀ pc u, tget s.waves id = some w → w.sup = true → w.hold = [] → w.codeBase + pc < 2 ^ 52 →
    let pa := s.hostPa w.world (s.ownPa (w.codeBase + pc))
    s.isRemote pa = false → s.dataCheck w 8 [(32, pa)] = .ok u → u.plat.node = s.plat.node →
    s.codeRead id w [(32, pc)] = .got [u.peekNat pa 8] (u.probe (dieOf w.core) w.world (64 * (pa / 64)) (u.stampOf w))) ∧
  (∃ t, exec .waveIssue s = .next t ∧ t = { s with cur := t.cur, bg := t.bg }) ∧
  (tget s.waves id = some w → s.wantsSlot id w = true → s.quadFits w.core (w.num % 4) w.nv = true →
    exec .waveRequeue s = .next ((s.putCore w.core { s.core w.core with power := .on }).requeue id w)) ∧
  (tget s.waves id = some w → w.sup = false → w.status = .slot → w.waiting = true → s.inPool w = false →
    w.fillsDue = false → (s.lowerDue w || s.roomDue w.core || s.workDue w.core) = true → ∃ t w', exec .waveLower s = .next t ∧
      t.mem = s.mem ∧ tget t.waves id = some w' ∧ w'.status = .lowered ∧ w'.bundle = none ∧ w'.recKind = 0#2 ∧ w'.recCnt = w.cnt) ∧
  (s.stopNow id s.arg.b = true → (s.core id).halt = none → ∃ t, exec .preempt s = .next t ∧ t.mem = s.mem ∧
    (∀ k o, tget s.ops k = some o → o.core = id → o.world = s.arg.b → o.ghost = false → s.suspendable o = true →
      tget t.ops k = some { o with state := .suspended })) ∧
  (∃ t, exec .sliceEnd s = .next t ∧ t.mem = s.mem ∧ (s.protectors id = [] → t = s)) ∧
  (∀ j g, s.wgs.find? (fun e => decide (e.2.core = id ∧ e.2.slot = s.arg.b)) = some (j, g) →
    (s.canSave j g = true → ∃ t g', exec .workgroupSave s = .next t ∧ tget t.wgs j = some g' ∧
      g'.saved = some ((s.core id).context g j) ∧ t.waves = s.waves ∧ t.mem = s.mem) ∧
    (∀ x, g.saved = some x → s.mayRestore g = true → s.offsetsFree j g x = true → (s.core id).power ≠ .powerGated → (s.core id).still = false →
      ∃ t g', exec .workgroupRestore s = .next t ∧ tget t.wgs j = some g' ∧ g'.saved = none ∧
        g'.tag = (if (s.core id).tagCtr = 65535 then 1 else (s.core id).tagCtr + 1) ∧ t.mem = s.mem)) ∧
  (let c := s.core id
   id < 320 → c.stranded = false →
    (c.retiring = false → ∃ t, exec .coreRetire s = .next t ∧ t.core id = { c with retiring := true } ∧ t.mem = s.mem) ∧
    (c.retiring = true → s.coreEmptied id = true → c.halt = none → ∃ t, exec .coreRetire s = .next t ∧ t.mem = s.mem ∧
      (t.core id).retiring = false ∧
      (tgetD s.plat.retired (dieOf id) 0 < 2 → (t.core id).stranded = false ∧ (t.core id).power = .on ∧
        tgetD t.plat.retired (dieOf id) 0 = tgetD s.plat.retired (dieOf id) 0 + 1) ∧
      (2 ≤ tgetD s.plat.retired (dieOf id) 0 → (t.core id).stranded = true))) ∧
  (∀ p, (s.world id).toPost.find? (s.world id).roomFor = some p → ∃ t, exec .faultQueuePost s = .next t ∧ t = { s with worlds := t.worlds } ∧
    (t.world id).toPost = (s.world id).toPost.erase p ∧
    (t.world id).reqRing = (s.world id).reqRing ++ (if p.kind = 1 then [p] else []) ∧
    (t.world id).faultQ = (s.world id).faultQ ++ (if p.kind = 1 then [] else [p])) ∧
  (∀ p rest, let x := s.world s.arg.b
    tget s.waves id = some w → w.sup = true → w.sv.handling = false → id ∈ x.serving → w.status = .slot → w.loads = [] →
    w.hold = [] → w.ldn = none → (if s.arg.flag then x.reqRing else x.faultQ) = p :: rest → ∃ t w' b', exec .supervisorEntry s = .next t ∧
      tget t.waves id = some w' ∧ w'.readSs 0 16 = p.toNat % 2 ^ 512 ∧ w'.sv.handling = true ∧ w'.bundle = some b' ∧
      b'.pc = pcOf w.codeBase w.sv.trapBase.toNat ∧ t.mem = s.mem ∧
      (if s.arg.flag then (t.world s.arg.b).reqRing else (t.world s.arg.b).faultQ) = rest)

/-! ### Events of queues, the fabric, the platform and trust -/

/-- R349 to R352, R355 to R357, R375, R377: queues and launches. A window is granted to the queue that has waited longest
and taken from a queue that has stayed empty; a head that R357 refuses puts its queue in ERROR, a marker that is not held
back starts and leaves its queue, and the scheduler's turn places a workgroup; workgroups and launches end. An aligned 8-byte
write of the queue's own function to its notify registers moves WC, and any other is counted as dropped; a host reads WC and
NDROP there. -/
def Obligations.QueueEvents : Prop := ∀ s : State,
  let k := s.arg.a
  let q := s.queue k
  (∀ j, s.nextWindow = some j → (s.queues.filter (fun e => e.2.win)).length < Config.windows →
    exec .windowGrant s = .next ((s.putQueue j { s.queue j with win := true, emptySince := s.clock.toNat }).fillWindow j 32)) ∧
  (q.win = true → q.rc = q.wc → q.emptySince + 65536 ≤ s.clock.toNat →
    exec .windowReclaim s = .next (s.putQueue k { q with win := false })) ∧
  (∀ l t, s.examine k = .start l t → exec .signalRetest s = .next s) ∧
  (s.examine k = .bad → exec .signalRetest s = .next (s.queueError k) ∧ exec .recordStart s = .next (s.queueError k)) ∧
  (∀ l t, s.examine k = .start l t →
    (l.marker = true → exec .recordStart s = .next ((t.startRecord k l).dropHead k)) ∧
    (∀ w l', l.marker = false → s.refillDue = false → s.turn = some (w, k, none, l') →
      exec .recordStart s = .next (t.startRecord k l))) ∧
  (s.refillDue = true → ∃ t, exec .workgroupPlace s = .next t ∧ t = { s with worlds := t.worlds } ∧
    ∀ w x, tget s.worlds w = some x → ∃ x', tget t.worlds w = some x' ∧ x' = { x with deficit := x'.deficit } ∧
      x'.deficit = if w ∈ s.busyWorlds then min (x.deficit + 65536 * s.weightOf w) (65536 * s.weightOf w) else min x.deficit 0) ∧
  (∀ w j h l l' core slot base, s.refillDue = false → s.turn = some (w, j, some h, l') → tget s.launches h = some l →
    let u := s.numberLaunch h l
    ∀ l1, tget u.launches h = some l1 → u.coreFor l1 = some core → u.freeSlot core = some slot → u.freeSpan core l1.lmem = some base →
      let t := u.placeWg h core slot base l1
      exec .workgroupPlace s = .next { t with plat := { t.plat with turn := w, qturn := tset t.plat.qturn w j } }) ∧
  (∀ id g, s.wgs.find? (fun e => decide (e.2.core = k ∧ e.2.slot = s.arg.b)) = some (id, g) → s.wgOver id = true →
    ∃ t, exec .workgroupEnd s = .next t ∧ t.mem = s.mem ∧ (∀ e ∈ t.waves, e.2.sup = true ∨ e.2.wg ≠ id) ∧
      (∀ e ∈ (t.core g.core).ridges, ∀ r ∈ g.ridgeMap, g.saved = none → r.2 ≠ e.1) ∧
      ∀ x, (t.core g.core).token = some x → x.wg ≠ id) ∧
  (∀ l, tget s.launches k = some l → s.launchDone l = true → s.unconf = [] →
    (l.donesig = 0xFFFF → exec .launchComplete s = .next (s.dropLaunch k)) ∧
    (∀ v t, l.donesig ≠ 0xFFFF → s.decrement l = .ok v t → ∃ u, exec .launchComplete s = .next u ∧ u.mem = t.mem ∧
      tget u.launches k = none)) ∧
  (let j := s.arg.b
   let x := s.queue j
   let wc := s.arg.val.toNat
   (s.linked = false → ∀ i ∈ ([.notify, .ictl, .ndropClear, .msixVectorUnmask] : List Instr), exec i s = .next s) ∧
   (s.linked = true →
   (s.arg.flag = false →
    (s.reaches k j = true → s.whole8 = true →
     (x.state = 1#3 → x.wc < wc → wc ≤ x.rc + x.nrec →
       exec .notify s = .next (((s.putQueue j { x with wc := wc }).notePush j x.wc).fillWindow j 32)) ∧
     (x.state = 1#3 → wc = x.wc → exec .notify s = .next s) ∧
     (x.state = 1#3 → wc ≠ x.wc → (wc < x.wc ∨ x.rc + x.nrec < wc) → exec .notify s = .next (s.queueError j)) ∧
     (wc < 2 ^ 13 → exec .ictl s = .next (s.putQueue j { x with
       vec := BitVec.ofNat 11 wc, ce := wc.testBit 11, ee := wc.testBit 12 }))) ∧
    (s.reaches k j = false ∨ s.whole8 = false ∨ x.state ≠ 1#3 → exec .notify s = .next (s.countDropped k)) ∧
    (s.reaches k j = false ∨ s.whole8 = false ∨ 2 ^ 13 ≤ wc → exec .ictl s = .next (s.countDropped k)) ∧
    (∀ f, tget s.host.fns k = some f → wc = 0 → ∃ t, exec .ndropClear s = .next t ∧ tget t.host.fns k = some { f with ndrop := 0#64 } ∧
      t.mem = s.mem)) ∧
   (s.arg.flag = true → s.arg.nums = [] → s.arg.c = 8 →
    (s.reaches k j = true → ∃ t, exec .notify s = .next t ∧ t = { s with host := t.host } ∧
      t.host.lastRead = some (leBytes 8 x.wc, false)) ∧
    (∀ f, tget s.host.fns k = some f → ∃ t, exec .ndropClear s = .next t ∧ t = { s with host := t.host } ∧
      t.host.lastRead = some (leBytes 8 f.ndrop.toNat, false))))) ∧
  (∀ f, s.linked = true → tget s.host.fns k = some f → s.arg.flag = false → ∃ t f', exec .msixVectorUnmask s = .next t ∧ t.mem = s.mem ∧
    tget t.host.fns k = some f' ∧ s.arg.b ∉ f'.masked ∧ s.arg.b ∉ f'.pending ∧
    f'.sent = f.sent ++ (if s.arg.b ∈ f.pending ∧ s.arg.b ∈ f.masked then [s.arg.b] else []))

/-- R120, R378 to R382, R392, R423: the fabric. Acknowledgements and answers end this device's requests, a request without
answer is refused with POISON after 16,777,216 clk, and requests of other nodes act where the import table admits them, or
are refused with WORLD_VIOLATION or PERMISSION; a write is answered once the hosts that may hold its line have confirmed. Ports train, spare a lane and go down. -/
def Obligations.FabricEvents : Prop := ∀ s : State,
  let k := s.arg.a
  (∀ r, tget s.fab.requests k = some r →
    (r.posted = true → ∃ t, exec .postedWriteAck s = .next t ∧ t.mem = s.mem ∧ tget t.fab.requests k = none ∧
      ∀ j o, r.op = some j → tget s.ops j = some o → ∃ o', tget t.ops j = some o' ∧ o'.unacked = o.unacked - 1 ∧
        (o.cls = 3 → o.unacked = 1 → o.denied = [] → o'.state = .complete)) ∧
    (r.posted = false → r.answer = none → s.awaited k r = true →
      (∀ c, s.arg.ans = .refused c → ∃ t, exec .remoteResponse s = .next t ∧
        tget t.fab.requests k = some { r with answer := some (.refused c) } ∧ t.mem = s.mem) ∧
      (∀ bs, s.arg.ans = .value bs → bs.length = r.width → s.arg.bytes = [] → ∃ t, exec .remoteResponse s = .next t ∧
        tget t.fab.requests k = some { r with answer := some (.value bs) } ∧ t.mem = s.mem) ∧
      (r.sent + 16777216 ≤ s.clock.toNat → ∃ t, exec .remoteTimeout s = .next t ∧
        tget t.fab.requests k = some { r with answer := some (.refused 0x1A#8) } ∧ t.mem = s.mem))) ∧
  (let run := reqRun s.arg.req
   s.plat.boot = .running → s.fab.ports.any (fun e => e.2.up) = true →
   (s.importFor k s.arg.b run.1 run.2 = none → exec .fabricRequest s = .next (s.respond (.refused 0x15#8))) ∧
   ∀ e, s.importFor k s.arg.b run.1 run.2 = some e →
    (impAllows e s.arg.req = false → exec .fabricRequest s = .next (s.respond (.refused 0x14#8))) ∧
    (impAllows e s.arg.req = true → s.runUnconfirmed run.1 run.2 = false →
      (∀ a n u, s.arg.req = .read a n → s.checkRead (some (impWorld e)) a n = (u, false) →
        exec .fabricRequest s = .next (u.respond (.value (u.peek a n)))) ∧
      (∀ a bs, s.arg.req = .write a bs → 0 < bs.length → a % 128 + bs.length ≤ 128 → s.memOk = true → ∃ t, exec .fabricRequest s = .next t ∧
        (if s.outerParties (a / 128) = [] then t.fab.answered = some (.value []) ∧ t.fab.owed = s.fab.owed
         else t.fab.answered = s.fab.answered ∧ t.fab.owed = s.fab.owed ++ [([a / 128], .value [])] ∧
           ∃ u ∈ t.unconf, u.line = a / 128 ∧ ∀ p ∈ s.outerParties (a / 128), p ∈ u.waiting) ∧
        t.peek a bs.length = bs ∧ ∀ x, x < a ∨ a + bs.length ≤ x → t.peek x 1 = s.peek x 1) ∧
      (∀ op a n b c u, s.arg.req = .atomic op a n b c → s.checkRead (some (impWorld e)) a n = (u, false) →
        (∀ l ∈ linesOf a n, s.outerParties (l / 2) = []) → ∃ t,
        exec .fabricRequest s = .next t ∧ t.fab.answered = some (.value (leBytes n (u.peekNat a n)))))) ∧
  ((s.port k).up = true → s.arg.flag = true → (s.world s.arg.b).protected = true → s.arg.val = 0#64 → s.arg.nums = [] →
    exec .flitReceive s = .next (s.respond (.refused 0x1A#8))) ∧
  (s.arg.flag = false → exec .flitReceive s = .next s) ∧
  (let p := s.port k
   (p.up = true → p.failed = 0 → ∃ t, exec .laneSpare s = .next t ∧ t.port k = { p with failed := 1 } ∧ t.mem = s.mem) ∧
   (p.up = true → p.failed ≠ 0 → ∃ t, exec .portDown s = .next t ∧ (t.port k).up = false ∧ t.mem = s.mem) ∧
   (k < 18 → (s.plat.boot = .firmware ∨ s.plat.boot = .running) → p.up = false → s.arg.flag = false →
    (p.failed ≠ 2 → ∃ t, exec .nymnikPortTraining s = .next t ∧ t.mem = s.mem ∧
      t.port k = { up := true, failed := 0, nodes := s.arg.nums.filter (fun n => decide (n ≤ 1151)) }) ∧
    (p.failed = 2 → ∃ t, exec .nymnikPortTraining s = .next t ∧ t.mem = s.mem ∧ t.port k = p))) ∧
  (k < 2 → (s.plat.boot = .firmware ∨ s.plat.boot = .running) → ∃ t, exec .cxlPortTraining s = .next t ∧ t.mem = s.mem ∧
    tget t.host.cxl k = if (s.arg.b = 64 ∨ s.arg.b = 32) ∧ (s.arg.c = 16 ∨ s.arg.c = 8) then some (s.arg.b, s.arg.c) else none)

/-- R107, R108, R110, R390, R397 to R399, R401: the care of DRAM and of power. Layers retire and are rebuilt, a
scrub-pending line becomes zeros, the patrol scrubber finds errors; stacks and cores enter their low-power states when
they have been quiet long enough, and leave them, a core 2,048 clk after its wake has begun; a die trips and is released as its
temperature and the module's draw say. -/
def Obligations.CareEvents : Prop := ∀ s : State,
  let k := s.arg.a
  let st := s.stackAt k
  let c := s.core k
  (k < 8 → s.arg.b < 16 → st.out = false → st.retired = [] → s.condemned k s.arg.b = true → ∃ t, exec .layerRetire s = .next t ∧ t.mem = s.mem ∧
    t.stackAt k = { st with retired := [s.arg.b], rebuild := some s.arg.b } ∧
    ∃ n r, tget t.plat.ras n = some r ∧ r.type = 3 ∧ r.unit = k ∧ r.loc = s.arg.b) ∧
  (∀ l, st.rebuild = some l → ∃ t, exec .layerRebuildDone s = .next t ∧ t.mem = s.mem ∧ t.stackAt k = { st with rebuild := none } ∧
    ∀ n x, tget s.side n = some x → s.inLayer k l n = true →
      tget t.side n = some { x with errs := 0, pz := x.pz || decide (x.errs = 2) }) ∧
  (st.retired ≠ [] → st.rebuild ≠ some s.arg.b → s.arg.b < 16 → s.condemned k s.arg.b = true → ∃ t, exec .secondLayerFailure s = .next t ∧ t.mem = s.mem ∧
    s.arg.b ∈ (t.stackAt k).retired ∧ (t.stackAt k).rebuild = st.rebuild) ∧
  ((s.sideAt k).sp = true → ∃ t, exec .scrubLine s = .next t ∧ (t.sideAt k).sp = false ∧ (t.sideAt k).pz = false ∧
    (∀ i, i < 64 → cget t.mem (k * 64 + i) = 0#8) ∧ ∀ x, x / 64 ≠ k → cget t.mem x = cget s.mem x) ∧
  ((s.sideAt k).sp = false → k < 8 * 2 ^ 30 → s.arg.nums = [] → ∃ t, exec .patrolScrub s = .next t ∧ t.mem = s.mem ∧
    (s.arg.b = 2 → (s.sideAt k).errs ≤ 2 → (t.sideAt k).errs = 2) ∧
    (s.arg.b ≤ 1 → (s.sideAt k).errs ≤ 1 → (s.sideAt k).pz = false → (t.sideAt k).errs = 0) ∧
    (s.arg.b ≤ 1 → (s.sideAt k).errs ≤ 1 → (s.sideAt k).pz = true → (t.sideAt k).pz = true ∧ (t.sideAt k).errs = max (s.sideAt k).errs s.arg.b)) ∧
  (∀ place n ys, s.arg.nums = place :: n :: ys → place < 4 → n < 320 → s.arg.b = 1 ∨ s.arg.b = 2 → ∃ t, exec .patrolScrub s = .next t ∧
    t.mem = s.mem ∧ (s.arg.b = 2 → ∀ y ∈ ys, (place, y) ∈ (t.core n).badWords) ∧
    (s.arg.b = 1 → (t.core n).badWords = (s.core n).badWords) ∧
    ∃ m r, tget t.plat.ras m = some r ∧ r.type = (if s.arg.b = 2 then 7 else 6) ∧ r.unit = dieOf n ∧ r.loc = n) ∧
  (k < 8 → st.out = false → st.selfRefresh = false →
    (∀ i ch, i < 96 → tget s.plat.chans (96 * k + i) = some ch → ch.pending = []) → st.lastReq + 1100000 ≤ s.clock.toNat →
    exec .stackSelfRefresh s = .next (s.putStack k { st with selfRefresh := true })) ∧
  (st.selfRefresh = true → exec .stackSelfRefreshExit s = .next (s.putStack k { st with selfRefresh := false })) ∧
  (s.plat.ttrip ≤ s.arg.b ∨ 2600 ≤ s.arg.c → ∃ t, exec .thermalTrip s = .next t ∧ k ∈ t.plat.throttled ∧ t.mem = s.mem ∧
    ∀ n x, tget s.worlds n = some x → ∃ x', tget t.worlds n = some x' ∧
      (x.protected = true → s.worksOn n k = true → k ∈ x'.tripped) ∧ (x.protected = false → x' = x)) ∧
  (s.arg.b ≤ s.plat.trel → s.arg.c < 2500 → ∃ t, exec .thermalRelease s = .next t ∧ k ∉ t.plat.throttled ∧ t.mem = s.mem ∧
    ∀ e ∈ t.worlds, k ∉ e.2.tripped) ∧
  (∀ i ∈ ([.thermalTrip, .thermalRelease] : List Instr),
    (if i = .thermalTrip then s.arg.b < s.plat.ttrip ∧ s.arg.c < 2600 else s.plat.trel < s.arg.b ∨ 2500 ≤ s.arg.c) → ∃ t, exec i s = .next t ∧
    t.worlds = s.worlds ∧ t.plat.throttled = s.plat.throttled ∧ t.mem = s.mem) ∧
  (k < 320 → s.coreIdle k = true → c.power ≠ .powerGated →
    (c.lastWork + 256 ≤ s.clock.toNat → exec .coreClockGate s = .next (s.putCore k { c with power := .clockGated, waking := none })) ∧
    (c.lastWork + 65536 ≤ s.clock.toNat → exec .corePowerGate s = .next (s.putCore k { c with power := .powerGated, waking := none }))) ∧
  (c.power = .powerGated →
    (c.waking = none → exec .coreWake s = .next (s.putCore k { c with waking := some s.clock.toNat })) ∧
    (∀ t0, c.waking = some t0 → exec .coreWake s = .next (if s.clock.toNat < t0 + 2048 then s
      else s.putCore k { c with power := .on, waking := none, lastWork := s.clock.toNat })))

/-- R385, R388, R389, R391, R393 to R397: boot and trust. The boot ROM accepts an image whose signature holds, whose fields are
what R396 allows and whose version is not below the fuse counter, and starts the firmware, else the device enters recovery,
where an image may be flashed; fuses that are due are programmed first, one at a time, in order. Out-of-range parameters leave
it in recovery too; the compute dies leave reset when the parameters are set and every port has been tried. A world is bound,
locked, run, keyed and released by the TDISP transitions; leaving RUN stops its queues, and the TDI enters ERROR once its
waves are lowered and its operations suspended. -/
def Obligations.BootAndTrust : Prop := ∀ s : State,
  let k := s.arg.a
  let x := s.world k
  let img := s.plat.flash.getD s.arg.img
  let fuses := s.plat.fuseBit ||| s.plat.fuseConfirm
  let h := img.header.toNat
  let version := h % 2 ^ 7
  let good : Prop := Config.pssValid Config.fusedKeyHash (leBytes 8 (h % 2 ^ 64) ++ img.body) (BitVec.ofNat 4096 (h / 2 ^ 64)) = true ∧
    h / 2 ^ 8 % 2 ^ 24 = 0 ∧ h / 2 ^ 32 % 2 ^ 32 = img.body.length ∧ img.body.length ≤ 64 * 2 ^ 20 ∧ version ≤ 64 ∧
    ∀ i, i < 64 → fuses.getLsbD i = true → i < version
  let only (t : State) : Prop := t = { s with worlds := t.worlds } ∧ ∀ j, j ≠ k → t.world j = s.world j
  (s.arg.flag = false → ∃ t, exec .powerOnReset s = .next t ∧ t.launches = [] ∧ t.clock = 0#64 ∧
    (fuseList s.plat img = [] → (good → t.plat.boot = .firmware ∧ t.waves ≠ [] ∧ ∀ e ∈ t.waves, e.2.sup = true) ∧
      (¬good → t.plat.boot = .recovery ∧ t.waves = [])) ∧
    (fuseList s.plat img ≠ [] → t.plat.boot = .rom ∧ t.plat.blowing = fuseList s.plat img ∧ t.waves = [])) ∧
  (∀ i, i < 64 → ((∃ j, i ≤ j ∧ j < 64 ∧ fuses.getLsbD j = true) ∨ (good ∧ h.testBit 7 = true ∧ i < version)) →
    (2 * i ∈ fuseList s.plat img ↔ s.plat.fuseBit.getLsbD i = false) ∧
    (2 * i + 1 ∈ fuseList s.plat img ↔ s.plat.fuseConfirm.getLsbD i = false)) ∧
  (∀ n j l, s.arg.flag = true → s.plat.boot = .rom → s.plat.booting.isSome = true → s.plat.blowing = n :: j :: l →
    exec .powerOnReset s = .next { s with plat := { s.plat with
      fuseBit := if n % 2 = 0 then s.plat.fuseBit ||| BitVec.ofNat 64 (2 ^ (n / 2)) else s.plat.fuseBit
      fuseConfirm := if n % 2 = 0 then s.plat.fuseConfirm else s.plat.fuseConfirm ||| BitVec.ofNat 64 (2 ^ (n / 2))
      blowing := j :: l } }) ∧
  (s.plat.boot = .recovery → exec .firmwareUpdate s = .next { s with plat := { s.plat with flash := some s.arg.img } }) ∧
  (s.plat.boot = .firmware → ∃ t, exec .bringupParameters s = .next t ∧ t.mem = s.mem ∧
    t.plat.boot = (if s.bringOk s.arg.bring = false then .recovery
      else if (List.range 20).all (fun n => s.plat.portsTried.contains n) = true then .running else .firmware) ∧
    (s.bringOk s.arg.bring = true → t.plat.paramsSet = true ∧ t.plat.node = s.arg.bring.node.getD 0 ∧ t.plat.privateGiB = s.arg.bring.privateGiB.getD 2 ∧
      t.plat.cethr = s.arg.bring.cethr.getD 256)) ∧
  (∃ t, exec .powerLoss s = .next t ∧ t.plat.boot = .lost ∧ t.plat.fuseBit = s.plat.fuseBit ∧
    t.plat.fuseConfirm = s.plat.fuseConfirm) ∧
  (0 < k → k < 64 → x.bound = false → (tget s.host.lds s.arg.c).isSome = true → tget s.host.fns s.arg.b = none →
    ∃ t f, exec .worldBind s = .next t ∧ t.mem = s.mem ∧
      t.world k = { x with bound := true, fn := some s.arg.b, ld := some s.arg.c, keyGen := x.keyGen + 1 } ∧
      tget t.host.fns s.arg.b = some f ∧ f.world = k ∧ f.ld = s.arg.c ∧ f.ndrop = 0#64) ∧
  (s.plat.boot = .firmware ∨ s.plat.boot = .running ∨ s.plat.boot = .recovery →
    (s.arg.spdm = .certificate 0 → ∃ t, exec .spdmRequest s = .next t ∧ t.plat.spdmChain = some (Config.certChain Config.identityKey)) ∧
    (∀ i, s.arg.spdm = .measure i → 1 ≤ i → i ≤ 3 → ∃ t, exec .spdmRequest s = .next t ∧ t.plat.spdmAnswer = tget s.plat.meas i ∧
      t = { s with plat := t.plat }) ∧
    (∀ v a h e d hb, s.arg.spdm = .session v a h e d hb → spdmOk v a h e d hb = true → ∃ t, exec .spdmRequest s = .next t ∧
      tget t.plat.spdmSessions s.nextId = some hb)) ∧
  (∀ slice cores, x.bound = true → x.tdisp = .configUnlocked → (∀ e ∈ s.launches, e.2.world ≠ k) →
    (∀ e ∈ s.worlds, e.1 ≠ k → e.2.session ≠ some s.arg.b) → (tget s.plat.spdmSessions s.arg.b).isSome = true →
    s.protConfig k = some (slice, cores) → ∃ t, exec .lockInterface s = .next t ∧ t.mem = s.mem ∧
      t.world k = { x with tdisp := .configLocked, session := some s.arg.b, slice := slice, cores := cores } ∧
      t.plat.tdispAnswer = some (k, false)) ∧
  (x.bound = false ∨ x.tdisp ≠ .configUnlocked ∨ s.protConfig k = none ∨ (tget s.plat.spdmSessions s.arg.b).isNone = true →
    exec .lockInterface s = .next { s with plat := { s.plat with tdispAnswer := some (k, true) } }) ∧
  (x.tdisp = .configLocked → x.leaving = false → ∃ t, exec .tdiEnterRun s = .next t ∧ only t ∧ t.world k = { x with tdisp := .run }) ∧
  (x.protected = true → x.leaving = false → s.arg.b < 2 → x.session = some s.arg.c →
    (∃ t, exec .setGroupKey s = .next t ∧ only t ∧ t.world k =
      { x with groupKeys := tset x.groupKeys s.arg.b (BitVec.ofNat 32 s.arg.val.toNat, s.arg.key) }) ∧
    (∃ t, exec .switchGroupKey s = .next t ∧ only t ∧ t.world k = { x with sendSlot := some s.arg.b })) ∧
  (x.tdisp = .run → x.leaving = false → ∃ t, exec .tdiLeaveRun s = .next t ∧ t.mem = s.mem ∧ (t.world k).leaving = true ∧
    (t.world k).tdisp = .run ∧ ∀ j q, tget s.queues j = some q → q.world = k → q.state = 1#3 → ∃ q', tget t.queues j = some q' ∧
      q'.state = 2#3 ∧ q'.wc = q.wc ∧ q'.rc = q.rc) ∧
  (x.leaving = true → exec .tdiLeaveRun s = .next (if s.worldStopped k = true then s.putWorld k { x with leaving := false, tdisp := .error } else s)) ∧
  (∀ n, ∀ i ∈ ([.endSession, .heartbeatExpiry] : List Instr), x.session = some n → ∃ t, exec i s = .next t ∧ t.mem = s.mem ∧
    (t.world k).session = none ∧ (x.protected = true → (t.world k).leaving = true) ∧ (∀ e ∈ t.plat.spdmSessions, e.1 = n → False)) ∧
  (x.tdisp ≠ .configUnlocked → ∃ t, exec .returnToConfigUnlocked s = .next t ∧
    ((∀ e ∈ s.wgs, e.2.world ≠ k) → (∀ e ∈ s.launches, e.2.world ≠ k) → (t.world k).tdisp = .configUnlocked ∧
      (t.world k).leaving = false ∧ (t.world k).session = none ∧ (t.world k).ranges = [] ∧ (t.world k).keyGen = x.keyGen + 1))
end

