-- ==== Sys2Proof/Laws/Tables.lean ====
section
/-! SUPPORT. Laws of the tables and the memories: what a read gives after a write, and that every operation keeps the
canonical form. -/

namespace Sys2Proof.Machine

@[simp] theorem tget_tset_same {α : Type} (t : Tab α) (k : Nat) (a : α) : tget (tset t k a) k = some a := by
  induction t with
  | nil => simp [tset, tget]
  | cons e t ih =>
    obtain ⟨j, b⟩ := e
    by_cases h : k < j
    · simp [tset, h, tget]
    · by_cases h' : k = j
      · simp [tset, h', tget]
      · simp [tset, h, h', tget, Ne.symm h', ih]

theorem tget_tset_other {α : Type} (t : Tab α) (k j : Nat) (a : α) (h : j ≠ k) : tget (tset t k a) j = tget t j := by
  induction t with
  | nil => simp [tset, tget, Ne.symm h]
  | cons e t ih =>
    obtain ⟨i, b⟩ := e
    by_cases h1 : k < i
    · simp [tset, h1, tget, Ne.symm h]
    · by_cases h2 : k = i
      · subst h2; simp [tset, tget, Ne.symm h]
      · by_cases h3 : i = j
        · subst h3; rw [tset, if_neg h1, if_neg h2]; simp [tget]
        · rw [tset, if_neg h1, if_neg h2]; simp [tget, h3, ih]

theorem tget_tset {α : Type} (t : Tab α) (k j : Nat) (a : α) :
    tget (tset t k a) j = if j = k then some a else tget t j := by
  by_cases h : j = k
  · subst h; simp [tget_tset_same]
  · simp [h, tget_tset_other]

theorem tget_tdel_other {α : Type} (t : Tab α) (k j : Nat) (h : j ≠ k) : tget (tdel t k) j = tget t j := by
  induction t with
  | nil => rfl
  | cons e t ih =>
    obtain ⟨i, b⟩ := e
    by_cases h1 : i = k
    · subst h1
      simp only [tdel, List.filter, ne_eq, not_true_eq_false, decide_false] at ih ⊢
      simpa [tget, Ne.symm h] using ih
    · simp only [tdel, List.filter, ne_eq, h1, not_false_eq_true, decide_true] at ih ⊢
      by_cases h2 : i = j
      · simp [tget, h2]
      · simpa [tget, h2] using ih

theorem risesFrom_mono {α : Type} (l : List (Nat × α)) (a b : Nat) (hab : a ≤ b) (h : risesFrom b l = true) :
    risesFrom a l = true := by
  cases l with
  | nil => rfl
  | cons e t =>
    obtain ⟨k, x⟩ := e
    simp only [risesFrom, Bool.and_eq_true, decide_eq_true_eq] at h ⊢
    exact ⟨by omega, h.2⟩

theorem risesFrom_cset (m : Memory) (lo a : Nat) (b : Byte) (h : risesFrom lo m = true) (ha : lo ≤ a) :
    risesFrom lo (cset m a b) = true := by
  induction m generalizing lo with
  | nil => by_cases hb : b = 0#8 <;> simp [cset, hb, risesFrom, ha]
  | cons e t ih =>
    obtain ⟨j, c⟩ := e
    simp only [risesFrom, Bool.and_eq_true, decide_eq_true_eq] at h
    by_cases h1 : a < j
    · by_cases hb : b = 0#8
      · simp [cset, h1, hb, risesFrom, h.1, h.2]
      · simp [cset, h1, hb, risesFrom, ha, h.2]; try omega
    · by_cases h2 : a = j
      · by_cases hb : b = 0#8
        · simp only [cset, h2, hb, lt_irrefl, ↓reduceIte]
          exact risesFrom_mono t lo (j + 1) (by omega) h.2
        · simp [cset, h2, hb, risesFrom, h.1, h.2]
      · simp [cset, h1, h2, risesFrom, h.1, ih (j + 1) h.2 (by omega)]

theorem nonzero_cset (m : Memory) (a : Nat) (b : Byte) (h : m.all (fun e => decide (e.2 ≠ 0#8)) = true) :
    (cset m a b).all (fun e => decide (e.2 ≠ 0#8)) = true := by
  induction m with
  | nil => by_cases hb : b = 0#8 <;> simp [cset, hb]
  | cons e t ih =>
    obtain ⟨j, c⟩ := e
    simp only [List.all_cons, Bool.and_eq_true, decide_eq_true_eq] at h
    have ht := ih h.2
    have hc : c ≠ 0#8 := h.1
    unfold cset
    split
    · split
      · simp only [List.all_cons, h.2, Bool.and_true, decide_eq_true hc]
      · rename_i hb; simp only [List.all_cons, h.2, Bool.and_true, decide_eq_true hc, decide_eq_true hb]
    · split
      · split
        · exact h.2
        · rename_i hb; simp only [List.all_cons, h.2, Bool.and_true, decide_eq_true hb]
      · simp only [List.all_cons, ht, Bool.and_true, decide_eq_true hc]

/-- Writing a byte keeps the canonical form. -/
theorem wf_cset (m : Memory) (a : Nat) (b : Byte) (h : Memory.wf m = true) : Memory.wf (cset m a b) = true := by
  simp only [Memory.wf, Bool.and_eq_true] at h ⊢
  exact ⟨risesFrom_cset m 0 a b h.1 (Nat.zero_le a), nonzero_cset m a b h.2⟩

/-- Writing bytes keeps the canonical form. -/
theorem wf_cwrite (bs : List Byte) (m : Memory) (a : Nat) (h : Memory.wf m = true) :
    Memory.wf (cwrite m a bs) = true := by
  induction bs generalizing m a with
  | nil => exact h
  | cons b bs ih => exact ih _ _ (wf_cset m a b h)

theorem risesFrom_filter {α : Type} (p : Nat × α → Bool) (l : List (Nat × α)) (lo : Nat)
    (h : risesFrom lo l = true) : risesFrom lo (l.filter p) = true := by
  induction l generalizing lo with
  | nil => rfl
  | cons e t ih =>
    obtain ⟨k, x⟩ := e
    simp only [risesFrom, Bool.and_eq_true, decide_eq_true_eq] at h
    by_cases hp : p (k, x) = true
    · simp [List.filter, hp, risesFrom, h.1, ih (k + 1) h.2]
    · simp only [List.filter, hp]
      exact ih lo (risesFrom_mono t lo (k + 1) (by omega) h.2)

/-- Zeroing a range keeps the canonical form. -/
theorem wf_czero (m : Memory) (a n : Nat) (h : Memory.wf m = true) : Memory.wf (czero m a n) = true := by
  simp only [Memory.wf, czero, Bool.and_eq_true] at h ⊢
  refine ⟨risesFrom_filter _ m 0 h.1, ?_⟩
  simp only [List.all_eq_true, List.mem_filter] at h ⊢
  exact fun e he => h.2 e he.1

/-- Writing cells one after the other keeps the canonical form. -/
theorem wf_cells (l : List (Nat × Byte)) (f : Nat × Byte → Nat) (m : Memory) (h : Memory.wf m = true) :
    Memory.wf (l.foldl (fun m c => cset m (f c) c.2) m) = true := by
  induction l generalizing m with
  | nil => exact h
  | cons c t ih => exact ih _ (wf_cset m (f c) c.2 h)

theorem cget_of_low (m : Memory) (lo a : Nat) (h : risesFrom lo m = true) (ha : a < lo) : cget m a = 0#8 := by
  induction m generalizing lo with
  | nil => rfl
  | cons e t ih =>
    obtain ⟨k, x⟩ := e
    simp only [risesFrom, Bool.and_eq_true, decide_eq_true_eq] at h
    have hk : k ≠ a := by omega
    simp [cget, hk, ih (k + 1) h.2 (by omega)]

theorem cget_cset_from (m : Memory) (lo a j : Nat) (b : Byte) (h : risesFrom lo m = true) :
    cget (cset m a b) j = if j = a then b else cget m j := by
  induction m generalizing lo with
  | nil =>
    by_cases hj : j = a
    · by_cases hb : b = 0#8 <;> simp [cset, hb, cget, hj]
    · by_cases hb : b = 0#8 <;> simp [cset, hb, cget, hj, Ne.symm hj]
  | cons e t ih =>
    obtain ⟨k, c⟩ := e
    simp only [risesFrom, Bool.and_eq_true, decide_eq_true_eq] at h
    by_cases h1 : a < k
    · by_cases hb : b = 0#8
      · by_cases hj : j = a
        · have hk : k ≠ a := by omega
          simp [cset, h1, hb, hj, cget, hk, cget_of_low t (k + 1) a h.2 (by omega)]
        · simp [cset, h1, hb, hj]
      · by_cases hj : j = a
        · simp [cset, h1, hb, hj, cget]
        · simp [cset, h1, hb, hj, cget, Ne.symm hj]
    · by_cases h2 : a = k
      · by_cases hb : b = 0#8
        · by_cases hj : j = a
          · subst hj
            simp [cset, h2, hb, cget_of_low t (k + 1) k h.2 (by omega)]
          · have hk : k ≠ j := by omega
            simp [cset, h2, hb, cget, hk]; intro hjk; omega
        · by_cases hj : j = a
          · simp [cset, h2, hb, hj, cget]
          · have hk : k ≠ j := by omega
            have hk' : ¬ j = k := by omega
            simp [cset, h2, hb, cget, hk, hk']
      · by_cases hj : j = k
        · have hja : j ≠ a := by omega
          simp [cset, h1, h2, cget, hj]; intro hka; omega
        · simp [cset, h1, h2, cget, Ne.symm hj, ih (k + 1) h.2]

/-- A byte reads as written, and every other byte as before. -/
theorem cget_cset (m : Memory) (a j : Nat) (b : Byte) (h : Memory.wf m = true) :
    cget (cset m a b) j = if j = a then b else cget m j := by
  simp only [Memory.wf, Bool.and_eq_true] at h
  exact cget_cset_from m 0 a j b h.1

/-- Bytes outside a write read as before. -/
theorem cget_cwrite_other (bs : List Byte) (m : Memory) (a j : Nat) (h : Memory.wf m = true)
    (hj : j < a ∨ a + bs.length ≤ j) : cget (cwrite m a bs) j = cget m j := by
  induction bs generalizing m a with
  | nil => rfl
  | cons b bs ih =>
    simp only [List.length_cons] at hj
    rw [cwrite, ih _ _ (wf_cset m a b h) (by omega), cget_cset m a j b h, if_neg (by omega)]

/-- Bytes read as they were written. -/
theorem cread_cwrite (bs : List Byte) (m : Memory) (a : Nat) (h : Memory.wf m = true) :
    cread (cwrite m a bs) a bs.length = bs := by
  induction bs generalizing m a with
  | nil => rfl
  | cons b bs ih =>
    simp only [cwrite, List.length_cons, cread]
    rw [cget_cwrite_other bs _ _ _ (wf_cset m a b h) (by omega), cget_cset m a a b h, if_pos rfl,
      ih _ _ (wf_cset m a b h)]

theorem cget_czero (m : Memory) (a n j : Nat) :
    cget (czero m a n) j = if a ≤ j ∧ j < a + n then 0#8 else cget m j := by
  induction m with
  | nil => simp [czero, cget]
  | cons e t ih =>
    obtain ⟨k, x⟩ := e
    simp only [czero] at ih
    by_cases hk : k < a ∨ a + n ≤ k
    · by_cases hj : k = j
      · subst hj
        simp only [czero, List.filter, decide_eq_true hk, cget, if_true]
        rw [if_neg (by omega)]
      · simp only [czero, List.filter, decide_eq_true hk, cget, hj, if_false]
        exact ih
    · have hd : decide (k < a ∨ a + n ≤ k) = false := by simpa using hk
      simp only [czero, List.filter, hd]
      rw [ih]
      by_cases hj : k = j
      · rw [if_pos (by omega), if_pos (by omega)]
      · simp [cget, hj]

@[simp] theorem tget_tdel_same {α : Type} (t : Tab α) (k : Nat) : tget (tdel t k) k = none := by
  induction t with
  | nil => rfl
  | cons e t ih =>
    obtain ⟨i, b⟩ := e
    by_cases h : i = k
    · subst h; simpa [tdel, List.filter] using ih
    · simpa [tdel, List.filter, h, tget] using ih

theorem tgetD_tdel {α : Type} (t : Tab α) (k j : Nat) (d : α) : tgetD (tdel t k) j d = if j = k then d else tgetD t j d := by
  unfold tgetD
  by_cases h : j = k
  · subst h; simp
  · rw [tget_tdel_other t k j h, if_neg h]

theorem tgetD_tset {α : Type} (t : Tab α) (k j : Nat) (a d : α) :
    tgetD (tset t k a) j d = if j = k then a else tgetD t j d := by
  simp only [tgetD, tget_tset]; split <;> rfl

@[simp] theorem tgetD_tset_same {α : Type} (t : Tab α) (k : Nat) (a d : α) : tgetD (tset t k a) k d = a := by
  simp [tgetD_tset]

end Sys2Proof.Machine
end

