-- ==== Sys2Proof/Laws/State.lean ====
section
/-! SUPPORT. Laws of the state's updates: one for each field of each update. -/

namespace Sys2Proof.Machine

@[simp] theorem State.putWave_agenda (s : State) (k : Nat) (x : Wave) : (s.putWave k x).agenda = s.agenda := rfl
@[simp] theorem State.putWave_arg (s : State) (k : Nat) (x : Wave) : (s.putWave k x).arg = s.arg := rfl
@[simp] theorem State.putWave_free (s : State) (k : Nat) (x : Wave) : (s.putWave k x).free = s.free := rfl
@[simp] theorem State.putWave_bg (s : State) (k : Nat) (x : Wave) : (s.putWave k x).bg = s.bg := rfl
@[simp] theorem State.putWave_cur (s : State) (k : Nat) (x : Wave) : (s.putWave k x).cur = s.cur := rfl
@[simp] theorem State.putWave_nextId (s : State) (k : Nat) (x : Wave) : (s.putWave k x).nextId = s.nextId := rfl
@[simp] theorem State.putWave_clock (s : State) (k : Nat) (x : Wave) : (s.putWave k x).clock = s.clock := rfl
@[simp] theorem State.putWave_waves (s : State) (k : Nat) (x : Wave) : (s.putWave k x).waves = tset s.waves k x := rfl
@[simp] theorem State.putWave_wgs (s : State) (k : Nat) (x : Wave) : (s.putWave k x).wgs = s.wgs := rfl
@[simp] theorem State.putWave_launches (s : State) (k : Nat) (x : Wave) : (s.putWave k x).launches = s.launches := rfl
@[simp] theorem State.putWave_ops (s : State) (k : Nat) (x : Wave) : (s.putWave k x).ops = s.ops := rfl
@[simp] theorem State.putWave_cores (s : State) (k : Nat) (x : Wave) : (s.putWave k x).cores = s.cores := rfl
@[simp] theorem State.putWave_mem (s : State) (k : Nat) (x : Wave) : (s.putWave k x).mem = s.mem := rfl
@[simp] theorem State.putWave_side (s : State) (k : Nat) (x : Wave) : (s.putWave k x).side = s.side := rfl
@[simp] theorem State.putWave_scrub (s : State) (k : Nat) (x : Wave) : (s.putWave k x).scrub = s.scrub := rfl
@[simp] theorem State.putWave_cache (s : State) (k : Nat) (x : Wave) : (s.putWave k x).cache = s.cache := rfl
@[simp] theorem State.putWave_unconf (s : State) (k : Nat) (x : Wave) : (s.putWave k x).unconf = s.unconf := rfl
@[simp] theorem State.putWave_rot (s : State) (k : Nat) (x : Wave) : (s.putWave k x).rot = s.rot := rfl
@[simp] theorem State.putWave_xl (s : State) (k : Nat) (x : Wave) : (s.putWave k x).xl = s.xl := rfl
@[simp] theorem State.putWave_worlds (s : State) (k : Nat) (x : Wave) : (s.putWave k x).worlds = s.worlds := rfl
@[simp] theorem State.putWave_queues (s : State) (k : Nat) (x : Wave) : (s.putWave k x).queues = s.queues := rfl
@[simp] theorem State.putWave_fab (s : State) (k : Nat) (x : Wave) : (s.putWave k x).fab = s.fab := rfl
@[simp] theorem State.putWave_host (s : State) (k : Nat) (x : Wave) : (s.putWave k x).host = s.host := rfl
@[simp] theorem State.putWave_plat (s : State) (k : Nat) (x : Wave) : (s.putWave k x).plat = s.plat := rfl

@[simp] theorem State.putCore_agenda (s : State) (k : Nat) (x : CoreSt) : (s.putCore k x).agenda = s.agenda := rfl
@[simp] theorem State.putCore_arg (s : State) (k : Nat) (x : CoreSt) : (s.putCore k x).arg = s.arg := rfl
@[simp] theorem State.putCore_free (s : State) (k : Nat) (x : CoreSt) : (s.putCore k x).free = s.free := rfl
@[simp] theorem State.putCore_bg (s : State) (k : Nat) (x : CoreSt) : (s.putCore k x).bg = s.bg := rfl
@[simp] theorem State.putCore_cur (s : State) (k : Nat) (x : CoreSt) : (s.putCore k x).cur = s.cur := rfl
@[simp] theorem State.putCore_nextId (s : State) (k : Nat) (x : CoreSt) : (s.putCore k x).nextId = s.nextId := rfl
@[simp] theorem State.putCore_clock (s : State) (k : Nat) (x : CoreSt) : (s.putCore k x).clock = s.clock := rfl
@[simp] theorem State.putCore_waves (s : State) (k : Nat) (x : CoreSt) : (s.putCore k x).waves = s.waves := rfl
@[simp] theorem State.putCore_wgs (s : State) (k : Nat) (x : CoreSt) : (s.putCore k x).wgs = s.wgs := rfl
@[simp] theorem State.putCore_launches (s : State) (k : Nat) (x : CoreSt) : (s.putCore k x).launches = s.launches := rfl
@[simp] theorem State.putCore_ops (s : State) (k : Nat) (x : CoreSt) : (s.putCore k x).ops = s.ops := rfl
@[simp] theorem State.putCore_cores (s : State) (k : Nat) (x : CoreSt) : (s.putCore k x).cores = tset s.cores k x := rfl
@[simp] theorem State.putCore_mem (s : State) (k : Nat) (x : CoreSt) : (s.putCore k x).mem = s.mem := rfl
@[simp] theorem State.putCore_side (s : State) (k : Nat) (x : CoreSt) : (s.putCore k x).side = s.side := rfl
@[simp] theorem State.putCore_scrub (s : State) (k : Nat) (x : CoreSt) : (s.putCore k x).scrub = s.scrub := rfl
@[simp] theorem State.putCore_cache (s : State) (k : Nat) (x : CoreSt) : (s.putCore k x).cache = s.cache := rfl
@[simp] theorem State.putCore_unconf (s : State) (k : Nat) (x : CoreSt) : (s.putCore k x).unconf = s.unconf := rfl
@[simp] theorem State.putCore_rot (s : State) (k : Nat) (x : CoreSt) : (s.putCore k x).rot = s.rot := rfl
@[simp] theorem State.putCore_xl (s : State) (k : Nat) (x : CoreSt) : (s.putCore k x).xl = s.xl := rfl
@[simp] theorem State.putCore_worlds (s : State) (k : Nat) (x : CoreSt) : (s.putCore k x).worlds = s.worlds := rfl
@[simp] theorem State.putCore_queues (s : State) (k : Nat) (x : CoreSt) : (s.putCore k x).queues = s.queues := rfl
@[simp] theorem State.putCore_fab (s : State) (k : Nat) (x : CoreSt) : (s.putCore k x).fab = s.fab := rfl
@[simp] theorem State.putCore_host (s : State) (k : Nat) (x : CoreSt) : (s.putCore k x).host = s.host := rfl
@[simp] theorem State.putCore_plat (s : State) (k : Nat) (x : CoreSt) : (s.putCore k x).plat = s.plat := rfl

@[simp] theorem State.putWorld_agenda (s : State) (k : Nat) (x : World) : (s.putWorld k x).agenda = s.agenda := rfl
@[simp] theorem State.putWorld_arg (s : State) (k : Nat) (x : World) : (s.putWorld k x).arg = s.arg := rfl
@[simp] theorem State.putWorld_free (s : State) (k : Nat) (x : World) : (s.putWorld k x).free = s.free := rfl
@[simp] theorem State.putWorld_bg (s : State) (k : Nat) (x : World) : (s.putWorld k x).bg = s.bg := rfl
@[simp] theorem State.putWorld_cur (s : State) (k : Nat) (x : World) : (s.putWorld k x).cur = s.cur := rfl
@[simp] theorem State.putWorld_nextId (s : State) (k : Nat) (x : World) : (s.putWorld k x).nextId = s.nextId := rfl
@[simp] theorem State.putWorld_clock (s : State) (k : Nat) (x : World) : (s.putWorld k x).clock = s.clock := rfl
@[simp] theorem State.putWorld_waves (s : State) (k : Nat) (x : World) : (s.putWorld k x).waves = s.waves := rfl
@[simp] theorem State.putWorld_wgs (s : State) (k : Nat) (x : World) : (s.putWorld k x).wgs = s.wgs := rfl
@[simp] theorem State.putWorld_launches (s : State) (k : Nat) (x : World) : (s.putWorld k x).launches = s.launches := rfl
@[simp] theorem State.putWorld_ops (s : State) (k : Nat) (x : World) : (s.putWorld k x).ops = s.ops := rfl
@[simp] theorem State.putWorld_cores (s : State) (k : Nat) (x : World) : (s.putWorld k x).cores = s.cores := rfl
@[simp] theorem State.putWorld_mem (s : State) (k : Nat) (x : World) : (s.putWorld k x).mem = s.mem := rfl
@[simp] theorem State.putWorld_side (s : State) (k : Nat) (x : World) : (s.putWorld k x).side = s.side := rfl
@[simp] theorem State.putWorld_scrub (s : State) (k : Nat) (x : World) : (s.putWorld k x).scrub = s.scrub := rfl
@[simp] theorem State.putWorld_cache (s : State) (k : Nat) (x : World) : (s.putWorld k x).cache = s.cache := rfl
@[simp] theorem State.putWorld_unconf (s : State) (k : Nat) (x : World) : (s.putWorld k x).unconf = s.unconf := rfl
@[simp] theorem State.putWorld_rot (s : State) (k : Nat) (x : World) : (s.putWorld k x).rot = s.rot := rfl
@[simp] theorem State.putWorld_xl (s : State) (k : Nat) (x : World) : (s.putWorld k x).xl = s.xl := rfl
@[simp] theorem State.putWorld_worlds (s : State) (k : Nat) (x : World) : (s.putWorld k x).worlds = tset s.worlds k x := rfl
@[simp] theorem State.putWorld_queues (s : State) (k : Nat) (x : World) : (s.putWorld k x).queues = s.queues := rfl
@[simp] theorem State.putWorld_fab (s : State) (k : Nat) (x : World) : (s.putWorld k x).fab = s.fab := rfl
@[simp] theorem State.putWorld_host (s : State) (k : Nat) (x : World) : (s.putWorld k x).host = s.host := rfl
@[simp] theorem State.putWorld_plat (s : State) (k : Nat) (x : World) : (s.putWorld k x).plat = s.plat := rfl

@[simp] theorem State.putQueue_agenda (s : State) (k : Nat) (x : Queue) : (s.putQueue k x).agenda = s.agenda := rfl
@[simp] theorem State.putQueue_arg (s : State) (k : Nat) (x : Queue) : (s.putQueue k x).arg = s.arg := rfl
@[simp] theorem State.putQueue_free (s : State) (k : Nat) (x : Queue) : (s.putQueue k x).free = s.free := rfl
@[simp] theorem State.putQueue_bg (s : State) (k : Nat) (x : Queue) : (s.putQueue k x).bg = s.bg := rfl
@[simp] theorem State.putQueue_cur (s : State) (k : Nat) (x : Queue) : (s.putQueue k x).cur = s.cur := rfl
@[simp] theorem State.putQueue_nextId (s : State) (k : Nat) (x : Queue) : (s.putQueue k x).nextId = s.nextId := rfl
@[simp] theorem State.putQueue_clock (s : State) (k : Nat) (x : Queue) : (s.putQueue k x).clock = s.clock := rfl
@[simp] theorem State.putQueue_waves (s : State) (k : Nat) (x : Queue) : (s.putQueue k x).waves = s.waves := rfl
@[simp] theorem State.putQueue_wgs (s : State) (k : Nat) (x : Queue) : (s.putQueue k x).wgs = s.wgs := rfl
@[simp] theorem State.putQueue_launches (s : State) (k : Nat) (x : Queue) : (s.putQueue k x).launches = s.launches := rfl
@[simp] theorem State.putQueue_ops (s : State) (k : Nat) (x : Queue) : (s.putQueue k x).ops = s.ops := rfl
@[simp] theorem State.putQueue_cores (s : State) (k : Nat) (x : Queue) : (s.putQueue k x).cores = s.cores := rfl
@[simp] theorem State.putQueue_mem (s : State) (k : Nat) (x : Queue) : (s.putQueue k x).mem = s.mem := rfl
@[simp] theorem State.putQueue_side (s : State) (k : Nat) (x : Queue) : (s.putQueue k x).side = s.side := rfl
@[simp] theorem State.putQueue_scrub (s : State) (k : Nat) (x : Queue) : (s.putQueue k x).scrub = s.scrub := rfl
@[simp] theorem State.putQueue_cache (s : State) (k : Nat) (x : Queue) : (s.putQueue k x).cache = s.cache := rfl
@[simp] theorem State.putQueue_unconf (s : State) (k : Nat) (x : Queue) : (s.putQueue k x).unconf = s.unconf := rfl
@[simp] theorem State.putQueue_rot (s : State) (k : Nat) (x : Queue) : (s.putQueue k x).rot = s.rot := rfl
@[simp] theorem State.putQueue_xl (s : State) (k : Nat) (x : Queue) : (s.putQueue k x).xl = s.xl := rfl
@[simp] theorem State.putQueue_worlds (s : State) (k : Nat) (x : Queue) : (s.putQueue k x).worlds = s.worlds := rfl
@[simp] theorem State.putQueue_queues (s : State) (k : Nat) (x : Queue) : (s.putQueue k x).queues = tset s.queues k x := rfl
@[simp] theorem State.putQueue_fab (s : State) (k : Nat) (x : Queue) : (s.putQueue k x).fab = s.fab := rfl
@[simp] theorem State.putQueue_host (s : State) (k : Nat) (x : Queue) : (s.putQueue k x).host = s.host := rfl
@[simp] theorem State.putQueue_plat (s : State) (k : Nat) (x : Queue) : (s.putQueue k x).plat = s.plat := rfl

@[simp] theorem State.putRot_agenda (s : State) (k : Nat) (x : RotEnt) : (s.putRot k x).agenda = s.agenda := rfl
@[simp] theorem State.putRot_arg (s : State) (k : Nat) (x : RotEnt) : (s.putRot k x).arg = s.arg := rfl
@[simp] theorem State.putRot_free (s : State) (k : Nat) (x : RotEnt) : (s.putRot k x).free = s.free := rfl
@[simp] theorem State.putRot_bg (s : State) (k : Nat) (x : RotEnt) : (s.putRot k x).bg = s.bg := rfl
@[simp] theorem State.putRot_cur (s : State) (k : Nat) (x : RotEnt) : (s.putRot k x).cur = s.cur := rfl
@[simp] theorem State.putRot_nextId (s : State) (k : Nat) (x : RotEnt) : (s.putRot k x).nextId = s.nextId := rfl
@[simp] theorem State.putRot_clock (s : State) (k : Nat) (x : RotEnt) : (s.putRot k x).clock = s.clock := rfl
@[simp] theorem State.putRot_waves (s : State) (k : Nat) (x : RotEnt) : (s.putRot k x).waves = s.waves := rfl
@[simp] theorem State.putRot_wgs (s : State) (k : Nat) (x : RotEnt) : (s.putRot k x).wgs = s.wgs := rfl
@[simp] theorem State.putRot_launches (s : State) (k : Nat) (x : RotEnt) : (s.putRot k x).launches = s.launches := rfl
@[simp] theorem State.putRot_ops (s : State) (k : Nat) (x : RotEnt) : (s.putRot k x).ops = s.ops := rfl
@[simp] theorem State.putRot_cores (s : State) (k : Nat) (x : RotEnt) : (s.putRot k x).cores = s.cores := rfl
@[simp] theorem State.putRot_mem (s : State) (k : Nat) (x : RotEnt) : (s.putRot k x).mem = s.mem := rfl
@[simp] theorem State.putRot_side (s : State) (k : Nat) (x : RotEnt) : (s.putRot k x).side = s.side := rfl
@[simp] theorem State.putRot_scrub (s : State) (k : Nat) (x : RotEnt) : (s.putRot k x).scrub = s.scrub := rfl
@[simp] theorem State.putRot_cache (s : State) (k : Nat) (x : RotEnt) : (s.putRot k x).cache = s.cache := rfl
@[simp] theorem State.putRot_unconf (s : State) (k : Nat) (x : RotEnt) : (s.putRot k x).unconf = s.unconf := rfl
@[simp] theorem State.putRot_rot (s : State) (k : Nat) (x : RotEnt) : (s.putRot k x).rot = tset s.rot k x := rfl
@[simp] theorem State.putRot_xl (s : State) (k : Nat) (x : RotEnt) : (s.putRot k x).xl = s.xl := rfl
@[simp] theorem State.putRot_worlds (s : State) (k : Nat) (x : RotEnt) : (s.putRot k x).worlds = s.worlds := rfl
@[simp] theorem State.putRot_queues (s : State) (k : Nat) (x : RotEnt) : (s.putRot k x).queues = s.queues := rfl
@[simp] theorem State.putRot_fab (s : State) (k : Nat) (x : RotEnt) : (s.putRot k x).fab = s.fab := rfl
@[simp] theorem State.putRot_host (s : State) (k : Nat) (x : RotEnt) : (s.putRot k x).host = s.host := rfl
@[simp] theorem State.putRot_plat (s : State) (k : Nat) (x : RotEnt) : (s.putRot k x).plat = s.plat := rfl

@[simp] theorem State.putWg_agenda (s : State) (k : Nat) (x : Wg) : (s.putWg k x).agenda = s.agenda := rfl
@[simp] theorem State.putWg_arg (s : State) (k : Nat) (x : Wg) : (s.putWg k x).arg = s.arg := rfl
@[simp] theorem State.putWg_free (s : State) (k : Nat) (x : Wg) : (s.putWg k x).free = s.free := rfl
@[simp] theorem State.putWg_bg (s : State) (k : Nat) (x : Wg) : (s.putWg k x).bg = s.bg := rfl
@[simp] theorem State.putWg_cur (s : State) (k : Nat) (x : Wg) : (s.putWg k x).cur = s.cur := rfl
@[simp] theorem State.putWg_nextId (s : State) (k : Nat) (x : Wg) : (s.putWg k x).nextId = s.nextId := rfl
@[simp] theorem State.putWg_clock (s : State) (k : Nat) (x : Wg) : (s.putWg k x).clock = s.clock := rfl
@[simp] theorem State.putWg_waves (s : State) (k : Nat) (x : Wg) : (s.putWg k x).waves = s.waves := rfl
@[simp] theorem State.putWg_wgs (s : State) (k : Nat) (x : Wg) : (s.putWg k x).wgs = tset s.wgs k x := rfl
@[simp] theorem State.putWg_launches (s : State) (k : Nat) (x : Wg) : (s.putWg k x).launches = s.launches := rfl
@[simp] theorem State.putWg_ops (s : State) (k : Nat) (x : Wg) : (s.putWg k x).ops = s.ops := rfl
@[simp] theorem State.putWg_cores (s : State) (k : Nat) (x : Wg) : (s.putWg k x).cores = s.cores := rfl
@[simp] theorem State.putWg_mem (s : State) (k : Nat) (x : Wg) : (s.putWg k x).mem = s.mem := rfl
@[simp] theorem State.putWg_side (s : State) (k : Nat) (x : Wg) : (s.putWg k x).side = s.side := rfl
@[simp] theorem State.putWg_scrub (s : State) (k : Nat) (x : Wg) : (s.putWg k x).scrub = s.scrub := rfl
@[simp] theorem State.putWg_cache (s : State) (k : Nat) (x : Wg) : (s.putWg k x).cache = s.cache := rfl
@[simp] theorem State.putWg_unconf (s : State) (k : Nat) (x : Wg) : (s.putWg k x).unconf = s.unconf := rfl
@[simp] theorem State.putWg_rot (s : State) (k : Nat) (x : Wg) : (s.putWg k x).rot = s.rot := rfl
@[simp] theorem State.putWg_xl (s : State) (k : Nat) (x : Wg) : (s.putWg k x).xl = s.xl := rfl
@[simp] theorem State.putWg_worlds (s : State) (k : Nat) (x : Wg) : (s.putWg k x).worlds = s.worlds := rfl
@[simp] theorem State.putWg_queues (s : State) (k : Nat) (x : Wg) : (s.putWg k x).queues = s.queues := rfl
@[simp] theorem State.putWg_fab (s : State) (k : Nat) (x : Wg) : (s.putWg k x).fab = s.fab := rfl
@[simp] theorem State.putWg_host (s : State) (k : Nat) (x : Wg) : (s.putWg k x).host = s.host := rfl
@[simp] theorem State.putWg_plat (s : State) (k : Nat) (x : Wg) : (s.putWg k x).plat = s.plat := rfl

@[simp] theorem State.putLaunch_agenda (s : State) (k : Nat) (x : Launch) : (s.putLaunch k x).agenda = s.agenda := rfl
@[simp] theorem State.putLaunch_arg (s : State) (k : Nat) (x : Launch) : (s.putLaunch k x).arg = s.arg := rfl
@[simp] theorem State.putLaunch_free (s : State) (k : Nat) (x : Launch) : (s.putLaunch k x).free = s.free := rfl
@[simp] theorem State.putLaunch_bg (s : State) (k : Nat) (x : Launch) : (s.putLaunch k x).bg = s.bg := rfl
@[simp] theorem State.putLaunch_cur (s : State) (k : Nat) (x : Launch) : (s.putLaunch k x).cur = s.cur := rfl
@[simp] theorem State.putLaunch_nextId (s : State) (k : Nat) (x : Launch) : (s.putLaunch k x).nextId = s.nextId := rfl
@[simp] theorem State.putLaunch_clock (s : State) (k : Nat) (x : Launch) : (s.putLaunch k x).clock = s.clock := rfl
@[simp] theorem State.putLaunch_waves (s : State) (k : Nat) (x : Launch) : (s.putLaunch k x).waves = s.waves := rfl
@[simp] theorem State.putLaunch_wgs (s : State) (k : Nat) (x : Launch) : (s.putLaunch k x).wgs = s.wgs := rfl
@[simp] theorem State.putLaunch_launches (s : State) (k : Nat) (x : Launch) : (s.putLaunch k x).launches = tset s.launches k x := rfl
@[simp] theorem State.putLaunch_ops (s : State) (k : Nat) (x : Launch) : (s.putLaunch k x).ops = s.ops := rfl
@[simp] theorem State.putLaunch_cores (s : State) (k : Nat) (x : Launch) : (s.putLaunch k x).cores = s.cores := rfl
@[simp] theorem State.putLaunch_mem (s : State) (k : Nat) (x : Launch) : (s.putLaunch k x).mem = s.mem := rfl
@[simp] theorem State.putLaunch_side (s : State) (k : Nat) (x : Launch) : (s.putLaunch k x).side = s.side := rfl
@[simp] theorem State.putLaunch_scrub (s : State) (k : Nat) (x : Launch) : (s.putLaunch k x).scrub = s.scrub := rfl
@[simp] theorem State.putLaunch_cache (s : State) (k : Nat) (x : Launch) : (s.putLaunch k x).cache = s.cache := rfl
@[simp] theorem State.putLaunch_unconf (s : State) (k : Nat) (x : Launch) : (s.putLaunch k x).unconf = s.unconf := rfl
@[simp] theorem State.putLaunch_rot (s : State) (k : Nat) (x : Launch) : (s.putLaunch k x).rot = s.rot := rfl
@[simp] theorem State.putLaunch_xl (s : State) (k : Nat) (x : Launch) : (s.putLaunch k x).xl = s.xl := rfl
@[simp] theorem State.putLaunch_worlds (s : State) (k : Nat) (x : Launch) : (s.putLaunch k x).worlds = s.worlds := rfl
@[simp] theorem State.putLaunch_queues (s : State) (k : Nat) (x : Launch) : (s.putLaunch k x).queues = s.queues := rfl
@[simp] theorem State.putLaunch_fab (s : State) (k : Nat) (x : Launch) : (s.putLaunch k x).fab = s.fab := rfl
@[simp] theorem State.putLaunch_host (s : State) (k : Nat) (x : Launch) : (s.putLaunch k x).host = s.host := rfl
@[simp] theorem State.putLaunch_plat (s : State) (k : Nat) (x : Launch) : (s.putLaunch k x).plat = s.plat := rfl

@[simp] theorem State.putOp_agenda (s : State) (k : Nat) (x : EngOp) : (s.putOp k x).agenda = s.agenda := rfl
@[simp] theorem State.putOp_arg (s : State) (k : Nat) (x : EngOp) : (s.putOp k x).arg = s.arg := rfl
@[simp] theorem State.putOp_free (s : State) (k : Nat) (x : EngOp) : (s.putOp k x).free = s.free := rfl
@[simp] theorem State.putOp_bg (s : State) (k : Nat) (x : EngOp) : (s.putOp k x).bg = s.bg := rfl
@[simp] theorem State.putOp_cur (s : State) (k : Nat) (x : EngOp) : (s.putOp k x).cur = s.cur := rfl
@[simp] theorem State.putOp_nextId (s : State) (k : Nat) (x : EngOp) : (s.putOp k x).nextId = s.nextId := rfl
@[simp] theorem State.putOp_clock (s : State) (k : Nat) (x : EngOp) : (s.putOp k x).clock = s.clock := rfl
@[simp] theorem State.putOp_waves (s : State) (k : Nat) (x : EngOp) : (s.putOp k x).waves = s.waves := rfl
@[simp] theorem State.putOp_wgs (s : State) (k : Nat) (x : EngOp) : (s.putOp k x).wgs = s.wgs := rfl
@[simp] theorem State.putOp_launches (s : State) (k : Nat) (x : EngOp) : (s.putOp k x).launches = s.launches := rfl
@[simp] theorem State.putOp_ops (s : State) (k : Nat) (x : EngOp) : (s.putOp k x).ops = tset s.ops k x := rfl
@[simp] theorem State.putOp_cores (s : State) (k : Nat) (x : EngOp) : (s.putOp k x).cores = s.cores := rfl
@[simp] theorem State.putOp_mem (s : State) (k : Nat) (x : EngOp) : (s.putOp k x).mem = s.mem := rfl
@[simp] theorem State.putOp_side (s : State) (k : Nat) (x : EngOp) : (s.putOp k x).side = s.side := rfl
@[simp] theorem State.putOp_scrub (s : State) (k : Nat) (x : EngOp) : (s.putOp k x).scrub = s.scrub := rfl
@[simp] theorem State.putOp_cache (s : State) (k : Nat) (x : EngOp) : (s.putOp k x).cache = s.cache := rfl
@[simp] theorem State.putOp_unconf (s : State) (k : Nat) (x : EngOp) : (s.putOp k x).unconf = s.unconf := rfl
@[simp] theorem State.putOp_rot (s : State) (k : Nat) (x : EngOp) : (s.putOp k x).rot = s.rot := rfl
@[simp] theorem State.putOp_xl (s : State) (k : Nat) (x : EngOp) : (s.putOp k x).xl = s.xl := rfl
@[simp] theorem State.putOp_worlds (s : State) (k : Nat) (x : EngOp) : (s.putOp k x).worlds = s.worlds := rfl
@[simp] theorem State.putOp_queues (s : State) (k : Nat) (x : EngOp) : (s.putOp k x).queues = s.queues := rfl
@[simp] theorem State.putOp_fab (s : State) (k : Nat) (x : EngOp) : (s.putOp k x).fab = s.fab := rfl
@[simp] theorem State.putOp_host (s : State) (k : Nat) (x : EngOp) : (s.putOp k x).host = s.host := rfl
@[simp] theorem State.putOp_plat (s : State) (k : Nat) (x : EngOp) : (s.putOp k x).plat = s.plat := rfl

@[simp] theorem State.putSide_agenda (s : State) (k : Nat) (x : Side) : (s.putSide k x).agenda = s.agenda := rfl
@[simp] theorem State.putSide_arg (s : State) (k : Nat) (x : Side) : (s.putSide k x).arg = s.arg := rfl
@[simp] theorem State.putSide_free (s : State) (k : Nat) (x : Side) : (s.putSide k x).free = s.free := rfl
@[simp] theorem State.putSide_bg (s : State) (k : Nat) (x : Side) : (s.putSide k x).bg = s.bg := rfl
@[simp] theorem State.putSide_cur (s : State) (k : Nat) (x : Side) : (s.putSide k x).cur = s.cur := rfl
@[simp] theorem State.putSide_nextId (s : State) (k : Nat) (x : Side) : (s.putSide k x).nextId = s.nextId := rfl
@[simp] theorem State.putSide_clock (s : State) (k : Nat) (x : Side) : (s.putSide k x).clock = s.clock := rfl
@[simp] theorem State.putSide_waves (s : State) (k : Nat) (x : Side) : (s.putSide k x).waves = s.waves := rfl
@[simp] theorem State.putSide_wgs (s : State) (k : Nat) (x : Side) : (s.putSide k x).wgs = s.wgs := rfl
@[simp] theorem State.putSide_launches (s : State) (k : Nat) (x : Side) : (s.putSide k x).launches = s.launches := rfl
@[simp] theorem State.putSide_ops (s : State) (k : Nat) (x : Side) : (s.putSide k x).ops = s.ops := rfl
@[simp] theorem State.putSide_cores (s : State) (k : Nat) (x : Side) : (s.putSide k x).cores = s.cores := rfl
@[simp] theorem State.putSide_mem (s : State) (k : Nat) (x : Side) : (s.putSide k x).mem = s.mem := rfl
@[simp] theorem State.putSide_side (s : State) (k : Nat) (x : Side) : (s.putSide k x).side = tset s.side k x := rfl
@[simp] theorem State.putSide_scrub (s : State) (k : Nat) (x : Side) : (s.putSide k x).scrub = s.scrub := rfl
@[simp] theorem State.putSide_cache (s : State) (k : Nat) (x : Side) : (s.putSide k x).cache = s.cache := rfl
@[simp] theorem State.putSide_unconf (s : State) (k : Nat) (x : Side) : (s.putSide k x).unconf = s.unconf := rfl
@[simp] theorem State.putSide_rot (s : State) (k : Nat) (x : Side) : (s.putSide k x).rot = s.rot := rfl
@[simp] theorem State.putSide_xl (s : State) (k : Nat) (x : Side) : (s.putSide k x).xl = s.xl := rfl
@[simp] theorem State.putSide_worlds (s : State) (k : Nat) (x : Side) : (s.putSide k x).worlds = s.worlds := rfl
@[simp] theorem State.putSide_queues (s : State) (k : Nat) (x : Side) : (s.putSide k x).queues = s.queues := rfl
@[simp] theorem State.putSide_fab (s : State) (k : Nat) (x : Side) : (s.putSide k x).fab = s.fab := rfl
@[simp] theorem State.putSide_host (s : State) (k : Nat) (x : Side) : (s.putSide k x).host = s.host := rfl
@[simp] theorem State.putSide_plat (s : State) (k : Nat) (x : Side) : (s.putSide k x).plat = s.plat := rfl

@[simp] theorem State.bump_agenda (s : State) : (s.bump).agenda = s.agenda := rfl
@[simp] theorem State.bump_arg (s : State) : (s.bump).arg = s.arg := rfl
@[simp] theorem State.bump_free (s : State) : (s.bump).free = s.free := rfl
@[simp] theorem State.bump_bg (s : State) : (s.bump).bg = s.bg := rfl
@[simp] theorem State.bump_cur (s : State) : (s.bump).cur = s.cur := rfl
@[simp] theorem State.bump_nextId (s : State) : (s.bump).nextId = s.nextId + 1 := rfl
@[simp] theorem State.bump_clock (s : State) : (s.bump).clock = s.clock := rfl
@[simp] theorem State.bump_waves (s : State) : (s.bump).waves = s.waves := rfl
@[simp] theorem State.bump_wgs (s : State) : (s.bump).wgs = s.wgs := rfl
@[simp] theorem State.bump_launches (s : State) : (s.bump).launches = s.launches := rfl
@[simp] theorem State.bump_ops (s : State) : (s.bump).ops = s.ops := rfl
@[simp] theorem State.bump_cores (s : State) : (s.bump).cores = s.cores := rfl
@[simp] theorem State.bump_mem (s : State) : (s.bump).mem = s.mem := rfl
@[simp] theorem State.bump_side (s : State) : (s.bump).side = s.side := rfl
@[simp] theorem State.bump_scrub (s : State) : (s.bump).scrub = s.scrub := rfl
@[simp] theorem State.bump_cache (s : State) : (s.bump).cache = s.cache := rfl
@[simp] theorem State.bump_unconf (s : State) : (s.bump).unconf = s.unconf := rfl
@[simp] theorem State.bump_rot (s : State) : (s.bump).rot = s.rot := rfl
@[simp] theorem State.bump_xl (s : State) : (s.bump).xl = s.xl := rfl
@[simp] theorem State.bump_worlds (s : State) : (s.bump).worlds = s.worlds := rfl
@[simp] theorem State.bump_queues (s : State) : (s.bump).queues = s.queues := rfl
@[simp] theorem State.bump_fab (s : State) : (s.bump).fab = s.fab := rfl
@[simp] theorem State.bump_host (s : State) : (s.bump).host = s.host := rfl
@[simp] theorem State.bump_plat (s : State) : (s.bump).plat = s.plat := rfl

@[simp] theorem State.draw_agenda (s : State) (n : Nat) : (s.draw n).agenda = s.agenda := rfl
@[simp] theorem State.draw_arg (s : State) (n : Nat) : (s.draw n).arg = s.arg := rfl
@[simp] theorem State.draw_free (s : State) (n : Nat) : (s.draw n).free = s.free + n := rfl
@[simp] theorem State.draw_bg (s : State) (n : Nat) : (s.draw n).bg = s.bg := rfl
@[simp] theorem State.draw_cur (s : State) (n : Nat) : (s.draw n).cur = s.cur := rfl
@[simp] theorem State.draw_nextId (s : State) (n : Nat) : (s.draw n).nextId = s.nextId := rfl
@[simp] theorem State.draw_clock (s : State) (n : Nat) : (s.draw n).clock = s.clock := rfl
@[simp] theorem State.draw_waves (s : State) (n : Nat) : (s.draw n).waves = s.waves := rfl
@[simp] theorem State.draw_wgs (s : State) (n : Nat) : (s.draw n).wgs = s.wgs := rfl
@[simp] theorem State.draw_launches (s : State) (n : Nat) : (s.draw n).launches = s.launches := rfl
@[simp] theorem State.draw_ops (s : State) (n : Nat) : (s.draw n).ops = s.ops := rfl
@[simp] theorem State.draw_cores (s : State) (n : Nat) : (s.draw n).cores = s.cores := rfl
@[simp] theorem State.draw_mem (s : State) (n : Nat) : (s.draw n).mem = s.mem := rfl
@[simp] theorem State.draw_side (s : State) (n : Nat) : (s.draw n).side = s.side := rfl
@[simp] theorem State.draw_scrub (s : State) (n : Nat) : (s.draw n).scrub = s.scrub := rfl
@[simp] theorem State.draw_cache (s : State) (n : Nat) : (s.draw n).cache = s.cache := rfl
@[simp] theorem State.draw_unconf (s : State) (n : Nat) : (s.draw n).unconf = s.unconf := rfl
@[simp] theorem State.draw_rot (s : State) (n : Nat) : (s.draw n).rot = s.rot := rfl
@[simp] theorem State.draw_xl (s : State) (n : Nat) : (s.draw n).xl = s.xl := rfl
@[simp] theorem State.draw_worlds (s : State) (n : Nat) : (s.draw n).worlds = s.worlds := rfl
@[simp] theorem State.draw_queues (s : State) (n : Nat) : (s.draw n).queues = s.queues := rfl
@[simp] theorem State.draw_fab (s : State) (n : Nat) : (s.draw n).fab = s.fab := rfl
@[simp] theorem State.draw_host (s : State) (n : Nat) : (s.draw n).host = s.host := rfl
@[simp] theorem State.draw_plat (s : State) (n : Nat) : (s.draw n).plat = s.plat := rfl

@[simp] theorem State.putStack_agenda (s : State) (k : Nat) (x : Stack) : (s.putStack k x).agenda = s.agenda := rfl
@[simp] theorem State.putStack_arg (s : State) (k : Nat) (x : Stack) : (s.putStack k x).arg = s.arg := rfl
@[simp] theorem State.putStack_free (s : State) (k : Nat) (x : Stack) : (s.putStack k x).free = s.free := rfl
@[simp] theorem State.putStack_bg (s : State) (k : Nat) (x : Stack) : (s.putStack k x).bg = s.bg := rfl
@[simp] theorem State.putStack_cur (s : State) (k : Nat) (x : Stack) : (s.putStack k x).cur = s.cur := rfl
@[simp] theorem State.putStack_nextId (s : State) (k : Nat) (x : Stack) : (s.putStack k x).nextId = s.nextId := rfl
@[simp] theorem State.putStack_clock (s : State) (k : Nat) (x : Stack) : (s.putStack k x).clock = s.clock := rfl
@[simp] theorem State.putStack_waves (s : State) (k : Nat) (x : Stack) : (s.putStack k x).waves = s.waves := rfl
@[simp] theorem State.putStack_wgs (s : State) (k : Nat) (x : Stack) : (s.putStack k x).wgs = s.wgs := rfl
@[simp] theorem State.putStack_launches (s : State) (k : Nat) (x : Stack) : (s.putStack k x).launches = s.launches := rfl
@[simp] theorem State.putStack_ops (s : State) (k : Nat) (x : Stack) : (s.putStack k x).ops = s.ops := rfl
@[simp] theorem State.putStack_cores (s : State) (k : Nat) (x : Stack) : (s.putStack k x).cores = s.cores := rfl
@[simp] theorem State.putStack_mem (s : State) (k : Nat) (x : Stack) : (s.putStack k x).mem = s.mem := rfl
@[simp] theorem State.putStack_side (s : State) (k : Nat) (x : Stack) : (s.putStack k x).side = s.side := rfl
@[simp] theorem State.putStack_scrub (s : State) (k : Nat) (x : Stack) : (s.putStack k x).scrub = s.scrub := rfl
@[simp] theorem State.putStack_cache (s : State) (k : Nat) (x : Stack) : (s.putStack k x).cache = s.cache := rfl
@[simp] theorem State.putStack_unconf (s : State) (k : Nat) (x : Stack) : (s.putStack k x).unconf = s.unconf := rfl
@[simp] theorem State.putStack_rot (s : State) (k : Nat) (x : Stack) : (s.putStack k x).rot = s.rot := rfl
@[simp] theorem State.putStack_xl (s : State) (k : Nat) (x : Stack) : (s.putStack k x).xl = s.xl := rfl
@[simp] theorem State.putStack_worlds (s : State) (k : Nat) (x : Stack) : (s.putStack k x).worlds = s.worlds := rfl
@[simp] theorem State.putStack_queues (s : State) (k : Nat) (x : Stack) : (s.putStack k x).queues = s.queues := rfl
@[simp] theorem State.putStack_fab (s : State) (k : Nat) (x : Stack) : (s.putStack k x).fab = s.fab := rfl
@[simp] theorem State.putStack_host (s : State) (k : Nat) (x : Stack) : (s.putStack k x).host = s.host := rfl
@[simp] theorem State.putStack_plat (s : State) (k : Nat) (x : Stack) : (s.putStack k x).plat = { s.plat with dram := tset s.plat.dram k x } := rfl

theorem State.core_putCore (s : State) (k j : Nat) (x : CoreSt) :
    (s.putCore k x).core j = if j = k then x else s.core j := by
  unfold State.core tgetD
  rw [State.putCore_cores, tget_tset]
  split <;> rfl

theorem State.world_putWorld (s : State) (k j : Nat) (x : World) :
    (s.putWorld k x).world j = if j = k then x else s.world j := by
  unfold State.world tgetD
  rw [State.putWorld_worlds, tget_tset]
  split <;> rfl

theorem State.queue_putQueue (s : State) (k j : Nat) (x : Queue) :
    (s.putQueue k x).queue j = if j = k then x else s.queue j := by
  unfold State.queue tgetD
  rw [State.putQueue_queues, tget_tset]
  split <;> rfl

theorem State.rotAt_putRot (s : State) (k j : Nat) (x : RotEnt) :
    (s.putRot k x).rotAt j = if j = k then x else s.rotAt j := by
  unfold State.rotAt tgetD
  rw [State.putRot_rot, tget_tset]
  split <;> rfl

/-- Updating a wave changes nothing but the table of waves. -/
theorem State.updWave_eq (s : State) (id : Nat) (f : Wave → Wave) :
    s.updWave id f = { s with waves := (s.updWave id f).waves } := by
  unfold State.updWave
  split <;> rfl

@[simp] theorem State.updWave_mem (s : State) (id : Nat) (f : Wave → Wave) : (s.updWave id f).mem = s.mem := by
  rw [State.updWave_eq]

/-- A RAS record changes nothing but the platform. -/
theorem State.ras_eq (s : State) (type unit loc addr : Nat) :
    s.ras type unit loc addr = { s with plat := (s.ras type unit loc addr).plat } := by
  unfold State.ras
  extract_lets
  split <;> rfl

@[simp] theorem State.ras_mem (s : State) (type unit loc addr : Nat) : (s.ras type unit loc addr).mem = s.mem := by
  rw [State.ras_eq]

@[simp] theorem State.rasLine_mem (s : State) (type line : Nat) : (s.rasLine type line).mem = s.mem :=
  State.ras_mem ..

@[simp] theorem State.touch_mem (s : State) (core : Nat) : (s.touch core).mem = s.mem := rfl

@[simp] theorem State.quit_mem (s : State) (core id : Nat) : (s.quit core id).mem = s.mem := rfl

end Sys2Proof.Machine
end

