-- ==== Sys2Proof/Laws/Issue.lean ====
section
/-! SUPPORT. Laws of the driver: what an instruction does once its decode and register-state steps have passed, what
it raises where they have not, and that the operations of the frontier and of conditions leave memory as it is. -/

namespace Sys2Proof.Machine

/-- An instruction whose earlier steps pass does what its act says. -/
theorem issueState_ready (i : Instr) (s : State) (act : Wave → Mask → State → Act) (w : Wave)
    (hw : s.curWave = some w) (hs : w.status = .slot) (hb : w.bundle ≠ none)
    (hp : privileged i = true → w.sup = true) (hf : fieldsOk i = true)
    (hn : fieldsFit w.nv w.firstFrontier i = true) (hr : regState w.regs (w.active i) (regSlots i) = .full)
    (hg : badLane w.regs (predOf i) w.bundleMask (w.active i) (regSlots i) = none) :
    issueState i s act = match act w (w.active i) s with
      | .done s' => s'.advance s.cur
      | .stay s' => s'.stall s.cur
      | .raise r s' => s'.deliver s.cur (tgetD s'.waves s.cur w) r
      | .jump s' => s' := by
  have h1 : ¬ (w.status ≠ .slot ∨ w.bundle = none) := by simp [hs, hb]
  have h2 : (privileged i && !w.sup) = false := by
    cases h : privileged i
    · rfl
    · simp [hp h]
  have h3 : (!(fieldsOk i && fieldsFit w.nv w.firstFrontier i)) = false := by simp [hf, hn]
  simp only [issueState, hw, h1, h2, h3, hr, if_false, Bool.false_eq_true, ite_self, hg]
  cases act w (w.active i) s <;> rfl

/-- An ordinary wave has no effect from a privileged instruction (R224). -/
theorem issueState_privilege (i : Instr) (s : State) (act : Wave → Mask → State → Act) (w : Wave)
    (hw : s.curWave = some w) (hs : w.status = .slot) (hb : w.bundle ≠ none)
    (hp : privileged i = true) (hu : w.sup = false) :
    issueState i s act = s.deliver s.cur w (w.mkRec cPrivilege stDecode (Mask.first w.bundleMask)) := by
  have h1 : ¬ (w.status ≠ .slot ∨ w.bundle = none) := by simp [hs, hb]
  simp [issueState, hw, h1, hp, hu]

/-- Fields that hold no allowed value raise RESERVED_FIELD (R219). -/
theorem issueState_reserved (i : Instr) (s : State) (act : Wave → Mask → State → Act) (w : Wave)
    (hw : s.curWave = some w) (hs : w.status = .slot) (hb : w.bundle ≠ none)
    (hp : privileged i = true → w.sup = true)
    (hf : (fieldsOk i && fieldsFit w.nv w.firstFrontier i) = false) :
    issueState i s act = s.deliver s.cur w (w.mkRec cReserved stDecode (Mask.first w.bundleMask)) := by
  have h1 : ¬ (w.status ≠ .slot ∨ w.bundle = none) := by simp [hs, hb]
  have h2 : (privileged i && !w.sup) = false := by
    cases h : privileged i
    · rfl
    · simp [hp h]
  simp [issueState, hw, h1, h2, hf]

/-! ### Memory stays as it is -/

@[simp] theorem State.stall_mem (s : State) (id : Nat) : (s.stall id).mem = s.mem := State.updWave_mem ..

@[simp] theorem State.endStep_mem (s : State) (id : Nat) (w : Wave) : (s.endStep id w).mem = s.mem := by
  unfold State.endStep
  extract_lets
  split <;> rfl

@[simp] theorem State.letBy_mem (s : State) (id : Nat) (w : Wave) : (s.letBy id w).mem = s.mem := by
  unfold State.letBy
  split <;> rfl

@[simp] theorem State.standBy_mem (s : State) (id : Nat) (w : Wave) : (s.standBy id w).mem = s.mem := by
  unfold State.standBy
  split
  · split <;> rfl
  · rfl

@[simp] theorem State.turnAside_mem (s : State) (id : Nat) (w : Wave) : (s.turnAside id w).mem = s.mem := by
  unfold State.turnAside
  split <;> rfl

@[simp] theorem State.post_mem (s : State) (world : Nat) (p : Post) : (s.post world p).mem = s.mem := rfl

@[simp] theorem State.finishLeave_mem (s : State) (id : Nat) (w : Wave) (why : Leave) :
    (s.finishLeave id w why).mem = s.mem := by
  cases why <;> simp only [State.finishLeave] <;> try rfl
  split <;> rfl

@[simp] theorem State.leave_mem (s : State) (id : Nat) (w : Wave) (why : Leave) : (s.leave id w why).mem = s.mem := by
  unfold State.leave
  dsimp only
  split
  · simp
  · split <;> simp

@[simp] theorem State.enterTrap_mem (s : State) (id : Nat) (w : Wave) (c a : DWord) :
    (s.enterTrap id w c a).mem = s.mem := rfl

@[simp] theorem State.deliver_mem (s : State) (id : Nat) (w : Wave) (r : FaultRec) : (s.deliver id w r).mem = s.mem := by
  unfold State.deliver
  split <;> simp

@[simp] theorem State.reselect_mem (s : State) (id : Nat) (w : Wave) : (s.reselect id w).mem = s.mem := by
  unfold State.reselect
  extract_lets
  split
  · rfl
  · split
    · split <;> simp
    · rfl

@[simp] theorem State.closeClause_mem (s : State) (id : Nat) (w : Wave) : (s.closeClause id w).mem = s.mem := by
  unfold State.closeClause
  split
  · simp
  · extract_lets n pc entries t again w'
    have ht : t.mem = s.mem := (State.letBy_mem ..).trans (State.endStep_mem ..)
    split
    · rw [State.reselect_mem, ht]
    · split
      · exact ht
      · rw [State.reselect_mem, ht]

@[simp] theorem State.advance_mem (s : State) (id : Nat) : (s.advance id).mem = s.mem := by
  unfold State.advance
  split
  · rfl
  · split
    · rfl
    · extract_lets
      split
      · simp
      · split
        · rfl
        · split <;> simp

/-- What an act has left of memory. -/
def Act.Leaves (P : Memory → Prop) : Act → Prop
  | .done t | .stay t | .raise _ t | .jump t => P t.mem

/-- Doing what an act says changes memory no further. -/
theorem State.perform_mem (P : Memory → Prop) (s : State) (w : Wave) (a : Act) (h : a.Leaves P) : P (s.perform w a).mem := by
  unfold State.perform
  split <;> simpa [Act.Leaves] using h

/-- An instruction that reads an uncorrectable word changes memory by its act alone. -/
theorem State.spoiled_mem (P : Memory → Prop) (s : State) (i : Instr) (w : Wave) (lane : Nat) (a : Act) (h : P s.mem)
    (ha : a.Leaves P) : P (s.spoiled i w lane a).mem := by
  have hp : P (s.deliver s.cur w (w.mkRec cPoison stData lane)).mem := by simpa using h
  unfold State.spoiled
  extract_lets
  split
  · exact State.perform_mem P s w _ ha
  · split
    · exact State.perform_mem P s w _ ha
    · exact hp
  · split
    · exact ha
    · exact hp
  · split
    · exact State.perform_mem P s w _ ha
    · exact hp
  · exact hp

/-- An instruction changes memory by its act alone. -/
theorem issueState_mem (P : Memory → Prop) (i : Instr) (s : State) (act : Wave → Mask → State → Act) (h : P s.mem)
    (ha : ∀ w m, (act w m s).Leaves P) : P (issueState i s act).mem := by
  unfold issueState
  split
  · exact h
  · rename_i w hw
    split
    · exact h
    · split
      · simpa using h
      · split
        · simpa using h
        · extract_lets m
          split
          · simpa using h
          · simpa using h
          · split
            · exact State.spoiled_mem P s i w _ _ h (ha w _)
            · exact State.perform_mem P s w _ (ha w _)

/-- An instruction that only changes its wave leaves memory as it is. -/
theorem issueState_onWave_mem (i : Instr) (s : State) (f : Wave → Mask → Wave) :
    (issueState i s (onWave f)).mem = s.mem :=
  issueState_mem (fun m => m = s.mem) i s (onWave f) rfl (fun _ _ => rfl)

end Sys2Proof.Machine
end

