-- ==== Sys2Proof/Laws/Memory.lean ====
section
/-! SUPPORT. Laws of physical memory: the reads and grants of a line leave memory as it is, and every operation that
writes memory keeps its canonical form. What a write lays down is what a read gives. -/

namespace Sys2Proof.Machine

/-- What each step of a fold keeps, the fold keeps. -/
theorem foldl_keeps {α β : Type} (P : α → Prop) (f : α → β → α) (l : List β) (a : α) (h : P a)
    (hf : ∀ a b, P a → P (f a b)) : P (l.foldl f a) := by
  induction l generalizing a with
  | nil => exact h
  | cons b t ih => exact ih _ (hf a b h)

/-! ### Operations that leave memory as it is -/

@[simp] theorem State.markBad_mem (s : State) (line : Nat) : (s.markBad line).mem = s.mem := State.rasLine_mem ..

@[simp] theorem State.condemn_mem (s : State) (k : Nat) : (s.condemn k).mem = s.mem := by
  unfold State.condemn
  split <;> rfl

@[simp] theorem State.countCorrected_mem (s : State) (line : Nat) : (s.countCorrected line).mem = s.mem := by
  unfold State.countCorrected
  extract_lets
  split
  · exact State.condemn_mem ..
  · rfl

@[simp] theorem State.corrected_mem (s : State) (line : Nat) : (s.corrected line).mem = s.mem := by
  unfold State.corrected
  dsimp only
  split
  · exact (State.countCorrected_mem ..).trans (State.rasLine_mem ..)
  · rfl

@[simp] theorem State.checkRead_mem (s : State) (world : Option Nat) (pa n : Nat) :
    (s.checkRead world pa n).1.mem = s.mem := by
  unfold State.checkRead
  split
  · rfl
  · refine foldl_keeps (fun a : State × Bool => a.1.mem = s.mem) _ _ _ rfl fun a b h => ?_
    split
    · simp [h]
    · exact h
    · dsimp only
      split <;> simp [h]
    · simp [h]

@[simp] theorem State.useLine_mem (s : State) (who : Stamp) (line : Nat) : (s.useLine who line).mem = s.mem := rfl

@[simp] theorem State.request_mem (s : State) (pa : Nat) (who : Stamp) (write : Bool) : (s.request pa who write).mem = s.mem := by
  unfold State.request
  split <;> rfl

@[simp] theorem State.writeBack_mem (s : State) (c : DieLine) (who : Stamp) : (s.writeBack c who).mem = s.mem := by
  unfold State.writeBack
  split
  · rfl
  · exact foldl_keeps (fun t : State => t.mem = s.mem) _ _ _ rfl fun a b h => by
      split <;> simp [h]

@[simp] theorem State.install_mem (s : State) (who : Stamp) (c : DieLine) : (s.install who c).mem = s.mem := by
  unfold State.install
  extract_lets
  split
  · rfl
  · split
    · rfl
    · split
      · exact State.writeBack_mem ..
      · rfl

@[simp] theorem State.countLink_mem (s : State) (world line : Nat) : (s.countLink world line).mem = s.mem := by
  unfold State.countLink
  dsimp only
  split
  · rfl
  · split <;> rfl

@[simp] theorem State.cacheRead_mem (s : State) (die world pa n : Nat) (inv : Option Word) (who : Stamp) :
    (s.cacheRead die world pa n inv who).1.mem = s.mem := by
  unfold State.cacheRead
  extract_lets
  split
  · split
    · split <;> rfl
    · simp
  · simp

@[simp] theorem State.fill_mem (s : State) (die world pa : Nat) (who : Stamp) : (s.fill die world pa who).mem = s.mem := by
  unfold State.fill
  split
  · split <;> simp
  · simp

@[simp] theorem State.dropStale_mem (s : State) (die line : Nat) : (s.dropStale die line).mem = s.mem := rfl

/-- What installs, grants and cached reads leave alone: memory, the sidebands and the scrub-pending ranges. -/
def State.SameBytes (s t : State) : Prop := t.mem = s.mem ∧ t.side = s.side ∧ t.scrub = s.scrub

theorem State.SameBytes.trans {s t u : State} (h : s.SameBytes t) (k : t.SameBytes u) : s.SameBytes u :=
  ⟨k.1.trans h.1, k.2.1.trans h.2.1, k.2.2.trans h.2.2⟩

theorem State.request_same (s : State) (pa : Nat) (who : Stamp) (write : Bool) : s.SameBytes (s.request pa who write) := by
  unfold State.request
  split <;> exact ⟨rfl, rfl, rfl⟩

theorem State.writeBack_same (s : State) (c : DieLine) (who : Stamp) : s.SameBytes (s.writeBack c who) := by
  unfold State.writeBack
  split
  · exact ⟨rfl, rfl, rfl⟩
  · exact foldl_keeps (fun t : State => s.SameBytes t) _ _ _ ⟨rfl, rfl, rfl⟩ fun a b h => by
      split
      · exact h.trans (State.request_same ..)
      · exact h

theorem State.install_same (s : State) (who : Stamp) (c : DieLine) : s.SameBytes (s.install who c) := by
  unfold State.install
  extract_lets
  split
  · exact ⟨rfl, rfl, rfl⟩
  · split
    · exact ⟨rfl, rfl, rfl⟩
    · split
      · exact State.SameBytes.trans ⟨rfl, rfl, rfl⟩ (State.writeBack_same ..)
      · exact ⟨rfl, rfl, rfl⟩

theorem State.countLink_same (s : State) (world line : Nat) : s.SameBytes (s.countLink world line) := by
  unfold State.countLink
  dsimp only
  split
  · exact ⟨rfl, rfl, rfl⟩
  · split <;> exact ⟨rfl, rfl, rfl⟩

/-- A grant leaves every byte as it is (R125). -/
theorem State.grant_same (s : State) (die : Option Nat) (world : Nat) (who : Stamp) (line : Nat) (bits : BitVec 2) :
    s.SameBytes (s.grant die world who line bits) := by
  unfold State.grant
  extract_lets other old waiting s1 s2 prev w2 users
  have h2 : s.SameBytes s2 := by
    cases die with
    | none => exact ⟨rfl, rfl, rfl⟩
    | some d =>
      refine State.SameBytes.trans ?_ (State.install_same ..)
      split
      · exact State.SameBytes.trans ⟨rfl, rfl, rfl⟩ (State.countLink_same ..)
      · exact ⟨rfl, rfl, rfl⟩
  split <;> exact h2.trans ⟨rfl, rfl, rfl⟩

@[simp] theorem State.grant_mem (s : State) (die : Option Nat) (world : Nat) (who : Stamp) (line : Nat) (bits : BitVec 2) :
    (s.grant die world who line bits).mem = s.mem := (s.grant_same die world who line bits).1

@[simp] theorem State.touchRemote_mem (s : State) (die world : Nat) (cells : List (Nat × Byte)) :
    (s.touchRemote die world cells).mem = s.mem := rfl

@[simp] theorem State.dropRemoteIf_mem (s : State) (die world : Nat) (p : Nat → Bool) :
    (s.dropRemoteIf die world p).mem = s.mem := rfl

@[simp] theorem State.dropRemote_mem (s : State) (die world : Nat) : (s.dropRemote die world).mem = s.mem := rfl

@[simp] theorem State.keepModes_mem (s t : State) : (s.keepModes t).mem = t.mem := rfl

/-! ### Operations that write memory -/

/-- Preparing a line's sideband for a write keeps the canonical form. -/
theorem State.memOk_sideWrite (s : State) (world line map : Nat) (h : s.memOk = true) :
    (s.sideWrite world line map).memOk = true := by
  unfold State.sideWrite
  extract_lets x whole own
  split
  · exact wf_czero _ _ _ h
  · split
    · exact h
    · split
      · exact h
      · split <;> simpa only [State.memOk, State.putSide_mem, State.condemn_mem, State.rasLine_mem, State.corrected_mem] using h

/-- Preparing a line for a write keeps the canonical form. -/
theorem State.memOk_prepLine (s : State) (world : Nat) (cells : List (Nat × Byte)) (line : Nat) (h : s.memOk = true) :
    (s.prepLine world cells line).memOk = true := by
  unfold State.prepLine
  split
  · exact State.memOk_sideWrite _ _ _ _ h
  · split <;> exact h

/-- The dirty marks of tier pages are no part of memory. -/
theorem State.markFrames_same (s : State) (pas : List Nat) : s.SameBytes (s.markFrames pas) :=
  foldl_keeps (fun t : State => s.SameBytes t) _ _ _ ⟨rfl, rfl, rfl⟩ fun a b h => by
    dsimp only
    split
    · split
      · exact h
      · exact h
    · exact h

@[simp] theorem State.markFrames_mem (s : State) (pas : List Nat) : (s.markFrames pas).mem = s.mem := (s.markFrames_same pas).1

/-- A world's write keeps the canonical form. -/
theorem State.memOk_pokeCells (s : State) (world : Nat) (cells : List (Nat × Byte)) (h : s.memOk = true) :
    (s.pokeCells world cells).memOk = true :=
  wf_cells _ _ _ (foldl_keeps (fun s : State => s.memOk = true) _ _ _ (by simpa only [State.memOk, State.markFrames_mem] using h)
    fun _ _ ha => State.memOk_prepLine _ _ _ _ ha)

/-- A device's write keeps the canonical form. -/
theorem State.memOk_pokeRaw (s : State) (world pa : Nat) (bs : List Byte) (h : s.memOk = true) :
    (s.pokeRaw world pa bs).memOk = true :=
  wf_cwrite _ _ _ (foldl_keeps (fun s : State => s.memOk = true) _ _ _ h fun a b ha => by
    split
    · exact ha
    · exact State.memOk_sideWrite _ _ _ _ ha)

/-- Grants keep the canonical form. -/
theorem State.memOk_grants (s : State) (die : Option Nat) (world : Nat) (who : Stamp) (f : Nat → BitVec 2) (lines : List Nat)
    (h : s.memOk = true) :
    (lines.foldl (fun (s : State) line => s.grant die world who line (f line)) s).memOk = true :=
  foldl_keeps (fun s : State => s.memOk = true) _ _ _ h fun a b ha => by
    simpa only [State.memOk, State.grant_mem] using ha

/-- A coherent write keeps the canonical form. -/
theorem State.memOk_storeCells (s : State) (die : Option Nat) (world : Nat) (who : Stamp) (cells : List (Nat × Byte))
    (h : s.memOk = true) : (s.storeCells die world who cells).memOk = true :=
  State.memOk_pokeCells _ _ _ (State.memOk_grants s die world who _ _ h)

@[simp] theorem State.counterWrite_mem (s : State) (l : List (Nat × Byte)) : (s.counterWrite l).mem = s.mem :=
  foldl_keeps (fun t : State => t.mem = s.mem) _ _ _ rfl fun a b h => by
    show State.mem (ite _ _ _) = _
    split <;> exact h

/-- A supervisor's store into windows of the device-private region leaves memory as it is. -/
@[simp] theorem State.windowsWrite_mem (s : State) (cells : List (Nat × Byte)) : (s.windowsWrite cells).mem = s.mem := by
  unfold State.windowsWrite
  extract_lets l rots tiers cnts s1 s2 s3
  split
  · rfl
  · have h1 : s1.mem = s.mem := foldl_keeps (fun t : State => t.mem = s.mem) _ _ _ rfl fun a b h => by
      split <;> exact h
    have h2 : s2.mem = s1.mem := foldl_keeps (fun t : State => t.mem = s1.mem) _ _ _ rfl fun a b h => h
    have h3 : s3.mem = s2.mem := foldl_keeps (fun t : State => t.mem = s2.mem) _ _ _ rfl fun a b h => h
    rw [State.counterWrite_mem, h3, h2, h1]

@[simp] theorem State.dropTlb_mem (s : State) (p : Tlb → Bool) : (s.dropTlb p).mem = s.mem := rfl

/-- A supervisor's store, into windows or into memory, keeps the canonical form. -/
theorem State.memOk_supCells (s : State) (w : Wave) (cells : List (Nat × Byte)) (h : s.memOk = true) :
    (s.supCells w cells).memOk = true :=
  State.memOk_storeCells _ _ _ _ _ (by simpa only [State.memOk, State.windowsWrite_mem, State.dropTlb_mem] using h)

/-- Opening a scratchpad granule keeps the canonical form of the scratchpad. -/
theorem CoreSt.wf_lOpen (c : CoreSt) (k : Nat) (h : Memory.wf c.lmem = true) : Memory.wf (c.lOpen k).lmem = true := by
  unfold CoreSt.lOpen
  extract_lets
  split
  · exact h
  · exact wf_czero _ _ _ h

/-- A scratchpad write keeps the canonical form of the scratchpad. -/
theorem CoreSt.wf_lWrite (c : CoreSt) (a : Nat) (bs : List Byte) (h : Memory.wf c.lmem = true) :
    Memory.wf (c.lWrite a bs).lmem = true :=
  wf_cwrite _ _ _ (foldl_keeps (fun c : CoreSt => Memory.wf c.lmem = true) _ _ _ h fun a b ha =>
    CoreSt.wf_lOpen a b ha)

/-- Cells put back into a memory keep its canonical form. -/
theorem wf_putCells (m l : Memory) (h : Memory.wf m = true) : Memory.wf (putCells m l) = true :=
  wf_cells l (fun x => x.1) m h

/-! ### Bytes as a read sees them -/

/-- A byte of memory as a read of it alone gives it. -/
def State.byteAt (s : State) (a : Nat) : Byte := if paKind a = 0 ∧ (s.sideAt (a / 64)).sp then 0#8 else cget s.mem a

theorem State.peek_one (s : State) (a : Nat) : s.peek a 1 = [s.byteAt a] := rfl

/-- A read within a line gives the bytes at its addresses. -/
theorem State.peek_eq (s : State) (pa n : Nat) (h : pa % 128 + n ≤ 128) :
    s.peek pa n = (List.range n).map (fun i => s.byteAt (pa + i)) := by
  refine List.map_congr_left fun i hi => ?_
  have hk : paKind (pa + i) = paKind pa := by
    have := List.mem_range.1 hi
    unfold paKind; omega
  rw [State.byteAt, hk]

theorem State.sideAt_congr {s t : State} (hs : t.side = s.side) (hc : t.scrub = s.scrub) (l : Nat) :
    t.sideAt l = s.sideAt l := by
  unfold State.sideAt State.inScrub; rw [hs, hc]

theorem State.byteAt_congr {s t : State} (hm : t.mem = s.mem) (hs : t.side = s.side) (hc : t.scrub = s.scrub) (a : Nat) :
    t.byteAt a = s.byteAt a := by
  unfold State.byteAt; rw [State.sideAt_congr hs hc, hm]

theorem State.sideAt_tset {s t : State} {k : Nat} {x : Side} (hs : t.side = tset s.side k x) (hc : t.scrub = s.scrub) (l : Nat) :
    t.sideAt l = if l = k then x else s.sideAt l := by
  unfold State.sideAt State.inScrub; rw [hs, hc, tgetD_tset]

@[simp] theorem State.sideAt_putSide (s : State) (k l : Nat) (x : Side) :
    (s.putSide k x).sideAt l = if l = k then x else s.sideAt l :=
  State.sideAt_tset (s := s) (t := s.putSide k x) rfl rfl l

@[simp] theorem State.sideAt_rasLine (s : State) (ty line l : Nat) : (s.rasLine ty line).sideAt l = s.sideAt l := by
  unfold State.rasLine State.ras
  extract_lets
  split <;> rfl

@[simp] theorem State.sideAt_condemn (s : State) (k l : Nat) : (s.condemn k).sideAt l = s.sideAt l := by
  unfold State.condemn
  split <;> rfl

@[simp] theorem State.sideAt_countCorrected (s : State) (line l : Nat) : (s.countCorrected line).sideAt l = s.sideAt l := by
  unfold State.countCorrected
  extract_lets
  split
  · exact State.sideAt_condemn ..
  · rfl

/-- A corrected error touches the sideband of its own line alone. -/
theorem State.sideAt_corrected (s : State) (line l : Nat) (h : l ≠ line) : (s.corrected line).sideAt l = s.sideAt l := by
  unfold State.corrected
  dsimp only
  split
  · simp [h]
  · rfl

/-- Preparing a line for a write leaves every byte as a read saw it, and the line is scrub-pending no longer. -/
theorem State.sideWrite_view (s : State) (world line map : Nat) (hk : paKind (line * 64) = 0) :
    (∀ a, (s.sideWrite world line map).byteAt a = s.byteAt a) ∧ ((s.sideWrite world line map).sideAt line).sp = false ∧
      ∀ l, (s.sideAt l).sp = false → ((s.sideWrite world line map).sideAt l).sp = false := by
  have hka (a : Nat) (h : a / 64 = line) : paKind a = 0 := by unfold paKind at *; omega
  have side (t : State) (x : Side) (hx : x.sp = false) (hsp : (s.sideAt line).sp = false) (hm : t.mem = s.mem)
      (ht : ∀ l, t.sideAt l = if l = line then x else s.sideAt l) :
      (∀ a, t.byteAt a = s.byteAt a) ∧ (t.sideAt line).sp = false ∧
        ∀ l, (s.sideAt l).sp = false → (t.sideAt l).sp = false := by
    refine ⟨fun a => ?_, by simp [ht, hx], fun l h => ?_⟩
    · simp only [State.byteAt, ht, hm]
      by_cases h : a / 64 = line
      · simp [h, hx, hsp]
      · simp [h]
    · rw [ht]; split
      · exact hx
      · exact h
  unfold State.sideWrite
  extract_lets x whole own
  by_cases hsp : x.sp = true
  · rw [if_pos hsp]
    have ht (l : Nat) := State.sideAt_tset (s := s) (k := line)
      (t := { s with mem := czero s.mem (line * 64) 64
                     side := tset s.side line { owner := own, sp := false, pz := false, errs := 0, macBad := false } }) rfl rfl l
    refine ⟨fun a => ?_, by rw [ht]; simp, fun l h => by rw [ht]; split <;> simp [h]⟩
    unfold State.byteAt
    rw [ht]
    by_cases h : a / 64 = line
    · have hr : line * 64 ≤ a ∧ a < line * 64 + 64 := by omega
      have hx : (s.sideAt line).sp = true := hsp
      simp [h, hka a h, cget_czero, hr, hx]
    · have hr : ¬ (line * 64 ≤ a ∧ a < line * 64 + 64) := by omega
      simp only [h, if_false, cget_czero, if_neg hr]
  · have hsp' : (s.sideAt line).sp = false := by simpa [x] using hsp
    rw [if_neg hsp]
    split
    · refine side _ { owner := own, sp := false, pz := false, errs := 0, macBad := false } rfl hsp' rfl fun l => ?_
      exact State.sideAt_tset (s := s) (t := { s with side := tset s.side line _ }) rfl rfl l
    · let y : Side := { owner := own, sp := false, pz := x.pz, errs := 0, macBad := false }
      split
      · exact side _ y rfl hsp' rfl fun l => State.sideAt_putSide ..
      · split
        · exact side _ { y with pz := true } rfl hsp' (by simp) fun l => (by simp; rfl)
        · exact side _ { y with pz := true } rfl hsp' (by simp) fun l => (by simp; rfl)
        · refine side _ y rfl hsp' (by simp) fun l => ?_
          rw [State.sideAt_putSide]
          split
          · rfl
          · exact State.sideAt_corrected _ _ _ (by assumption)

/-- The bytes after cells have been written one after the other. -/
def laidOver (f : Nat → Byte) (cells : List (Nat × Byte)) : Nat → Byte :=
  cells.foldl (fun f c a => if a = c.1 then c.2 else f a) f

theorem cget_cells (cells : List (Nat × Byte)) (m : Memory) (h : Memory.wf m = true) (a : Nat) :
    cget (cells.foldl (fun m c => cset m c.1 c.2) m) a = laidOver (cget m) cells a := by
  induction cells generalizing m with
  | nil => rfl
  | cons c t ih =>
    rw [List.foldl_cons, ih _ (wf_cset m c.1 c.2 h)]
    have : cget (cset m c.1 c.2) = fun a => if a = c.1 then c.2 else cget m a := funext fun a => cget_cset m c.1 a c.2 h
    rw [this]; rfl

theorem laidOver_congr (cells : List (Nat × Byte)) (f g : Nat → Byte) (a : Nat) (h : f a = g a) :
    laidOver f cells a = laidOver g cells a := by
  induction cells generalizing f g with
  | nil => exact h
  | cons c t ih => exact ih _ _ (by simp [h])

theorem laidOver_other (cells : List (Nat × Byte)) (f : Nat → Byte) (a : Nat) (h : ∀ c ∈ cells, c.1 ≠ a) :
    laidOver f cells a = f a := by
  induction cells generalizing f with
  | nil => rfl
  | cons c t ih =>
    have : laidOver f (c :: t) a = laidOver (fun a => if a = c.1 then c.2 else f a) t a := rfl
    rw [this, ih _ fun d hd => h d (List.mem_cons_of_mem _ hd)]
    simp [Ne.symm (h c List.mem_cons_self)]

theorem laidOver_mem (cells : List (Nat × Byte)) (f g : Nat → Byte) (a : Nat) (h : ∃ c ∈ cells, c.1 = a) :
    laidOver f cells a = laidOver g cells a := by
  induction cells generalizing f g with
  | nil => simp at h
  | cons c t ih =>
    by_cases ht : ∃ d ∈ t, d.1 = a
    · exact ih _ _ ht
    · obtain ⟨d, hd, hda⟩ := h
      have hca : c.1 = a := by
        rcases List.mem_cons.1 hd with rfl | hd
        · exact hda
        · exact absurd ⟨d, hd, hda⟩ ht
      exact laidOver_congr t _ _ a (by simp [hca])

theorem laidOver_append (l r : List (Nat × Byte)) (f : Nat → Byte) : laidOver f (l ++ r) = laidOver (laidOver f l) r := by
  simp [laidOver]

/-- The distinct numbers of a list are its numbers. -/
theorem mem_dedupN {l : List Nat} {x : Nat} : x ∈ dedupN l ↔ x ∈ l := by
  have key (l acc : List Nat) : x ∈ l.foldl (fun acc x => if acc.contains x then acc else acc ++ [x]) acc ↔ x ∈ acc ∨ x ∈ l := by
    induction l generalizing acc with
    | nil => simp
    | cons y t ih =>
      rw [List.foldl_cons, ih, List.mem_cons]
      split
      · rename_i h
        have hy : y ∈ acc := by simpa using h
        exact ⟨fun h => h.imp_right .inr, fun h => h.elim .inl fun h => h.elim (fun e => .inl (e ▸ hy)) .inr⟩
      · simp only [List.mem_append, List.mem_singleton, or_assoc]
  simpa [dedupN] using key l []

/-- Preparing a line for a write leaves every byte as a read saw it, and a kind-0 line is scrub-pending no longer. -/
theorem State.prepLine_view (s : State) (world : Nat) (cells : List (Nat × Byte)) (line : Nat) :
    (∀ a, (s.prepLine world cells line).byteAt a = s.byteAt a) ∧
      (∀ l, paKind (l * 64) = 0 → (s.sideAt l).sp = false → ((s.prepLine world cells line).sideAt l).sp = false) ∧
      (paKind (line * 64) = 0 → ((s.prepLine world cells line).sideAt line).sp = false) := by
  unfold State.prepLine
  by_cases hk : paKind (line * 64) = 0
  · rw [if_pos hk]
    obtain ⟨v1, v2, v3⟩ := State.sideWrite_view s world line (coverOf cells line) hk
    exact ⟨v1, fun l _ h => v3 l h, fun _ => v2⟩
  · rw [if_neg hk]
    split
    · have hd (l : Nat) (hl : paKind (l * 64) = 0) : ({ s with side := tdel s.side line } : State).sideAt l = s.sideAt l := by
        unfold State.sideAt State.inScrub
        rw [tgetD_tdel, if_neg (fun e : l = line => hk (by rw [← e]; exact hl))]
      refine ⟨fun a => ?_, fun l hl h => by rw [hd l hl]; exact h, fun h => absurd h hk⟩
      unfold State.byteAt
      by_cases ha : paKind a = 0
      · rw [hd _ (by unfold paKind at *; omega)]
      · simp [ha]
    · exact ⟨fun _ => rfl, fun _ _ h => h, fun h => absurd h hk⟩

/-- A world's write: the cells stand, later ones over earlier ones, and every other byte reads as before. -/
theorem State.byteAt_pokeCells (s : State) (world : Nat) (cells : List (Nat × Byte)) (h : s.memOk = true) (a : Nat) :
    (s.pokeCells world cells).byteAt a = laidOver s.byteAt cells a := by
  have key (lines : List Nat) (s : State) (h : s.memOk = true) :
      let t := lines.foldl (fun (s : State) line => s.prepLine world cells line) s
      t.memOk = true ∧ (∀ a, t.byteAt a = s.byteAt a) ∧
        (∀ l, paKind (l * 64) = 0 → (s.sideAt l).sp = false → (t.sideAt l).sp = false) ∧
        ∀ l ∈ lines, paKind (l * 64) = 0 → (t.sideAt l).sp = false := by
    induction lines generalizing s with
    | nil => exact ⟨h, fun _ => rfl, fun _ _ h => h, by simp⟩
    | cons line lines ih =>
      obtain ⟨h1, h2, h3, h4⟩ := ih (s.prepLine world cells line) (State.memOk_prepLine _ _ _ _ h)
      obtain ⟨v1, v2, v3⟩ := State.prepLine_view s world cells line
      refine ⟨h1, fun a => (h2 a).trans (v1 a), fun l hk hl => h3 l hk (v2 l hk hl), fun l hl hkl => ?_⟩
      rcases List.mem_cons.1 hl with rfl | hl
      · exact h3 _ hkl (v3 hkl)
      · exact h4 l hl hkl
  unfold State.pokeCells
  extract_lets s1 t
  have hs1 : s.SameBytes s1 := State.markFrames_same ..
  obtain ⟨h1, h2, h3, h4⟩ := key (dedupN (cells.map (fun c => c.1 / 64))) s1 (by unfold State.memOk; rw [hs1.1]; exact h)
  have hb (b : Nat) : ({ t with mem := cells.foldl (fun m c => cset m c.1 c.2) t.mem } : State).byteAt b =
      if paKind b = 0 ∧ (t.sideAt (b / 64)).sp then 0#8 else laidOver (cget t.mem) cells b := by
    rw [← cget_cells cells t.mem h1 b]; rfl
  rw [hb]
  by_cases hm : ∃ c ∈ cells, c.1 = a
  · have hsp : ¬(paKind a = 0 ∧ (t.sideAt (a / 64)).sp = true) := by
      rintro ⟨hk, hs⟩
      have hl : a / 64 ∈ dedupN (cells.map (fun c => c.1 / 64)) := by
        obtain ⟨c, hc, rfl⟩ := hm
        exact mem_dedupN.2 (List.mem_map.2 ⟨c, hc, rfl⟩)
      have hkl : paKind (a / 64 * 64) = 0 := by unfold paKind at *; omega
      have := h4 _ hl hkl
      rw [show t.sideAt (a / 64) = _ from rfl] at hs
      simp [t, this] at hs
    rw [if_neg hsp]
    exact laidOver_mem cells _ _ a hm
  · have hn : ∀ c ∈ cells, c.1 ≠ a := fun c hc he => hm ⟨c, hc, he⟩
    rw [laidOver_other _ _ _ hn, laidOver_other _ _ _ hn]
    exact (h2 a).trans (State.byteAt_congr hs1.1 hs1.2.1 hs1.2.2 a)

/-- Grants leave every byte as it is. -/
theorem State.byteAt_grants (s : State) (die : Option Nat) (world : Nat) (who : Stamp) (f : Nat → BitVec 2) (lines : List Nat)
    (a : Nat) : (lines.foldl (fun (s : State) line => s.grant die world who line (f line)) s).byteAt a = s.byteAt a :=
  foldl_keeps (fun t : State => t.byteAt a = s.byteAt a) _ _ _ rfl fun b c h =>
    (State.byteAt_congr (b.grant_same die world who c (f c)).1 (b.grant_same die world who c (f c)).2.1
      (b.grant_same die world who c (f c)).2.2 a).trans h

/-- A coherent write: the cells stand, later ones over earlier ones, and every other byte reads as before. -/
theorem State.byteAt_storeCells (s : State) (die : Option Nat) (world : Nat) (who : Stamp) (cells : List (Nat × Byte))
    (h : s.memOk = true) (a : Nat) : (s.storeCells die world who cells).byteAt a = laidOver s.byteAt cells a := by
  unfold State.storeCells
  extract_lets t
  rw [State.byteAt_pokeCells _ _ _ (State.memOk_grants s die world who _ _ h)]
  exact laidOver_congr _ _ _ _ (State.byteAt_grants s die world who _ _ a)

/-! ### Runs of bytes -/

theorem cellsOf_bounds (bs : List Byte) (a : Nat) : ∀ c ∈ cellsOf a bs, a ≤ c.1 ∧ c.1 < a + bs.length := by
  induction bs generalizing a with
  | nil => simp [cellsOf]
  | cons b bs ih =>
    intro c hc
    rcases List.mem_cons.1 hc with rfl | hc
    · simp
    · have := ih (a + 1) c hc
      simp only [List.length_cons]; omega

theorem laidOver_cellsOf_other (bs : List Byte) (a x : Nat) (f : Nat → Byte) (h : x < a ∨ a + bs.length ≤ x) :
    laidOver f (cellsOf a bs) x = f x :=
  laidOver_other _ _ _ fun c hc he => by have := cellsOf_bounds bs a c hc; omega

theorem laidOver_cellsOf (bs : List Byte) (a i : Nat) (f : Nat → Byte) (h : i < bs.length) :
    laidOver f (cellsOf a bs) (a + i) = bs[i] := by
  induction bs generalizing a i f with
  | nil => simp at h
  | cons b bs ih =>
    have e : laidOver f (cellsOf a (b :: bs)) = laidOver (fun x => if x = a then b else f x) (cellsOf (a + 1) bs) := rfl
    rw [e]
    cases i with
    | zero => rw [laidOver_cellsOf_other _ _ _ _ (by omega)]; simp
    | succ i => rw [show a + (i + 1) = a + 1 + i by omega, ih _ _ _ (by simpa using h)]; rfl

/-- Bytes read as a list. -/
theorem map_range_eq (bs : List Byte) (f : Nat → Byte) (h : ∀ i (hi : i < bs.length), f i = bs[i]) :
    (List.range bs.length).map f = bs := by
  refine List.ext_getElem (by simp) fun i h1 h2 => ?_
  simp [h i h2]

/-- A run that one write laid down within a line reads back. -/
theorem State.peek_of_laid {s t : State} {a : Nat} {bs : List Byte} (hb : a % 128 + bs.length ≤ 128)
    (h : ∀ x, t.byteAt x = laidOver s.byteAt (cellsOf a bs) x) : t.peek a bs.length = bs := by
  rw [State.peek_eq _ _ _ hb]
  exact map_range_eq _ _ fun i hi => by rw [h, laidOver_cellsOf _ _ _ _ hi]

/-- Every other byte reads as before. -/
theorem State.peek_of_laid_other {s t : State} {a : Nat} {bs : List Byte}
    (h : ∀ x, t.byteAt x = laidOver s.byteAt (cellsOf a bs) x) (x : Nat) (hx : x < a ∨ a + bs.length ≤ x) :
    t.peek x 1 = s.peek x 1 := by
  rw [State.peek_one, State.peek_one, h, laidOver_cellsOf_other _ _ _ _ hx]

theorem cread_getElem? (m : Memory) (a n i : Nat) (h : i < n) : (cread m a n)[i]? = some (cget m (a + i)) := by
  induction n generalizing a i with
  | zero => omega
  | succ n ih =>
    cases i with
    | zero => rfl
    | succ i => simp only [cread, List.getElem?_cons_succ]; rw [ih _ _ (by omega)]; congr 2; omega

/-- The bytes of a device's write within a line read back. -/
theorem State.peek_pokeRaw (s : State) (world a : Nat) (bs : List Byte) (h : s.memOk = true) (hb : a % 64 + bs.length ≤ 64) :
    (s.pokeRaw world a bs).peek a bs.length = bs := by
  unfold State.pokeRaw
  extract_lets t
  have ht : t.memOk = true := foldl_keeps (fun s : State => s.memOk = true) _ _ _ h fun b c hbc => by
    split
    · exact hbc
    · exact State.memOk_sideWrite _ _ _ _ hbc
  have hm := (State.markFrames_same t [a]).2
  unfold State.peek
  have hread := cread_cwrite bs t.mem a ht
  refine map_range_eq _ _ fun i hi => ?_
  have hl : linesOf a bs.length = [a / 64] := by
    have h0 : ((a + bs.length - 1) / 64 - a / 64 + 1) = 1 := by omega
    unfold linesOf
    rw [if_neg (by omega), h0]
    simp
  have hsp : ¬(paKind a = 0 ∧ (t.sideAt ((a + i) / 64)).sp = true) := by
    rintro ⟨hk, hs⟩
    have hq : (a + i) / 64 = a / 64 := by omega
    have := (State.sideWrite_view s (if (s.sideAt (a / 64)).owner.isNone then 0 else s.keeper world (a / 64)) (a / 64) 0
      (by unfold paKind at *; omega)).2.1
    simp only [t, hl, hq, List.foldl_cons, List.foldl_nil, hk, ne_eq, not_true_eq_false, if_false, this, Bool.false_eq_true] at hs
  rw [State.sideAt_congr (s := t) (t := { t.markFrames [a] with mem := cwrite t.mem a bs }) hm.1 hm.2, if_neg hsp]
  have := congrArg (fun l => l[i]?) hread
  rw [List.getElem?_eq_getElem hi, cread_getElem? _ _ _ _ hi] at this
  exact Option.some.inj this

end Sys2Proof.Machine
end

