-- ==== Sys2Proof/Tests/Slice0.lean ====
section
/-! SUPPORT. Tests: ill-formed terms that each check refuses, words written out from the spec's encodings, one step on a
small state with values from the spec's own examples, and states that meet the hypotheses of the statements. -/

namespace Sys2Proof.Tests

open Sys2Proof Sys2Proof.Machine

/-! ### Helpers -/

/-- Vector register, scalar register, predicate and constant operands. -/
def v (n : Nat) : Operand := .v (BitVec.ofNat 8 n)
@[inherit_doc v] def sr (n : Nat) : Operand := .s (BitVec.ofNat 6 n)
@[inherit_doc v] def pr (n : Nat) : Operand := .p (BitVec.ofNat 3 n)
@[inherit_doc v] def k (n : Nat) : Operand := .pos (BitVec.ofNat 6 n)
@[inherit_doc v] def neg (n : Nat) : Operand := .neg (BitVec.ofNat 5 (32 - n))

/-- An A3 instruction's fields, without predicate, marks and rounding. -/
def a3 (d a b c : Operand) (ty : Nat) (flg : Nat := 0) : FmtA3 :=
  { dst := d, a := a, b := b, c := c, pred := 7#4, ty := BitVec.ofNat 4 ty, rnd := 0#3, mark := 0#3
    flg := BitVec.ofNat 4 flg }
/-- Fields of the other formats. -/
def ai (d a : Operand) (imm : Word) : FmtAI := { dst := d, a := a, imm := imm, pred := 7#4 }
@[inherit_doc ai] def fm (d b i : Operand) (width : Nat) (scope order : Nat := 0) : FmtM :=
  { data := d, base := b, index := i, imm := 0#14, pred := 7#4, width := BitVec.ofNat 3 width
    scope := BitVec.ofNat 3 scope, order := BitVec.ofNat 3 order }
@[inherit_doc ai] def fb (o : Operand) (t : Word) : FmtB := { pred := 7#4, mode := 0#4, opnd := o, rsv := 0#5, target := t }
@[inherit_doc ai] def fe (p q : Operand) (cls mode : Nat) : FmtE :=
  { p := p, q := q, pred := 7#4, cls := BitVec.ofNat 3 cls, mode := BitVec.ofNat 3 mode, rsv := 0#26 }
@[inherit_doc ai] def fx (d a : Operand) (sel : Nat) : FmtX :=
  { dst := d, a := a, sel := BitVec.ofNat 16 sel, pred := 7#4, rsv := 0#16 }

/-- Registers with the given values in lane 0 of vector registers, in scalar registers and in predicates. -/
def regs (vs ss ps : List (Nat × Word)) : Regs :=
  { fill := none, v := vs.map (fun x => (32 * x.1, x.2)), s := ss, p := ps, vEmpty := [], sEmpty := [] }

/-- An ordinary wave of four lanes with these registers. -/
def wv (g : Regs) : Wave :=
  let w := placedWave 0#64
  { w with regs := g, bundle := w.bundle.map (fun b => { b with mask := 15#32 }), valid := 15#32, exited := 0xFFFFFFF0#32 }

/-- A supervisor wave with these registers. -/
def sv (g : Regs) : Wave := { placedWave 0xD800000000000000#64 with regs := g }

/-- A workgroup in slot 0 of core 0, with 4,096 bytes of scratchpad from 256 on, and ridge 1 in entry 0. -/
def wg : Wg :=
  { core := 0, slot := 0, launch := 1, world := 0, x := 0, y := 0, z := 0, nwaves := 1, lbase := 256, lsize := 4096
    tag := 1, ridgeMap := [(1, 0)], cairnRes := 4, drain := [], reruns := 0#32, charge := 0, saved := none }

/-- The machine with this wave as the issuing one. -/
def st (w : Wave) : State := { State.reset.withFetchWord 64 0 with cur := 1, waves := [(1, w)], wgs := [(0, wg)] }

/-- The wave after an instruction. -/
def after (i : Instr) (w : Wave) : Option Wave :=
  match exec i (st w) with
  | .next t => tget t.waves 1
  | _ => none

/-- A vector register in lane 0 after an instruction. -/
def vAfter (i : Instr) (g : Regs) (r : Nat) : Option Word := (after i (wv g)).map (fun w => w.regs.readV r 0)

/-- A vector register in lane 0, and %fpflags, after an instruction in that lane alone. -/
def fAfter (i : Instr) (g : Regs) (r : Nat) : Option (Word × Flags) :=
  let w := wv g
  (after i { w with bundle := w.bundle.map (fun b => { b with mask := 1#32 }) }).map (fun w => (w.regs.readV r 0, w.fpflags))

/-! ### Well-formed terms, and an ill-formed one for each check -/

theorem test_wf_accepts : ([.iadd (a3 (v 1) (v 2) (k 4) (k 0) 2), .isetp (a3 (pr 1) (v 2) (v 3) (k 0) 2 2),
    .sel (a3 (v 1) (v 2) (v 3) (pr 7) 2), .shfl (a3 (v 1) (v 2) (k 1) (k 32) 6 1), .cairn (a3 (sr 1) (sr 4) (k 0) (k 0) 0),
    .ldGlobal (fm (v 4) (v 2) (k 0) 4), .bra (fb (k 0) 9#32), .mma (fe (sr 16) (k 0) 1 0), .srd (fx (sr 2) (k 0) 8)] :
    List Instr).all Instr.wf = true := by decide

/-- R208, R212: an unused field, a destination, a predicate, a pair and a source outside their ranges. -/
theorem test_wf_slots : ([.iadd (a3 (v 1) (v 2) (k 4) (k 1) 2), .iadd (a3 (k 1) (v 2) (k 4) (k 0) 2),
    .iadd (a3 (v 1) (v 2) (k 4) (k 0) 3), .iadd (a3 (sr 63) (sr 2) (k 4) (k 0) 3), .isetp (a3 (pr 6) (v 2) (v 3) (k 0) 2),
    .p2v (a3 (sr 1) (k 0) (k 0) (k 0) 0), .cairn (a3 (v 1) (sr 4) (k 0) (k 0) 0), .cairn (a3 (sr 1) (v 4) (k 0) (k 0) 0),
    .iadd (a3 (v 1) (.rsv 0x150#9) (k 4) (k 0) 2), .iadd (a3 (v 1) (.flt 2#4) (k 4) (k 0) 2),
    .sel (a3 (v 1) (v 2) (v 3) (v 4) 2), .pext (a3 (v 1) (v 2) (k 5) (k 0) 2), .shfl (a3 (v 1) (v 2) (k 1) (k 3) 6),
    .ldGlobal (fm (v 4) (v 3) (k 0) 4), .ldGlobal (fm (v 2) (v 4) (k 0) 4), .waitc (fe (v 1) (k 0) 0 0)] :
    List Instr).all (fun i => !i.wf) = true := by decide

/-- R209, R210, R214 to R217, R224: types, flags, rounding, marks, widths, orders, scopes, modes, classes, selectors,
reserved bits and the scalar-destination rule; an event is no instruction. -/
theorem test_wf_codes : ([.iadd (a3 (v 1) (v 2) (k 4) (k 0) 0), .iadd (a3 (v 1) (v 2) (k 4) (k 0) 2 1),
    .iadd { a3 (v 1) (v 2) (k 4) (k 0) 2 with rnd := 1#3 }, .fadd { a3 (v 1) (v 2) (k 4) (k 0) 2 with rnd := 6#3 },
    .iadd { a3 (v 1) (v 2) (k 4) (k 0) 2 with mark := 2#3 }, .iadd { a3 (v 1) (v 2) (sr 4) (k 0) 2 with mark := 2#3 },
    .iadd (a3 (sr 1) (v 2) (k 4) (k 0) 2), .ldGlobal (fm (v 4) (v 2) (k 0) 5), .ldGlobalSigned (fm (v 4) (v 2) (k 0) 2),
    .ldGlobal (fm (v 4) (v 2) (k 0) 2 0 3), .ldGlobal (fm (v 4) (v 2) (k 0) 2 1 0), .ldGlobal (fm (v 4) (v 2) (k 0) 2 7 2),
    .fence { fm (k 0) (k 0) (k 0) 0 4 2 with imm := 1#14 }, .syncw (ai (k 0) (v 2) 1#32),
    .bra { fb (k 0) 9#32 with mode := 1#4 }, .bra { fb (k 0) 9#32 with rsv := 1#5 }, .exitOp (fb (k 0) 9#32),
    .mma (fe (sr 16) (k 0) 2 0), .mma (fe (sr 16) (k 0) 1 3), .mma (fe (sr 49) (k 0) 1 0), .dpload (fe (sr 16) (k 0) 1 0),
    .mma { fe (sr 16) (k 0) 1 0 with rsv := 1#26 }, .srd (fx (v 2) (k 0) 16), .srd (fx (sr 2) (k 0) 0),
    .srd { fx (sr 2) (k 0) 8 with rsv := 1#16 }, .swrp (fx (k 0) (sr 2) 0x101), .srdp (fx (sr 2) (k 0) 0x109), .notify] :
    List Instr).all (fun i => !i.wf) = true := by decide

/-- R186, R212: of 72 declared registers, v72 is none, and v71 holds the frontier. -/
theorem test_fields_fit : fieldsFit 72 71 (.iadd (a3 (v 70) (v 71) (k 4) (k 0) 2)) = true ∧
    fieldsFit 72 71 (.iadd (a3 (v 70) (v 72) (k 4) (k 0) 2)) = false ∧
    fieldsFit 72 71 (.iadd (a3 (v 71) (v 2) (k 4) (k 0) 2)) = false := by decide

/-! ### Decoding -/

/-- The worked encodings of the spec (R50, R208, R213, R217, R235, R254, R257, R261, R272, R278, R284, R295, R318, R330,
R337 and the programs). -/
theorem test_worked_encodings : ([0x102820401E01D802, 0x7401106010000F00, 0x4001C0B06E01C800, 0x504160BC0601C810,
      0x5840602C0601D002, 0x8470180C00000E25, 0xA422180720000000, 0xB821180704000000, 0xBC70380700000000,
      0xD0C0BDF000000407, 0xC841180000010000, 0xC8B0180000070000, 0xA830183000070000, 0xD121580FFFFFFFF7,
      0x2424180000003B07, 0x702130CC00000EAA, 0x70B030CC00000EAB, 0xC820D81788000000, 0x7000A08C00020E80] : List Nat).map
      (decodeTableWord 64) =
    [some (.isetp (a3 (pr 1) (v 4) (v 3) (k 0) 6 2)), some (.ldn (fm (v 8) (sr 6) (v 2) 4)),
      some (.fadd (a3 (v 14) (v 11) (v 13) (k 0) 2)), some (.fmax { a3 (v 11) (v 11) (k 0) (k 0) 2 with mark := 1#3 }),
      some (.fcvtSat (a3 (v 3) (v 2) (k 0) (k 0) 4 2)), some (.fenceSc (fm (k 0) (k 0) (k 0) 0 4 5)),
      some (.mma (fe (sr 16) (k 0) 1 0)), some (.xcopy (fe (sr 8) (k 0) 0 1)), some (.waitc (fe (k 1) (k 0) 0 0)),
      some (.rsyncK (ai (v 5) (neg 1) 64#32)), some (.rchild { fx (v 8) (k 0) 0 with pred := 1#4 }),
      some (.rdone (fx (k 0) (k 0) 0)), some (.tktake (fx (k 0) (k 3) 0)), some (.rwait (ai (sr 10) (k 0) 0xFFFFFFFF#32)),
      some (.movi (ai (sr 32) (k 0) 0x3B0#32)), some (.ldGlobal (fm (sr 9) (sr 12) (k 0) 2 5 2)),
      some (.stGlobal (fm (k 1) (sr 12) (k 0) 2 5 3)), some (.rbegin (fe (sr 6) (k 1) 4 2)),
      some (.ldGlobal { fm (v 5) (v 8) (k 0) 2 with imm := 16#14 })] := by decide

/-- R16, R207, R219, R317: unassigned opcodes and the header space hold no instruction. -/
theorem test_refused_words : ([0x0200000000000000, 0x70C0000000000000, 0x7BC0000000000000, 0xE000000000000000,
    0xF800000000000000, 0xFC3FF0FF00010000] : List Nat).map (decodeTableWord 64) = [none, none, none, none, none, none] := by
  decide
/-- Words by the field table of R208: dst v5, a s2, b −1, c p3, predicate !p2, type 7, round 2, marks a and c, flags 1; opcodes by R228 and R230. -/
theorem test_decode_integer :
    let f : FmtA3 := { dst := .v 5#8, a := .s 2#6, b := .neg 31#5, c := .p 3#3, pred := 10#4, ty := 7#4, rnd := 2#3, mark := 5#3, flg := 1#4 }
    ([0x0000B02EFD0E9D51, 0x0040B02EFD0E9D51, 0x0080B02EFD0E9D51, 0x00C0B02EFD0E9D51, 0x0100B02EFD0E9D51,
      0x0140B02EFD0E9D51, 0x0180B02EFD0E9D51, 0x01C0B02EFD0E9D51, 0x0400B02EFD0E9D51, 0x0440B02EFD0E9D51,
      0x0480B02EFD0E9D51, 0x04C0B02EFD0E9D51, 0x0500B02EFD0E9D51, 0x0540B02EFD0E9D51] : List Nat).map (decodeTableWord 64) =
    [some (.iadd f), some (.isub f), some (.imul f), some (.imulh f), some (.imad f),
      some (.imadw f), some (.idiv f), some (.irem f), some (.imin f), some (.imax f),
      some (.iabs f), some (.ineg f), some (.iadds f), some (.isubs f)] := by decide

/-- Words by the field table of R208: dst v5, a s2, b −1, c p3, predicate !p2, type 7, round 2, marks a and c, flags 1; opcodes by R232 to R234. -/
theorem test_decode_logic :
    let f : FmtA3 := { dst := .v 5#8, a := .s 2#6, b := .neg 31#5, c := .p 3#3, pred := 10#4, ty := 7#4, rnd := 2#3, mark := 5#3, flg := 1#4 }
    ([0x0800B02EFD0E9D51, 0x0840B02EFD0E9D51, 0x0880B02EFD0E9D51, 0x08C0B02EFD0E9D51, 0x0900B02EFD0E9D51,
      0x0940B02EFD0E9D51, 0x0980B02EFD0E9D51, 0x09C0B02EFD0E9D51, 0x0C00B02EFD0E9D51, 0x0C40B02EFD0E9D51,
      0x0C80B02EFD0E9D51, 0x0CC0B02EFD0E9D51, 0x0D00B02EFD0E9D51, 0x0D40B02EFD0E9D51, 0x0D80B02EFD0E9D51] : List Nat).map (decodeTableWord 64) =
    [some (.andOp f), some (.orOp f), some (.xorOp f), some (.andn f), some (.shl f),
      some (.shr f), some (.sar f), some (.shf f), some (.bfe f), some (.bfi f),
      some (.popc f), some (.clz f), some (.ctz f), some (.brev f), some (.permb f)] := by decide

/-- Words by the field table of R208: dst v5, a s2, b −1, c p3, predicate !p2, type 7, round 2, marks a and c, flags 1; opcodes by R235, R236 and R240 to R242. -/
theorem test_decode_moves :
    let f : FmtA3 := { dst := .v 5#8, a := .s 2#6, b := .neg 31#5, c := .p 3#3, pred := 10#4, ty := 7#4, rnd := 2#3, mark := 5#3, flg := 1#4 }
    ([0x1000B02EFD0E9D51, 0x1040B02EFD0E9D51, 0x1080B02EFD0E9D51, 0x10C0B02EFD0E9D51, 0x1400B02EFD0E9D51,
      0x1440B02EFD0E9D51, 0x1480B02EFD0E9D51, 0x1800B02EFD0E9D51, 0x1840B02EFD0E9D51, 0x1C00B02EFD0E9D51] : List Nat).map (decodeTableWord 64) =
    [some (.isetp f), some (.sel f), some (.mov f), some (.nop f), some (.psetp f),
      some (.p2v f), some (.v2p f), some (.vote f), some (.matchOp f), some (.shfl f)] := by decide

/-- Words by the field table of R208: dst v5, a s2, b −1, c p3, predicate !p2, type 7, round 2, marks a and c, flags 1; opcodes by R254 to R259. -/
theorem test_decode_float :
    let f : FmtA3 := { dst := .v 5#8, a := .s 2#6, b := .neg 31#5, c := .p 3#3, pred := 10#4, ty := 7#4, rnd := 2#3, mark := 5#3, flg := 1#4 }
    ([0x4000B02EFD0E9D51, 0x4040B02EFD0E9D51, 0x4080B02EFD0E9D51, 0x40C0B02EFD0E9D51, 0x4400B02EFD0E9D51,
      0x4440B02EFD0E9D51, 0x4800B02EFD0E9D51, 0x4840B02EFD0E9D51, 0x4880B02EFD0E9D51, 0x48C0B02EFD0E9D51,
      0x4900B02EFD0E9D51, 0x4C00B02EFD0E9D51, 0x4C40B02EFD0E9D51, 0x4C80B02EFD0E9D51, 0x5000B02EFD0E9D51,
      0x5040B02EFD0E9D51, 0x5080B02EFD0E9D51, 0x50C0B02EFD0E9D51, 0x5100B02EFD0E9D51, 0x5140B02EFD0E9D51] : List Nat).map (decodeTableWord 64) =
    [some (.fadd f), some (.fsub f), some (.fmul f), some (.ffma f), some (.fabs f),
      some (.fneg f), some (.fdiv f), some (.fsqrt f), some (.frsq f), some (.fexp2 f),
      some (.flog2 f), some (.fscale f), some (.fgetexp f), some (.fcopysign f), some (.fmin f),
      some (.fmax f), some (.fminm f), some (.fmaxm f), some (.fsetp f), some (.fclass f)] := by decide

/-- Words by the field table of R208: dst v5, a s2, b −1, c p3, predicate !p2, type 7, round 2, marks a and c, flags 1; opcodes by R260 to R268. -/
theorem test_decode_convert :
    let f : FmtA3 := { dst := .v 5#8, a := .s 2#6, b := .neg 31#5, c := .p 3#3, pred := 10#4, ty := 7#4, rnd := 2#3, mark := 5#3, flg := 1#4 }
    ([0x5400B02EFD0E9D51, 0x5800B02EFD0E9D51, 0x5840B02EFD0E9D51, 0x5FC0B02EFD0E9D51, 0x6000B02EFD0E9D51,
      0x6040B02EFD0E9D51, 0x6400B02EFD0E9D51, 0x6440B02EFD0E9D51, 0x6480B02EFD0E9D51, 0x64C0B02EFD0E9D51,
      0x5C00B02EFD0E9D51, 0x5C40B02EFD0E9D51, 0x5C80B02EFD0E9D51, 0x5CC0B02EFD0E9D51, 0x5D00B02EFD0E9D51,
      0x5D40B02EFD0E9D51, 0x5D80B02EFD0E9D51, 0x5DC0B02EFD0E9D51, 0x5E00B02EFD0E9D51] : List Nat).map (decodeTableWord 64) =
    [some (.frnd f), some (.fcvt f), some (.fcvtSat f), some (.icvtf f), some (.fpack f),
      some (.funpk f), some (.fdot2 f), some (.fqblk f), some (.fnxenc f), some (.fnxdec f),
      some (.fcvti .i8 f), some (.fcvti .i16 f), some (.fcvti .i32 f), some (.fcvti .i64 f), some (.fcvti .n8 f),
      some (.fcvti .n16 f), some (.fcvti .n32 f), some (.fcvti .n64 f), some (.fcvti .i4 f)] := by decide

/-- Words by the field table of R208: dst v5, a s2, b −1, c p3, predicate !p2, type 7, round 2, marks a and c, flags 1; opcodes by R50, R291 and R316. -/
theorem test_decode_pointers :
    let f : FmtA3 := { dst := .v 5#8, a := .s 2#6, b := .neg 31#5, c := .p 3#3, pred := 10#4, ty := 7#4, rnd := 2#3, mark := 5#3, flg := 1#4 }
    ([0x7480B02EFD0E9D51, 0x74C0B02EFD0E9D51, 0x7500B02EFD0E9D51, 0x7540B02EFD0E9D51, 0x7580B02EFD0E9D51,
      0x75C0B02EFD0E9D51, 0x7600B02EFD0E9D51, 0xA000B02EFD0E9D51, 0xA440B02EFD0E9D51, 0xC000B02EFD0E9D51,
      0xC080B02EFD0E9D51, 0xC0C0B02EFD0E9D51, 0xC040B02EFD0E9D51, 0xC040B02EFD0E9D50] : List Nat).map (decodeTableWord 64) =
    [some (.padd f), some (.psub f), some (.peq f), some (.plt f), some (.ple f),
      some (.pname f), some (.pext f), some (.cairn f), some (.mzero f), some (.sring f),
      some (.spub f), some (.srel f), some (.sawaitFull f), some (.sawaitFree { f with flg := 0#4 })] := by decide

/-- Words of format AI (R208): dst v5, a s2, imm32 0x89AB_CDEF, predicate !p2; opcodes by R237, R243 and R316. -/
theorem test_decode_immediates :
    let f : FmtAI := { dst := .v 5#8, a := .s 2#6, imm := 0x89ABCDEF#32, pred := 10#4 }
    ([0x2000B0289ABCDEFA, 0x2040B0289ABCDEFA, 0x2080B0289ABCDEFA, 0x20C0B0289ABCDEFA, 0x2100B0289ABCDEFA,
      0x2140B0289ABCDEFA, 0x2400B0289ABCDEFA, 0x2440B0289ABCDEFA, 0x2480B0289ABCDEFA, 0x24C0B0289ABCDEFA,
      0x1880B0289ABCDEFA, 0xD000B0289ABCDEFA, 0xD040B0289ABCDEFA, 0xD080B0289ABCDEFA, 0xD0C0B0289ABCDEFA,
      0xD100B0289ABCDEFA] : List Nat).map (decodeTableWord 64) =
    [some (.iaddImm f), some (.iaddImm64 f), some (.imulImm f), some (.andImm f), some (.orImm f),
      some (.xorImm f), some (.movi f), some (.moviI64 f), some (.moviF64 f), some (.lea f),
      some (.syncw f), some (.rarriveM f), some (.rarriveK f), some (.rsyncM f), some (.rsyncK f),
      some (.rwait f)] := by decide

/-- Words of format M (R208): data v5, base s2, index −1, imm14 0x2345, predicate !p2, width 3, scope 5, order 2; opcodes by R270, R50 and R280 to R287. -/
theorem test_decode_memory :
    let f : FmtM := { data := .v 5#8, base := .s 2#6, index := .neg 31#5, imm := 0x2345#14, pred := 10#4, width := 3#3, scope := 5#3, order := 2#3 }
    ([0x7000B02EFC68B4EA, 0x7040B02EFC68B4EA, 0x7080B02EFC68B4EA, 0x7100B02EFC68B4EA, 0x7140B02EFC68B4EA,
      0x7180B02EFC68B4EA, 0x7200B02EFC68B4EA, 0x7240B02EFC68B4EA, 0x7280B02EFC68B4EA, 0x72C0B02EFC68B4EA,
      0x7300B02EFC68B4EA, 0x7340B02EFC68B4EA, 0x7400B02EFC68B4EA, 0x7440B02EFC68B4EA, 0x8000B02EFC68B4EA,
      0x8040B02EFC68B4EA, 0x8080B02EFC68B4EA, 0x80C0B02EFC68B4EA, 0x8400B02EFC68B4EA, 0x8440B02EFC68B4EA,
      0x8800B02EFC68B4EA, 0x8840B02EFC68B4EA] : List Nat).map (decodeTableWord 64) =
    [some (.ldGlobal f), some (.ldGlobalSigned f), some (.stGlobal f), some (.ldScratch f), some (.ldScratchSigned f),
      some (.stScratch f), some (.ldWeight f), some (.ldActivation f), some (.ldAccumulator f), some (.stWeight f),
      some (.stActivation f), some (.stAccumulator f), some (.ldn f), some (.stn f), some (.ldg2l f),
      some (.prefetch f), some (.cinv f), some (.cclean f), some (.fence f), some (.fenceSc f),
      some (.qpush f), some (.qpop f)] := by decide

/-- Words of format M (R208): data v5, base s2, index −1, imm14 0x2345, predicate !p2, width 3, scope 5, order 2; opcodes by the atomics' table: 0x1E0 + k (R277). -/
theorem test_decode_atoms :
    let f : FmtM := { data := .v 5#8, base := .s 2#6, index := .neg 31#5, imm := 0x2345#14, pred := 10#4, width := 3#3, scope := 5#3, order := 2#3 }
    ([0x7800B02EFC68B4EA, 0x7840B02EFC68B4EA, 0x7880B02EFC68B4EA, 0x78C0B02EFC68B4EA, 0x7900B02EFC68B4EA,
      0x7940B02EFC68B4EA, 0x7980B02EFC68B4EA, 0x79C0B02EFC68B4EA, 0x7A00B02EFC68B4EA, 0x7A40B02EFC68B4EA,
      0x7A80B02EFC68B4EA, 0x7AC0B02EFC68B4EA, 0x7B00B02EFC68B4EA, 0x7B40B02EFC68B4EA, 0x7B80B02EFC68B4EA] : List Nat).map (decodeTableWord 64) =
    [some (.atomAdd f), some (.atomMin f), some (.atomMinUnsigned f), some (.atomMax f), some (.atomMaxUnsigned f),
      some (.atomAnd f), some (.atomOr f), some (.atomXor f), some (.atomExch f), some (.atomCas f),
      some (.atomInc f), some (.atomDec f), some (.atomFadd f), some (.atomFmin f), some (.atomFmax f)] := by decide

/-- Words of format M (R208): data v5, base s2, index −1, imm14 0x2345, predicate !p2, width 3, scope 5, order 2; opcodes by the atomics' table: 0x1F0 + k, without exch and cas (R277). -/
theorem test_decode_reds :
    let f : FmtM := { data := .v 5#8, base := .s 2#6, index := .neg 31#5, imm := 0x2345#14, pred := 10#4, width := 3#3, scope := 5#3, order := 2#3 }
    ([0x7C00B02EFC68B4EA, 0x7C40B02EFC68B4EA, 0x7C80B02EFC68B4EA, 0x7CC0B02EFC68B4EA, 0x7D00B02EFC68B4EA,
      0x7D40B02EFC68B4EA, 0x7D80B02EFC68B4EA, 0x7DC0B02EFC68B4EA, 0x7E80B02EFC68B4EA, 0x7EC0B02EFC68B4EA,
      0x7F00B02EFC68B4EA, 0x7F40B02EFC68B4EA, 0x7F80B02EFC68B4EA] : List Nat).map (decodeTableWord 64) =
    [some (.redAdd f), some (.redMin f), some (.redMinUnsigned f), some (.redMax f), some (.redMaxUnsigned f),
      some (.redAnd f), some (.redOr f), some (.redXor f), some (.redInc f), some (.redDec f),
      some (.redFadd f), some (.redFmin f), some (.redFmax f)] := by decide

/-- Words of format B (R208): predicate !p2, mode 3, operand s2, reserved 0x15, target 0x89AB_CDEF; opcodes by R246. -/
theorem test_decode_control :
    let f : FmtB := { pred := 10#4, mode := 3#4, opnd := .s 2#6, rsv := 0x15#5, target := 0x89ABCDEF#32 }
    ([0x3028E05589ABCDEF, 0x3068E05589ABCDEF, 0x30A8E05589ABCDEF, 0x30E8E05589ABCDEF, 0x3128E05589ABCDEF,
      0x3168E05589ABCDEF] : List Nat).map (decodeTableWord 64) =
    [some (.bra f), some (.brx f), some (.call f), some (.ret f), some (.exitOp f),
      some (.yield f)] := by decide

/-- Words of format E (R208): p-operand v5, q-operand s2, predicate !p2, class 5, mode 3, reserved 0x234_5678; opcodes by R291 and R316. -/
theorem test_decode_engines :
    let f : FmtE := { p := .v 5#8, q := .s 2#6, pred := 10#4, cls := 5#3, mode := 3#3, rsv := 0x2345678#26 }
    ([0xA400B02AAE345678, 0xA480B02AAE345678, 0xA4C0B02AAE345678, 0xB800B02AAE345678, 0xB840B02AAE345678,
      0xB880B02AAE345678, 0xBC40B02AAE345678, 0xC800B02AAE345678] : List Nat).map (decodeTableWord 64) =
    [some (.mma f), some (.mdrain f), some (.dpload f), some (.xcopy f), some (.xgather f),
      some (.xlevel f), some (.waitc f), some (.rbegin f)] := by decide

/-- Words of format X (R208): dst v5, a s2, predicate !p2, reserved 0x1234; opcodes and selectors by R223, R245, R288, R291, R305 and R316. -/
theorem test_decode_format_x :
    let f (n : Nat) : FmtX := { dst := .v 5#8, a := .s 2#6, sel := BitVec.ofNat 16 n, pred := 10#4, rsv := 0x1234#16 }
    ([0x18C0B020007A1234, 0x1900B020000A1234, 0x8880B020001A1234, 0xA040B020000A1234, 0xA080B020000A1234,
      0xA800B020000A1234, 0xA840B020000A1234, 0xA840B020001A1234, 0xA880B020002A1234, 0xBC00B020009A1234,
      0xC840B020000A1234, 0xC880B020000A1234, 0xC8C0B020002A1234, 0xC900B020000A1234, 0xD140B020000A1234,
      0xD180B020000A1234, 0xD400B02ABCDA1234, 0xD440B02ABCDA1234] : List Nat).map (decodeTableWord 64) =
    [some (.srd (f 0x7)), some (.clock (f 0x0)), some (.qstat (f 0x1)), some (.cairnq (f 0x0)), some (.cairnx (f 0x0)),
      some (.tktake (f 0x0)), some (.tkpass (f 0x0)), some (.tkpassEnd (f 0x1)), some (.mstat (f 0x2)), some (.xstat (f 0x9)),
      some (.rchild (f 0x0)), some (.rdone (f 0x0)), some (.rframe (f 0x2)), some (.rres (f 0x0)), some (.rquery (f 0x0)),
      some (.lower (f 0x0)), some (.trap (f 0xABCD)), some (.bkpt (f 0xABCD))] := by decide

/-- Words of format X; opcodes by R316, selectors by R225, R342, R343 and R344. -/
theorem test_decode_privileged :
    let f (n : Nat) : FmtX := { dst := .v 5#8, a := .s 2#6, sel := BitVec.ofNat 16 n, pred := 10#4, rsv := 0x1234#16 }
    ([0xD800B020000A1234, 0xD840B020104A1234, 0xD880B020104A1234, 0xD880B020126A1234, 0xD880B020127A1234,
      0xD8C0B020004A1234, 0xD8C0B020001A1234, 0xD8C0B020006A1234, 0xD900B020000A1234, 0xD900B020001A1234,
      0xD900B020002A1234, 0xD900B020003A1234, 0xD900B020004A1234, 0xD900B020005A1234, 0xD900B020006A1234,
      0xD940B020000A1234, 0xD940B020001A1234, 0xD940B020002A1234, 0xD940B020003A1234] : List Nat).map (decodeTableWord 64) =
    [some (.svret (f 0x0)), some (.srdp (f 0x104)), some (.swrp (f 0x104)), some (.svRangeStage (f 0x126)), some (.svRangeApply (f 0x127)),
      some (.tlbiWorld (f 0x4)), some (.tlbiPage (f 0x1)), some (.tlbiAll (f 0x6)), some (.wsetResume (f 0x0)), some (.wsetRestart (f 0x1)),
      some (.wsetCancel (f 0x2)), some (.wsetKill (f 0x3)), some (.wsetPause (f 0x4)), some (.wsetUnpause (f 0x5)), some (.wsetReset (f 0x6)),
      some (.haltcDrain (f 0x0)), some (.haltcImm (f 0x1)), some (.haltcResume (f 0x2)), some (.haltcStep (f 0x3))] := by decide
/-! ### One step, with values from the spec's examples -/

theorem test_iadd_four_bytes :
    vAfter (.iadds (a3 (v 1) (v 2) (k 1) (k 0) 9)) (regs [(2, 0x7F0080FF#32)] [] []) 1 = some 0x7F018100#32 ∧
    vAfter (.iadd (a3 (v 1) (v 2) (k 1) (k 0) 9)) (regs [(2, 0x7F0080FF#32)] [] []) 1 = some 0x80018100#32 := by decide

theorem test_imulh : let g := regs [(2, 0xFFFFFFFF#32), (3, 0xFFFFFFFF#32)] [] []
    vAfter (.imulh (a3 (v 1) (v 2) (v 3) (k 0) 6)) g 1 = some 0xFFFFFFFE#32 ∧
    vAfter (.imulh (a3 (v 1) (v 2) (v 3) (k 0) 2)) g 1 = some 0#32 := by decide

theorem test_iabs_most_negative :
    vAfter (.iabs (a3 (v 1) (v 2) (k 0) (k 0) 2)) (regs [(2, 0x80000000#32)] [] []) 1 = some 0x80000000#32 := by decide

/-- R229: a zero divisor, the overflowing quotient, and a remainder with the sign of the dividend. -/
theorem test_division_corners :
    vAfter (.idiv (a3 (v 1) (v 2) (k 0) (k 0) 2)) (regs [(2, 7#32)] [] []) 1 = some 0xFFFFFFFF#32 ∧
    vAfter (.irem (a3 (v 1) (v 2) (k 0) (k 0) 2)) (regs [(2, 7#32)] [] []) 1 = some 7#32 ∧
    vAfter (.idiv (a3 (v 1) (v 2) (neg 1) (k 0) 2)) (regs [(2, 0x80000000#32)] [] []) 1 = some 0x80000000#32 ∧
    vAfter (.irem (a3 (v 1) (v 2) (k 2) (k 0) 2)) (regs [(2, 0xFFFFFFF9#32)] [] []) 1 = some 0xFFFFFFFF#32 := by decide

theorem test_saturation :
    vAfter (.iadds (a3 (v 1) (v 2) (v 3) (k 0) 0)) (regs [(2, 0x70#32), (3, 0x20#32)] [] []) 1 = some 0x7F#32 ∧
    vAfter (.isubs (a3 (v 1) (k 3) (k 5) (k 0) 6)) (regs [] [] []) 1 = some 0#32 := by decide

/-- R232: a shift by the width or more. -/
theorem test_shifts_by_the_width : let g := regs [(2, 0x80000001#32), (3, 32#32)] [] []
    vAfter (.shl (a3 (v 1) (v 2) (v 3) (k 0) 2)) g 1 = some 0#32 ∧
    vAfter (.shr (a3 (v 1) (v 2) (v 3) (k 0) 2)) g 1 = some 0#32 ∧
    vAfter (.sar (a3 (v 1) (v 2) (v 3) (k 0) 2)) g 1 = some 0xFFFFFFFF#32 := by decide

theorem test_bit_fields :
    vAfter (.bfe (a3 (v 1) (v 2) (k 4) (k 8) 2)) (regs [(2, 0xF80#32)] [] []) 1 = some 0xFFFFFFF8#32 ∧
    vAfter (.permb (a3 (v 1) (v 2) (v 3) (v 4) 6)) (regs [(2, 0x80#32), (3, 0x8899AABB#32), (4, 0x4567#32)] [] []) 1
      = some 0xBBAA9988#32 ∧
    vAfter (.permb (a3 (v 1) (v 2) (v 3) (k 8) 6)) (regs [(2, 0x80#32)] [] []) 1 = some 0x808080FF#32 := by decide

/-- R235, R236: a range test, NOT of p6 in the padded lanes, and V2P of bits 1 and 2. -/
theorem test_predicates :
    (after (.isetp (a3 (pr 1) (v 2) (k 0) (k 9) 2 6)) (wv (regs [(2, 9#32)] [] []))).map (fun w => (w.regs.readP 1).has 0)
      = some false ∧
    (after (.psetp (a3 (pr 3) (pr 6) (k 0) (k 0) 0 5)) (wv (regs [] [] []))).map (fun w => w.regs.readP 3) = some 0#32 ∧
    (after (.v2p (a3 (k 0) (v 9) (k 6) (k 0) 0)) (wv (regs [(9, 0x3D#32)] [] [(0, 0#32), (2, 0#32)]))).map (fun w =>
      ((w.regs.readP 0).has 0, (w.regs.readP 1).has 0, (w.regs.readP 2).has 0, (w.regs.readP 3).has 0))
      = some (false, false, true, false) := by decide

/-- R241: lanes 0 to 3 with a = 5, 7, 5, 5. -/
theorem test_match : (after (.matchOp (a3 (v 1) (v 2) (k 0) (k 0) 6))
    (wv { regs [] [] [] with v := [(64, 5#32), (65, 7#32), (66, 5#32), (67, 5#32)] })).map (fun w =>
      (w.regs.readV 1 0, w.regs.readV 1 1, w.regs.readV 1 3)) = some (13#32, 2#32, 13#32) := by decide

/-- R254: 1 + 2^-24 is a tie; RUP gives the next value up. -/
theorem test_fadd_tie : let g := regs [(2, 0x3F800000#32), (3, 0x33800000#32)] [] []
    fAfter (.fadd (a3 (v 1) (v 2) (v 3) (k 0) 2)) g 1 = some (0x3F800000#32, 16#7) ∧
    fAfter (.fadd { a3 (v 1) (v 2) (v 3) (k 0) 2 with rnd := 3#3 }) g 1 = some (0x3F800001#32, 16#7) := by decide

/-- R257: a quiet NaN and +0. -/
theorem test_fmax_nan :
    fAfter (.fmax (a3 (v 1) (v 2) (k 0) (k 0) 2)) (regs [(2, 0xFFC00000#32)] [] []) 1 = some (0#32, 0#7) := by decide

/-- R255: 128 overflows, -149 is exact, and 1/sqrt 4 is exact. -/
theorem test_functions :
    fAfter (.frsq (a3 (v 1) (v 2) (k 0) (k 0) 2)) (regs [(2, 0x40800000#32)] [] []) 1 = some (0x3F000000#32, 0#7) ∧
    fAfter (.fexp2 (a3 (v 1) (v 2) (k 0) (k 0) 2)) (regs [(2, 0x43000000#32)] [] []) 1 = some (0x7F800000#32, 20#7) ∧
    fAfter (.fexp2 (a3 (v 1) (v 2) (k 0) (k 0) 2)) (regs [(2, 0xC3150000#32)] [] []) 1 = some (1#32, 0#7) ∧
    fAfter (.fscale (a3 (v 1) (v 2) (neg 3) (k 0) 2)) (regs [(2, 0x3F800000#32)] [] []) 1 = some (0x3E000000#32, 0#7) := by
  decide +kernel

/-- All 32 lanes with values of their own. -/
def allLanes (x : List Word) : Wave :=
  { placedWave 0#64 with regs := { regs [] [] [] with v := (x.zipIdx).map (fun e => (128 + e.2, e.1)) } }

/-- 0.0 to 31.0 in binary32. -/
def upTo31 : List Word := (List.range 32).map (fun l => BitVec.ofNat 32 (f32.roundInt .rne false l 0 false).1)

/-- R266: lane l holds l. -/
theorem test_fqblk :
    (after (.fqblk (a3 (v 5) (v 4) (k 0) (k 0) 4 1)) (allLanes upTo31)).map (fun w =>
      (w.regs.readV 5 2, w.regs.readV 5 31, w.fpflags)) = some (0x7B60#32, 0x7B7E#32, 16#7) ∧
    (after (.fqblk (a3 (v 5) (v 4) (k 0) (k 0) 4 0)) (allLanes upTo31)).map (fun w =>
      (w.regs.readV 5 3, w.regs.readV 5 31, w.fpflags)) = some (0x27D0C#32, 0x27D7C#32, 0#7) := by decide +kernel

/-- R267, R268: 3.0, 20.0, 0.0 and -1.0. -/
theorem test_notch :
    (after (.fnxenc (a3 (v 5) (v 4) (k 0) (k 0) 7)) (allLanes [0x40400000#32, 0x41A00000#32, 0#32, 0xBF800000#32])).map (fun w =>
      (w.regs.readV 5 0, w.regs.readV 5 1, w.regs.readV 5 2, w.regs.readV 5 3, w.fpflags))
      = some (3#32, 8#32, 5#32, 10#32, 16#7) ∧
    (after (.fnxdec (a3 (v 5) (v 4) (k 0) (k 0) 2)) (allLanes [3#32, 8#32, 5#32, 10#32])).map (fun w =>
      (w.regs.readV 5 0, w.regs.readV 5 1, w.regs.readV 5 2, w.regs.readV 5 3, w.fpflags))
      = some (0x40400000#32, 0x41A00000#32, 0#32, 0#32, 0#7) := by decide +kernel

theorem test_classes_and_rounding :
    fAfter (.fclass (a3 (v 1) (v 2) (k 0) (k 0) 1)) (regs [(2, 1#32)] [] []) 1 = some (0x80#32, 0#7) ∧
    (fAfter (.frnd (a3 (v 1) (v 2) (k 0) (k 0) 2)) (regs [(2, 0x40200000#32)] [] []) 1).map Prod.fst = some 0x40000000#32 ∧
    (fAfter (.frnd { a3 (v 1) (v 2) (k 0) (k 0) 2 with rnd := 4#3 }) (regs [(2, 0x40200000#32)] [] []) 1).map Prod.fst
      = some 0x40400000#32 := by decide

/-- R261: 500 in E4M3, saturating and not. -/
theorem test_fcvt_e4m3 : let g := regs [(2, 0x43FA0000#32)] [] []
    fAfter (.fcvtSat (a3 (v 3) (v 2) (k 0) (k 0) 4 2)) g 3 = some (0x7E#32, 20#7) ∧
    (fAfter (.fcvt (a3 (v 3) (v 2) (k 0) (k 0) 4 2)) g 3).map Prod.fst = some 0x7F#32 := by decide

/-- R262, R263. -/
theorem test_integer_conversions :
    fAfter (.fcvti .i8 { a3 (v 1) (v 2) (k 0) (k 0) 0 2 with rnd := 1#3 }) (regs [(2, 0xC348B333#32)] [] []) 1
      = some (0xFFFFFF80#32, 1#7) ∧
    fAfter (.icvtf (a3 (v 1) (v 2) (k 0) (k 0) 2 6)) (regs [(2, 0xFFFFFFFF#32)] [] []) 1 = some (0x4F800000#32, 16#7) ∧
    (fAfter (.icvtf (a3 (v 1) (v 2) (k 0) (k 0) 0 2)) (regs [(2, 65520#32)] [] []) 1).map Prod.fst = some 0x7C00#32 := by
  decide

/-- R264, R265: packing 1 and -2 in BF16, and a dot product without intermediate rounding. -/
theorem test_packed :
    vAfter (.fpack (a3 (v 1) (v 2) (v 3) (k 0) 9)) (regs [(2, 0x3F800000#32), (3, 0xC0000000#32)] [] []) 1
      = some 0xC0003F80#32 ∧
    vAfter (.fdot2 (a3 (v 1) (v 2) (v 3) (v 4) 8)) (regs [(2, 0x0C000C00#32), (3, 0x0C000C00#32), (4, 0x3F800000#32)] [] []) 1
      = some 0x3F800001#32 := by decide

/-- R43: a displacement stays in its object, and integer addition does not. -/
theorem test_pointers : let g := regs [(8, 0xFFFFFFF0#32), (9, 0xA002C1FF#32)] [] []
    (after (.padd (a3 (v 10) (v 8) (k 32) (k 0) 2)) (wv g)).map (fun w => (w.regs.readV 10 0, w.regs.readV 11 0))
      = some (0x10#32, 0xA002C100#32) ∧
    (after (.iadd (a3 (v 10) (v 8) (k 32) (k 0) 3)) (wv g)).map (fun w => (w.regs.readV 10 0, w.regs.readV 11 0))
      = some (0x10#32, 0xA002C200#32) := by decide

/-- R274: 1.0 in binary64, and the integer 1. -/
theorem test_store_constants : (wv (regs [] [] [])).storeVal (fm (.flt 2#4) (sr 4) (k 0) 3) 0 = 0x3FF0000000000000 ∧
    (wv (regs [] [] [])).storeVal (fm (k 1) (sr 4) (k 0) 3) 0 = 1 := by decide

/-- The state after an instruction. -/
def next (i : Instr) (s : State) : Option State :=
  match exec i s with
  | .next t => some t
  | _ => none

/-- R24, R62, R113, R272: a store to the scratchpad leaves the highest lane's value, and a load sign-extends. -/
theorem test_scratchpad :
    let w := wv { regs [] [] [] with v := [(64, 0x11#32), (65, 0x22#32), (66, 0x33#32), (67, 0x1122F344#32)], s := [(4, 8#32)] }
    (next (.stScratch (fm (v 2) (sr 4) (k 0) 2)) (st w)).map (fun t => (t.core 0).lRead 264 4)
      = some [0x44#8, 0xF3#8, 0x22#8, 0x11#8] ∧
    ((next (.stScratch (fm (v 2) (sr 4) (k 0) 2)) (st w)).bind (fun t =>
      next (.ldScratchSigned (fm (v 1) (sr 4) (k 0) 1)) { t with waves := [(1, w)] })).bind (fun t =>
        (tget t.waves 1).map (fun w => w.regs.readV 1 0)) = some 0xFFFFF344#32 := by decide

/-- R55, R272: a load empties its destination, and the value arrives later. -/
theorem test_ldGlobal_empties :
    let w := sv (regs [] [(4, 0x1000#32)] [])
    let s := { st w with mem := [(0x1000, 0x80#8), (0x1002, 1#8)] }
    let t := next (.ldGlobal (fm (v 1) (sr 4) (k 0) 2)) s
    t.map (fun t => ((tget t.waves 1).map (fun w => (w.regs.vEmpty, w.loads.length)))) = some (some ([32], 1)) ∧
    (t.bind (fun t => next .loadValueReturn { t with arg := { a := 1 } })).bind (fun t =>
      (tget t.waves 1).map (fun w => (w.regs.vEmpty, w.regs.readV 1 0))) = some ([], 0x10080#32) := by decide

/-- R125, R277: an atomic changes memory when it drains, and the old value returns. -/
theorem test_atom_inc :
    let w := sv (regs [] [(4, 0x1000#32)] [])
    let s := { st w with mem := [(0x1000, 5#8)] }
    let t := next (.atomInc (fm (v 1) (sr 4) (k 5) 2 4 6)) s
    t.map (fun t => t.peekNat 0x1000 4) = some 5 ∧
    (t.bind (fun t => next .storeQueueDrain { t with arg := { a := 1 } })).map (fun t =>
      (t.peekNat 0x1000 4, (tget t.waves 1).map (fun w => w.regs.readV 1 0))) = some (0, some 5#32) := by decide

/-- R219, R359: a refused field raises RESERVED_FIELD, and the wave is lowered. -/
theorem test_reserved_field :
    (after (.iadd (a3 (v 1) (v 2) (k 4) (k 1) 2)) (wv (regs [] [] []))).map (fun w => (w.status, w.cause.map (fun r => r.code)))
      = some (.faulted, some 3#8) := by decide

/-- R224: a privileged instruction in an ordinary wave. -/
theorem test_privilege :
    (after (.svret (fx (k 0) (k 0) 0)) (wv (regs [] [] []))).map (fun w => w.cause.map (fun r => r.code)) = some (some 4#8) := by
  decide

/-- R217: a trap-on-empty mark, and a stall without it. -/
theorem test_empty_read : let g := { regs [] [] [] with vEmpty := [64] }
    (after (.iadd { a3 (v 1) (v 2) (k 4) (k 0) 2 with mark := 1#3 }) (wv g)).map (fun w => w.cause.map (fun r => r.code))
      = some (some 5#8) ∧
    (after (.iadd (a3 (v 1) (v 2) (k 4) (k 0) 2)) (wv g)).map (fun w => (w.stalled, w.status)) = some (true, .slot) := by decide

/-- R248, R182: a call writes the link of its active lanes. -/
theorem test_call : (after (.call (fb (v 30) 1#32)) (wv (regs [] [] []))).map (fun w =>
    (w.regs.readV 30 0, w.bundle.map (fun b => b.pc))) = some (0x1010#32, some 8#32) := by decide

/-- R192: the arrival that reaches the expected count completes the phase. -/
theorem test_rarrive : let e : Ridge := { members := 1#48, num := 1, owner := 0, arrived := 0, expect := 0, expset := false
                                          phase := false, hold := false }
    (next (.rarriveM (ai (k 1) (k 4) 15#32)) { st (wv (regs [] [] [])) with
      cores := [(0, { CoreSt.init with ridges := [(0, e)] })] }).map (fun t =>
        (tget (t.core 0).ridges 0).map (fun e => (e.phase, e.arrived))) = some (some (true, 0)) := by decide

/-- R225, R341: a write of SV_WORLD with a reserved bit is refused, and one without is not. -/
theorem test_swrp :
    (after (.swrp (fx (pr 1) (sr 4) 0x104)) (sv (regs [] [(4, 64#32)] []))).map (fun w => (w.sv.world, w.regs.readP 1))
      = some (0#64, 0#32) ∧
    (after (.swrp (fx (pr 1) (sr 4) 0x104)) (sv (regs [] [(4, 9#32)] []))).map (fun w => (w.sv.world, w.regs.readP 1))
      = some (9#64, 1#32) := by decide
/-! ### States that meet the hypotheses of the statements -/

/-- The instruction issues in a wave of this shape. -/
def ready (w : Wave) (i : Instr) : Bool := issues i (st w) w

/-- A wave whose registers are all full. -/
def w0 : Wave := wv (regs [(2, 5#32)] [(4, 0x1000#32)] [])

theorem witness_IntegerArithmetic : ([.iadd (a3 (v 1) (v 2) (k 4) (k 0) 9), .isub (a3 (v 2) (v 4) (k 4) (k 0) 3),
    .imul (a3 (v 1) (v 2) (k 4) (k 0) 2), .imulh (a3 (v 2) (v 4) (k 4) (k 0) 7), .imad (a3 (v 1) (v 2) (k 4) (v 3) 6),
    .imadw (a3 (v 2) (v 1) (k 4) (v 4) 2), .imin (a3 (sr 1) (sr 2) (k 4) (k 0) 9), .imax (a3 (v 1) (pr 2) (neg 4) (k 0) 2),
    .iabs (a3 (v 1) (v 2) (k 0) (k 0) 9), .ineg (a3 (v 2) (v 4) (k 0) (k 0) 7)] : List Instr).all (ready w0) = true := by decide

theorem witness_DivisionAndSaturation : ([.idiv (a3 (v 1) (v 2) (k 0) (k 0) 2), .irem (a3 (v 2) (v 4) (neg 1) (k 0) 7),
    .iadds (a3 (v 1) (v 2) (k 4) (k 0) 0), .isubs (a3 (v 2) (v 4) (k 4) (k 0) 7)] : List Instr).all (ready w0) = true := by
  decide

theorem witness_LogicAndShifts : ([.andOp (a3 (v 1) (v 2) (k 4) (k 0) 2), .orOp (a3 (v 2) (v 4) (k 4) (k 0) 3),
    .xorOp (a3 (v 1) (v 2) (k 4) (k 0) 6), .andn (a3 (v 2) (v 4) (k 4) (k 0) 7), .shl (a3 (v 1) (v 2) (k 32) (k 0) 2),
    .shr (a3 (v 2) (v 4) (k 63) (k 0) 7), .sar (a3 (v 1) (v 2) (neg 1) (k 0) 2), .shf (a3 (v 1) (v 2) (k 4) (v 3) 6 1)] :
    List Instr).all (ready w0) = true := by decide

theorem witness_BitFields : ([.bfe (a3 (v 1) (v 2) (k 4) (k 8) 2), .bfi (a3 (v 2) (v 4) (v 6) (v 1) 7),
    .popc (a3 (v 1) (v 2) (k 0) (k 0) 7), .clz (a3 (v 1) (v 2) (k 0) (k 0) 6), .ctz (a3 (v 1) (v 2) (k 0) (k 0) 6),
    .brev (a3 (v 2) (v 4) (k 0) (k 0) 7), .permb (a3 (v 1) (v 2) (v 3) (v 4) 6)] : List Instr).all (ready w0) = true := by decide

theorem witness_ComparesAndMoves : ([.isetp (a3 (pr 5) (v 2) (k 4) (k 0) 2 5), .isetp (a3 (pr 0) (v 2) (k 4) (v 4) 7 7),
    .sel (a3 (v 1) (v 2) (k 4) (pr 7) 2), .mov (a3 (v 1) (pr 2) (k 0) (k 0) 2), .nop (a3 (k 0) (k 0) (k 0) (k 0) 0),
    .psetp (a3 (pr 3) (pr 6) (k 0) (k 0) 0 5), .psetp (a3 (pr 3) (pr 6) (pr 7) (k 0) 0), .p2v (a3 (v 1) (k 0) (k 0) (k 0) 0),
    .v2p (a3 (k 0) (v 9) (k 63) (k 0) 0)] : List Instr).all (ready w0) = true := by decide

theorem witness_ImmediateForms : ([.iaddImm (ai (v 1) (v 2) 1000#32), .iaddImm64 (ai (v 2) (v 4) 0x80000000#32),
    .imulImm (ai (v 1) (v 2) 9#32), .andImm (ai (sr 1) (sr 2) 9#32), .orImm (ai (v 1) (pr 2) 9#32),
    .xorImm (ai (v 1) (k 2) 9#32), .movi (ai (v 1) (k 0) 9#32), .moviI64 (ai (v 2) (k 0) 9#32),
    .moviF64 (ai (sr 2) (k 0) 0x7FC00000#32), .lea (ai (v 2) (k 0) 9#32)] : List Instr).all (ready w0) = true := by decide

theorem witness_WaveOperations : ([.vote (a3 (pr 1) (v 2) (k 0) (k 0) 0), .vote (a3 (sr 1) (v 2) (k 0) (k 0) 0 5),
    .matchOp (a3 (v 1) (v 2) (k 0) (k 0) 7), .shfl (a3 (v 1) (v 2) (k 1) (k 32) 6 2)] : List Instr).all (ready w0) = true ∧
    ∀ l, w0.regs.empty (v 2) 1 (Mask.single l) = false ∧ w0.regs.busy (v 2) 1 (Mask.single l) = false ∧
      w0.regs.bad (v 2) 1 (Mask.single l) = false := by
  refine ⟨by decide, fun l => ?_⟩
  simp [w0, wv, regs, v, Regs.empty, Regs.busy, Regs.bad, listed]

theorem witness_SpecialRegisters : ((List.range 16).map (fun n => Instr.srd (fx (v 2) (k 0) n))).all (ready w0) = true ∧
    ready w0 (.clock (fx (sr 2) (k 0) 0)) = true ∧ w0.regs.vEmpty = [] ∧ w0.regs.sEmpty = [] := by decide

theorem witness_FloatArithmetic : ([.fadd (a3 (v 1) (v 2) (.flt 2#4) (k 0) 2), .fsub { a3 (v 2) (v 4) (v 6) (k 0) 3 with rnd := 5#3 },
    .fmul (a3 (v 1) (v 2) (v 3) (k 0) 8), .ffma { a3 (v 1) (v 2) (v 3) (v 4) 9 with rnd := 4#3 }, .fabs (a3 (v 1) (v 2) (k 0) (k 0) 8),
    .fneg (a3 (v 2) (v 4) (k 0) (k 0) 3), .fcopysign (a3 (v 1) (v 2) (v 3) (k 0) 0)] : List Instr).all (ready w0) = true := by decide

theorem witness_FloatFunctionsAndTests : ([.fdiv (a3 (v 1) (v 2) (v 3) (k 0) 2), .fsqrt (a3 (v 2) (v 4) (k 0) (k 0) 3),
    .frsq (a3 (v 1) (v 2) (k 0) (k 0) 1), .fexp2 (a3 (v 1) (v 2) (k 0) (k 0) 0), .flog2 (a3 (v 1) (v 2) (k 0) (k 0) 2),
    .fscale (a3 (v 2) (v 4) (neg 3) (k 0) 3), .fgetexp (a3 (v 1) (v 2) (k 0) (k 0) 3), .fmin (a3 (v 1) (v 2) (v 3) (k 0) 8),
    .fmax (a3 (v 1) (v 2) (k 0) (k 0) 2), .fminm (a3 (v 1) (v 2) (v 3) (k 0) 9), .fmaxm (a3 (v 1) (v 2) (v 3) (k 0) 0),
    .fsetp (a3 (pr 1) (v 2) (v 3) (v 4) 2 8), .fclass (a3 (v 1) (v 2) (k 0) (k 0) 1)] : List Instr).all (ready w0) = true := by decide

theorem witness_FloatConversions : ([.frnd (a3 (v 1) (v 2) (k 0) (k 0) 2 1), .fcvt (a3 (v 2) (v 1) (k 0) (k 0) 3 6),
    .fcvtSat (a3 (v 1) (v 2) (k 0) (k 0) 4 2), .icvtf (a3 (v 1) (v 2) (k 0) (k 0) 0 8), .fpack (a3 (v 1) (v 2) (v 3) (k 0) 8),
    .funpk (a3 (v 1) (v 2) (k 0) (k 0) 9 1)] : List Instr).all (ready w0) = true ∧
    ([.i8, .i16, .i32, .i64, .i4, .n8, .n16, .n32, .n64] : List CvtInt).all (fun t =>
      ready w0 (.fcvti t (a3 (v 2) (v 4) (k 0) (k 0) 0 2))) = true := by decide

theorem witness_DotAndQuantise : ([.fdot2 (a3 (v 1) (v 2) (v 3) (v 4) 8), .fqblk (a3 (v 1) (v 2) (k 0) (k 0) 4 0),
    .fqblk (a3 (v 1) (v 2) (k 0) (k 0) 6 3), .fnxenc (a3 (v 1) (v 2) (k 0) (k 0) 7), .fnxdec (a3 (v 1) (v 2) (k 0) (k 0) 2)] :
    List Instr).all (ready w0) = true := by decide

/-- A wave with p1 set in lane 0, code addresses in d20 and s-pairs: good, not canonical, outside and misaligned. -/
def wj : Wave := { wv (regs [] [(4, 0x1008#32), (6, 0#32), (7, 0x02000000#32), (8, 0x1010#32), (10, 0x1004#32)] [(1, 1#32)]) with depth := 3 }

theorem witness_ControlTransfers : let f : FmtB := fb (k 0) 1#32
    let s := st wj
    let b : Entry := (wj.bundle).getD { pc := 0#32, prio := 0#16, ridx := 0, yld := false, hld := false, bwt := none, passed := false, mask := 0#32 }
    let never (i : Instr) : Bool := ready wj i && decide (wj.active i = 0#32)
    let acts (i : Instr) : Bool := ready wj i && decide (wj.active i ≠ 0#32)
    let fits (m : Mask) (l : List Word) : Bool := decide (frontierCount wj b (s.clauseLen wj b) m l ≤ wj.depth)
    wj.bundle = some b ∧
    ([.bra { f with pred := 15#4 }, .brx { fb (sr 4) 0#32 with pred := 15#4 }, .call { fb (sr 4) 1#32 with pred := 15#4 },
      .ret { fb (sr 4) 0#32 with pred := 15#4 }, .exitOp { fb (k 0) 0#32 with pred := 15#4 },
      .yield { fb (k 0) 0#32 with pred := 15#4 }] : List Instr).all never = true ∧
    ([.bra f, .call (fb (sr 4) 1#32), .brx (fb (sr 4) 0#32), .ret (fb (sr 4) 0#32), .yield (fb (k 0) 0#32),
      .exitOp { fb (k 0) 0#32 with pred := 1#4 }, .exitOp (fb (k 0) 0#32)] : List Instr).all acts = true ∧
    fits 15#32 [8#32] = true ∧ fits 0#32 [] = true ∧ fits 1#32 [] = true ∧ wj.src (sr 4) 2 0 = 0x1008 ∧
    b.mask &&& ~~~(wj.active (.exitOp { fb (k 0) 0#32 with pred := 1#4 })) ≠ 0#32 ∧
    b.mask &&& ~~~(wj.active (.exitOp (fb (k 0) 0#32))) = 0#32 ∧ wj.left = [] ∧ wj.others = [] ∧
    (List.range 5).all (fun c => decide (wj.cntOf c = 0)) = true := by decide

theorem witness_JumpConditions : ([.brx (fb (sr 6) 0#32), .ret (fb (sr 6) 0#32), .brx (fb (sr 8) 0#32), .ret (fb (sr 10) 0#32)] :
    List Instr).all (fun i => ready wj i && decide (0 ∈ Mask.lanes (wj.active i))) = true ∧
    2 ^ 57 ≤ wj.src (sr 6) 2 0 ∧ wj.src (sr 8) 2 0 = wj.codeBase + wj.extent ∧ wj.src (sr 10) 2 0 = wj.codeBase + 4 := by decide

/-- An entry of the frontier at a PC. -/
def ent (pc : Word) (mask : Mask) : Entry :=
  { pc := pc, prio := 0#16, ridx := 0, yld := false, hld := false, bwt := none, passed := false, mask := mask }

theorem witness_SummitRanksFirst : chooseSummit [ent 8#32 1#32, ent 0#32 2#32] = some (ent 0#32 2#32) ∧
    chooseSummit [{ ent 8#32 1#32 with hld := true }] = none := by decide

/-- A ridge of one member, and the machine with it. -/
def rg1 : Ridge := { members := 1#48, num := 1, owner := 0, arrived := 0, expect := 0, expset := false, phase := false, hold := false }
@[inherit_doc rg1] def sb (w : Wave) : State := { st w with cores := [(0, { CoreSt.init with ridges := [(0, rg1)] })] }
/-- A wave with its mask in v2 and the count 4 in every lane of v3. -/
def wb : Wave := { w0 with regs := { regs [] [] [] with v := (List.range 4).map (fun l => (64 + l, 15#32)) } }

theorem witness_Barriers : let s := sb wb
    let meets (i : Instr) : Bool := issues i s wb && decide (wb.active i = 15#32)
    ([.syncw (ai (k 0) (v 2) 0#32), .syncw (ai (k 0) (k 0) 15#32), .rarriveM (ai (k 1) (k 8) 15#32), .rsyncM (ai (k 1) (k 4) 15#32),
      .rarriveK (ai (k 1) (v 2) 8#32), .rsyncK (ai (k 1) (v 2) 4#32), .rwait (ai (k 1) (k 0) 15#32)] : List Instr).all meets = true ∧
    ([.syncw { ai (k 0) (k 0) 15#32 with pred := 15#4 }, .rarriveM { ai (k 1) (k 8) 15#32 with pred := 15#4 },
      .rarriveK { ai (k 1) (v 2) 8#32 with pred := 15#4 }, .rsyncM { ai (k 1) (k 4) 15#32 with pred := 15#4 },
      .rsyncK { ai (k 1) (v 2) 4#32 with pred := 15#4 }, .rwait { ai (k 1) (k 0) 15#32 with pred := 15#4 }] : List Instr).all
      (fun i => issues i s wb && decide (wb.active i = 0#32)) = true ∧
    (Mask.lanes 15#32).all (fun l => decide (BitVec.ofNat 32 (wb.src (v 2) 1 l) = 15#32)) = true ∧ 15#32 &&& wb.exited = 0#32 ∧
    wb.cleanDue = false ∧ s.ridgeOf wb (wb.src (k 1) 1 0) = some (0, rg1) ∧ rg1.members.getLsbD wb.num = true ∧
    8 ≤ 32 * rg1.members.cpop.toNat ∧ (Mask.lanes 15#32).length = 4 ∧ wb.ridges = [] ∧
    issues (.rquery (fx (sr 4) (k 1) 0)) s wb = true ∧ issues (.lower (fx (k 0) (k 0) 0)) s wb = true := by decide

theorem witness_PhaseCompletion : let w := { wb with ridges := [{ num := 1, pending := true, phase := false }] }
    tget (sb w).waves 1 = some w ∧ w.wg = 0 ∧ w.sup = false ∧ ((sb w).waves.map (fun x => x.1)).Nodup ∧
    w.ridgeRec rg1.num = some { num := 1, pending := true, phase := false } ∧ rg1.phase = false := by decide

theorem witness_RoundingModes : (roundAt .rne false 1 0 1 false).1 = 0 ∧ (roundAt .rna false 1 0 1 false).1 = 1 ∧
    (roundAt .rup true 1 0 1 false).1 = 0 ∧ (roundAt .rup false 1 0 1 false).1 = 1 := by decide

theorem witness_StepKeepsMemoryCanonical : State.reset.memOk = true ∧ (match step State.reset with
    | .next _ => true
    | _ => false) = true := by decide

theorem witness_DecodeOfEncode : Instr.wf (.imad (a3 (v 4) (sr 2) (k 4) (v 1) 2)) = true := by decide

theorem witness_EncodeOfDecode : decodeWord 0x0100902C2005C800#64 = .ok (.imad (a3 (v 4) (sr 2) (k 4) (v 1) 2)) := rfl

/-- The machine with the word of NOP, or another, where its next step issues it. -/
def at' (x : Nat) : State := State.reset.withFetchWord 64 x

/-- Whether the wave that a step picks has a word, and whether that decodes. -/
def picked (s : State) : Option (Option Bool) :=
  ({ s with clock := s.clock + 1#64 } : State).pick.map (fun (x : Nat × Wave) => x.2.word.map (fun y => (decodeWord y).toOption.isSome))

theorem witness_StepRunsDecoded : (at' 0).agenda = [] ∧ (at' 0).plat.boot ≠ .lost ∧ (at' 0).bg = false ∧
    picked (at' 0x10EC180C0601C000) = some (some true) ∧ picked (at' 0x0200000000000000) = some (some false) ∧
    picked { at' 0 with waves := [(1, { w0 with clause := none })] } = some none ∧
    (next .sliceEnd { at' 0 with clock := 1#64 }).isSome = true ∧
    ({ at' 0 with clock := 1#64, waves := [] } : State).nextEvent = none ∧
    (({ at' 0 with clock := 1#64, waves := [], unconf := [{ line := 5, waiting := [2], users := [] }] } : State).nextEvent).map
      (fun (x : Instr × Arg) => (x.1, (next x.1 { at' 0 with clock := 1#64, arg := x.2 }).isSome)) = some (.lineConfirm, true) := by
  decide

/-- A request without an answer, and a wave whose bundle it holds beside an entry that could go on. -/
def rq0 : Request := { wave := 1, world := 0, lane := 0, die := 0, addr := 0, width := 4, va := 0, install := true, answer := none, op := none, posted := false, sent := 0, bytes := [], atomic := none }
@[inherit_doc rq0] def wt0 : Wave := { w0 with hold := [(0, 7)], others := [ent 8#32 16#32], clause := some { pc := 0#32, header := 0#64, words := [0#64] } }

theorem witness_StepRunsDecoded_held :
    let s : State := { at' 0 with clock := 1#64, waves := [(1, wt0)], fab := { (at' 0).fab with requests := [(7, rq0)] } }
    s.pick.map (fun (x : Nat × Wave) => (x.1, s.answered x.2)) = some (1, false) ∧ ((at' 0).core 0).stepping = none := by decide

theorem witness_DecodeStepConditions : encodable (.svret (fx (k 0) (k 0) 0)) = true ∧ privileged (.svret (fx (k 0) (k 0) 0)) = true ∧
    w0.sup = false ∧ encodable (.iadd (a3 (v 1) (v 2) (k 4) (k 1) 2)) = true ∧ privileged (.iadd (a3 (v 1) (v 2) (k 4) (k 1) 2)) = false ∧
    fieldsOk (.iadd (a3 (v 1) (v 2) (k 4) (k 1) 2)) = false ∧ (st w0).curWave = some w0 ∧ w0.status = .slot ∧ w0.bundle ≠ none := by decide

theorem witness_EmptyRegisters : let w := { w0 with regs := { w0.regs with vEmpty := [65] } }
    let i : Instr := .iadd (a3 (v 1) (v 2) (k 4) (k 0) 2)
    let j : Instr := .iadd { a3 (v 1) (v 2) (k 4) (k 0) 2 with mark := 1#3 }
    (st w).curWave = some w ∧ fieldsOk i = true ∧ fieldsFit w.nv w.firstFrontier j = true ∧ fieldsOk j = true ∧
    regState w.regs (w.active i) (regSlots i) = .stall ∧ regState w.regs (w.active j) (regSlots j) = .emptyRead 1 := by decide

/-- A fault record of a wave's decode step. -/
def rec0 : FaultRec := w0.mkRec 3 0 0

theorem witness_TakingACondition : w0.sup = false ∧ w0.fillsDue = false ∧ (st w0).managerToo w0.world rec0 = false ∧
    (sv (regs [] [] [])).sup = true ∧ (sv (regs [] [] [])).bundle.isSome = true := by decide

theorem witness_AdvanceFrame : let w := { w0 with clause := some { pc := 0#32, header := 0#64, words := [0#64, 0#64] } }
    tget (st w).waves 1 = some w ∧ (w.bundle.map (fun b => (b.ridx, decide (b.mask = 0#32)))) = some (0, false) := by decide

theorem witness_DestinationWrite : ∀ l, l < 32 → Mask.has 5#32 l = true → (fun _ => 7 : Nat → Nat) l = 7 := fun _ _ _ => rfl

theorem witness_RegisterFrame : registerOnly (.iadd (a3 (v 1) (v 2) (k 4) (k 0) 2)) = true ∧
    ready w0 (.iadd (a3 (v 1) (v 2) (k 4) (k 0) 2)) = true ∧
    (next (.iadd (a3 (v 1) (v 2) (k 4) (k 0) 2)) (st w0)).isSome = true := by decide
/-- What a format M instruction meets on its way to memory: the states and addresses of `goesOn` and `reaches`. -/
def reached (i : Instr) (f : FmtM) (ix : Bool) (n : Nat) (acc : Access) (order : Nat) (s : State) (w : Wave) :
    Option (State × List (Nat × GAddr) × List (Nat × Nat) × State) :=
  if issues i s w = true ∧ actingLanes f (w.active i) ≠ 0#32 then
    match s.before s.cur w order f.scope.toNat with
    | .go s1 =>
      let w1 := tgetD s1.waves s.cur w
      match formLanes (s1.formLane w1 f ix n) (Mask.lanes (actingLanes f (w.active i))) with
      | .error _ => none
      | .ok l =>
        match s1.xlateFor w1 acc l with
        | .ok pas s' =>
          let s2 := s'.updWave s.cur (fun w => { w with denied := [] })
          if ∀ x ∈ pas, s2.isRemote x.2 = false then some (s1, l, pas, s2) else none
        | _ => none
    | _ => none
  else none

theorem reached_meets {i : Instr} {f : FmtM} {ix : Bool} {n : Nat} {acc : Access} {order : Nat} {s : State} {w : Wave}
    {s1 s2 : State} {l : List (Nat × GAddr)} {pas : List (Nat × Nat)}
    (h : reached i f ix n acc order s w = some (s1, l, pas, s2)) :
    goesOn i f order s w s1 ∧ reaches i f ix n acc s w s1 l pas s2 := by
  unfold reached at h
  split at h
  · rename_i hi
    split at h
    · rename_i t hb
      dsimp only at h
      split at h
      · simp at h
      · rename_i l' hl
        split at h
        · rename_i pas' s' hx
          split at h
          · rename_i hr
            simp only [Option.some.injEq, Prod.mk.injEq] at h
            obtain ⟨rfl, rfl, rfl, rfl⟩ := h
            exact ⟨⟨hi.1, hi.2, hb⟩, hl, ⟨_, hx, rfl⟩, hr⟩
          · simp at h
        · simp at h
    · simp at h
  · simp at h

/-- A supervisor wave with an address in s4 and s5, and another of one lane that is none. -/
def wm : Wave := sv (regs [(2, 7#32), (6, 0x1000#32)] [(4, 0x1000#32), (8, 64#32), (10, 0x12345678#32)] [])
@[inherit_doc wm] def w1 : Wave := { w0 with bundle := w0.bundle.map (fun b => { b with mask := 1#32 }) }

/-- A held cairn of the workgroup over the first 64 lines of a buffer. -/
def held (b : Nat) : BitVec 128 := BitVec.ofNat 128 (b + 1 * 4 + 6 * 2 ^ 8 + 63 * 2 ^ 48)
/-- The machine with a wave and a core that holds such records. -/
def sc (w : Wave) : State := { st w with cores := [(0, { CoreSt.init with cairns := [(0, held 0), (1, held 1), (2, held 2)] })] }

/-- The conditions of an on-chip access hold in the state in which it goes on. -/
def chipMeets (i : Instr) (f : FmtM) (order : Nat) (b : Option Nat) : Bool :=
  match State.before (sc w1) 1 w1 order f.scope.toNat with
  | .go t =>
    let v := tgetD t.waves 1 w1
    issues i (sc w1) w1 && decide (actingLanes f (w1.active i) = 1#32) && decide (chipAddr v f 0 % 2 ^ f.width.toNat = 0)
      && decide (0 ≤ chipAddr v f 0) && decide (chipAddr v f 0 + 2 ^ f.width.toNat ≤ 4096) && decide (t.lSize v = 4096)
      && (match b with
        | none => true
        | some k => decide (4 ≤ 2 ^ f.width.toNat) &&
            ((t.core v.core).covering (t.slotOf v) k (chipAddr v f 0).toNat (2 ^ f.width.toNat)).isSome)
  | _ => false

theorem witness_OnChipLoads : (let f := { fm (v 2) (v 2) (k 11) 2 with pred := 7#4 }
    (chipLoads f).all (fun x => if x.2.2 then chipMeets (.ldScratchSigned (fm (v 2) (v 2) (k 11) 1)) (fm (v 2) (v 2) (k 11) 1) 0 none
      else chipMeets x.1 f 0 x.2.1)) = true ∧
    chipMeets (.ldScratch (fm (v 2) (v 2) (k 11) 2 2 5)) (fm (v 2) (v 2) (k 11) 2 2 5) 5 none = true := by decide

/-- A load of v8 from a physical address, that has no value yet. -/
def ld0 : LoadOp :=
  { stamp := 1, dst := v 8, width := 4, signed := false, inv := false, lanes := [(0, .phys 0x1000)], who := { cls := 0, core := 0, index := 0, deadline := none } }

theorem witness_OnChipLoads_behind : let f := fm (v 2) (v 2) (k 11) 2
    let w := { w1 with loads := [ld0] }
    issues (.ldScratch f) (sc w) w = true ∧ (match State.before (sc w) 1 w 0 0 with
      | .go t => decide ((tgetD t.waves 1 w).loads ≠ []) && (Mask.lanes (actingLanes f (w.active (.ldScratch f)))).all (fun l =>
          !(t.core 0).badAt 3 (chipByte t w f none l) 4) && !t.chipDue 0
      | _ => false) = true ∧ (sc w1).chipDue 0 = false ∧
    ([none, some 0, some 1, some 2] : List (Option Nat)).all (fun b => !((sc w1).core 0).badAt (b.getD 3) 0 4) = true := by decide

theorem witness_OnChipStores : (chipStores (fm (v 3) (v 2) (k 11) 2)).all (fun x => chipMeets x.1 (fm (v 3) (v 2) (k 11) 2) 0 x.2) = true ∧
    chipMeets (.stScratch (fm (v 3) (v 2) (k 11) 2 2 5)) (fm (v 3) (v 2) (k 11) 2 2 5) 3 none = true ∧
    Memory.wf ((sc w1).core 0).lmem = true ∧ Memory.wf ((sc w1).core 0).wbuf = true := by decide

theorem witness_GlobalLoads : ([(.ldGlobal (fm (v 1) (sr 4) (k 0) 2), 2), (.ldGlobalSigned (fm (v 1) (sr 4) (k 0) 1), 1)] : List (Instr × Nat)).all
    (fun x => match reached x.1 (fm (v 1) (sr 4) (k 0) x.2) true (2 ^ x.2) .load 0 (st wm) wm with
      | some (s1, _, pas, s2) => (match s2.dataCheck (tgetD s1.waves 1 wm) (2 ^ x.2) pas with
        | .ok s3 => decide (wm.hold = [] ∧ (tgetD s3.waves 1 wm).hold = []) && pas.all (fun y => !s3.inPrivate y.2)
        | _ => false)
      | none => false) = true := by decide

theorem witness_GlobalStores :
    (match reached (.stGlobal (fm (v 2) (sr 4) (k 0) 2)) (fm (v 2) (sr 4) (k 0) 2) true 4 .store 0 (st wm) wm with
      | some (s1, _, _, s2) => (tgetD s1.waves 1 wm).queueRoom && (tgetD s2.waves 1 wm).queueRoom && (tget s2.waves 1).isSome
      | none => false) = true ∧
    (match reached (.stn (fm (sr 4) (sr 4) (k 0) 4)) (fm (sr 4) (sr 4) (k 0) 4) true 16 .store 0 (st wm) wm with
      | some (s1, l, pas, s2) => (tgetD s1.waves 1 wm).queueRoom && (tgetD s2.waves 1 wm).queueRoom && (tget s2.waves 1).isSome &&
          decide (pas.map (fun x => x.1) = Mask.lanes (actingLanes (fm (sr 4) (sr 4) (k 0) 4) (wm.active (.stn (fm (sr 4) (sr 4) (k 0) 4))))) &&
          (match s2.nameSlot wm.world (wm.src (sr 4) 2 0) (s1.laneAddr l 0) with
            | .ok x => decide (x = 0x1000)
            | _ => false)
      | none => false) = true := by decide

/-- The conditions of an atomic. -/
def atomMeets (i : Instr) (f : FmtM) (ix : Bool) : Bool :=
  match reached i f ix (2 ^ f.width.toNat) .atomic f.order.toNat (st wm) wm with
  | some (s1, _, pas, s2) => (match s2.dataCheck (tgetD s1.waves 1 wm) (2 ^ f.width.toNat) pas with
    | .ok s3 => decide (pas ≠ []) && decide (pas.map (fun x => x.1) = Mask.lanes (actingLanes f (wm.active i))) && wm.queueRoom
        && (tgetD s3.waves 1 wm).queueRoom && (tget s3.waves 1).isSome && decide (wm.hold = []) && decide (wm.replay = none)
        && decide ((tgetD s3.waves 1 wm).replay = none)
    | _ => false)
  | none => false

theorem witness_Atomics : let f := fm (v 1) (sr 4) (v 2) 2 4 6
    let g := fm (v 2) (sr 4) (k 0) 2 4 6
    let c := fm (v 1) (sr 4) (v 2) 2 4 6
    ((atoms f).take 9).all (fun x => atomMeets x.1 f false) = true ∧ ((atoms f).drop 10).all (fun x => atomMeets x.1 f false) = true ∧
    atomMeets (.atomCas c) c false = true ∧ (reds g).all (fun x => atomMeets x.1 g true) = true ∧
    atomMeets (.atomAdd (fm (v 1) (sr 4) (v 2) 2 6 5)) (fm (v 1) (sr 4) (v 2) 2 6 5) false = true := by decide

theorem witness_AtomicTable : (64 : Nat) ∈ [32, 64] := by decide

theorem witness_NoActingLane : let n (f : FmtM) : FmtM := { f with pred := 15#4 }
    let e (c m : Nat) (p q : Operand) : FmtE := { fe p q c m with pred := 15#4 }
    ([.ldGlobal (n (fm (v 1) (sr 4) (k 0) 2)), .ldGlobalSigned (n (fm (v 1) (sr 4) (k 0) 1)), .ldScratch (n (fm (v 1) (sr 4) (k 0) 2)),
      .ldScratchSigned (n (fm (v 1) (sr 4) (k 0) 0)), .ldWeight (n (fm (v 1) (sr 4) (k 0) 2)), .ldActivation (n (fm (v 1) (sr 4) (k 0) 2)),
      .ldAccumulator (n (fm (v 1) (sr 4) (k 0) 2)), .stGlobal (n (fm (v 1) (sr 4) (k 0) 2)), .stScratch (n (fm (v 1) (sr 4) (k 0) 2)),
      .stWeight (n (fm (v 1) (sr 4) (k 0) 2)), .stActivation (n (fm (v 1) (sr 4) (k 0) 2)), .stAccumulator (n (fm (v 1) (sr 4) (k 0) 2)),
      .ldn (n (fm (v 2) (sr 4) (k 0) 4)), .stn (n (fm (v 2) (sr 4) (k 0) 4)), .ldg2l (n (fm (v 1) (sr 4) (k 0) 2)),
      .prefetch (n (fm (k 0) (sr 4) (k 0) 1)), .cinv (n (fm (k 0) (sr 4) (k 0) 0)), .cclean (n (fm (k 0) (sr 4) (k 0) 1)),
      .fence (n (fm (k 0) (k 0) (k 0) 0 4 2)), .fenceSc (n (fm (k 0) (k 0) (k 0) 0 4 5)), .qpush (n (fm (k 3) (sr 4) (k 0) 0)),
      .qpop (n (fm (k 3) (sr 4) (k 0) 0)), .qstat { fx (v 1) (k 3) 1 with pred := 15#4 }, .mma (e 1 0 (sr 16) (k 0)),
      .mdrain (e 1 1 (sr 8) (k 0)), .dpload (e 1 1 (sr 8) (k 1)), .xcopy (e 0 2 (sr 4) (k 0)), .xgather (e 2 0 (sr 16) (k 0)),
      .xlevel (e 0 0 (sr 16) (k 0)), .rbegin (e 4 1 (sr 8) (k 1)), .waitc (e 0 0 (k 1) (k 0))] : List Instr).all
      (fun i => issues i (st w1) w1 && decide (w1.active i = 0#32)) = true ∧
    (reds (n (fm (v 2) (sr 4) (k 0) 2 4 6))).all (fun y => issues y.1 (st w1) w1 && decide (w1.active y.1 = 0#32)) = true ∧
    (atoms (n (fm (v 1) (sr 4) (v 2) 2 4 6))).all (fun y => issues y.1 (st w1) w1 && decide (w1.active y.1 = 0#32)) = true ∧
    w1.hold = [] ∧ w1.replay = none := by decide

/-- A fence's waits are over. -/
def fenceMeets (i : Instr) (order scope : Nat) : Bool :=
  issues i (st w1) w1 && decide (w1.active i ≠ 0#32) && (match State.before (st w1) 1 w1 order scope with
    | .go t => decide ((tgetD t.waves 1 w1).loads = []) && !(tgetD t.waves 1 w1).atomicsDue
    | _ => false)

theorem witness_Fences : fenceMeets (.fence (fm (k 0) (k 0) (k 0) 0 6 2)) 0 6 = true ∧
    fenceMeets (.fence (fm (k 0) (k 0) (k 0) 0 5 3)) 3 5 = true ∧ fenceMeets (.fence (fm (k 0) (k 0) (k 0) 0 0 4)) 3 0 = true ∧
    fenceMeets (.fenceSc (fm (k 0) (k 0) (k 0) 0 4 5)) 5 4 = true ∧
    ([0, 1, 2, 4, 5, 6] : List Nat).all (fun x => match State.release (st w1) 1 w1 x with
      | .ready => true
      | _ => false) = true ∧ (st w1).waves = [(1, w1)] := by decide

theorem witness_CacheInstructions : let f := fm (v 3) (sr 4) (k 0) 2
    let g := fm (k 0) (sr 4) (k 0) 0
    let m (i : Instr) (f : FmtM) (n : Nat) (p : State → Wave → Bool) : Bool :=
      issues i (st wm) wm && decide (actingLanes f (wm.active i) = 1#32) && (match State.before (st wm) 1 wm 0 0 with
        | .go t => p t (tgetD t.waves 1 wm) && (match formLanes (t.formLane (tgetD t.waves 1 wm) f true n) [0] with
          | .ok _ => true
          | .error _ => false)
        | _ => false)
    m (.ldg2l f) f 4 (fun t w => decide (w.src (v 3) 1 0 % 4 = 0 ∧ w.storeQ = [] ∧ w.cntOf 2 < 63) && !t.chipDue w.core && decide (w.src (v 3) 1 0 + 4 ≤ t.lSize w)) = true ∧
    issues (.prefetch g) (st wm) wm = true ∧ issues (.prefetch g) (st w1) w1 = true ∧ wm.sup = true ∧
    (Mask.lanes (wm.active (.prefetch g))).all (fun l => decide (wm.src (sr 4) 2 l < 2 ^ 63)) = true ∧
    ([.cinv g, .cclean g] : List Instr).all (fun i => m i g 1 (fun t w => w.queueRoom && (match formLanes (t.formLane w g true 1) [0] with
      | .ok l => (match t.cleanAll w l with
        | .ok _ _ => true
        | _ => false)
      | .error _ => false))) = true := by decide
/-- Near and flat pointers in v2 to v9 of lane 0 (the other lanes hold flat zero). -/
def wp : Wave := wv (regs [(2, 0x10#32), (3, 0x80000100#32), (4, 0x20#32), (5, 0x80000100#32), (6, 0x30#32)] [] [])
/-- The machine with a resident object 1 of that handle. -/
def sp : State :=
  { st wp with rot := [(1, { RotEnt.init with state := .resident, realm := 0x12#16, serial := 0x4A1#64, extent := 4096 })] }

theorem witness_PointerInstructions : ([.padd (a3 (v 10) (v 2) (k 32) (k 0) 2), .padd (a3 (v 10) (v 6) (v 8) (k 0) 3),
      .psub (a3 (v 10) (v 2) (v 4) (pr 5) 3), .peq (a3 (pr 1) (v 2) (v 4) (k 0) 3), .plt (a3 (pr 1) (v 2) (v 6) (k 0) 3),
      .ple (a3 (pr 0) (v 2) (v 4) (k 0) 3), .pext (a3 (v 12) (v 2) (k 4) (k 0) 2), .pext (a3 (v 12) (v 6) (k 0) (k 0) 2),
      .pname (a3 (v 12) (v 2) (k 0) (k 0) 3), .pname { a3 (v 12) (v 2) (k 0) (k 0) 3 with pred := 15#4 }] : List Instr).all
      (fun i => issues i sp wp) = true ∧
    (wp.src (v 2) 2 0).testBit 63 = true ∧ wp.src (v 6) 2 0 + 0 < 2 ^ 57 ∧ wp.src (v 2) 2 1 < 2 ^ 57 ∧
    wp.active (.pname { a3 (v 12) (v 2) (k 0) (k 0) 3 with pred := 15#4 }) = 0#32 ∧
    (Mask.lanes (wp.active (.pname (a3 (v 12) (v 2) (k 0) (k 0) 3)))).all (fun l => match sp.nameSlot 0 (wp.src (v 2) 2 l) 0 with
      | .ok _ => true
      | .error _ => false) = true := by decide

theorem witness_NamesResolve : let f := fm (v 12) (sr 4) (k 0) 4
    (match reached (.ldn f) f true 16 .load 0 (st wm) wm with
      | some (s1, l, pas, s2) => decide (wm.hold = [] ∧ wm.loads = [] ∧ wm.ldn = none) && pas.all (fun x => !s2.loadsOn (tgetD s1.waves 1 wm).core x.2 16 && !(tgetD s1.waves 1 wm).cinvDue s2.nextId (x.2 / 128)) && pas.all (fun x => !s2.atomicOn (tgetD s1.waves 1 wm).core x.2 16)
        && (match s2.dataCheck (tgetD s1.waves 1 wm) 16 pas with
          | .ok s3 => decide (s3.cache = [] ∧ (tgetD s3.waves 1 wm).hold = [] ∧ pas.map (fun x => x.1) = Mask.lanes (actingLanes f (wm.active (.ldn f))))
            && pas.all (fun x => match s3.slotVal 0 (leNat (s3.slotBytes (tgetD s3.waves 1 wm) x.2).2) (s1.laneAddr l x.1) with
              | .value n => decide (n.testBit 63 = false)
              | _ => false)
          | _ => false)
      | none => false) = true ∧
    (sp.rotFind 0x12#16 0x4A1#64).map (fun x => (x.1, x.2.world, x.2.doomed, x.2.state)) = some (1, 0, false, .resident) ∧
    (sp.rotAt 1).state = .resident ∧ (sp.rotAt 1).world = 0 := by decide

/-- A launch, and a machine whose channel 3 names queue 1 of world 0 with an allowance of two. -/
def la : Launch :=
  { seq := some 1#32, world := 0, queue := 0, pos := 0, marker := false, args := 0#64, shx := 1, shy := 1, shz := 1, svc := 0
    sysrel := false, donesig := 0xFFFF, sigbase := 0, codeBase := 4096, extent := 64, depth := 1, entry := 0#32, wgsize := 1
    vunits := 9, cairns := 4, px := 0, py := 0, pz := 0, lmem := 4096, ridges := [(1, 1#48)], carry := [], budget := 0#64
    chans := [(3, 0x000000040000010F#64)], next := 1, live := 1, dropped := false, killed := false }
@[inherit_doc la] def q1 : Queue :=
  { Queue.init with state := 1#3, waves := true, win := true, size := 64#64, rc := 5, wc := 5 }
/-- A core whose scratchpad begins with records of one kind. -/
def sq (w : Wave) : State :=
  { st w with launches := [(1, la)], queues := [(1, q1)]
              cores := [(0, { CoreSt.init with lmem := [(256, 1#8)], gran := [(2, { tag := 1, v := true })] })] }

theorem witness_Channels : let w := w1
    let s := sq w
    let e := s.channel w 3
    let q := s.queue 1
    let f := fm (k 3) (v 3) (k 0) 0
    issues (.qpush f) s w = true ∧ issues (.qpop f) s w = true ∧ issues (.qstat (fx (v 1) (k 3) 2)) s w = true ∧
    w.active (.qpush f) = 1#32 ∧ chanQueue e = 1 ∧ s.chanValid w e = true ∧ e.getLsbD 1 = true ∧ e.getLsbD 2 = true ∧
    e.getLsbD 3 = true ∧ 1 ≤ chanAllow e ∧ q.state = 1#3 ∧ q.waves = true ∧ q.win = true ∧ q.rc + q.window.length = q.wc ∧
    q.wc - q.rc + 1 ≤ q.nrec ∧ q.window = [] ∧ w.push = none ∧ (s.world w.world).left = false ∧ s.waves.all (fun (e : Nat × Wave) => e.2.push.isNone) = true ∧
    (s.queue 1).gone = [] ∧
    (match State.before s 1 w 3 4, s.recordLanes w f 1#32 with
      | .go t, .ok l => decide (l.all (fun x => decide (((t.core 0).lRead (t.lBase w + x.2) 32).getD 0 0#8 ≠ 0#8)) = true)
          && l.all (fun x => !(t.core 0).badAt 3 (t.lBase w + x.2) 32)
          && (match State.pushSome 1 (l.map (fun x => (t.core 0).lRead (t.lBase w + x.2) 32))
              ((t.bump.spend w 3 1).updWave 1 (fun w => { w with push := some { queue := 1, stamp := t.nextId, left := l.map (fun x => (t.core 0).lRead (t.lBase w + x.2) 32) } })) with
            | ([], _, false) => true
            | _ => false)
      | _, _ => false) = true ∧
    (match State.before s 1 w 2 4, s.recordLanes w f 1#32 with
      | .go t, .ok l => (match State.popLanes 1 w l t with
        | .ok _ _ => true
        | _ => false)
      | _, _ => false) = true := by decide

/-- A wave with a descriptor of 64 `c:` lines in s8 to s11. -/
def wc : Wave := { w1 with regs := regs [(2, 2#32)] [(8, 0x602#32), (9, 0x003F0000#32)] [] }
/-- The machine with ridge 1 of two members, and records 0 to 2 held. -/
def sk (w : Wave) (tok : Option Token) : State :=
  { st w with cores := [(0, { CoreSt.init with ridges := [(0, { rg1 with members := 3#48 })], token := tok
                                               cairns := [(0, held 0), (1, held 1)] })] }
/-- The token in the hands of wave 0 on ridge 1. -/
def tok0 : Token := { wg := 0, ridge := 1, holder := 0 }

theorem witness_CairnsAndTokens : let s := sk wc none
    let c := s.core 0
    let d := BitVec.ofNat 128 (wc.src (sr 8) 4 0)
    let t := sk wc (some tok0)
    issues (.cairn (a3 (sr 1) (sr 8) (k 0) (k 0) 0)) s wc = true ∧ cairnClean d = true ∧ cSc d = decide (cFmt d < 2) ∧
    s.wgOf wc = some wg ∧ c.freeCairn = some 2 ∧ c.ownedBy (s.slotOf wc) < wg.cairnRes ∧ cairnOk c d = true ∧ s.slotOf wc < 128 ∧
    issues (.cairnq (fx (sr 4) (k 1) 0)) s wc = true ∧ issues (.cairnx (fx (k 0) (k 1) 0)) s wc = true ∧
    cState (c.cairn 1) = 1 ∧ cOwner (c.cairn 1) = s.slotOf wc ∧
    ([.tktake (fx (k 0) (k 1) 0), .tkpass (fx (k 0) (k 1) 0), .tkpassEnd (fx (k 0) (k 1) 1)] : List Instr).all (fun i =>
      issues i s wc && issues i t wc && decide (wc.active i = 1#32)) = true ∧
    s.ridgeOf wc 1 = some (0, { rg1 with members := 3#48 }) ∧ c.token = none ∧ c.tkWait = [] ∧ (t.core 0).token = some tok0 ∧
    wc.sup = false ∧ wc.gates = [] ∧ t.chipDue 0 = false ∧ wc.cleanDue = false ∧ t.nextMember 0 3#48 0 = some 0 ∧
    ([0, 1, 2] : List Nat).all (fun n => issues (.mstat (fx (v 1) (k 0) n)) s wc) = true := by decide

/-- A command's conditions hold in its wave. -/
def cmdMeets (i : Instr) (f : FmtE) (cls len : Nat) (s : State) (w : Wave) : Bool :=
  match State.before s 1 w 0 0 with
  | .go t =>
    let v := tgetD t.waves 1 w
    issues i s w && (tget t.waves 1).isSome && decide (v.seq.length = 5 ∧ v.cnt.length = 5) &&
      (List.range 5).all (fun c => decide (v.seqOf c < 65536)) && decide (w.active i ≠ 0#32) &&
      (Mask.lanes (w.active i)).all (fun l => decide (len = 0) || (match t.blockAt v f len l with
        | .ok b => decide (f.mode ≠ 1#3) || !(t.core v.core).badAt 3 (t.lBase v + b.1.toNat) b.2.length
        | .error _ => false)) && decide (v.cntOf cls + (Mask.lanes (w.active i)).length ≤ 63) && decide (v.storeQ = []) &&
      !t.chipDue v.core
  | _ => false

theorem witness_EngineCommands : let s := sb w1
    let f := fe (sr 16) (k 0) 0 0
    let g := fe (v 3) (k 0) 0 1
    let h := fe (sr 8) (k 0) 0 2
    cmdMeets (.mma { f with cls := 1#3 }) { f with cls := 1#3 } 1 64 s w1 = true ∧
    cmdMeets (.mma { f with cls := 1#3 }) { f with cls := 1#3 } 1 64 (sb w0) w0 = true ∧
    cmdMeets (.mdrain { g with cls := 1#3 }) { g with cls := 1#3 } 1 64 s w1 = true ∧
    cmdMeets (.dpload { g with cls := 1#3 }) { g with cls := 1#3 } 1 128 s w1 = true ∧
    cmdMeets (.xcopy h) h 0 64 s w1 = true ∧ cmdMeets (.xlevel f) f 0 64 s w1 = true ∧ cmdMeets (.xlevel f) f 0 64 (sb w0) w0 = true ∧
    cmdMeets (.xgather { g with cls := 2#3 }) { g with cls := 2#3 } 2 64 s w1 = true ∧
    cmdMeets (.rbegin (fe (v 3) (k 1) 4 1)) (fe (v 3) (k 1) 4 1) 4 128 s w1 = true ∧
    s.ridgeOf w1 (w1.src (k 1) 1 0) = some (0, rg1) ∧ (s.core 0).token = none ∧
    cmdMeets (.mzero (a3 (k 0) (k 3) (k 0) (v 4) 0)) f 1 0 s w1 = true := by decide

/-- The machine with a ring of two slots at offset 64 of the scratchpad, WPTR 1 and RPTR 0; s10 holds a descriptor. -/
def sr2 (w : Wave) : State :=
  let bs := leBytes 32 (128 + 16 * 2 ^ 32 + 1 * 2 ^ 48 + 1 * 2 ^ 64)
  { st w with cores := [(0, CoreSt.init.lWrite 320 bs)] }

theorem witness_RingsAndWaits : let w := { w1 with regs := regs [] [(8, 64#32), (10, 128#32), (11, 0x00010010#32)] [] }
    let s := sr2 w
    let r := ringOf ((s.core 0).lRead (s.lBase w + 64) 32)
    ([0, 4, 8, 12] : List Nat).all (fun n => issues (.xstat (fx (v 1) (k 0) n)) s w) = true ∧
    issues (.waitc (fe (k 0) (k 0) 0 0)) s w = true ∧ w.cntOf 0 ≤ w.src (k 0) 1 0 ∧
    ([.sring (a3 (k 0) (sr 8) (sr 10) (k 0) 0), .sawaitFree (a3 (k 0) (sr 8) (k 1) (k 0) 0), .sawaitFull (a3 (k 0) (sr 8) (k 0) (k 0) 0 1),
      .spub (a3 (k 0) (sr 8) (k 1) (k 0) 0), .spub (a3 (k 0) (sr 8) (k 0) (k 0) 0), .srel (a3 (k 0) (sr 8) (k 0) (k 0) 0)] : List Instr).all
      (fun i => issues i s w && decide (w.active i = 1#32)) = true ∧
    ([.sring { a3 (k 0) (sr 8) (sr 10) (k 0) 0 with pred := 15#4 }, .sawaitFree { a3 (k 0) (sr 8) (k 1) (k 0) 0 with pred := 15#4 },
      .sawaitFull { a3 (k 0) (sr 8) (k 0) (k 0) 0 1 with pred := 15#4 }, .spub { a3 (k 0) (sr 8) (k 1) (k 0) 0 with pred := 15#4 },
      .srel { a3 (k 0) (sr 8) (k 0) (k 0) 0 with pred := 15#4 }] : List Instr).all
      (fun i => issues i s w && decide (w.active i = 0#32)) = true ∧
    w.gates = [] ∧ s.chipDue 0 = false ∧ (s.core 0).badAt 3 (s.lBase w + 64) 32 = false ∧ w.src (sr 8) 1 0 % 32 = 0 ∧ w.src (sr 8) 1 0 + 32 ≤ s.lSize w ∧ r.bad = false ∧ r.wptr = 1 ∧ r.rptr = 0 ∧ r.logn = 1 ∧ w.cleanDue = false ∧
    (let d := w.src (sr 10) 2 0
     d % 2 ^ 32 + 2 ^ (d / 2 ^ 48 % 2 ^ 4) * (d / 2 ^ 32 % 2 ^ 16) ≤ s.lSize w ∧ d / 2 ^ 48 % 2 ^ 4 ≤ 8 ∧ d % 2 ^ 32 % 16 = 0 ∧
     d / 2 ^ 32 % 2 ^ 16 = 16 ∧ d / 2 ^ 52 % 2 ^ 12 = 0) := by decide

/-- An unfolding with a root frame whose divide routine runs in lane 0, and an operation that holds it. -/
def un (r : Nat) : Unfold :=
  { ridge := 1, objAddr := 0#64, divOff := 0#32, baseOff := 0#32, combOff := 0#32, frameSz := 16, resSz := 16, fanout := 2, maxDepth := 3
    budget := 8, heap := 0x100000#64, heapSz := 4096, result := 0x200000#64
    frames := [{ off := 0, depth := 0, parent := none, cidx := 0, children := [1], stage := 0, dirty := false },
      { off := 48, depth := 1, parent := some 0, cidx := 0, children := [], stage := 0, dirty := false }]
    levels := [[0], [1]], phase := .levels 0, leaves := [], tasks := [], stackBase := 0, stackCap := 0, stackUse := []
    running := [{ pool := 0, wave := 1, lane := 0, frame := 0, routine := r, home := 0#32, phase := false }], stopped := false }
/-- An operation of core 0 in a state. -/
def op0 (kind : OpKind) (cls : Nat) (x : OpState) : EngOp :=
  { kind := kind, wave := 1, wg := 0, core := 0, world := 0, lane := 0, cls := cls, seq := 0, svc := 0, deadline := 0#32, blockAddr := 0#64
    blockLen := 0, block := [], progress := 0, state := x, flags := 0#7, args := [], lanes := [], dests := [], cairns := [], amax := 0#64
    unacked := 0, denied := [], cover := [], lines := [], unfold := none, noPages := [] }
/-- The machine in which wave 1 runs a routine of the unfolding. -/
def su (w : Wave) : State := { st w with ops := [(7, { op0 .rbegin 4 .run with unfold := some (un 0) })] }

theorem witness_UnfoldingInstructions : let s := su w1
    ([.rframe (fx (v 2) (k 0) 0), .rframe (fx (v 2) (k 0) 1), .rframe (fx (v 1) (k 0) 2), .rres (fx (v 2) (k 0) 0), .rchild (fx (v 2) (k 0) 0),
      .rdone (fx (k 0) (k 0) 0)] : List Instr).all (fun i => issues i s w1 && decide (w1.active i = Mask.single 0)) = true ∧
    (s.runningAt 1 0).map (fun (x : Nat × EngOp × Unfold × Running) => (x.1, x.2.1.cls, x.2.2.2.routine, x.2.2.2.frame)) = some (7, 4, 0, 0) ∧
    (un 0).stopped = false ∧ (un 0).stoppers = [] ∧ w1.gates = [] ∧ s.chipDue 0 = false ∧ 0 < (un 0).frames.length ∧
    (un 0).childCheck { pool := 0, wave := 1, lane := 0, frame := 0, routine := 0, home := 0#32, phase := false } = none ∧
    ((un 0).frame 0).children[w1.src (k 0) 1 0]? = some 1 ∧ w1.cleanDue = false := by decide

theorem witness_TrapsAndReturn : issues (.trap (fx (k 0) (k 0) 0xABCD)) (st w1) w1 = true ∧ issues (.bkpt (fx (k 0) (k 0) 0)) (st w1) w1 = true ∧
    w1.active (.trap (fx (k 0) (k 0) 0xABCD)) ≠ 0#32 ∧ w1.sup = false ∧ (match State.release (st w1) 1 w1 4 with
      | .ready => true
      | _ => false) = true ∧ w1.fillsDue = false ∧ w1.asideDue = false ∧ w1.gates = [] ∧ w1.bundle.isSome = true ∧
    issues (.trap { fx (k 0) (k 0) 1 with pred := 15#4 }) (st w1) w1 = true ∧
    issues (.bkpt { fx (k 0) (k 0) 1 with pred := 15#4 }) (st w1) w1 = true ∧
    w1.active (.trap { fx (k 0) (k 0) 1 with pred := 15#4 }) = 0#32 ∧ w1.active (.bkpt { fx (k 0) (k 0) 1 with pred := 15#4 }) = 0#32 ∧
    issues (.trap (fx (k 0) (k 0) 7)) (st wm) wm = true ∧ wm.sup = true ∧
    issues (.svret (fx (k 0) (k 0) 0)) (st wm) wm = true ∧ wm.active (.svret (fx (k 0) (k 0) 0)) ≠ 0#32 ∧
    issues (.svret { fx (k 0) (k 0) 0 with pred := 15#4 }) (st wm) wm = true ∧ wm.active (.svret { fx (k 0) (k 0) 0 with pred := 15#4 }) = 0#32 ∧ wm.bundle.isSome = true := by decide

theorem witness_SupervisorRegisters : let s := st wm
    issues (.srdp (fx (sr 2) (k 0) 0x104)) s wm = true ∧ issues (.srdp (fx (sr 1) (k 0) 0x108)) s wm = true ∧
    ([.swrp (fx (pr 1) (sr 8) 0x107), .queueBind (fx (k 0) (sr 8) 0x183), .queueStop (fx (pr 0) (sr 8) 0x183),
      .queueReactivate (fx (pr 0) (sr 8) 0x183), .queueUnbind (fx (pr 0) (sr 8) 0x183), .svRangeStage (fx (pr 0) (sr 8) 0x126),
      .svRangeApply (fx (pr 0) (sr 8) 0x127)] : List Instr).all (fun i => issues i s wm && decide (wm.active i = 1#32)) = true ∧
    issues (.swrp { fx (k 0) (sr 8) 0x104 with pred := 15#4 }) s wm = true ∧ wm.src (sr 8) 2 0 = (64#64).toNat ∧
    (s.svWrite 1 wm 0x107 64#64).isSome = true ∧ s.svWrite 1 wm 0x104 64#64 = none ∧ (s.svWrite 1 wm 0x1A0 64#64).isSome = true ∧
    ([0x104, 0x107, 0x126, 0x183] : List Nat).all (fun n => !s.regHeld wm n) = true ∧ tget s.waves 1 = some wm ∧ s.queueStateWrite 1 2 = none ∧ (s.queueStateWrite 1 1).isSome = true ∧
    ({ s with queues := [(1, q1)] }.queueStateWrite 1 2).isSome = true := by decide

/-- A wave of world 0 whose record is lowered, beside the supervisor wave. -/
def wl : Wave := { w1 with status := .lowered, bundle := none, recKind := 0#2, recCnt := [0, 0, 0, 0, 0], recSeq := [0, 0, 0, 0, 0], recSlot := 2 }
/-- A supervisor wave that names that record in s4, a report address in s6 and a wave in s8. -/
def wx : Wave := sv (regs [] [(4, BitVec.ofNat 32 (State.reset.recAddr 2)), (5, BitVec.ofNat 32 (State.reset.recAddr 2 / 2 ^ 32)), (6, 0x1000#32)] [])

theorem witness_SupervisorOperations : let s := { st wx with waves := [(1, wx), (2, wl)] }
    let h := { st wx with waves := [(1, wx), (2, { w1 with clause := none })], cores := [(0, { CoreSt.init with halt := some .immediate })] }
    ([.tlbiWorld (fx (k 0) (k 0) 4), .tlbiPage (fx (k 0) (sr 6) 1), .tlbiAll (fx (k 0) (k 0) 2), .wsetResume (fx (k 0) (sr 4) 0),
      .wsetRestart (fx (k 0) (sr 4) 1), .wsetCancel (fx (k 0) (sr 4) 2), .wsetKill (fx (k 0) (sr 4) 3), .wsetPause (fx (k 0) (k 0) 4),
      .wsetUnpause (fx (k 0) (k 0) 5), .wsetReset (fx (k 0) (k 0) 6), .haltcDrain (fx (k 0) (sr 6) 0), .haltcImm (fx (k 0) (sr 6) 1),
      .haltcResume (fx (k 0) (k 0) 2), .haltcStep (fx (k 0) (sr 8) 3)] : List Instr).all
      (fun i => issues i s wx && issues i h wx && decide (wx.active i = 1#32)) = true ∧
    s.idle (fun x => decide (x.world = 0)) = true ∧ s.wsetRecord wx.selWorld (wx.src (sr 4) 2 0) = some (2, wl) ∧ tget s.waves 2 = some wl ∧
    ({ s with wgs := [] }.resetBegin 0).worldEmpty 0 = true ∧ wx.src (sr 6) 2 0 % 64 = 0 ∧ s.memOk = true ∧ s.coreHeld wx.selCore = false ∧ s.resetting wx.selWorld = false ∧
    ({ s with waves := [(1, wx)] }.putCore 0 { s.core 0 with halt := some .drain, report := some (1, 0x1000), stepping := none }).drained 0 = true ∧
    (h.core wx.selCore).halt.isSome = true ∧ h.coreHeld wx.selCore = false ∧
    (h.waves.find? (fun (e : Nat × Wave) => decide (e.2.core = wx.selCore) && !e.2.sup && decide (h.slotOf e.2 = wx.src (sr 8) 2 0 % 128) &&
      decide (e.2.num = wx.src (sr 8) 2 0 / 128 % 64))).isSome = true := by decide
theorem witness_SupervisorOperations_halt : let s := { st wx with waves := [(1, wx)] }
    let h := { st wx with waves := [(1, wx), (2, { w1 with clause := none })]
                          cores := [(0, { CoreSt.init with halt := some .immediate, stepBy := some 1 })] }
    let u := s.putCore wx.selCore { s.core wx.selCore with halt := some .drain, report := some (1, 0x1000), stepping := none }
    let r := u.haltReport wx.selCore .drain
    u.plainCells (cellsOf 0x1000 r) = cellsOf 0x1000 r ∧ (s.world 0).tdisp ≠ .error ∧ 0x1000 + r.length ≤ 2 ^ 50 ∧
    (h.core wx.selCore).stepBy = some 1 ∧ (h.core wx.selCore).stepping = none ∧ h.coreHeld wx.selCore = false ∧
    (∀ e ∈ s.worlds, s.resetting e.1 = false) := by decide +kernel

/-- A stamp without a deadline, and a wave of one lane with a load of v4 and v5 outstanding. -/
def sp0 : Stamp := { cls := 0, core := 0, index := 0, deadline := none }
@[inherit_doc sp0] def wld : Wave := { w1 with loads := [{ stamp := 1, dst := v 4, width := 8, signed := false, inv := false, lanes := [(0, .phys 0x1000)], who := sp0 }] }

theorem witness_LoadsTakeValues : let s := { st wld with arg := { a := 1 }, mem := [(0x1000, 7#8)] }
    tget s.waves 1 = some wld ∧ wld.status = .slot ∧ 4 + 2 ≤ 256 ∧ (0x1000 % 128 + 8 ≤ 128) ∧
    s.waves.all (fun (e : Nat × Wave) => e.2.storeQ.isEmpty) = true ∧ s.cache = [] ∧ (∀ op ∈ wld.loads, op.held = false) ∧
    (next .loadValueReturn s).map (fun t => (tget t.waves 1).map (fun w => (w.src (v 4) 2 0, w.loads.length))) = some (some (7, 0)) := by decide

/-- A queue entry of one lane. -/
def qe (kind : QKind) : QEntry :=
  { stamp := 1, kind := kind, lanes := [{ lane := 0, pa := 0x1000, bytes := [1#8, 2#8, 3#8, 4#8], b := 5#64, cmp := 0#64, posted := false, va := 0 }]
    remoteOp := none, engine := false, whole := [] }

theorem witness_LoadsTakeValues_chip : let w := { w1 with loads := [{ ld0 with dst := v 4, lanes := [(0, .chip none 256)] }] }
    let s := { sc w with arg := { a := 1 } }
    tget s.waves 1 = some w ∧ w.status = .slot ∧ w.storeQ = [] ∧ s.cache = [] ∧ s.arg.nums = [] ∧ (s.world 0).tdisp ≠ .error ∧
    (next .loadValueReturn s).isSome = true := by decide

theorem witness_StoresDrain : ([.store, .atomic .add 4 (some (v 4)), .atomic .cas 4 none, .clean [8] true] : List QKind).all (fun kind =>
    let q := if kind = .clean [8] true then { qe kind with lanes := [] } else qe kind
    let w := { w1 with storeQ := [q] }
    let s := { st w with arg := { a := 1, b := 0 } }
    decide (w.storeQ[0]? = some q) && !s.arg.flag && !w.sup && (s.arg.val == 0#64) && s.arg.nums.isEmpty && decide (w.status = .slot ∧ w.loads = []) && s.memOk &&
      q.lanes.all (fun l => !l.posted && !l.away && decide (l.lane < 32 ∧ l.pa % 128 + 4 ≤ 128)) && (next .storeQueueDrain s).isSome) = true := by decide

/-- A cached translation of the I/O dies for the first 2 MiB of world 0. -/
def tl0 : Tlb :=
  { place := 40, world := 0, obj := none, base := 0, size := 2 ^ 21, pa := 0, range := 0, r := true, w := true, x := true, d := true }

/-- The machine with a range of 2 MiB of world 0, mapped onto DRAM from 0 on, for fetches and the queue scheduler too. -/
def sw0 : World := { World.init with ranges := [(0, 0x0000000000000001000000000000000F#128)], deficit := 65536, bound := true }
@[inherit_doc sw0] def sm (s : State) : State :=
  { s with worlds := [(0, sw0)]
           xl := { s.xl with tlb := [tl0] } }

theorem witness_LinesAndHosts : let e := st w1
    let s1 := { e with arg := { a := 5, b := 2 }, unconf := [{ line := 5, waiting := [2], users := [] }] }
    let s2 := { e with arg := { a := 2 ^ 43 } }
    let s3 := { e with plat := { e.plat with chans := [(3, { slot := 0, guard := 0, pending := [{ who := { cls := 1, core := 0, index := 0, deadline := none }, sector := 9, write := false }] })] }
                       arg := { a := 3 } }
    let s4 := { sm e with arg := { a := 0, b := 0x10000, c := 64, nums := [0x1000] }, worlds := [(0, { sw0 with ld := some 0 })]
                          host := { e.host with cxl := [(0, (64, 16))], lds := [(0, { host := some 1, capacity := 2 ^ 20, hdm := [{ base := 0x10000, size := 64, pa := 0x1000, world := 0 }] })] } }
    (s1.unconf.find? (fun u => decide (u.line = 5))).map (fun u => u.waiting) = some [2] ∧ paKind (2 ^ 43 * 128) = 1 ∧
    (next .cxlCacheSnoop s2).isSome = true ∧ (s3.stackAt 0).out = false ∧ (s3.stackAt 0).selfRefresh = false ∧ (s3.stackAt 0).rebuild = none ∧
    (tget s3.plat.chans 3).map (fun c => c.pending.length) = some 1 ∧ e.worlds = [] ∧
    ((s4.worlds.find? (fun (x : Nat × World) => decide (x.2.ld = some 0) && x.2.holds 0x1000 64)).map (fun x => x.1)) = some 0 ∧
    s4.linked = true ∧ 0 < { s4 with worlds := [] }.ldLimit ∧ (s4.world 0).tdisp ≠ .error ∧ s4.decoder 0 0x10000 64 = some (0, 0x1000) ∧ s4.runUnconfirmed 0x1000 64 = false ∧ (s4.checkRead (some 0) 0x1000 64).2 = false ∧
    0x1000 % 128 + 64 ≤ 128 ∧ s2.memOk = true ∧ s4.memOk = true := by decide

/-- The translation of a page of world 0 by a table of one 64 KiB leaf at every level. -/
def walkMem : Memory :=
  (cwrite (cwrite (cwrite (cwrite (cwrite [] 0x1000 (leBytes 8 0x2001)) 0x2000 (leBytes 8 0x3001)) 0x3000 (leBytes 8 0x4001)) 0x4000
    (leBytes 8 0x5001)) 0x5000 (leBytes 8 0x10000F))

theorem witness_TranslationAndObjects : let e := sm (st w1)
    let s1 := { e with worlds := [(0, { sw0 with s1root := 0x1000#64 })], arg := { a := 0, b := 0, c := 0 } }
    let park := { w1 with status := .parked [.page 0 0] }
    let who : Stamp := { cls := 1, core := 320, index := 9, deadline := none }
    let s2 := { st park with xl := { e.xl with requests := [(0, 0)], pending := [(.page 0 0, who)] }, arg := { a := 0, b := 0 } }
    let tr := 2 ^ 50 + 65536
    let key := tierKey 0 1 1
    let wt : World := { sw0 with ranges := [(0, 0x0000000000000001000000000000000F#128), (1, BitVec.ofNat 128 (15 + 2 ^ 16 + 2 ^ 64 + 2 ^ 29 * 2 ^ 96)),
      (2, BitVec.ofNat 128 (33 + 2 * 2 ^ 16 + 2 ^ 64 + 2 * 2 ^ 96))] }
    let m (t : Tier) : State := { e with worlds := [(0, wt)], xl := { e.xl with tiers := [(key, t)], frames := [(64, key)] }
                                         arg := { a := 0, b := tr, c := 1, unit := .tier 0 1 tr } }
    let ob (x : RotState) (d : Bool) : State := { e with rot := [(1, { RotEnt.init with state := x, doomed := d, realm := 1#16, serial := 5#64 })], arg := { a := 1, b := 1, val := 5#64 } }
    (match s1.walk { cluster := 0, world := 0 } 0 5 (s1.world 0).s1root.toNat with
      | .invalid _ => true
      | _ => false) = true ∧
    (match { s1 with mem := walkMem }.walkFlat { cluster := 0, world := 0 } 0 .load [] with
      | .ok _ _ => true
      | _ => false) = true ∧
    (0, 0) ∈ s2.xl.requests ∧ (tget s2.waves 1).map (fun w => w.status) = some (.parked [.page 0 0]) ∧
    { s2 with arg := { unit := .page 0 0 }, xl := { s2.xl with requests := [] } }.available (.page 0 0) = true ∧
    ((m Tier.init).tierAt 0 1 tr).map (fun x => (x.1.n, x.2, (m Tier.init).homePage 0 x.1 x.2)) = some (1, key, tr / 65536) ∧ tr / 65536 ≠ 64 ∧ paKind tr = 1 ∧
    (tgetD (m Tier.init).xl.tiers key Tier.init).res = false ∧
    freeFrame (m Tier.init).xl.frames ((m Tier.init).world 0).pool = some 65 ∧ freeFrame [(64, key)] [] = none ∧
    (m { Tier.init with m := true }).frameOf key = some 64 ∧ (m { Tier.init with m := true }).pageBusy (tr / 65536) = false ∧
    (m { Tier.init with m := true }).xl.demoting = [] ∧ (m { Tier.init with m := true }).side = [] ∧
    (m { Tier.init with m := true }).memOk = true ∧ (tgetD (m { Tier.init with m := true }).xl.tiers key Tier.init).m = true ∧
    (tgetD (m { Tier.init with res := true, frame := 64 }).xl.tiers key Tier.init).res = true ∧
    (let n := { m Tier.init with worlds := [(0, { wt with ranges := wt.ranges.take 2 })] }
     (n.tierAt 0 1 tr).isSome = true ∧ freeFrame n.xl.frames (n.world 0).pool = none ∧ n.xl.starved = []) ∧
    (∃ p ∈ ({ ob .absent false with xl := { e.xl with pending := [(.resolve 1 1#16 5#64, who)] } }).xl.pending, p.1 = .resolve 1 1#16 5#64) ∧
    answerOk (.object 4096 7) = true ∧ (ob .absent false).nameAnswer 1 1#16 5#64 = none ∧
    ((ob .resident false).rotAt 1).state = .resident ∧ (ob .resident false).objBusy 1 ((ob .resident false).rotAt 1) = false ∧
    ((ob .arriving true).rotAt 1).state = .arriving ∧ ((ob .departed false).rotAt 1).doomed = false ∧
    oldestOf { e with launches := [(1, la)] }.liveSeqs = some 1#32 ∧ e.plat.launchSeq.toNat % 2 ^ 28 = 0 := by decide

/-- An MMA's block of the spec's example: records 2, 1 and 3, 32 by 32, KB 1. -/
def mmaBs : List Byte := leBytes 64 (0x3042 + 0x01000000 * 2 ^ 32)

theorem witness_EngineEvents : let e := st w1
    let s (o : EngOp) : State := { e with ops := [(7, o)], arg := { a := 7, b := 0 } }
    let c1 := { op0 .mma 1 .check with block := mmaBs, blockLen := 64 }
    let mc (t : Nat) : State := { s (op0 .mma 1 .run) with clock := 70000#64, fab := { e.fab with multicasts := [(7, { core := 0, tag := t, addr := 256, bytes := [1#8], op := 99, sent := 0 })] } }
    let un2 := { op0 .rbegin 4 .run with unfold := some { un 0 with phase := .result, running := [] } }
    (s c1).mayStart 7 c1 = true ∧ ((s c1).core 0).still = false ∧ (s c1).stopsOp c1 = false ∧ (mmaBlock mmaBs).isSome = true ∧ (next .engineOpFreeze (s (op0 .mma 1 (.due rec0)))).isSome = true ∧
    (next .engineOpComplete (s (op0 .mzero 1 .finished))).isSome = true ∧ (next .unfoldingEnd (s un2)).isSome = true ∧
    (un 0).stopped = false ∧ (un 0).frames.all (fun x => !x.dirty) = true ∧ (s un2).firstOnRidge 7 un2 = true ∧
    (let t := { s (op0 .mma 1 .complete) with arg := { a := 1, b := 1 } }
     (t.opsOf 1 1).map (fun x => x.1) = [7] ∧ (tget t.waves 1).isSome = true ∧ (1 < w1.cnt.length)) ∧
    (tget (mc 1).fab.multicasts 7).isSome = true ∧ tget (mc 1).ops 99 = none ∧ 0 + 65536 ≤ (mc 1).clock.toNat := by decide

theorem witness_EngineEvents_sent : let s (o : EngOp) : State := { st w1 with ops := [(7, o)], arg := { a := 7, b := 0 } }
    let o := op0 .mzero 1 .finished
    let p := { op0 .mma 1 .finished with block := mmaBs, blockLen := 64 }
    let mc := { s o with fab := { (s o).fab with multicasts := [(7, { core := 0, tag := 1, addr := 256, bytes := [1#8], op := 99, sent := 0 })] } }
    (s o).unsent 7 o = false ∧ (s p).unsent 7 p = false ∧ (s (op0 .mma 1 (.due rec0))).leavesRest (op0 .mma 1 (.due rec0)) rec0 = false ∧
    mc.clock.toNat ≤ 0 + 65536 ∧ (mc.core 0).still = false := by decide

/-- A clause of a header with one instruction, at a code base of 4,096. -/
def codeMem : Memory := cwrite [] 4096 (leBytes 8 0xFC0FFFFF00000000 ++ leBytes 8 0x10EC180C0601C000)

theorem witness_SchedulingEvents : let wf := { sv (regs [] [] []) with clause := none }
    let s := { st wf with arg := { a := 1 }, mem := codeMem }
    let wl' := { wl with status := .cleared }
    let wb' := { w1 with bundle := none, others := [{ ent 0#32 15#32 with bwt := some (1, false) }], lowerReq := true, clause := none }
    let post : Post := { record := rec0, prec := 0, launch := 0#32, world := 0, core := 0, wgslot := 0, wave := 0, kind := 0 }
    (wf.bundle.map (fun b => (b.pc.toNat % 8, decide (b.pc.toNat < wf.extent), b.ridx, b.passed))) = some (0, true, 0, false) ∧
    s.ready 1 { wf with stalled := false } = true ∧
    (match s.codeRead 1 wf [(32, 0)] with
      | .got [h] t => !headerBad h && decide (h / 2 ^ 52 % 16 + 1 = 1) && decide (headerWaits h = []) && (match (t.putWave 1 (wf.learn 0#32 (BitVec.ofNat 16 (h / 2 ^ 16 % 2 ^ 16)))).codeRead 1
          (wf.learn 0#32 (BitVec.ofNat 16 (h / 2 ^ 16 % 2 ^ 16))) [(0, 8)] with
        | .got ws _ => (ws.map (BitVec.ofNat 64)).zipIdx.all (fun x => !wordBad (h / 2 ^ 56 % 8) x.2 x.1)
        | _ => false)
      | _ => false) = true ∧
    wf.sup = true ∧ wf.hold = [] ∧ s.isRemote (s.hostPa wf.world (s.ownPa (wf.codeBase + 0))) = false ∧ (match s.dataCheck wf 8 [(32, s.hostPa wf.world (s.ownPa (wf.codeBase + 0)))] with
      | .ok _ => true
      | _ => false) = true ∧
    (st wl').wantsSlot 1 wl' = true ∧ (st wl').quadFits 0 0 256 = true ∧ wb'.waiting = true ∧ (st wb').inPool wb' = false ∧ wb'.fillsDue = false ∧
    (st wb').lowerDue wb' = true ∧
    ({ st w1 with cores := [(0, { CoreSt.init with retiring := true })] }).stopNow 0 0 = true ∧ (st w1).protectors 0 = [] ∧
    (let t := { st wl with cores := [(0, { CoreSt.init with retiring := true })] }
     t.canSave 0 wg = true) ∧
    (let g := { wg with saved := some CoreSt.init }
     let t := { st wl with wgs := [(0, g)] }
     t.mayRestore g = true ∧ t.offsetsFree 0 g CoreSt.init = true ∧ (t.core 0).power ≠ .powerGated ∧ (t.core 0).still = false) ∧
    ({ st w1 with ops := [(7, op0 .xcopy 0 .fetch)] }).suspendable (op0 .xcopy 0 .fetch) = true ∧
    ({ st w1 with wgs := [] }).coreEmptied 0 = true ∧ ((CoreSt.init).halt = none) ∧
    ((sw0.toPost ++ [post]).find? { sw0 with toPost := [post] }.roomFor).map (fun p => p.kind) = some 0 := by decide

/-- A marker record without signals, and a launch record of kernel 0 with shape (1, 1, 1). -/
def marker : List Byte := leBytes 32 (2 + 0xFFFF * 2 ^ 48 + 0xFFFF * 2 ^ 224)
@[inherit_doc marker] def record : List Byte := leBytes 32 (1 + 0xFFFF * 2 ^ 48 + 2 ^ 128 + 2 ^ 160 + 2 ^ 192 + 0xFFFF * 2 ^ 224)
/-- A kernel table at 4,096 with one kernel of one bucket. -/
def kernMem : Memory :=
  cwrite (cwrite [] 4096 (leBytes 32 (0x2000 + 64 * 2 ^ 64 + 0x100 * 2 ^ 96))) 0x2100
    (leBytes 64 (1 + 2 ^ 32 + 2 ^ 64 + 2 ^ 96 + 2 ^ 128 + 2 ^ 160 + 2 ^ 224 + 9 * 2 ^ 230 + 2 ^ 256 + 2 ^ 272 + 2 ^ 288))
/-- The machine with an active queue 3 of world 0. -/
def sqe (rec' : List Byte) (deficit : Int) : State :=
  let s := sm { st w1 with waves := [], wgs := [], mem := kernMem, clock := 70000#64, arg := { a := 3 } }
  { s with worlds := [(0, { sw0 with deficit := deficit })]
           queues := [(3, { Queue.init with state := 1#3, win := true, weight := 1#8, size := BitVec.ofNat 64 (64 + 1 * 2 ^ 19), wc := 1, window := [rec'] })] }

/-- What the scheduler finds at the head of queue 3: 0 nothing, 1 an error, 2 a launch, 3 a marker. -/
def headOf (s : State) : Nat :=
  match s.examine 3 with
  | .start l _ => if l.marker then 3 else 2
  | .bad => 1
  | _ => 0

theorem witness_SchedulingEvents_waits : let wf := { sv (regs [] [] []) with clause := none, cnt := [1, 0, 0, 0, 0] }
    let s := { st wf with arg := { a := 1 }, mem := cwrite codeMem 4096 (leBytes 8 0xFC00FFFF00000000) }
    wf.judge = 0 ∧ wf.ldn = none ∧ wf.codeBase + 0 < 2 ^ 52 ∧ headerWaits 0xFC00FFFF00000000 = [(0, 0)] ∧
    s.firstFrozen 1 wf [(0, 0)] = none ∧ 0 < wf.cntOf 0 ∧
    ((next .clauseFetch s).bind (fun t => tget t.waves 1)).map (fun w => (w.stalled, w.clause.map (fun c => c.waited))) = some (true, some false) := by decide

theorem witness_QueueEvents : let s := sqe marker 65536
    let n := sqe record 65536
    let fn : Fn := { world := 0, ndrop := 5#64, vectors := 8, masked := [2], pending := [2], sent := [], ld := 0 }
    let nt := { n with host := { n.host with fns := [(3, fn)] } }
    headOf s = 3 ∧ headOf n = 2 ∧ headOf (sqe (leBytes 32 9) 0) = 1 ∧ n.refillDue = false ∧ (sqe record 0).refillDue = true ∧
    ({ s with queues := [(3, { s.queue 3 with win := false })] }).nextWindow = some 3 ∧
    (let q := { s.queue 3 with window := [], rc := 1 }
     q.win = true ∧ q.rc = q.wc ∧ q.emptySince + 65536 ≤ s.clock.toNat) ∧
    (({ s with wgs := [(0, wg)] }).wgOver 0 = true) ∧ ({ s with launches := [] }).launchDone { la with live := 0, px := 1, py := 1, pz := 1 } = true ∧
    (match s.decrement { la with donesig := 1, queue := 3 } with
      | .ok _ _ => true
      | _ => false) = true ∧
    (tget nt.host.fns 3).map (fun f => f.masked) = some [2] := by decide +kernel

theorem witness_QueueEvents_turn : let n := sqe record 65536
    (n.turn.map (fun (x : Nat × Nat × Option Nat × Launch) => (x.1, x.2.1, x.2.2.1))) = some (0, 3, none) := by decide +kernel

theorem witness_QueueEvents_place :
    let l := { la with seq := none, queue := 3, next := 0, live := 0, lmem := 0, px := 1, py := 1, pz := 1 }
    let n := { sqe record 65536 with launches := [(1, l)] }
    (n.turn.map (fun (x : Nat × Nat × Option Nat × Launch) => (x.1, x.2.1, x.2.2.1))) = some (0, 3, some 1) ∧
    (let u := n.numberLaunch 1 l
     (tget u.launches 1).map (fun l1 => ((u.coreFor l1).isSome, u.freeSlot 0, u.freeSpan 0 0)) = some (true, some 0, some 0)) := by decide +kernel

theorem witness_QueueEvents_notify : let n := sqe record 65536
    let fn : Fn := { world := 0, ndrop := 0#64, vectors := 8, masked := [], pending := [], sent := [], ld := 0 }
    let s := { n with arg := { c := 8 }, host := { n.host with fns := [(2, fn)] }, worlds := [(0, { sw0 with fn := some 2, tdisp := .run })] }
    { s with host := { s.host with cxl := [(0, (64, 16))] } }.linked = true ∧ s.linked = false ∧
    { s with host := { s.host with cxl := [(0, (64, 16))] } }.reaches 2 3 = true ∧ s.reaches 2 3 = true ∧ s.reaches 7 3 = false ∧ s.whole8 = true ∧
    { s with arg := { c := 8, nums := [4] } }.whole8 = false ∧ { s with arg := { c := 4 } }.whole8 = false ∧ (s.queue 3).state = 1#3 ∧ (s.queue 3).wc < 2 ∧ 2 ≤ (s.queue 3).rc + (s.queue 3).nrec ∧
    (s.queue 3).wc = 1 ∧ 0 < (s.queue 3).wc ∧ (s.queue 3).rc + (s.queue 3).nrec < 2 ^ 20 := by decide +kernel

theorem witness_FabricEvents : let e := sm (st w1)
    let r : Request := { wave := 1, world := 0, lane := 0, die := 0, addr := 0, width := 4, va := 0, install := true, answer := none, op := none
                         posted := false, sent := 0, bytes := [], atomic := none }
    let wh := { w1 with hold := [(0, 7)] }
    let s := { st wh with fab := { e.fab with requests := [(7, r)] }, clock := 16777216#64 }
    let p := { e with fab := { e.fab with requests := [(7, { r with posted := true, op := some 5 })] }, ops := [(5, { op0 .posted 3 .run with unacked := 1 })] }
    let imp : BitVec 128 := BitVec.ofNat 128 (0xF + 0 * 2 ^ 4 + 0 * 2 ^ 10 + 2 * 2 ^ 16 + 2 * 2 ^ 27 + 1 * 2 ^ 96)
    let f := { e with fab := { e.fab with imports := [(0, imp)] } }
    s.awaited 7 r = true ∧ r.sent + 16777216 ≤ s.clock.toNat ∧ (tget p.fab.requests 7).map (fun r => r.posted) = some true ∧
    f.plat.boot = .running ∧ f.importFor 2 0 0x1000 8 = some imp.toNat ∧ f.importFor 3 0 0x1000 8 = none ∧ impAllows imp.toNat (.read 0x1000 8) = true ∧
    impAllows imp.toNat (.write 0x1000 [1#8]) = true ∧ impAllows 3 (.write 0x1000 [1#8]) = false ∧ f.runUnconfirmed 0x1000 8 = false ∧
    (f.checkRead (some 0) 0x1000 8).2 = false ∧ f.memOk = true ∧ f.outerParties (0x1000 / 128) = [] ∧ (linesOf 0x1000 8).all (fun l => decide (f.outerParties (l / 2) = [])) = true ∧
    { f with host := { f.host with lds := [(0, { host := some 1, capacity := 2 ^ 20, hdm := [{ base := 0, size := 64, pa := 0x1000, world := 0 }] })] } }.outerParties
      (0x1000 / 128) ≠ [] ∧ ({ sw0 with tdisp := .run }).protected = true ∧
    (let p1 := { f with fab := { f.fab with ports := [(1, { up := true, failed := 0, nodes := [2] })] } }
     (p1.port 1).up = true ∧ p1.fab.ports.any (fun e => e.2.up) = true ∧ p1.importFor 2 0 0x1000 8 = some imp.toNat) ∧ (e.port 1).up = false ∧ (e.port 1).failed ≠ 2 ∧
    ({ e with fab := { e.fab with ports := [(1, { up := false, failed := 2, nodes := [] })] } }.port 1).failed = 2 := by decide

theorem witness_CareEvents : let s := { State.reset with clock := 2000000#64 }
    { s with plat := { s.plat with failing := [3] } }.condemned 0 3 = true ∧ ({ s with arg := { b := 2, nums := [3, 0, 7] } } : State).arg.nums = [3, 0, 7] ∧
    (s.stackAt 0).out = false ∧ (s.stackAt 0).retired = [] ∧ (s.stackAt 0).selfRefresh = false ∧ (s.stackAt 0).lastReq + 1100000 ≤ s.clock.toNat ∧
    s.coreIdle 0 = true ∧ (s.core 0).power = .on ∧ (s.core 0).lastWork + 65536 ≤ s.clock.toNat ∧ (s.sideAt 5).sp = false ∧ (s.sideAt 5).errs = 0 ∧
    (({ s with side := [(5, { Side.init with sp := true })] }).sideAt 5).sp = true ∧
    ((s.putStack 0 { s.stackAt 0 with rebuild := some 3, retired := [3], selfRefresh := true }).stackAt 0).rebuild = some 3 ∧
    ({ sw0 with tdisp := .run }).protected = true ∧ ({ s with wgs := [(0, wg)] }).worksOn 0 0 = true ∧
    ((s.putCore 0 { s.core 0 with power := .powerGated }).core 0).power = .powerGated ∧ (s.core 0).waking = none ∧
    ((s.putCore 0 { s.core 0 with power := .powerGated, waking := some 5 }).core 0).waking = some 5 ∧
    s.plat.ttrip ≤ 105 ∧ 104 < s.plat.ttrip ∧ 95 ≤ s.plat.trel ∧ s.plat.trel < 96 ∧ (s.sideAt 5).pz = false ∧
    (({ s with side := [(5, { Side.init with pz := true })] }).sideAt 5).pz = true := by decide

theorem witness_BootAndTrust : let s := State.reset
    let prot := cwrite (cwrite [] 0x1000 (leBytes 4 5)) (0x1000 + 64 + 64 * 3) [1#8]
    let t := { s with mem := prot, plat := { s.plat with protBlock := some 0x1000, spdmSessions := [(9, 30)] }, arg := { a := 3, b := 9 }
                      worlds := [(3, { World.init with bound := true })] }
    let w (x : Tdisp) : World := { World.init with tdisp := x, session := some 9, bound := true }
    s.plat.fuseBit ||| s.plat.fuseConfirm = 0#64 ∧ (w .run).leaving = false ∧ s.protConfig 3 = none ∧ (List.range 20).all s.plat.portsTried.contains = false ∧
    s.bringOk { node := none, privateGiB := none, serving := [], protBlock := none, cethr := none, ttrip := none, trel := none } = true ∧
    s.bringOk { node := some 1152, privateGiB := none, serving := [], protBlock := none, cethr := none, ttrip := none, trel := none } = false ∧
    (s.world 3).bound = false ∧ tget s.host.fns 0 = none ∧ spdmOk 13 0 0 1 0 255 = true ∧ (t.protConfig 3).isSome = true ∧
    (t.world 3).bound = true ∧ (t.world 3).tdisp = .configUnlocked ∧ t.launches = [] ∧ (tget t.plat.spdmSessions 9).isSome = true ∧
    (w .configLocked).tdisp = .configLocked ∧ (w .run).protected = true ∧ (w .run).session = some 9 := by decide +kernel

/-- An image of version 1 without COMMIT and with an empty body. -/
def img0 : Image := { header := 1#4160, body := [] }

theorem witness_BootAndTrust_fuses : fuseList State.reset.plat img0 = [] ∧
    fuseList { State.reset.plat with fuseBit := 3#64, fuseConfirm := 1#64 } img0 = [3] ∧ (1 : Nat) < 64 ∧ (3#64).getLsbD 1 = true ∧
    (let p := { State.reset.plat with boot := .rom, booting := some (img0, []), blowing := [1, 3] }
     p.boot = .rom ∧ p.booting.isSome = true ∧ p.blowing = [1, 3]) := by
  have h : imageCommit img0 = false := by decide +kernel
  refine ⟨?_, ?_, by decide⟩ <;> simp only [fuseList, h, Bool.and_false, Bool.false_eq_true, if_false] <;> decide

theorem witness_SupervisorOperations_refused : let s := { st wx with worlds := [(0, { World.init with tdisp := .error })] }
    ([.wsetPause (fx (k 0) (k 0) 4), .wsetUnpause (fx (k 0) (k 0) 5)] : List Instr).all (fun i => issues i s wx && decide (wx.active i ≠ 0#32)) = true ∧
    (s.world wx.selWorld).tdisp = .error ∧ s.resetting wx.selWorld = false := by decide

theorem witness_SupervisorOperations_frozen : let wl' := { wl with cause := some { rec0 with step := 6#3 } }
    let s := { st wx with waves := [(1, wx), (2, wl')], ops := [(7, { op0 .xcopy 0 (.frozen { rec0 with rst := true }) with wave := 2 })] }
    (s.frozenOf 2 wl').map (fun (x : Nat × EngOp × FaultRec) => (x.1, x.2.2.rst)) = some (7, true) := by decide

end Sys2Proof.Tests
end

/-! PROOFS. Laws that every register instruction and every instruction with a check in its lanes can use: what an issued
instruction does, where a source's number lies, and that a destination takes from a function of the lane its values in the
written lanes only. -/

namespace Sys2Proof.Machine

/-! ### An instruction that issues -/

/-- An instruction that issues, and whose act is done, passes on from the state that the act leaves. -/
theorem issue_done {i : Instr} {s t : State} {w : Wave} {act : Wave → Mask → State → Act} (h : issues i s w = true)
    (ha : act w (w.active i) s = .done t) : issue i s act = .next (t.advance s.cur) := by
  simp only [issues, Bool.and_eq_true, decide_eq_true_eq, Bool.or_eq_true, Bool.not_eq_true'] at h
  obtain ⟨⟨⟨⟨⟨⟨⟨hw, hs⟩, hb⟩, hp⟩, hf⟩, hn⟩, hr⟩, hg⟩ := h
  have hb' : w.bundle ≠ none := Option.isSome_iff_ne_none.1 hb
  have hp' : privileged i = true → w.sup = true := fun hi => hp.resolve_left (by simp [hi])
  rw [issue, issueState_ready i s act w hw hs hb' hp' hf hn hr hg, ha]

/-- An instruction that only changes its wave gives that wave. -/
theorem givesWave_of_onWave {i : Instr} {g : Wave → Mask → Wave} (he : ∀ s, exec i s = issue i s (onWave g)) :
    GivesWave i (fun _ => g) := fun s _ h => (he s).trans (issue_done h rfl)

/-- An instruction whose meaning writes `val` of each active lane gives every function with the same values. -/
theorem gives_of_onWave {i : Instr} {o : Operand} {n : Nat} {val : Wave → Nat → Nat} {val' : State → Wave → Nat → Nat}
    (he : ∀ s, exec i s = issue i s (onWave fun w m => w.put o n m (val w))) (hv : ∀ s w l, val w l = val' s w l) :
    Gives i o n val' := by
  have : val' = fun _ => val := funext fun s => funext fun w => funext fun l => (hv s w l).symm
  subst this
  exact givesWave_of_onWave he

/-! ### Lanes -/

/-- Where a check passes in every lane of a list, it gives the lanes their values. -/
theorem formLanes_of_forall_ok {α : Type} {g : Nat → Except Cond α} {val : Nat → α} :
    ∀ {ls : List Nat}, (∀ l ∈ ls, g l = .ok (val l)) → formLanes g ls = .ok (ls.map fun l => (l, val l))
  | [], _ => rfl
  | l :: ls, h => by
    have ih := formLanes_of_forall_ok (fun k hk => h k (List.mem_cons_of_mem l hk))
    simp [formLanes, h l List.mem_cons_self, ih]

/-- The value that a list of lanes and values holds for one of its lanes. -/
theorem find?_map_lane {α : Type} (val : Nat → α) {l : Nat} :
    ∀ {ls : List Nat}, l ∈ ls → (ls.map fun k => (k, val k)).find? (fun x => decide (x.1 = l)) = some (l, val l)
  | k :: ls, h => by
    by_cases hk : k = l
    · simp [hk]
    · have hl : l ∈ ls := (List.mem_cons.1 h).resolve_left (Ne.symm hk)
      simpa [hk] using find?_map_lane val hl

/-- A destination takes the values of a function in the lanes of the mask alone. -/
theorem Wave.put_congr (w : Wave) (o : Operand) (n : Nat) {m : Mask} {f g : Nat → Nat} (h : ∀ l ∈ Mask.lanes m, f l = g l) :
    w.put o n m f = w.put o n m g := by
  have : w.regs.writeLanes o n m f = w.regs.writeLanes o n m g :=
    List.foldl_ext _ _ _ fun r l hl => by rw [h l hl]
  rw [Wave.put, Wave.put, this]

/-! ### Sources -/

/-- `n` vector registers hold a number of `32 * n` bits. -/
theorem Wave.readVs_lt (w : Wave) (lane : Nat) : ∀ (n r : Nat), w.readVs r lane n < 2 ^ (32 * n)
  | 0, _ => by simp [Wave.readVs]
  | n + 1, r => by
    have ih := w.readVs_lt lane n (r + 1)
    have hx := (w.readV r lane).isLt
    rw [Wave.readVs, Nat.mul_succ, Nat.pow_add]
    omega

/-- `n` scalar registers hold a number of `32 * n` bits. -/
theorem Wave.readSs_lt (w : Wave) : ∀ (n r : Nat), w.readSs r n < 2 ^ (32 * n)
  | 0, _ => by simp [Wave.readSs]
  | n + 1, r => by
    have ih := w.readSs_lt n (r + 1)
    have hx := (w.regs.readS r).isLt
    rw [Wave.readSs, Nat.mul_succ, Nat.pow_add]
    omega

/-- A source of `n` words reads as a number of `32 * n` bits. -/
theorem Wave.src_lt (w : Wave) (o : Operand) {n : Nat} (hn : 0 < n) (lane : Nat) : w.src o n lane < 2 ^ (32 * n) := by
  have h32 : 2 ^ 32 ≤ 2 ^ (32 * n) := Nat.pow_le_pow_right (by decide) (by omega)
  cases o with
  | v r => exact w.readVs_lt lane n r.toNat
  | s r => exact w.readSs_lt n r.toNat
  | p r =>
    have : b2n ((w.readP r.toNat).has lane) ≤ 1 := by unfold b2n; split <;> decide
    simp only [Wave.src]
    omega
  | pos k => simp only [Wave.src]; omega
  | neg k => simp only [Wave.src]; omega
  | flt k => simp only [Wave.src]; omega
  | rsv c => simp only [Wave.src]; omega

/-- The bits of a source stand for the number that it reads as. -/
theorem Wave.bv_toNat (w : Wave) (o : Operand) {n : Nat} (hn : 0 < n) (lane : Nat) :
    (w.bv o n lane).toNat = w.src o n lane := by
  rw [Wave.bv, BitVec.toNat_ofNat, Nat.mod_eq_of_lt (w.src_lt o hn lane)]

/-- A number read as two's complement is the signed value of its bits. -/
theorem sextN_eq_toInt (n v : Nat) (hn : 0 < n) : sextN n v = (BitVec.ofNat n v).toInt := by
  obtain ⟨k, rfl⟩ : ∃ k, n = k + 1 := ⟨n - 1, by omega⟩
  have hp : 2 ^ (k + 1) = 2 * 2 ^ k := Nat.pow_succ'
  rw [sextN, BitVec.toInt_eq_toNat_cond, BitVec.toNat_ofNat, Nat.add_sub_cancel]
  split <;> split <;> omega

end Sys2Proof.Machine

/-! PROOFS. The pointer instructions (R43 to R47): the value of each in one lane, and the obligation O41. -/

namespace Sys2Proof.Machine

/-! ### Values in one lane -/

/-- The displacement of PADD is the signed value of the source's bits in the width of the type (R43). -/
theorem Wave.paddB_eq (w : Wave) (f : FmtA3) (lane : Nat) :
    w.paddB f lane = if f.ty = 2#4 then (w.bv f.b 1 lane).toInt else (w.bv f.b 2 lane).toInt := by
  rw [Wave.paddB, sextN_eq_toInt 32 _ (by decide), sextN_eq_toInt 64 _ (by decide)]
  rfl

/-- PADD keeps N, GEN and HANDLE of a near pointer, and wraps the offset (R43). -/
theorem paddVal_near {a : Nat} (d : Int) (ha : a.testBit 63 = true) :
    paddVal a d = .ok (a / 2 ^ 40 * 2 ^ 40 + (((a % 2 ^ 40 : Nat) + d) % 2 ^ 40).toNat) := by
  simp [paddVal, bit, ha, wrapN, bits]

/-- PADD adds to a canonical flat address where the exact sum is canonical (R43). -/
theorem paddVal_flat {a : Nat} {d : Int} (ha : a < 2 ^ 57) (h0 : 0 ≤ (a : Int) + d) (h1 : (a : Int) + d < 2 ^ 57) :
    paddVal a d = .ok ((a : Int) + d).toNat := by
  have hn : a.testBit 63 = false := Nat.testBit_lt_two_pow (ha.trans (by decide))
  have hc : bits a 57 6 = 0 := by rw [bits, Nat.div_eq_of_lt ha, Nat.zero_mod]
  have ht : ¬ ((a : Int) + d < 0 ∨ (2 ^ 57 : Int) ≤ (a : Int) + d) := by omega
  simp only [paddVal, bit, hn, hc, ne_eq, not_true_eq_false, Bool.false_eq_true, if_false, if_neg ht]

/-- PLT, PLE and PSUB relate two near pointers of one object, or two canonical flat addresses (R44, R45). -/
theorem sameObj_or_bothFlat (a b : Nat) : (sameObj a b || bothFlat a b) =
    (decide (a.testBit 63 = true ∧ b.testBit 63 = true ∧ a / 2 ^ 40 = b / 2 ^ 40) || decide (a < 2 ^ 57 ∧ b < 2 ^ 57)) := by
  simp only [sameObj, bothFlat, bit, Bool.decide_and, Bool.decide_eq_true, Bool.and_assoc]

/-- Offsets of one object differ as the whole pointers do. -/
theorem offset_sub {a b : Nat} (h : a / 2 ^ 40 = b / 2 ^ 40) :
    (bits a 0 40 : Int) - (bits b 0 40 : Int) = (a : Int) - b := by
  simp only [bits]
  omega

/-- PSUB gives the difference of related pointers in 64 bits, and zero for all others (R44). -/
theorem psubVal_eq (a b : Nat) : psubVal a b =
    (if (sameObj a b || bothFlat a b) = true then (BitVec.ofInt 64 ((a : Int) - b)).toNat else 0,
      sameObj a b || bothFlat a b) := by
  have hw (x : Int) : wrapN 64 x = (BitVec.ofInt 64 x).toNat := by rw [wrapN, BitVec.toNat_ofInt]
  by_cases ho : sameObj a b = true
  · have hd : a / 2 ^ 40 = b / 2 ^ 40 := by
      simp only [sameObj, Bool.and_eq_true, decide_eq_true_eq] at ho
      exact ho.2
    simp [psubVal, ho, hw, offset_sub hd]
  · by_cases hf : bothFlat a b = true
    · simp [psubVal, ho, hf, hw]
    · simp [psubVal, ho, hf]

/-- The field of a pointer that PEXT reads, as a part of its 64 bits (R47). -/
theorem pextVal_eq (x : BitVec 64) (k : Nat) : pextVal x.toNat k =
    match k with
    | 0 => (x.extractLsb' 0 32).toNat
    | 1 => if x.msb then (x.extractLsb' 32 8).toNat else if decide (x.toNat < 2 ^ 57) then (x.extractLsb' 32 25).toNat
        else (x.extractLsb' 32 32).toNat
    | 2 => if x.msb then (x.extractLsb' 40 20).toNat else 0xFFFFFFFF
    | 3 => if x.msb then (x.extractLsb' 60 3).toNat else 0xFFFFFFFF
    | _ => if x.msb then 1 else if decide (x.toNat < 2 ^ 57) then 0 else 2 := by
  have hn : bit x.toNat 63 = x.msb := by rw [bit, BitVec.testBit_toNat, BitVec.msb_eq_getLsbD_last]
  have hb (lo len : Nat) : bits x.toNat lo len = (x.extractLsb' lo len).toNat := by
    rw [bits, BitVec.extractLsb'_toNat, Nat.shiftRight_eq_div_pow]
  match k with
  | 0 | 1 | 2 | 3 | k + 4 => simp [pextVal, hn, hb]

/-! ### The instructions -/

section
variable (f : FmtA3)

/-- PADD where every active lane has a sum (R43). -/
theorem exec_padd {s : State} {w : Wave} {val : Nat → Nat} (h : issues (.padd f) s w = true)
    (hv : ∀ l ∈ Mask.lanes (w.active (.padd f)), paddVal (w.src f.a 2 l) (w.paddB f l) = .ok (val l)) :
    exec (.padd f) s = .next ((s.putWave s.cur (w.put f.dst 2 (w.active (.padd f)) val)).advance s.cur) := by
  refine issue_done h ?_
  simp only [formLanes_of_forall_ok hv]
  rw [w.put_congr f.dst 2 (g := val) fun l hl => by rw [find?_map_lane val hl]]

/-- PSUB writes the difference and then the truth value (R44). -/
theorem psub_givesWave : GivesWave (.psub f) (fun _ w m =>
    (w.put f.dst 2 m (fun l => (psubVal (w.src f.a 2 l) (w.src f.b 2 l)).1)).put f.c 1 m
      (fun l => b2n (psubVal (w.src f.a 2 l) (w.src f.b 2 l)).2)) :=
  givesWave_of_onWave fun _ => rfl

/-- PNAME with no active lane passes on. -/
theorem exec_pname_of_no_lane {s : State} {w : Wave} (h : issues (.pname f) s w = true) (hm : w.active (.pname f) = 0#32) :
    exec (.pname f) s = .next (s.advance s.cur) :=
  issue_done h (if_pos hm)

/-- PNAME where every active lane has a slot: the load whose data is known at issue (R46). -/
theorem exec_pname {s : State} {w : Wave} {slot : Nat → Nat} (h : issues (.pname f) s w = true)
    (hm : w.active (.pname f) ≠ 0#32)
    (hv : ∀ l ∈ Mask.lanes (w.active (.pname f)), s.nameSlot w.world (w.src f.a 2 l) 0 = .ok (slot l)) :
    exec (.pname f) s = .next ((s.issueLoad s.cur w
      { stamp := s.nextId, dst := f.dst, width := 16, signed := false, inv := false, who := s.stampOf w
        lanes := (Mask.lanes (w.active (.pname f))).map (fun l => (l, .known (leBytes 16 (slot l)))) }
      4 (w.active (.pname f)) none).advance s.cur) := by
  refine issue_done h ?_
  simp only [if_neg hm, formLanes_of_forall_ok hv, List.map_map]
  rfl

end

end Sys2Proof.Machine

namespace Sys2Proof.Proofs

open Sys2Proof Sys2Proof.Machine

/-- Settles O41. Each instruction takes its wave to a function of its operands (`psub_givesWave`, `gives_of_onWave`), whose
value in a lane is the one of R43 to R47; PADD and PNAME do so where every active lane passes its check. -/
theorem pointerInstructions : Obligations.PointerInstructions := by
  unfold Obligations.PointerInstructions
  intro f near pair a b
  have hpair (x y : Nat) : (sameObj x y || bothFlat x y) = pair x y := sameObj_or_bothFlat x y
  refine ⟨?padd, ?psub, ?peq, ?plt, ?ple, ?pext, ?pnameNone, ?pname⟩
  case padd =>
    intro s w h d hd
    refine exec_padd f h fun l hl => ?_
    have hb : w.paddB f l = d l := w.paddB_eq f l
    rw [hb]
    by_cases hn : near (a w l) = true
    · rw [if_pos hn]
      exact paddVal_near (d l) hn
    · obtain ⟨hflat, h0, h1⟩ := (hd l hl).resolve_left hn
      rw [if_neg hn]
      exact paddVal_flat hflat h0 h1
  case psub =>
    have := psub_givesWave f
    simpa only [psubVal_eq, hpair] using this
  case peq => exact gives_of_onWave (fun _ => rfl) fun _ _ _ => rfl
  case plt => exact gives_of_onWave (fun _ => rfl) fun _ _ _ => by rw [← hpair]
  case ple => exact gives_of_onWave (fun _ => rfl) fun _ _ _ => by rw [← hpair]
  case pext =>
    refine gives_of_onWave (val := fun w l => pextVal (w.src f.a 2 l) (w.src f.b 1 l)) (fun _ => rfl) fun _ w l => ?_
    rw [← w.bv_toNat f.a (by decide) l]
    exact pextVal_eq _ _
  case pnameNone => exact fun s w h hm => exec_pname_of_no_lane f h hm
  case pname =>
    intro s w slot h hm hv
    simpa [State.issueLoad] using exec_pname f h hm hv

end Sys2Proof.Proofs

/-! PROOFS. Integer instructions: values of a type, division and saturation (R227, R229 to R231), and the obligation O2. -/

namespace Sys2Proof.Machine

/-! ### Instructions whose fields are allowed -/

/-- The fields outside the slots of an instruction that issues are allowed (R219). -/
theorem codesOk_of_issues {i : Instr} {s : State} {w : Wave} (h : issues i s w = true) : codesOk i = true := by
  simp only [issues, fieldsOk, Bool.and_eq_true] at h
  obtain ⟨⟨⟨⟨-, ⟨⟨hcodes, -⟩, -⟩, -⟩, -⟩, -⟩, -⟩ := h
  exact hcodes

/-- An instruction whose meaning writes `val` of each active lane gives every function that has the same values under the
types and flags which the instruction takes. -/
theorem gives_of_codesOk {i : Instr} {o : Operand} {n : Nat} {val : Wave → Nat → Nat} {val' : State → Wave → Nat → Nat}
    (he : ∀ s, exec i s = issue i s (onWave fun w m => w.put o n m (val w)))
    (hv : codesOk i = true → ∀ s w l, val w l = val' s w l) : Gives i o n val' :=
  fun s w h => gives_of_onWave he (hv (codesOk_of_issues h)) s w h

/-- The type of an A3 word with allowed fields is one of the instruction's. -/
theorem ty_mem_of_a3Codes {f : FmtA3} {types flags : List Nat} {rounds : Bool} (h : a3Codes f types flags rounds = true) :
    f.ty.toNat ∈ types := by
  simp only [a3Codes, Bool.and_eq_true, decide_eq_true_eq] at h
  obtain ⟨⟨hty, -⟩, -⟩ := h
  exact hty

/-- The flags of an A3 word with allowed fields are one of the instruction's values. -/
theorem flg_mem_of_a3Codes {f : FmtA3} {types flags : List Nat} {rounds : Bool} (h : a3Codes f types flags rounds = true) :
    f.flg.toNat ∈ flags := by
  simp only [a3Codes, Bool.and_eq_true, decide_eq_true_eq] at h
  obtain ⟨⟨-, hflg⟩, -⟩ := h
  exact hflg

/-! ### Types, and values of a type -/

theorem wordsI_pos (ty : BitVec 4) : 0 < wordsI ty := by unfold wordsI; split <;> decide

theorem regBits_pos (ty : BitVec 4) : 0 < regBits ty := Nat.mul_pos (by decide) (wordsI_pos ty)

theorem tyBits_pos (ty : Nat) : 0 < tyBits ty := by unfold tyBits; split_ifs <;> decide

/-- A type of full width fills its registers and is not packed; its sign is that of the .i types (R227). -/
theorem fullWidth_type : ∀ {ty : BitVec 4}, ty.toNat ∈ tyW →
    ty ≠ 9#4 ∧ tyBits ty.toNat = regBits ty ∧ tySigned ty.toNat = isSigned ty := by decide

/-- An integer modulo 2^w is the number of its bits. -/
theorem wrapN_eq_toNat (w : Nat) (x : Int) : wrapN w x = (BitVec.ofInt w x).toNat := (BitVec.toNat_ofInt x).symm

/-- ext(x) is the number that the type's bits stand for (R227, R230). -/
theorem extTy_eq_asInt (ty x : Nat) : extTy ty x = asInt (tySigned ty) (BitVec.ofNat (tyBits ty) x) := by
  rw [extTy, asInt, sextN_eq_toInt _ _ (tyBits_pos ty), BitVec.toNat_ofNat]

/-- A type that is not packed reads its source as every instruction does (R213). -/
theorem Wave.isrc_of_ne (w : Wave) (o : Operand) {ty : BitVec 4} (h : ty ≠ 9#4) (lane : Nat) :
    w.isrc o ty lane = w.src o (wordsI ty) lane := if_neg h

/-- ext of a source of full width is the number that its bits stand for (R227). -/
theorem Wave.extTy_src (w : Wave) (o : Operand) {ty : BitVec 4} (h : ty.toNat ∈ tyW) (lane : Nat) :
    extTy ty.toNat (w.src o (wordsI ty) lane) = asInt (isSigned ty) (w.bv o (wordsI ty) lane) := by
  obtain ⟨-, hbits, hsigned⟩ := fullWidth_type h
  rw [extTy_eq_asInt, hsigned, hbits]
  rfl

/-- The result in a lane of a two-source operation of full width (R227). -/
theorem Wave.intVal_fullWidth (w : Wave) (a b : Operand) {ty : BitVec 4} (h : ty.toNat ∈ tyW) (g : Int → Int → Int) (lane : Nat) :
    intVal ty g (w.isrc a ty lane) (w.isrc b ty lane) =
      (BitVec.ofInt (32 * wordsI ty)
        (g (asInt (isSigned ty) (w.bv a (wordsI ty) lane)) (asInt (isSigned ty) (w.bv b (wordsI ty) lane)))).toNat := by
  obtain ⟨h9, -, -⟩ := fullWidth_type h
  rw [intVal, if_neg h9, w.isrc_of_ne a h9, w.isrc_of_ne b h9, w.extTy_src a h, w.extTy_src b h, wrapN_eq_toNat]
  rfl

/-! ### Division (R229) -/

/-- The remainder of R229 is that of division with truncation, also for a zero divisor and the overflowing quotient. -/
theorem divRem_snd (ty : Nat) (x y : Int) : (divRem ty x y).2 = x.tmod y := by
  unfold divRem
  split_ifs with h0 hov
  · rw [h0, Int.tmod_zero]
  · rw [hov.2.2, Int.tmod_neg, Int.tmod_one]
  · rw [Int.tmod_def]

/-- A zero divisor gives the quotient −1. -/
theorem divRem_zero_fst (ty : Nat) (x : Int) : (divRem ty x 0).1 = -1 := rfl

/-- The quotient of R229 is the truncated one modulo the type's width: in the overflowing case the two differ by 2^W. -/
theorem ofInt_divRem_fst (ty : Nat) (x : Int) {y : Int} (hy : y ≠ 0) :
    BitVec.ofInt (tyBits ty) (divRem ty x y).1 = BitVec.ofInt (tyBits ty) (x.tdiv y) := by
  rw [divRem, if_neg hy]
  split_ifs with hov
  · obtain ⟨hs, hx, rfl⟩ := hov
    have hp : (2 : Int) ^ tyBits ty = 2 * 2 ^ (tyBits ty - 1) := by
      rw [← pow_succ', Nat.sub_add_cancel (tyBits_pos ty)]
    have hdiff : x = x.tdiv (-1) + (-1) * 2 ^ tyBits ty := by
      rw [Int.tdiv_neg, Int.tdiv_one, hp, hx, leastTy, if_pos hs]
      push_cast
      ring
    apply BitVec.eq_of_toNat_eq
    rw [BitVec.toNat_ofInt, BitVec.toNat_ofInt]
    congr 1
    conv_lhs => rw [hdiff]
    exact_mod_cast Int.add_mul_emod_self_right ..
  · rfl

/-- Truncated division of the numbers that bits stand for. -/
theorem ofInt_tdiv_asInt {n : Nat} (sg : Bool) (x y : BitVec n) :
    BitVec.ofInt n ((asInt sg x).tdiv (asInt sg y)) = if sg then x.sdiv y else x / y := by
  cases sg with
  | true => exact BitVec.eq_of_toInt_eq (by simp [asInt, BitVec.toInt_ofInt, BitVec.toInt_sdiv])
  | false =>
    apply BitVec.eq_of_toNat_eq
    simp only [asInt, Bool.false_eq_true, if_false, ← Int.ofNat_tdiv, BitVec.ofInt_natCast, BitVec.toNat_udiv,
      BitVec.toNat_ofNat]
    exact Nat.mod_eq_of_lt ((Nat.div_le_self ..).trans_lt x.isLt)

/-- The remainder of truncated division of the numbers that bits stand for. -/
theorem ofInt_tmod_asInt {n : Nat} (sg : Bool) (x y : BitVec n) :
    BitVec.ofInt n ((asInt sg x).tmod (asInt sg y)) = if sg then x.srem y else x % y := by
  cases sg with
  | true => simp only [asInt, if_true, ← BitVec.toInt_srem, BitVec.ofInt_toInt]
  | false =>
    apply BitVec.eq_of_toNat_eq
    simp only [asInt, Bool.false_eq_true, if_false, ← Int.ofNat_tmod, BitVec.ofInt_natCast, BitVec.toNat_umod,
      BitVec.toNat_ofNat]
    exact Nat.mod_eq_of_lt ((Nat.mod_le ..).trans_lt x.isLt)

theorem asInt_eq_zero_iff {n : Nat} (sg : Bool) (x : BitVec n) : asInt sg x = 0 ↔ x = 0 := by
  cases sg with
  | true => simp [asInt, ← BitVec.toInt_inj]
  | false => simp [asInt, ← BitVec.toNat_inj]

/-- IDIV in a lane (R229). -/
theorem idiv_value {ty : BitVec 4} (h : ty.toNat ∈ tyW) (x y : BitVec (32 * wordsI ty)) :
    (BitVec.ofInt (32 * wordsI ty) (divRem ty.toNat (asInt (isSigned ty) x) (asInt (isSigned ty) y)).1).toNat =
      if y = 0 then 2 ^ (32 * wordsI ty) - 1 else if isSigned ty then (x.sdiv y).toNat else (x / y).toNat := by
  obtain ⟨-, hbits, -⟩ := fullWidth_type h
  by_cases hy : y = 0
  · have h0 : asInt (isSigned ty) y = 0 := (asInt_eq_zero_iff _ y).2 hy
    rw [if_pos hy, h0, divRem_zero_fst, BitVec.ofInt_neg]
    exact (congrArg BitVec.toNat BitVec.neg_one_eq_allOnes).trans BitVec.toNat_allOnes
  · have h0 : asInt (isSigned ty) y ≠ 0 := mt (asInt_eq_zero_iff _ y).1 hy
    have hq := ofInt_divRem_fst ty.toNat (asInt (isSigned ty) x) h0
    rw [hbits] at hq
    rw [if_neg hy, ← apply_ite BitVec.toNat, ← ofInt_tdiv_asInt]
    exact congrArg BitVec.toNat hq

/-! ### Four bytes (R231) -/

/-- A fold over the numbers below n + 1 ends with n. -/
theorem foldl_range_succ {α : Type} (f : α → Nat → α) (a : α) (n : Nat) :
    (List.range (n + 1)).foldl f a = f ((List.range n).foldl f a) n := by
  rw [List.range_succ, List.foldl_concat]

/-- A sum of four bytes, each at its place, is the packed number. -/
theorem foldl_bytes_eq_pack4 (g : Nat → BitVec 8) :
    (List.range 4).foldl (fun acc k => acc + (g k).toNat * 2 ^ (8 * k)) 0 = pack4 g := by
  simp only [foldl_range_succ, List.range_zero, List.foldl_nil, pack4, Nat.reduceMul, pow_zero, Nat.mul_one, Nat.zero_add]

/-- The four elements of .4i8 are computed independently, each on its signed bytes. -/
theorem lanes4_eq_pack4 (g : Int → Int → Int) (x y : Nat) :
    lanes4 g x y = pack4 fun k => BitVec.ofInt 8 (g (byteAt x k).toInt (byteAt y k).toInt) := by
  simp only [lanes4, wrapN_eq_toNat, sextN_eq_toInt 8 _ (by decide)]
  exact foldl_bytes_eq_pack4 fun k => BitVec.ofInt 8 (g (byteAt x k).toInt (byteAt y k).toInt)

/-! ### Saturation (R230) -/

/-- The nearer of two bounds, or a value between them. -/
theorem clamp_eq_max_min {lo hi : Int} (x : Int) (h : lo ≤ hi) :
    (if x < lo then lo else if hi < x then hi else x) = max lo (min hi x) := by omega

theorem leastTy_le_greatestTy (ty : Nat) : leastTy ty ≤ greatestTy ty := by
  have hm : 0 < 2 ^ (tyBits ty - 1) := Nat.two_pow_pos _
  have hn : 0 < 2 ^ tyBits ty := Nat.two_pow_pos _
  unfold leastTy greatestTy
  split <;> omega

/-- A value brought into the range of a type is the saturated one. -/
theorem clampTy_eq_saturate (ty : Nat) (x : Int) : clampTy ty x = saturate (tySigned ty) (tyBits ty) x := by
  rw [clampTy, clamp_eq_max_min x (leastTy_le_greatestTy ty), leastTy, greatestTy, saturate]
  split <;> push_cast <;> rfl

/-- The element types of IADDS and ISUBS that are not packed: the width of the element, and its sign (R214, R230). -/
theorem saturating_type : ∀ {ty : BitVec 4}, ty.toNat ∈ [0, 1, 2, 3, 4, 5, 6, 7, 9] → ty ≠ 9#4 →
    tyBits ty.toNat = (if ty = 0#4 ∨ ty = 4#4 then 8 else if ty = 1#4 ∨ ty = 5#4 then 16 else 32 * wordsI ty) ∧
      tySigned ty.toNat = decide (ty.toNat < 4) := by decide

/-- IADDS and ISUBS in a lane, from their exact operation `g` (R230, R231). -/
theorem intVal_clampTy {ty : BitVec 4} (h : ty.toNat ∈ [0, 1, 2, 3, 4, 5, 6, 7, 9]) (g : Int → Int → Int) (x y : Nat) :
    intVal ty (fun x y => clampTy (elemTy ty) (g x y)) x y = satType ty g x y := by
  by_cases h9 : ty = 9#4
  · subst h9
    simp only [intVal, satType, elemTy, if_true, lanes4_eq_pack4, clampTy_eq_saturate]
    rfl
  · obtain ⟨hbits, hsigned⟩ := saturating_type h h9
    unfold intVal satType
    dsimp only
    rw [if_neg h9, if_neg h9, ← hbits, ← hsigned, elemTy, if_neg h9, clampTy_eq_saturate, extTy_eq_asInt, extTy_eq_asInt,
      wrapN_eq_toNat]
    rfl

end Sys2Proof.Machine

namespace Sys2Proof.Proofs

open Sys2Proof Sys2Proof.Machine

/-- Settles O2. Each instruction writes one value of its operands (`gives_of_codesOk`). The model divides and saturates
integers; the statement does so on their bits (`idiv_value`, `ofInt_tmod_asInt`, `intVal_clampTy`). -/
theorem divisionAndSaturation : Obligations.DivisionAndSaturation := by
  unfold Obligations.DivisionAndSaturation
  intro f n
  refine ⟨?idiv, ?irem, ?iadds, ?isubs⟩
  case idiv =>
    refine gives_of_codesOk (fun _ => rfl) fun hc _ w l => ?_
    have hty : f.ty.toNat ∈ tyW := ty_mem_of_a3Codes hc
    exact (w.intVal_fullWidth f.a f.b hty _ l).trans (idiv_value hty _ _)
  case irem =>
    refine gives_of_codesOk (fun _ => rfl) fun hc _ w l => ?_
    have hty : f.ty.toNat ∈ tyW := ty_mem_of_a3Codes hc
    rw [w.intVal_fullWidth f.a f.b hty, divRem_snd, ofInt_tmod_asInt, apply_ite BitVec.toNat]
  case iadds => exact gives_of_codesOk (fun _ => rfl) fun hc _ _ _ => intVal_clampTy (ty_mem_of_a3Codes hc) _ _ _
  case isubs => exact gives_of_codesOk (fun _ => rfl) fun hc _ _ _ => intVal_clampTy (ty_mem_of_a3Codes hc) _ _ _

end Sys2Proof.Proofs

/-! PROOFS. Logic, shifts, bit fields, counts and permutes (R232 to R234): the value of each in one lane, and the
obligations O3 and O4. -/

namespace Sys2Proof.Machine

/-! ### Logic and shifts (R232) -/

/-- An instruction on the bits of two sources gives every function with the same values. -/
theorem gives_of_bits2Op {i : Instr} {f : FmtA3} {g : Nat → Nat → Nat} {val : State → Wave → Nat → Nat}
    (he : ∀ s, exec i s = bits2Op i f g s)
    (hg : ∀ s w l, g (w.bv f.a (wordsI f.ty) l).toNat (w.bv f.b (wordsI f.ty) l).toNat = val s w l) :
    Gives i f.dst (wordsI f.ty) val :=
  gives_of_onWave he fun s w l => by
    rw [← hg s, w.bv_toNat f.a (wordsI_pos f.ty), w.bv_toNat f.b (wordsI_pos f.ty)]

section
variable {n : Nat} (x : BitVec n) (s : Nat)

/-- A left shift by the width or more gives zero. -/
theorem toNat_shiftLeft_cases :
    (if s < n then x.toNat * 2 ^ s % 2 ^ n else 0) = (x <<< s).toNat := by
  split
  · rw [BitVec.toNat_shiftLeft, Nat.shiftLeft_eq]
  · rw [BitVec.shiftLeft_eq_zero (by omega), BitVec.toNat_zero]

/-- A right shift by the width or more gives zero. -/
theorem toNat_ushiftRight_cases : (if s < n then x.toNat / 2 ^ s else 0) = (x >>> s).toNat := by
  split
  · rw [BitVec.toNat_ushiftRight, Nat.shiftRight_eq_div_pow]
  · rw [BitVec.ushiftRight_eq_zero (by omega), BitVec.toNat_zero]

/-- A signed right shift by the width or more gives the sign in every bit. -/
theorem sshiftRight_of_le (h : n ≤ s) : x.sshiftRight s = if x.msb then BitVec.allOnes n else 0#n := by
  ext i hi
  rw [BitVec.getElem_sshiftRight, dif_neg (by omega)]
  cases x.msb <;> simp

/-- A signed right shift divides the signed value and rounds down. -/
theorem toNat_sshiftRight_cases (hn : 0 < n) :
    (if s < n then wrapN n (sextN n x.toNat / ((2 ^ s : Nat) : Int)) else if bit x.toNat (n - 1) then 2 ^ n - 1 else 0) =
      (x.sshiftRight s).toNat := by
  split
  · rw [wrapN_eq_toNat, sextN_eq_toInt n _ hn, BitVec.ofNat_toNat, BitVec.setWidth_eq, ← Int.shiftRight_eq_div_pow]
    rfl
  · rw [sshiftRight_of_le x s (by omega), bit, BitVec.testBit_toNat, ← BitVec.msb_eq_getLsbD_last]
    split
    · rw [BitVec.toNat_allOnes]
    · rw [BitVec.toNat_zero]

end

/-- The pair of two registers as a number (R222). -/
theorem toNat_pair (a b : BitVec 32) : (b ++ a).toNat = b.toNat * 2 ^ 32 + a.toNat := by
  rw [BitVec.toNat_append, ← Nat.shiftLeft_add_eq_or_of_lt a.isLt, Nat.shiftLeft_eq]

/-- SHF takes one half of the shifted pair (R232). -/
theorem funnel_eq_extract (right : Bool) (a b : BitVec 32) (c : Nat) : funnel right a.toNat b.toNat c =
    (if right then ((b ++ a) >>> min c 32).extractLsb' 0 32 else ((b ++ a) <<< min c 32).extractLsb' 32 32).toNat := by
  have hlt : ((b ++ a) <<< min c 32).toNat < 2 ^ 64 := ((b ++ a) <<< min c 32).isLt
  unfold funnel
  dsimp only
  rw [← min_def_lt, ← toNat_pair]
  cases right with
  | true => simp [BitVec.extractLsb'_toNat, Nat.shiftRight_eq_div_pow]
  | false =>
    rw [BitVec.toNat_shiftLeft, Nat.shiftLeft_eq] at hlt
    simp only [Bool.false_eq_true, if_false, BitVec.extractLsb'_toNat, BitVec.toNat_shiftLeft, Nat.shiftLeft_eq,
      Nat.shiftRight_eq_div_pow]
    omega

/-! ### Bit fields (R233) -/

/-- The field of BFE: the floor of the quotient, modulo 2^L. -/
theorem bfeVal_eq {ty : BitVec 4} (h : ty.toNat ∈ tyW) (a pos len : Nat) {x : Int} (hx : extTy ty.toNat a = x) :
    bfeVal ty a pos len =
      let k := min len (32 * wordsI ty)
      let v := BitVec.ofInt k (x / 2 ^ min pos (32 * wordsI ty))
      if k = 0 then 0 else if isSigned ty then (v.signExtend (32 * wordsI ty)).toNat else v.toNat := by
  obtain ⟨-, -, hsigned⟩ := fullWidth_type h
  unfold bfeVal
  dsimp only [regBits]
  simp only [← min_def_lt, hsigned, hx]
  by_cases h0 : min len (32 * wordsI ty) = 0
  · rw [if_pos h0, if_pos h0]
  · rw [if_neg h0, if_neg h0, ← wrapN, Nat.cast_pow, Nat.cast_ofNat, wrapN_eq_toNat, wrapN_eq_toNat,
      sextN_eq_toInt _ _ (Nat.pos_of_ne_zero h0), BitVec.ofNat_toNat, BitVec.setWidth_eq]
    rfl

/-- BFI replaces the bits of the mask, and drops those past the width. -/
theorem bfiVal_eq {ty : BitVec 4} (a b : BitVec (32 * wordsI ty)) (c : Nat) : bfiVal ty a.toNat b.toNat c =
    let k := min (c / 2 ^ 8 % 2 ^ 8) (32 * wordsI ty)
    let m : BitVec (32 * wordsI ty) := BitVec.ofNat _ (2 ^ k - 1) <<< (c % 2 ^ 8)
    ((b &&& ~~~m) ||| (a <<< (c % 2 ^ 8) &&& m)).toNat := by
  have hlow : bits c 0 8 = c % 2 ^ 8 := by rw [bits, pow_zero, Nat.div_one]
  unfold bfiVal
  dsimp only [regBits]
  rw [← min_def_lt, hlow]
  simp only [BitVec.toNat_or, BitVec.toNat_and, BitVec.toNat_not, BitVec.toNat_shiftLeft, Nat.shiftLeft_eq,
    BitVec.toNat_ofNat, Nat.mod_mul_mod, bits]

/-! ### Counts and the reversal (R234) -/

section
variable {n : Nat} (x : BitVec n)

/-- The one bits below a place, by recursion on the place. -/
theorem popCount_succ (y k : Nat) : popCount y (k + 1) = popCount y k + (bit y k).toNat := by
  rw [popCount, popCount, List.range_succ, List.filter_append, List.length_append]
  cases h : bit y k <;> simp [h]

/-- POPC counts the one bits. -/
theorem popCount_eq_cpop : popCount x.toNat n = x.cpop.toNat := by
  have hrec (k : Nat) : popCount x.toNat k = x.cpopNatRec k 0 := by
    induction k with
    | zero => rfl
    | succ k ih => rw [popCount_succ, ih, BitVec.cpopNatRec_succ, BitVec.cpopNatRec_eq (0 + _), Nat.zero_add]; rfl
  rw [hrec, BitVec.toNat_cpop]

/-- The lowest one bit, or the width where there is none. -/
theorem lowestOne_eq_ctz : ((List.range n).find? fun k => x.getLsbD k).getD n = x.ctz.toNat := by
  by_cases hx : x = 0#n
  · subst hx
    have hc : (0#n).ctz = BitVec.ofNat n n := by
      rw [BitVec.ctz_eq_reverse_clz]
      exact BitVec.clz_eq_iff_eq_zero.2 (BitVec.reverse_eq_zero_iff.2 rfl)
    have hnone : (List.range n).find? (fun k => (0#n).getLsbD k) = none := by simp
    rw [hnone, hc, BitVec.toNat_ofNat, Nat.mod_eq_of_lt Nat.lt_two_pow_self]
    rfl
  · have hone := BitVec.getLsbD_true_ctz_of_ne_zero hx
    have hsome : (List.range n).find? (fun k => x.getLsbD k) = some x.ctz.toNat :=
      List.find?_range_eq_some.2 ⟨hone, List.mem_range.2 (BitVec.lt_of_getLsbD hone), fun j hj => by
        simp [BitVec.getLsbD_false_of_lt_ctz hj]⟩
    rw [hsome]
    rfl

/-- The lowest one bit of the reversal lies below the highest one bit. -/
theorem highestOne_eq_clz : ((List.range n).find? fun k => bit x.toNat (n - 1 - k)).getD n = x.clz.toNat := by
  rw [BitVec.clz_eq_reverse_ctz, ← lowestOne_eq_ctz]
  have hbit : ∀ k ∈ List.range n, bit x.toNat (n - 1 - k) = x.reverse.getLsbD k := fun k hk => by
    rw [BitVec.getLsbD_reverse, BitVec.getMsbD, decide_eq_true (List.mem_range.1 hk), Bool.true_and]
    rfl
  rw [List.find?_congr hbit]

/-- One more bit goes below the reversal of the lower ones. -/
theorem bitRev_succ (y k : Nat) : bitRev y (k + 1) = Nat.bit (bit y k) (bitRev y k) := by
  rw [bitRev, foldl_range_succ, Nat.bit_val]
  cases bit y k <;> rfl

/-- Bit `i` of the reversal of the low `k` bits. -/
theorem testBit_bitRev (y : Nat) : ∀ k i : Nat, (bitRev y k).testBit i = (decide (i < k) && y.testBit (k - 1 - i))
  | 0, i => by simp [bitRev]
  | k + 1, 0 => by
    rw [bitRev_succ, Nat.testBit_bit_zero]
    simp [bit]
  | k + 1, i + 1 => by
    rw [bitRev_succ, Nat.testBit_bit_succ, testBit_bitRev y k i]
    simp [Nat.sub_sub, Nat.add_comm]

/-- BREV puts bit W − 1 − i at place i. -/
theorem bitRev_eq_reverse : bitRev x.toNat n = x.reverse.toNat := by
  refine Nat.eq_of_testBit_eq fun i => ?_
  rw [testBit_bitRev, BitVec.testBit_toNat, BitVec.testBit_toNat, BitVec.getLsbD_reverse, BitVec.getMsbD]

end

/-! ### PERMB (R234) -/

/-- The bytes of a pair, from the lower or the upper register. -/
theorem byteAt_pair {a : Nat} (ha : a < 2 ^ 32) (b : Nat) {k : Nat} (hk : k < 8) :
    (if k < 4 then byteAt a k else byteAt b (k - 4)).toNat = bits (a + b * 2 ^ 32) (8 * k) 8 := by
  interval_cases k <;> simp [byteAt, bits] <;> omega

/-- A byte of eight copies of another byte's sign. -/
theorem signFill_toNat (z : BitVec 8) : (if 128 ≤ z.toNat then 255 else 0) = (if z.msb then 0xFF#8 else 0#8).toNat := by
  have hmsb : z.msb = decide (128 ≤ z.toNat) := BitVec.msb_eq_decide z
  rw [hmsb]
  by_cases hz : 128 ≤ z.toNat <;> simp [hz]

/-- The bytes that the nibbles of `c` choose or sign-fill. -/
theorem permBytes_eq {a : Nat} (ha : a < 2 ^ 32) (b c : Nat) : permBytes a b c =
    pack4 fun j =>
      let k := c / 2 ^ (4 * j) % 16
      let b := if k % 8 < 4 then byteAt a (k % 8) else byteAt b (k % 8 - 4)
      if k < 8 then b else if b.msb then 0xFF#8 else 0#8 := by
  rw [← foldl_bytes_eq_pack4]
  refine List.foldl_ext _ _ _ fun acc j _ => ?_
  have hnib : bits c (4 * j) 4 = c / 2 ^ (4 * j) % 16 := rfl
  dsimp only
  rw [hnib, ← byteAt_pair ha b (Nat.mod_lt _ (by decide)), signFill_toNat, ← apply_ite BitVec.toNat]

end Sys2Proof.Machine

namespace Sys2Proof.Proofs

open Sys2Proof Sys2Proof.Machine

/-- Settles O3. Each instruction writes one value of its operands (`gives_of_bits2Op`): the model's number is that of the
operation on the operands' bits (`toNat_shiftLeft_cases`, `toNat_ushiftRight_cases`, `toNat_sshiftRight_cases`,
`funnel_eq_extract`). -/
theorem logicAndShifts : Obligations.LogicAndShifts := by
  unfold Obligations.LogicAndShifts
  intro f n
  have hn : 0 < n := wordsI_pos f.ty
  have hamount (w : Wave) (l : Nat) : w.src f.b n l = (w.bv f.b n l).toNat := (w.bv_toNat f.b hn l).symm
  refine ⟨?and, ?or, ?xor, ?andn, ?shl, ?shr, ?sar, ?shf⟩
  case and => exact gives_of_bits2Op (fun s => (rfl : exec _ s = execAndOp f s)) fun _ _ _ => by rw [BitVec.toNat_and]
  case or => exact gives_of_bits2Op (fun s => (rfl : exec _ s = execOrOp f s)) fun _ _ _ => by rw [BitVec.toNat_or]
  case xor => exact gives_of_bits2Op (fun s => (rfl : exec _ s = execXorOp f s)) fun _ _ _ => by rw [BitVec.toNat_xor]
  case andn =>
    refine gives_of_bits2Op (fun s => (rfl : exec _ s = execAndn f s)) fun _ _ _ => ?_
    rw [BitVec.toNat_and, BitVec.toNat_not]
    rfl
  case shl =>
    refine gives_of_bits2Op (fun s => (rfl : exec _ s = execShl f s)) fun _ w l => ?_
    rw [hamount]
    exact toNat_shiftLeft_cases ..
  case shr =>
    refine gives_of_bits2Op (fun s => (rfl : exec _ s = execShr f s)) fun _ w l => ?_
    rw [hamount]
    exact toNat_ushiftRight_cases ..
  case sar =>
    refine gives_of_bits2Op (fun s => (rfl : exec _ s = execSar f s)) fun _ w l => ?_
    rw [hamount]
    exact toNat_sshiftRight_cases _ _ (regBits_pos f.ty)
  case shf =>
    refine gives_of_codesOk (fun _ => rfl) fun hc _ w l => ?_
    have hflg : f.flg.toNat ∈ [0, 1] := flg_mem_of_a3Codes hc
    have hdir : ∀ k : BitVec 4, k.toNat ∈ [0, 1] → (k == 1#4) = !decide (k = 0#4) := by decide
    rw [hdir _ hflg, ← w.bv_toNat f.a (by decide), ← w.bv_toNat f.b (by decide)]
    refine (funnel_eq_extract ..).trans ?_
    by_cases h0 : f.flg = 0#4 <;> simp [h0]

/-- Settles O4. Each instruction writes one value of its operands (`gives_of_onWave`): the model's number is that of the
operation on the operands' bits (`bfeVal_eq`, `bfiVal_eq`, `popCount_eq_cpop`, `highestOne_eq_clz`, `lowestOne_eq_ctz`,
`bitRev_eq_reverse`, `permBytes_eq`). -/
theorem bitFields : Obligations.BitFields := by
  unfold Obligations.BitFields
  intro f n
  have hbv (w : Wave) (o : Operand) (l : Nat) : w.src o n l = (w.bv o n l).toNat := (w.bv_toNat o (wordsI_pos f.ty) l).symm
  refine ⟨?bfe, ?bfi, ?popc, ?clz, ?ctz, ?brev, ?permb⟩
  case bfe =>
    refine gives_of_codesOk (fun _ => rfl) fun hc _ w l => ?_
    have hty : f.ty.toNat ∈ tyW := ty_mem_of_a3Codes hc
    exact bfeVal_eq hty _ _ _ (w.extTy_src f.a hty l)
  case bfi => exact gives_of_onWave (fun _ => rfl) fun _ _ _ => by rw [hbv, hbv]; exact bfiVal_eq ..
  case popc => exact gives_of_onWave (fun _ => rfl) fun _ _ _ => by rw [hbv]; exact popCount_eq_cpop _
  case clz => exact gives_of_onWave (fun _ => rfl) fun _ _ _ => by rw [hbv]; exact highestOne_eq_clz _
  case ctz => exact gives_of_onWave (fun _ => rfl) fun _ _ _ => by rw [hbv]; exact lowestOne_eq_ctz _
  case brev => exact gives_of_onWave (fun _ => rfl) fun _ _ _ => by rw [hbv]; exact bitRev_eq_reverse _
  case permb => exact gives_of_onWave (fun _ => rfl) fun _ w l => permBytes_eq (w.src_lt f.a (by decide) l) _ _

end Sys2Proof.Proofs

/-! PROOFS. The encoding (R208 to R219): the fields of a word, and the obligations O22 and O23. -/

namespace Sys2Proof

open Machine

/-! ### Operand codes and fields (R211) -/

/-- The code of a code's operand is the code. -/
theorem Operand.code_ofCode {c : Nat} (h : c < 512) : (Operand.ofCode c).code = c := by
  unfold Operand.ofCode
  split_ifs <;> simp only [Operand.code, BitVec.toNat_ofNat] <;> omega

theorem field_lt (w : DWord) (lo len : Nat) : field w lo len < 2 ^ len := Nat.mod_lt _ (Nat.two_pow_pos _)

@[simp] theorem code_opndAt (w : DWord) (lo : Nat) : (opndAt w lo).code = field w lo 9 :=
  Operand.code_ofCode (field_lt w lo 9)

@[simp] theorem toNat_ofNat_field (w : DWord) (lo len : Nat) : (BitVec.ofNat len (field w lo len)).toNat = field w lo len := by
  rw [BitVec.toNat_ofNat, Nat.mod_eq_of_lt (field_lt w lo len)]

/-! ### The words of the formats (R208) -/

/-- The part of a word from a place up is a field there and the part above the field. -/
theorem above_eq_add_field (w : DWord) (lo len hi : Nat) (h : lo + len = hi) :
    w.toNat / 2 ^ lo * 2 ^ lo = w.toNat / 2 ^ hi * 2 ^ hi + field w lo len * 2 ^ lo := by
  rw [← h, Nat.pow_add, ← Nat.div_div_eq_div_mul, Nat.mul_comm (2 ^ lo), ← Nat.mul_assoc, ← Nat.add_mul, field, Nat.div_add_mod']

/-- A word is its lowest field and the part above the field. -/
theorem toNat_eq_above_add_field (w : DWord) (len : Nat) : w.toNat = w.toNat / 2 ^ len * 2 ^ len + field w 0 len := by
  rw [field, pow_zero, Nat.div_one, Nat.div_add_mod']

/-- A word is the number of its opcode and the part below. -/
theorem above_eq_opcode (w : DWord) : w.toNat / 2 ^ 54 * 2 ^ 54 = field w 54 10 * 2 ^ 54 := by
  rw [above_eq_add_field w 54 10 64 rfl, Nat.div_eq_of_lt w.isLt, Nat.zero_mul, Nat.zero_add]

/-- A word of the number of a word is the word. -/
theorem ofNat_eq_of_toNat {n : Nat} {w : DWord} (h : w.toNat = n) : BitVec.ofNat 64 n = w := by
  rw [← h, BitVec.ofNat_toNat, BitVec.setWidth_eq]

/-- The word of a word's fields, under the word's opcode, is the word. -/
theorem FmtA3.toWord_ofWord {w : DWord} {op : Nat} (h : field w 54 10 = op) :
    (FmtA3.ofWord w).toWord op = w := by
  subst h
  refine ofNat_eq_of_toNat ?_
  simp only [FmtA3.ofWord, code_opndAt, toNat_ofNat_field]
  rw [toNat_eq_above_add_field w 4, above_eq_add_field w 4 3 7 rfl, above_eq_add_field w 7 3 10 rfl,
    above_eq_add_field w 10 4 14 rfl, above_eq_add_field w 14 4 18 rfl, above_eq_add_field w 18 9 27 rfl,
    above_eq_add_field w 27 9 36 rfl, above_eq_add_field w 36 9 45 rfl, above_eq_add_field w 45 9 54 rfl, above_eq_opcode]

@[inherit_doc FmtA3.toWord_ofWord] theorem FmtAI.toWord_ofWord {w : DWord} {op : Nat} (h : field w 54 10 = op) :
    (FmtAI.ofWord w).toWord op = w := by
  subst h
  refine ofNat_eq_of_toNat ?_
  simp only [FmtAI.ofWord, code_opndAt, toNat_ofNat_field]
  rw [toNat_eq_above_add_field w 4, above_eq_add_field w 4 32 36 rfl, above_eq_add_field w 36 9 45 rfl,
    above_eq_add_field w 45 9 54 rfl, above_eq_opcode]

@[inherit_doc FmtA3.toWord_ofWord] theorem FmtM.toWord_ofWord {w : DWord} {op : Nat} (h : field w 54 10 = op) :
    (FmtM.ofWord w).toWord op = w := by
  subst h
  refine ofNat_eq_of_toNat ?_
  simp only [FmtM.ofWord, code_opndAt, toNat_ofNat_field]
  rw [toNat_eq_above_add_field w 3, above_eq_add_field w 3 3 6 rfl, above_eq_add_field w 6 3 9 rfl,
    above_eq_add_field w 9 4 13 rfl, above_eq_add_field w 13 14 27 rfl, above_eq_add_field w 27 9 36 rfl,
    above_eq_add_field w 36 9 45 rfl, above_eq_add_field w 45 9 54 rfl, above_eq_opcode]

@[inherit_doc FmtA3.toWord_ofWord] theorem FmtB.toWord_ofWord {w : DWord} {op : Nat} (h : field w 54 10 = op) :
    (FmtB.ofWord w).toWord op = w := by
  subst h
  refine ofNat_eq_of_toNat ?_
  simp only [FmtB.ofWord, code_opndAt, toNat_ofNat_field]
  rw [toNat_eq_above_add_field w 32, above_eq_add_field w 32 5 37 rfl, above_eq_add_field w 37 9 46 rfl,
    above_eq_add_field w 46 4 50 rfl, above_eq_add_field w 50 4 54 rfl, above_eq_opcode]

@[inherit_doc FmtA3.toWord_ofWord] theorem FmtE.toWord_ofWord {w : DWord} {op : Nat} (h : field w 54 10 = op) :
    (FmtE.ofWord w).toWord op = w := by
  subst h
  refine ofNat_eq_of_toNat ?_
  simp only [FmtE.ofWord, code_opndAt, toNat_ofNat_field]
  rw [toNat_eq_above_add_field w 26, above_eq_add_field w 26 3 29 rfl, above_eq_add_field w 29 3 32 rfl,
    above_eq_add_field w 32 4 36 rfl, above_eq_add_field w 36 9 45 rfl, above_eq_add_field w 45 9 54 rfl, above_eq_opcode]

@[inherit_doc FmtA3.toWord_ofWord] theorem FmtX.toWord_ofWord {w : DWord} {op : Nat} (h : field w 54 10 = op) :
    (FmtX.ofWord w).toWord op = w := by
  subst h
  refine ofNat_eq_of_toNat ?_
  simp only [FmtX.ofWord, code_opndAt, toNat_ofNat_field]
  rw [toNat_eq_above_add_field w 16, above_eq_add_field w 16 4 20 rfl, above_eq_add_field w 20 16 36 rfl,
    above_eq_add_field w 36 9 45 rfl, above_eq_add_field w 45 9 54 rfl, above_eq_opcode]

/-- The words that a word's fields, read in each format, make under an opcode. -/
def formatWords (w : DWord) (op : Nat) : List DWord :=
  [(FmtA3.ofWord w).toWord op, (FmtAI.ofWord w).toWord op, (FmtM.ofWord w).toWord op, (FmtB.ofWord w).toWord op,
    (FmtE.ofWord w).toWord op, (FmtX.ofWord w).toWord op]

theorem eq_of_mem_formatWords {w v : DWord} {op : Nat} (h : field w 54 10 = op) (hv : v ∈ formatWords w op) : v = w := by
  simpa only [formatWords, FmtA3.toWord_ofWord h, FmtAI.toWord_ofWord h, FmtM.toWord_ofWord h, FmtB.toWord_ofWord h,
    FmtE.toWord_ofWord h, FmtX.toWord_ofWord h, List.mem_cons, List.not_mem_nil, or_false, or_self] using hv

/-! ### Decoding (R218) -/

/-- What a word has been decoded to has that word. -/
def Encodes (w : DWord) (r : Except DecodeError Instr) : Prop := ∀ i, r = .ok i → encode i = some w

theorem encodes_error {w : DWord} (e : DecodeError) : Encodes w (.error e) := fun _ hi => nomatch hi

/-- One row of the opcode map: its constructor reads and writes the fields of one format. -/
theorem encodes_row {w v : DWord} {op : Nat} {i : Instr} (h : field w 54 10 = op) (he : encode i = some v)
    (hv : v ∈ formatWords w op) : Encodes w (.ok i) := fun _ hi => by
  rw [← Except.ok.inj hi, he, eq_of_mem_formatWords h hv]

theorem encodes_ite {w : DWord} {c : Prop} [Decidable c] {r r' : Except DecodeError Instr} (hr : c → Encodes w r)
    (hr' : Encodes w r') : Encodes w (if c then r else r') := by
  split
  · exact hr ‹_›
  · exact hr'

section
variable {w : DWord} {op : Nat} (h : field w 54 10 = op)
include h

/-- The forms that share an opcode keep all fields of the word, the selector among them. -/
theorem encodes_tkpassWord (ho : op = 0x2A1) : Encodes w (tkpassWord (FmtX.ofWord w)) := by
  subst ho
  unfold tkpassWord
  split
  case h_3 => exact encodes_error _
  all_goals exact encodes_row h rfl (by simp [formatWords])

@[inherit_doc encodes_tkpassWord] theorem encodes_sawaitWord (ho : op = 0x301) : Encodes w (sawaitWord (FmtA3.ofWord w)) := by
  subst ho
  unfold sawaitWord
  split
  case h_3 => exact encodes_error _
  all_goals exact encodes_row h rfl (by simp [formatWords])

@[inherit_doc encodes_tkpassWord] theorem encodes_swrpWord (ho : op = 0x362) : Encodes w (swrpWord (FmtX.ofWord w)) := by
  subst ho
  unfold swrpWord
  split_ifs <;> exact encodes_row h rfl (by simp [formatWords])

@[inherit_doc encodes_tkpassWord] theorem encodes_tlbiWord (ho : op = 0x363) : Encodes w (tlbiWord (FmtX.ofWord w)) := by
  subst ho
  unfold tlbiWord
  refine encodes_ite (fun _ => encodes_error _) ?_
  split
  case h_4 => exact encodes_error _
  all_goals exact encodes_row h rfl (by simp [formatWords])

@[inherit_doc encodes_tkpassWord] theorem encodes_wsetWord (ho : op = 0x364) : Encodes w (wsetWord (FmtX.ofWord w)) := by
  subst ho
  unfold wsetWord
  split
  case h_8 => exact encodes_error _
  all_goals exact encodes_row h rfl (by simp [formatWords])

@[inherit_doc encodes_tkpassWord] theorem encodes_haltcWord (ho : op = 0x365) : Encodes w (haltcWord (FmtX.ofWord w)) := by
  subst ho
  unfold haltcWord
  split
  case h_5 => exact encodes_error _
  all_goals exact encodes_row h rfl (by simp [formatWords])

end

/-- What a word decodes to has that word. -/
theorem encodes_decodeWord (w : DWord) : Encodes w (decodeWord w) := by
  unfold decodeWord
  generalize h : field w 54 10 = op
  dsimp only [cell0, cell1, cell2, cell3, cell4, cell5, cell6, cell7, cell8, cell10, cell11, cell12, cell13]
  split
  all_goals
    repeat' refine encodes_ite (fun hop => encodes_row (h.trans hop) rfl (by simp [formatWords, cvtIndex])) ?_
  case h_10 =>
    refine encodes_ite (encodes_tkpassWord h) ?_
    repeat' refine encodes_ite (fun hop => encodes_row (h.trans hop) rfl (by simp [formatWords])) ?_
    exact encodes_error _
  case h_12 =>
    refine encodes_ite (encodes_sawaitWord h) ?_
    repeat' refine encodes_ite (fun hop => encodes_row (h.trans hop) rfl (by simp [formatWords])) ?_
    exact encodes_error _
  case h_13 =>
    exact encodes_ite (encodes_swrpWord h) <| encodes_ite (encodes_tlbiWord h) <| encodes_ite (encodes_wsetWord h) <|
      encodes_ite (encodes_haltcWord h) (encodes_error _)
  case h_14 => exact encodes_ite (fun _ => encodes_error _) (encodes_error _)
  all_goals exact encodes_error _

end Sys2Proof

namespace Sys2Proof.Proofs

open Sys2Proof Sys2Proof.Machine

/-- Refutes O22: the fields of SWRP allow a selector of the range entries (`svWritable`), and the word of such a SWRP is
that of SV_RANGE_STAGE or SV_RANGE_APPLY, to which it decodes. -/
theorem not_decodeOfEncode : ¬ Obligations.DecodeOfEncode := by
  unfold Obligations.DecodeOfEncode
  intro h
  let f : FmtX := { dst := .zero, a := .s 0#6, sel := 0x120#16, pred := 7#4, rsv := 0#16 }
  obtain ⟨w, hw, hd, -⟩ := h (.swrp f) (by decide)
  have hstage : decodeWord (f.toWord 0x362) = .ok (.svRangeStage f) := by decide
  rw [← Option.some.inj (show some (f.toWord 0x362) = some w from hw), hstage] at hd
  simp at hd

/-- Settles O23: each row of the opcode map reads and writes the fields of one format (`encodes_decodeWord`), and the fields
make up the word. -/
theorem encodeOfDecode : Obligations.EncodeOfDecode := by
  unfold Obligations.EncodeOfDecode
  exact fun w => encodes_decodeWord w

end Sys2Proof.Proofs

/-! PROOFS. Integer arithmetic and the immediate forms (R228, R231, R237, R238): the value of each in one lane, and the
obligations O1, O5 and O6. -/

namespace Sys2Proof.Machine

/-! ### Integer arithmetic (R228, R231) -/

/-- A packed type is signed. -/
theorem isSigned_packed : isSigned 9#4 = true := rfl

/-- The types of the packed integer instructions: the packed one, or one of full width. -/
theorem eq_packed_or_mem_tyW : ∀ {ty : BitVec 4}, ty.toNat ∈ [2, 3, 6, 7, 9] → ty = 9#4 ∨ ty.toNat ∈ tyW := by decide

/-- An operation on integers that is `h` on the bits of every width is `h` of the type (R227, R231). -/
theorem intVal_eq_byType {ty : BitVec 4} (hty : ty.toNat ∈ [2, 3, 6, 7, 9]) {g : Int → Int → Int}
    {h : (n : Nat) → BitVec n → BitVec n → BitVec n}
    (hg : ∀ n (x y : BitVec n), BitVec.ofInt n (g (asInt (isSigned ty) x) (asInt (isSigned ty) y)) = h n x y) (x y : Nat) :
    intVal ty g x y = byType ty h x y := by
  by_cases h9 : ty = 9#4
  · subst h9
    have hb (a b : BitVec 8) : BitVec.ofInt 8 (g a.toInt b.toInt) = h 8 a b := hg 8 a b
    rw [intVal, byType, if_pos rfl, if_pos rfl, lanes4_eq_pack4]
    simp only [hb]
  · obtain ⟨-, hbits, hsigned⟩ := fullWidth_type ((eq_packed_or_mem_tyW hty).resolve_left h9)
    rw [intVal, byType, if_neg h9, if_neg h9, wrapN_eq_toNat, extTy_eq_asInt, extTy_eq_asInt, hsigned, hbits]
    exact congrArg BitVec.toNat (hg _ _ _)

section
variable {n : Nat} (sg : Bool) (x y : BitVec n)

@[simp] theorem ofInt_asInt : BitVec.ofInt n (asInt sg x) = x := by
  cases sg <;> simp [asInt]

theorem ofInt_asInt_add : BitVec.ofInt n (asInt sg x + asInt sg y) = x + y := by
  rw [BitVec.ofInt_add, ofInt_asInt, ofInt_asInt]

theorem ofInt_asInt_sub : BitVec.ofInt n (asInt sg x - asInt sg y) = x - y := by
  rw [Int.sub_eq_add_neg, BitVec.ofInt_add, BitVec.ofInt_neg, ofInt_asInt, ofInt_asInt, BitVec.sub_eq_add_neg]

theorem ofInt_asInt_mul : BitVec.ofInt n (asInt sg x * asInt sg y) = x * y := by
  rw [BitVec.ofInt_mul, ofInt_asInt, ofInt_asInt]

theorem ofInt_asInt_neg : BitVec.ofInt n (-asInt sg x) = -x := by
  rw [BitVec.ofInt_neg, ofInt_asInt]

/-- The numbers of bits are ordered as the bits are, signed or unsigned. -/
theorem asInt_lt_iff : asInt sg x < asInt sg y ↔ (if sg then x.slt y else x.ult y) = true := by
  cases sg
  · simp [asInt, BitVec.ult]
  · simp [asInt, BitVec.slt]

theorem ofInt_asInt_min : BitVec.ofInt n (if asInt sg y < asInt sg x then asInt sg y else asInt sg x) =
    if (if sg then y.slt x else y.ult x) then y else x := by
  simp only [asInt_lt_iff, apply_ite (BitVec.ofInt n), ofInt_asInt]

theorem ofInt_asInt_max : BitVec.ofInt n (if asInt sg x < asInt sg y then asInt sg y else asInt sg x) =
    if (if sg then x.slt y else x.ult y) then y else x := by
  simp only [asInt_lt_iff, apply_ite (BitVec.ofInt n), ofInt_asInt]

/-- The magnitude of a signed number. -/
theorem ofInt_toInt_abs : BitVec.ofInt n (if x.toInt < 0 then -x.toInt else x.toInt) = if x.msb then -x else x := by
  simp only [apply_ite (BitVec.ofInt n), BitVec.ofInt_neg, BitVec.ofInt_toInt, BitVec.msb_eq_toInt, decide_eq_true_eq]

end

/-! ### Immediate forms (R237, R238) -/

/-- An AI instruction on one source gives every function with the same values. -/
theorem gives_of_immOp {i : Instr} {f : FmtAI} {n : Nat} (hn : 0 < n) {g : Nat → Nat} {val : State → Wave → Nat → Nat}
    (he : ∀ s, exec i s = immOp i f n g s) (hg : ∀ s w l, g (w.bv f.a n l).toNat = val s w l) : Gives i f.dst n val :=
  gives_of_onWave he fun s w l => by rw [← hg s, w.bv_toNat f.a hn]

/-- The literal, sign-extended to 64 bits. -/
theorem imm64_eq (f : FmtAI) : imm64 f = (f.imm.signExtend 64).toNat := by
  rw [imm64, wrapN_eq_toNat]
  rfl

/-! ### Predicates with an uncorrectable error (R236, R402) -/

/-- The predicates of a wave that hold an uncorrectable error after an instruction. -/
def badPredicates (id : Nat) (o : Out) : Option (List Nat) :=
  match o with
  | .next t => (tget t.waves id).map fun w => w.regs.pBad
  | _ => none

end Sys2Proof.Machine

namespace Sys2Proof.Proofs

open Sys2Proof Sys2Proof.Machine

/-- Settles O1. The model computes on integers and wraps; the statement on bits (`intVal_eq_byType`, `ofInt_asInt_add` and
its kin). -/
theorem integerArithmetic : Obligations.IntegerArithmetic := by
  unfold Obligations.IntegerArithmetic
  intro f n
  have hbv (w : Wave) (o : Operand) (l : Nat) : w.src o n l = (w.bv o n l).toNat := (w.bv_toNat o (wordsI_pos f.ty) l).symm
  refine ⟨?iadd, ?isub, ?imul, ?imulh, ?imad, ?imadw, ?imin, ?imax, ?iabs, ?ineg⟩
  case iadd =>
    exact gives_of_codesOk (fun _ => rfl) fun hc _ w l =>
      intVal_eq_byType (ty_mem_of_a3Codes hc) (fun _ x y => ofInt_asInt_add _ x y) _ _
  case isub =>
    exact gives_of_codesOk (fun _ => rfl) fun hc _ w l =>
      intVal_eq_byType (ty_mem_of_a3Codes hc) (fun _ x y => ofInt_asInt_sub _ x y) _ _
  case imul =>
    refine gives_of_codesOk (fun _ => rfl) fun hc _ w l => ?_
    rw [w.intVal_fullWidth f.a f.b (ty_mem_of_a3Codes hc), ofInt_asInt_mul]
  case imulh =>
    refine gives_of_codesOk (fun _ => rfl) fun hc _ w l => ?_
    rw [w.intVal_fullWidth f.a f.b (ty_mem_of_a3Codes hc), Nat.cast_pow]
    rfl
  case imad =>
    refine gives_of_onWave (fun _ => rfl) fun _ w l => ?_
    rw [BitVec.toNat_add, BitVec.toNat_mul, Nat.mod_add_mod, ← hbv, ← hbv, ← hbv]
    rfl
  case imadw =>
    refine gives_of_codesOk (fun _ => rfl) fun hc _ w l => ?_
    have hty : f.ty.toNat ∈ [2, 6] := ty_mem_of_a3Codes hc
    have hone : ∀ ty : BitVec 4, ty.toNat ∈ [2, 6] → ty.toNat ∈ tyW ∧ wordsI ty = 1 := by decide
    obtain ⟨hW, h1⟩ := hone _ hty
    have hext (o : Operand) : extTy f.ty.toNat (w.src o 1 l) = asInt (isSigned f.ty) (w.bv o 1 l) := by
      have := w.extTy_src o hW l
      rwa [h1] at this
    dsimp only
    rw [wrapN_eq_toNat, hext, hext, BitVec.ofInt_add, BitVec.ofInt_add, BitVec.ofInt_natCast, BitVec.ofInt_toInt]
    rfl
  case imin =>
    exact gives_of_codesOk (fun _ => rfl) fun hc _ w l =>
      intVal_eq_byType (ty_mem_of_a3Codes hc) (fun _ x y => ofInt_asInt_min _ x y) _ _
  case imax =>
    exact gives_of_codesOk (fun _ => rfl) fun hc _ w l =>
      intVal_eq_byType (ty_mem_of_a3Codes hc) (fun _ x y => ofInt_asInt_max _ x y) _ _
  case iabs =>
    refine gives_of_codesOk (fun _ => rfl) fun hc _ w l => ?_
    have hty : f.ty.toNat ∈ [2, 3, 9] := ty_mem_of_a3Codes hc
    have hsigned : ∀ ty : BitVec 4, ty.toNat ∈ [2, 3, 9] → ty.toNat ∈ [2, 3, 6, 7, 9] ∧ isSigned ty = true := by decide
    obtain ⟨hW, hs⟩ := hsigned _ hty
    refine intVal_eq_byType hW (fun _ x y => ?_) _ _
    rw [hs]
    exact ofInt_toInt_abs x
  case ineg =>
    refine gives_of_codesOk (fun _ => rfl) fun hc _ w l => ?_
    have hty : f.ty.toNat ∈ tyW := ty_mem_of_a3Codes hc
    have hW : ∀ ty : BitVec 4, ty.toNat ∈ tyW → ty.toNat ∈ [2, 3, 6, 7, 9] := by decide
    obtain ⟨h9, -, -⟩ := fullWidth_type hty
    rw [intVal_eq_byType (hW _ hty) (h := fun _ x _ => -x) (fun _ x _ => ofInt_asInt_neg _ x), byType, if_neg h9,
      w.isrc_of_ne _ h9]
    rfl

/-- Refutes O5: a V2P in all lanes writes a predicate whole, and a predicate with an uncorrectable error is sound again
(`Regs.writeP`, R402); the statement has it that V2P changes the contents of the predicates alone. -/
theorem not_comparesAndMoves : ¬ Obligations.ComparesAndMoves := by
  unfold Obligations.ComparesAndMoves
  intro h
  let f : FmtA3 := { dst := .zero, a := .v 0#8, b := .pos 1#6, c := .zero, pred := 7#4, ty := 0#4, rnd := 0#3, mark := 0#3,
                     flg := 0#4 }
  let w : Wave := { placedWave 0#64 with
    regs := { fill := none, v := [], s := [], p := [], vEmpty := [], sEmpty := [], pBad := [0] } }
  let s : State := { State.reset with cur := 1, waves := [(1, w)] }
  obtain ⟨-, -, -, -, -, -, hv2p⟩ := h f
  obtain ⟨p, hexec, -⟩ := hv2p s w (by decide)
  have hsound : badPredicates 1 (exec (.v2p f) s) = some [] := by decide
  have hkept : badPredicates 1 (.next ((s.putWave s.cur { w with regs := { w.regs with p := p } }).advance s.cur)) = some [0] := rfl
  rw [hexec, hkept] at hsound
  simp at hsound

/-- Settles O6. Each form is its operation on the source's bits and the literal's (`gives_of_immOp`, `imm64_eq`). -/
theorem immediateForms : Obligations.ImmediateForms := by
  unfold Obligations.ImmediateForms
  intro f
  refine ⟨?iadd, ?iadd64, ?imul, ?and, ?or, ?xor, ?movi, ?moviI64, ?moviF64, ?lea⟩
  case iadd => exact gives_of_immOp (by decide) (fun s => (rfl : exec _ s = execIaddImm f s)) fun _ _ _ => (BitVec.toNat_add ..).symm
  case iadd64 =>
    refine gives_of_immOp (by decide) (fun s => (rfl : exec _ s = execIaddImm64 f s)) fun _ _ _ => ?_
    rw [imm64_eq]
    exact (BitVec.toNat_add ..).symm
  case imul => exact gives_of_immOp (by decide) (fun s => (rfl : exec _ s = execImulImm f s)) fun _ _ _ => (BitVec.toNat_mul ..).symm
  case and => exact gives_of_immOp (by decide) (fun s => (rfl : exec _ s = execAndImm f s)) fun _ _ _ => (BitVec.toNat_and ..).symm
  case or => exact gives_of_immOp (by decide) (fun s => (rfl : exec _ s = execOrImm f s)) fun _ _ _ => (BitVec.toNat_or ..).symm
  case xor => exact gives_of_immOp (by decide) (fun s => (rfl : exec _ s = execXorImm f s)) fun _ _ _ => (BitVec.toNat_xor ..).symm
  case movi => exact gives_of_onWave (fun _ => rfl) fun _ _ _ => rfl
  case moviI64 => exact gives_of_onWave (fun _ => rfl) fun _ _ _ => imm64_eq f
  case moviF64 => exact gives_of_onWave (fun _ => rfl) fun _ _ _ => rfl
  case lea =>
    refine gives_of_onWave (fun _ => rfl) fun _ w _ => ?_
    rw [BitVec.toNat_add, BitVec.toNat_ofNat, Nat.mod_add_mod, imm64_eq]

end Sys2Proof.Proofs

/-! PROOFS. Lanes as lists and as masks, and the wave operations and special registers (R223, R240 to R245): the obligations
O7 and O8. -/

namespace Sys2Proof

/-! ### Masks -/

theorem Mask.mem_lanes {m : Mask} {l : Nat} : l ∈ Mask.lanes m ↔ l < 32 ∧ m.has l = true := by
  rw [Mask.lanes, List.mem_filter, List.mem_range]

theorem Mask.ext_has {m n : Mask} (h : ∀ l < 32, m.has l = n.has l) : m = n :=
  BitVec.eq_of_getLsbD_eq h

@[simp] theorem Mask.has_zero (l : Nat) : Mask.has 0#32 l = false := BitVec.getLsbD_zero

@[simp] theorem Mask.has_or (m n : Mask) (l : Nat) : Mask.has (m ||| n) l = (m.has l || n.has l) := BitVec.getLsbD_or

@[simp] theorem Mask.has_and (m n : Mask) (l : Nat) : Mask.has (m &&& n) l = (m.has l && n.has l) := BitVec.getLsbD_and

theorem Mask.has_not {m : Mask} {l : Nat} (h : l < 32) : Mask.has (~~~m) l = !m.has l := by
  rw [Mask.has, BitVec.getLsbD_not, decide_eq_true h, Bool.true_and]
  rfl

theorem Mask.has_single (l k : Nat) (hk : k < 32) : (Mask.single l).has k = decide (k = l) := by
  rw [Mask.has, Mask.single, BitVec.getLsbD_shiftLeft, decide_eq_true hk, BitVec.getLsbD_one]
  by_cases h : k = l
  · simp [h]
  · by_cases hl : k < l
    · simp [hl, h]
    · have : ¬(k - l = 0) := by omega
      simp [h, this]

/-- The mask of the lanes that satisfy a test. -/
theorem Mask.has_ofPred (f : Nat → Bool) {l : Nat} (hl : l < 32) : (Mask.ofPred f).has l = f l := by
  have key : ∀ n, ((List.range n).foldl (fun m l => if f l then m ||| Mask.single l else m) (0#32 : Mask)).has l =
      (decide (l < n) && f l) := by
    intro n
    induction n with
    | zero => simp
    | succ n ih =>
      rw [Machine.foldl_range_succ]
      split
      · rename_i hf
        rw [Mask.has_or, ih, Mask.has_single n l hl]
        by_cases h : l = n
        · simp [h, hf]
        · have : l < n + 1 ↔ l < n := by omega
          simp [h, this]
      · rename_i hf
        rw [ih]
        by_cases h : l = n
        · simp [h, hf]
        · have : l < n + 1 ↔ l < n := by omega
          simp [this]
  rw [Mask.ofPred, key, decide_eq_true hl, Bool.true_and]

namespace Machine

theorem Mask.lanes_sub (m : Mask) (f : Nat → Bool) : Mask.lanes (Mask.sub m f) = (Mask.lanes m).filter f := by
  rw [Mask.lanes, Mask.lanes, List.filter_filter]
  refine List.filter_congr fun l hl => ?_
  rw [Mask.sub, Mask.has_ofPred _ (List.mem_range.1 hl), Bool.and_comm]

end Machine

/-- A mask is known by its lanes. -/
theorem Mask.lanes_inj {m n : Mask} : Mask.lanes m = Mask.lanes n ↔ m = n := by
  refine ⟨fun h => Mask.ext_has fun l hl => ?_, fun h => h ▸ rfl⟩
  have hmem : l ∈ Mask.lanes m ↔ l ∈ Mask.lanes n := by rw [h]
  simpa [Mask.mem_lanes, hl] using hmem

theorem Mask.lanes_eq_nil {m : Mask} : Mask.lanes m = [] ↔ m = 0#32 :=
  Mask.lanes_inj (n := 0#32)

/-- A mask as a number is the sum of its lanes' bits. -/
theorem Mask.toNat_eq_sum (m : Mask) : m.toNat = ((Mask.lanes m).map fun k => 2 ^ k).sum := by
  have key : ∀ n, m.toNat % 2 ^ n = (((List.range n).filter m.has).map fun k => 2 ^ k).sum := by
    intro n
    induction n with
    | zero => simp [Nat.mod_one]
    | succ n ih =>
      have hbit : m.toNat / 2 ^ n % 2 = (m.has n).toNat := by
        rw [Mask.has, ← BitVec.testBit_toNat, Nat.toNat_testBit]
      rw [Nat.mod_pow_succ, ih, hbit, List.range_succ, List.filter_append, List.map_append, List.sum_append]
      cases h : m.has n <;> simp [h]
  rw [Mask.lanes, ← key 32, Nat.mod_eq_of_lt m.isLt]

end Sys2Proof

namespace Sys2Proof.Machine

/-! ### Values that depend on the participants, or on the state -/

/-- An instruction whose meaning writes a value of the state, the wave and the participants gives every function with the same
values under the codes that the instruction takes. -/
theorem gives_of_participants {i : Instr} {o : Operand} {n : Nat} {val : State → Wave → Mask → Nat → Nat}
    {val' : State → Wave → Nat → Nat}
    (he : ∀ s, exec i s = issue i s (fun w m s => .done (s.putWave s.cur (w.put o n m (val s w m)))))
    (hv : codesOk i = true → ∀ s w l, val s w (w.active i) l = val' s w l) : Gives i o n val' := fun s w h => by
  have hval : val s w (w.active i) = val' s w := funext (hv (codesOk_of_issues h) s w)
  rw [he s, issue_done h rfl, hval]

/-! ### VOTE and MATCH (R240, R241) -/

/-- VOTE's reduction, by its flags, over the lists of the participants and of those whose source is true. -/
theorem voteVal_eq_match (t : Nat) (m : Mask) (p : Nat → Bool) :
    let part := Mask.lanes m
    let yes := part.filter p
    voteVal t m (Mask.sub m p) = match t with
      | 0 => b2n (decide (yes ≠ []))
      | 1 => b2n (decide (yes = part))
      | 2 => b2n (decide (yes = [] ∨ yes = part))
      | 3 => (yes.map fun k => 2 ^ k).sum
      | 4 => yes.length
      | _ => yes.headD 32 := by
  intro part yes
  have hyes : yes = Mask.lanes (Mask.sub m p) := (Mask.lanes_sub m p).symm
  have hnil : (yes = []) = (Mask.sub m p = 0#32) := by rw [hyes, Mask.lanes_eq_nil]
  have hall : (yes = part) = (Mask.sub m p = m) := by rw [hyes, Mask.lanes_inj]
  match t with
  | 0 => simp [voteVal, hnil]
  | 1 => simp [voteVal, hall]
  | 2 => simp [voteVal, hnil, hall]
  | 3 => exact (Mask.toNat_eq_sum _).trans (congrArg (fun l => (List.map (fun k => 2 ^ k) l).sum) hyes.symm)
  | 4 => exact congrArg List.length hyes.symm
  | t + 5 => simp [voteVal, hyes]

/-- The participants with a lane's value, as a list. -/
theorem Wave.lanes_peers (w : Wave) (o : Operand) (n : Nat) (m : Mask) (l : Nat) :
    Mask.lanes (w.peers o n m l) = (Mask.lanes m).filter fun k => decide (w.src o n k = w.src o n l) :=
  Mask.lanes_sub ..

/-- The value of MATCH in a lane. -/
def Wave.matchVal (w : Wave) (f : FmtA3) (m : Mask) (l : Nat) : Nat :=
  let p := w.peers f.a (wordsI f.ty) m l
  if f.flg = 0#4 then p.toNat
  else if f.flg = 1#4 then (if p = m then m.toNat else 0)
  else Mask.count (Mask.sub p (fun k => decide (k < l)))

/-- The value of MATCH, by its flags, over the list of the participants. -/
theorem Wave.matchVal_eq_match (w : Wave) {f : FmtA3} (h : f.flg.toNat ∈ [0, 1, 2]) (m : Mask) (l : Nat) :
    let part := Mask.lanes m
    let peers := part.filter (fun k => decide (w.src f.a (wordsI f.ty) k = w.src f.a (wordsI f.ty) l))
    w.matchVal f m l = match f.flg.toNat with
    | 0 => (peers.map fun k => 2 ^ k).sum
    | 1 => if peers = part then (part.map fun k => 2 ^ k).sum else 0
    | _ => (peers.filter (fun k => decide (k < l))).length := by
  intro part peers
  have hp : Mask.lanes (w.peers f.a (wordsI f.ty) m l) = peers := w.lanes_peers ..
  have hcases : ∀ k : BitVec 4, k.toNat ∈ [0, 1, 2] → k = 0#4 ∨ k = 1#4 ∨ k = 2#4 := by decide
  rcases hcases _ h with h | h | h
  · simp [Wave.matchVal, h, Mask.toNat_eq_sum, hp]
  · simp [Wave.matchVal, h, Mask.toNat_eq_sum, ← hp, Mask.lanes_inj, part]
  · simp [Wave.matchVal, h, Mask.count, Mask.lanes_sub, hp]

/-! ### SHFL (R242) -/

/-- The source lane of SHFL, by its flags, in a segment of at least one lane. -/
theorem shflLane_eq_match (t l b : Nat) {seg : Nat} (hseg : 0 < seg) (ht : t < 4) : shflLane t l b seg =
    l - l % seg + (match t with
      | 0 => (b : Int) % seg
      | 1 => ((l % seg : Nat) + (b : Int)) % seg
      | 2 => ((l % seg : Nat) - (b : Int)) % seg
      | _ => ((l % seg ^^^ b : Nat) : Int) % seg).toNat := by
  have hback : ((l % seg + seg - b % seg : Nat) : Int) % seg = ((l % seg : Nat) - (b : Int)) % seg := by
    have hb : b % seg ≤ l % seg + seg := (Nat.mod_lt b hseg).le.trans (Nat.le_add_left ..)
    rw [Nat.cast_sub hb, Nat.cast_add, add_sub_right_comm, Int.add_emod_right, Int.natCast_mod b]
    exact Int.sub_emod_emod ..
  match t with
  | 0 => exact congrArg _ (Int.toNat_natCast _).symm
  | 1 => exact congrArg _ (Int.toNat_natCast _).symm
  | 2 =>
    have : shflLane 2 l b seg = l - l % seg + (l % seg + seg - b % seg) % seg := rfl
    rw [this, ← hback]
    exact congrArg _ (Int.toNat_natCast _).symm
  | 3 => exact congrArg _ (Int.toNat_natCast _).symm

/-- The slots of an instruction that issues hold allowed values (R219). -/
theorem slotOk_of_issues {i : Instr} {s : State} {w : Wave} (h : issues i s w = true) {x : Slot} {l : List Slot}
    (hl : slots i = l) (hx : x ∈ l) : x.ok = true := by
  simp only [issues, fieldsOk, Bool.and_eq_true] at h
  obtain ⟨⟨⟨⟨-, ⟨⟨⟨-, hok⟩, -⟩, -⟩⟩, -⟩, -⟩, -⟩ := h
  exact List.all_eq_true.1 hok x (hl ▸ hx)

/-- A segment's width is one of R242, the same in every lane. -/
theorem Wave.src_segment (w : Wave) {o : Operand} {mark : Bool} (h : Slot.ok ⟨o, .segment, mark⟩ = true) (l : Nat) :
    w.src o 1 l = w.src o 1 0 ∧ 0 < w.src o 1 0 := by
  cases o with
  | pos k =>
    have hk : k.toNat ∈ [1, 2, 4, 8, 16, 32] := by simpa [Slot.ok] using h
    exact ⟨rfl, Nat.pos_of_ne_zero fun h0 => by simp [show k.toNat = 0 from h0] at hk⟩
  | _ => simp [Slot.ok] at h

/-- SHFL where its source is full, present and sound in every lane that it reads (R56, R242, R402). -/
theorem exec_shfl {f : FmtA3} {s : State} {w : Wave} (h : issues (.shfl f) s w = true) {src : Nat → Nat}
    (hsrc : ∀ l, shflLane f.flg.toNat l (w.src f.b 1 l) (w.src f.c 1 l) = src l)
    (hr : ∀ l ∈ Mask.lanes (w.active (.shfl f)), w.regs.empty f.a (wordsI f.ty) (Mask.single (src l)) = false ∧
      w.regs.busy f.a (wordsI f.ty) (Mask.single (src l)) = false ∧ w.regs.bad f.a (wordsI f.ty) (Mask.single (src l)) = false) :
    exec (.shfl f) s = .next ((s.putWave s.cur
      (w.put f.dst (wordsI f.ty) (w.active (.shfl f)) fun l => w.src f.a (wordsI f.ty) (src l))).advance s.cur) := by
  have hnone {p : Operand → Nat → Mask → Bool}
      (hp : ∀ l ∈ Mask.lanes (w.active (.shfl f)), p f.a (wordsI f.ty) (Mask.single (src l)) = false) :
      (Mask.lanes (w.active (.shfl f))).find? (fun l => p f.a (wordsI f.ty) (Mask.single (src l))) = none :=
    List.find?_eq_none.2 fun l hl => by simp [hp l hl]
  refine issue_done h ?_
  simp only [hsrc, hnone fun l hl => (hr l hl).1, hnone fun l hl => (hr l hl).2.1, hnone fun l hl => (hr l hl).2.2,
    Option.isSome_none, Bool.false_eq_true, if_false]

/-! ### Special registers (R223, R245) -/

/-- The special registers, by the selector. -/
theorem State.special_eq_match (s : State) (w : Wave) (sel l : Nat) :
    let g := s.wgOf w
    let k := g.bind (fun g => tget s.launches g.launch)
    s.special w sel l = match sel with
    | 0 => l
    | 1 => w.num
    | 2 => (g.map (fun g => g.slot)).getD 0
    | 3 => w.core
    | 4 => if w.core < 320 then w.core / 40 else 8 + (w.core - 320) / 16
    | 5 => (k.map (fun k => k.shx)).getD 0
    | 6 => (k.map (fun k => k.shy)).getD 0
    | 7 => (k.map (fun k => k.shz)).getD 0
    | 8 => (g.map (fun g => g.x)).getD 0
    | 9 => (g.map (fun g => g.y)).getD 0
    | 10 => (g.map (fun g => g.z)).getD 0
    | 11 => s.clock.toNat
    | 12 => w.fpflags.toNat
    | 13 => w.fpmode.toNat
    | 14 => w.svc
    | _ => w.world := by
  intro g k
  have hwg (p : Wg → Nat) : (match s.wgOf w with | some g => p g | none => 0) = (g.map p).getD 0 := by
    change _ = ((s.wgOf w).map p).getD 0
    cases s.wgOf w <;> rfl
  have hla (p : Launch → Nat) : (match s.launchOf w with | some l => p l | none => 0) = (k.map p).getD 0 := by
    change (match (match s.wgOf w with | some g => tget s.launches g.launch | none => none) with | some l => p l | none => 0) =
      (((s.wgOf w).bind fun g => tget s.launches g.launch).map p).getD 0
    cases s.wgOf w with
    | none => rfl
    | some g =>
      change (match tget s.launches g.launch with | some l => p l | none => 0) = ((tget s.launches g.launch).map p).getD 0
      cases tget s.launches g.launch <;> rfl
  match sel with
  | 0 | 1 | 3 | 4 | 11 | 12 | 13 | 14 => rfl
  | 2 => exact hwg _
  | 5 => exact hla _
  | 6 => exact hla _
  | 7 => exact hla _
  | 8 => exact hwg _
  | 9 => exact hwg _
  | 10 => exact hwg _
  | n + 15 => simp [State.special]

end Sys2Proof.Machine

namespace Sys2Proof.Proofs

open Sys2Proof Sys2Proof.Machine

/-- Settles O7. The participants are the lanes of a mask (`Mask.lanes_sub`, `Mask.lanes_inj`); SHFL's lane is that of R242
(`shflLane_eq_match`), and its checks pass (`exec_shfl`). -/
theorem waveOperations : Obligations.WaveOperations := by
  unfold Obligations.WaveOperations
  intro f n sum
  refine ⟨?vote, ?matchOp, ?shfl⟩
  case vote => exact gives_of_participants (fun _ => rfl) fun _ _ w _ => voteVal_eq_match _ _ (w.truth f.a)
  case matchOp =>
    exact gives_of_participants (val := fun _ w m => w.matchVal f m) (fun _ => rfl) fun hc _ w l =>
      w.matchVal_eq_match (flg_mem_of_a3Codes hc) _ l
  case shfl =>
    intro s w h seg from' hr
    have hflg : f.flg.toNat < 4 := by
      have : f.flg.toNat ∈ [0, 1, 2, 3] := flg_mem_of_a3Codes (codesOk_of_issues h)
      simp only [List.mem_cons, List.not_mem_nil, or_false] at this
      omega
    refine exec_shfl h (fun l => ?_) hr
    have hok : Slot.ok (cSlot f .segment) = true := slotOk_of_issues h (l := a3 f _ _ _ _) rfl (by simp [a3])
    obtain ⟨hc, hpos⟩ := w.src_segment hok l
    exact (congrArg _ hc).trans (shflLane_eq_match _ _ _ hpos hflg)

/-- Settles O8. SRD by its selector (`State.special_eq_match`); CLOCK once its wait is over. -/
theorem specialRegisters : Obligations.SpecialRegisters := by
  unfold Obligations.SpecialRegisters
  intro f
  refine ⟨?srd, ?clock⟩
  case srd => exact gives_of_participants (fun _ => rfl) fun _ s w l => s.special_eq_match w _ l
  case clock =>
    intro s w h hwait
    refine issue_done h (if_neg ?_)
    rintro ⟨hm, hbusy⟩
    obtain ⟨hv, hs, hvb, hsb⟩ := hwait.resolve_left hm
    simp [hv, hs, hvb, hsb] at hbusy

end Sys2Proof.Proofs

/-! PROOFS. The floating-point instructions (R252 to R268): values, flags and modes as the statements write them, and the
obligations O14 to O17. -/

namespace Sys2Proof.Machine

/-! ### Flags, modes and elements (R168, R172, R252) -/

/-- Flags gathered onto others are those and the gathered ones. -/
theorem foldl_flags (g : Nat → Flags) (l : List Nat) (a : Flags) :
    l.foldl (fun acc k => acc ||| g k) a = a ||| l.foldl (fun acc k => acc ||| g k) 0#7 := by
  induction l generalizing a with
  | nil => simp
  | cons k l ih => rw [List.foldl_cons, List.foldl_cons, ih, ih (0#7 ||| g k), BitVec.zero_or, BitVec.or_assoc]

theorem foldl_no_flags (l : List Nat) : l.foldl (fun (acc : Flags) _ => acc ||| 0#7) 0#7 = 0#7 := by
  induction l with
  | nil => rfl
  | cons k l ih => rw [List.foldl_cons, BitVec.or_zero, ih]

/-- A floating-point destination write: the bits in the lanes, and the lanes' flags onto %fpflags. -/
theorem Wave.putF_eq (w : Wave) (o : Operand) (n : Nat) (m : Mask) (g : Nat → Nat × Flags) : w.putF o n m g =
    { w.put o n m (fun l => (g l).1) with fpflags := (Mask.lanes m).foldl (fun acc l => acc ||| (g l).2) w.fpflags } := by
  rw [Wave.putF, Wave.orFlags, ← foldl_flags]
  rfl

/-- An operation without flags only writes its bits. -/
theorem Wave.putF_no_flags (w : Wave) (o : Operand) (n : Nat) (m : Mask) (g : Nat → Nat) :
    w.putF o n m (fun l => (g l, 0#7)) = w.put o n m g := by
  rw [Wave.putF, foldl_no_flags, Wave.orFlags, BitVec.or_zero]

/-- An instruction whose meaning writes bits and flags of each active lane gives every function with the same ones under the
codes that the instruction takes. -/
theorem givesF_of_codesOk {i : Instr} {o : Operand} {n : Nat} {val val' : Wave → Nat → Nat × Flags}
    (he : ∀ s, exec i s = issue i s (onWave fun w m => w.putF o n m (val w)))
    (hv : codesOk i = true → ∀ w l, val w l = val' w l) : GivesF i o n val' := fun s w h => by
  have hval : val w = val' w := funext (hv (codesOk_of_issues h) w)
  rw [he s]
  refine (issue_done h rfl).trans ?_
  dsimp only
  rw [hval, w.putF_eq]

/-- The mode of an instruction (R168, R215). -/
theorem Wave.mode_eq_modeOf (w : Wave) (f : FmtA3) : w.mode f.rnd = modeOf w f := by
  have hrnd (c : Nat) : rndOf c = match c with
      | 1 => .rtz
      | 2 => .rdn
      | 3 => .rup
      | 4 => .rna
      | _ => .rne := by
    match c with
    | 0 | 1 | 2 | 3 | 4 => rfl
    | c + 5 => simp [rndOf]
  rw [Wave.mode, ← apply_ite rndOf, hrnd]
  rfl

/-- An operation on the elements of an instruction's sources (R252). -/
theorem perElem_eq_elements (f : FmtA3) (g : Fmt → Rnd → Nat → Nat → Nat → Nat × Flags) (w : Wave) (l : Nat) :
    perElem f.ty (g (fmtF f.ty.toNat) (w.mode f.rnd)) (w.fsrc f.a f.ty.toNat l) (w.fsrc f.b f.ty.toNat l)
      (w.fsrc f.c f.ty.toNat l) = elements f g w l := by
  simp only [perElem, elements, packed, w.mode_eq_modeOf, Bool.or_eq_true, decide_eq_true_eq]

/-- An element-by-element instruction gives the operation's elements. -/
theorem givesF_of_fltOp {i : Instr} {f : FmtA3} {g : Fmt → Rnd → Nat → Nat → Nat → Nat × Flags}
    (he : ∀ s, exec i s = fltOp i f g s) : GivesF i f.dst (wordsF f.ty) (elements f g) :=
  givesF_of_codesOk he fun _ w l => perElem_eq_elements f g w l

/-- A type that is not packed has one element. -/
theorem elements_of_tyF {f : FmtA3} (h : f.ty.toNat ∈ tyF) (g : Fmt → Rnd → Nat → Nat → Nat → Nat × Flags) (w : Wave) (l : Nat) :
    elements f g w l = g (fmtF f.ty.toNat) (modeOf w f) (w.fsrc f.a f.ty.toNat l) (w.fsrc f.b f.ty.toNat l)
      (w.fsrc f.c f.ty.toNat l) := by
  have hp : ∀ ty : BitVec 4, ty.toNat ∈ tyF → ¬(ty = 8#4 ∨ ty = 9#4) := by decide
  rw [elements, if_neg (hp _ h)]

/-- An instruction on types that are not packed gives its operation. -/
theorem givesF_of_fltOp_tyF {i : Instr} {f : FmtA3} {g : Fmt → Rnd → Nat → Nat → Nat → Nat × Flags}
    (he : ∀ s, exec i s = fltOp i f g s) (hty : codesOk i = true → f.ty.toNat ∈ tyF) :
    GivesF i f.dst (wordsF f.ty) fun w l => g (fmtF f.ty.toNat) (modeOf w f) (w.fsrc f.a f.ty.toNat l) (w.fsrc f.b f.ty.toNat l)
      (w.fsrc f.c f.ty.toNat l) :=
  givesF_of_codesOk he fun hc w l => (perElem_eq_elements f g w l).trans (elements_of_tyF (hty hc) g w l)

/-! ### Operations on the sign bits (R254, R256) -/

/-- An operation on bits, element by element, without flags. -/
theorem gives_of_fltOp_bits {i : Instr} {f : FmtA3} {g : Fmt → Nat → Nat → Nat} {val : Wave → Nat → Nat}
    (he : ∀ s, exec i s = fltOp i f (fun t _ x y _ => (g t x y, 0#7)) s)
    (hv : codesOk i = true → ∀ w l, (elements f (fun t _ x y _ => (g t x y, 0#7)) w l).1 = val w l) :
    Gives i f.dst (wordsF f.ty) fun _ => val := fun s w h => by
  have hval (l : Nat) : perElem f.ty (fun x y _ => (g (fmtF f.ty.toNat) x y, 0#7)) (w.fsrc f.a f.ty.toNat l)
      (w.fsrc f.b f.ty.toNat l) (w.fsrc f.c f.ty.toNat l) = (val w l, 0#7) := by
    rw [← hv (codesOk_of_issues h) w l, ← perElem_eq_elements]
    unfold perElem
    split <;> simp
  rw [he s]
  refine (issue_done h rfl).trans ?_
  simp only [hval, w.putF_no_flags]

/-- The elements that a constant source takes fit their format (R213). -/
theorem encode_const_lt : ∀ t ∈ [f16, bf16, f32, f64],
    (∀ k : BitVec 6, t.encode (.fin false k.toNat 0) < 2 ^ t.width) ∧
    (∀ k : BitVec 5, t.encode (.fin true (32 - k.toNat) 0) < 2 ^ t.width) ∧
    ∀ k : BitVec 4, t.encode (fltConst k.toNat) < 2 ^ t.width := by decide

/-- The elements of a type: one of its width, or two of 16 bits in one register (R252). -/
theorem elem_type : ∀ ty : BitVec 4, ty.toNat ∈ tyFP → fmtF ty.toNat ∈ [f16, bf16, f32, f64] ∧
    (ty = 8#4 ∨ ty = 9#4 → (fmtF ty.toNat).width = 16) ∧ 0 < (fmtF ty.toNat).width := by decide

/-- A source's bits fit its type. -/
theorem Wave.fsrc_lt (w : Wave) (o : Operand) {ty : BitVec 4} (h : ty.toNat ∈ tyFP) (l : Nat) :
    w.fsrc o ty.toNat l < 2 ^ (if ty = 8#4 ∨ ty = 9#4 then 32 else (fmtF ty.toNat).width) := by
  obtain ⟨hmem, hw, -⟩ := elem_type ty h
  obtain ⟨hpos, hneg, hflt⟩ := encode_const_lt _ hmem
  have hp : ty.toNat = 8 ∨ ty.toNat = 9 ↔ ty = 8#4 ∨ ty = 9#4 := by
    simp only [← BitVec.toNat_inj]
    rfl
  have hrep {x : Nat} (hx : x < 2 ^ (fmtF ty.toNat).width) : (if ty = 8#4 ∨ ty = 9#4 then x + x * 2 ^ 16 else x) <
      2 ^ (if ty = 8#4 ∨ ty = 9#4 then 32 else (fmtF ty.toNat).width) := by
    split
    next hc => rw [hw hc] at hx; omega
    next => exact hx
  cases o with
  | pos k => simpa only [Wave.fsrc, hp] using hrep (hpos k)
  | neg k => simpa only [Wave.fsrc, hp] using hrep (hneg k)
  | flt k => simpa only [Wave.fsrc, hp] using hrep (hflt k)
  | v r | s r | p r | rsv r => simpa only [Wave.fsrc, hp] using Nat.mod_lt _ (Nat.two_pow_pos _)

/-- A number without one of its bits, the highest that it may have. -/
theorem sub_and_two_pow {x n : Nat} (h : x < 2 ^ (n + 1)) : x - (x &&& 2 ^ n) = x % 2 ^ n := by
  have hq : x / 2 ^ n < 2 := Nat.div_lt_of_lt_mul (by rwa [pow_succ] at h)
  have hx := Nat.div_add_mod x (2 ^ n)
  rw [Nat.and_two_pow, Nat.testBit_eq_decide_div_mod_eq]
  obtain h0 | h1 := Nat.le_one_iff_eq_zero_or_eq_one.mp (Nat.lt_succ_iff.mp hq)
  · simp [h0] at hx ⊢
    exact hx.symm
  · simp [h1] at hx ⊢
    omega

theorem and_two_pow_eq (x n : Nat) : x &&& 2 ^ n = x / 2 ^ n % 2 * 2 ^ n := by
  rw [Nat.and_two_pow, Nat.testBit_eq_decide_div_mod_eq]
  obtain h | h := Nat.mod_two_eq_zero_or_one (x / 2 ^ n) <;> simp [h]

/-- The sign bits of two elements are those of each. -/
theorem and_packed_signs (x : Nat) :
    x &&& 0x80008000 = (x % 2 ^ 16 &&& 2 ^ 15) + (x / 2 ^ 16 &&& 2 ^ 15) * 2 ^ 16 := by
  have hlo := Nat.and_mod_two_pow (a := x) (b := 0x80008000) (n := 16)
  have hhi := Nat.and_div_two_pow (a := x) (b := 0x80008000) (n := 16)
  norm_num at hlo hhi ⊢
  omega

@[inherit_doc and_packed_signs] theorem xor_packed_signs (x : Nat) :
    x ^^^ 0x80008000 = (x % 2 ^ 16 ^^^ 2 ^ 15) + (x / 2 ^ 16 ^^^ 2 ^ 15) * 2 ^ 16 := by
  have hlo := Nat.xor_mod_two_pow (a := x) (b := 0x80008000) (n := 16)
  have hhi := Nat.xor_div_two_pow (a := x) (b := 0x80008000) (n := 16)
  norm_num at hlo hhi ⊢
  omega

/-- A number of two elements without its sign bits. -/
theorem sub_packed_signs {x : Nat} (h : x < 2 ^ 32) :
    x - (x &&& 0x80008000) = x % 2 ^ 16 % 2 ^ 15 + x / 2 ^ 16 % 2 ^ 15 * 2 ^ 16 := by
  have hlo := sub_and_two_pow (x := x % 2 ^ 16) (n := 15) (by omega)
  have hhi := sub_and_two_pow (x := x / 2 ^ 16) (n := 15) (by omega)
  have hle := Nat.and_le_left (n := x % 2 ^ 16) (m := 2 ^ 15)
  have hle' := Nat.and_le_left (n := x / 2 ^ 16) (m := 2 ^ 15)
  rw [and_packed_signs x, ← hlo, ← hhi]
  omega

/-- Taking the signs off the elements of a number takes its sign bits off (R254). -/
theorem elements_abs {f : FmtA3} (h : f.ty.toNat ∈ tyFP) (w : Wave) (l : Nat) :
    (elements f (fun t _ x _ _ => (x % 2 ^ (t.width - 1), 0#7)) w l).1 =
      w.fsrc f.a f.ty.toNat l - (w.fsrc f.a f.ty.toNat l &&& signBits f) := by
  obtain ⟨-, hw, hpos⟩ := elem_type _ h
  have hx := w.fsrc_lt f.a h l
  simp only [elements, signBits]
  split
  next hp =>
    rw [if_pos hp] at hx
    rw [hw hp, sub_packed_signs hx]
  next hp =>
    rw [if_neg hp] at hx
    rw [sub_and_two_pow (by rwa [Nat.sub_add_cancel hpos])]

/-- Changing the signs of the elements changes the sign bits (R254). -/
theorem elements_neg {f : FmtA3} (h : f.ty.toNat ∈ tyFP) (w : Wave) (l : Nat) :
    (elements f (fun t _ x _ _ => (x ^^^ 2 ^ (t.width - 1), 0#7)) w l).1 = w.fsrc f.a f.ty.toNat l ^^^ signBits f := by
  obtain ⟨-, hw, -⟩ := elem_type _ h
  simp only [elements, signBits]
  split
  next hp => rw [hw hp, xor_packed_signs]
  next => rfl

/-- Taking the signs of the elements of another number takes its sign bits (R256). -/
theorem elements_copysign {f : FmtA3} (h : f.ty.toNat ∈ tyFP) (w : Wave) (l : Nat) :
    (elements f (fun t _ x y _ =>
      (x % 2 ^ (t.width - 1) + y / 2 ^ (t.width - 1) % 2 * 2 ^ (t.width - 1), 0#7)) w l).1 =
      w.fsrc f.a f.ty.toNat l - (w.fsrc f.a f.ty.toNat l &&& signBits f) + (w.fsrc f.b f.ty.toNat l &&& signBits f) := by
  obtain ⟨-, hw, hpos⟩ := elem_type _ h
  have hx := w.fsrc_lt f.a h l
  have hy := w.fsrc_lt f.b h l
  simp only [elements, signBits]
  split
  next hp =>
    rw [if_pos hp] at hx hy
    rw [hw hp, sub_packed_signs hx, and_packed_signs, and_two_pow_eq, and_two_pow_eq]
    omega
  next hp =>
    rw [if_neg hp] at hx
    rw [sub_and_two_pow (by rwa [Nat.sub_add_cancel hpos]), and_two_pow_eq]

/-! ### Conversions (R262, R263) -/

/-- The integer that ICVTF reads, of the width and the sign of its type. -/
theorem cvtSrc_eq_asInt : ∀ {ty : BitVec 4}, ty.toNat ∈ [0, 1, 2, 3, 4, 5, 6, 7, 8] → ∀ x : Nat, cvtSrc ty.toNat x =
    asInt (decide (ty.toNat < 4 ∨ ty.toNat = 8)) (BitVec.ofNat (if ty.toNat ∈ [0, 4] then 8 else
      if ty.toNat ∈ [1, 5] then 16 else if ty.toNat ∈ [2, 6] then 32 else if ty.toNat = 8 then 4 else 64) x) := by
  intro ty h x
  unfold cvtSrc
  split
  next h8 => rw [h8, sextN_eq_toInt _ _ (by decide)]; rfl
  next h8 =>
    rw [extTy_eq_asInt]
    have hty : ∀ ty : BitVec 4, ty.toNat ∈ [0, 1, 2, 3, 4, 5, 6, 7, 8] → ty.toNat ≠ 8 →
        tySigned ty.toNat = decide (ty.toNat < 4 ∨ ty.toNat = 8) ∧ tyBits ty.toNat = if ty.toNat ∈ [0, 4] then 8 else
        if ty.toNat ∈ [1, 5] then 16 else if ty.toNat ∈ [2, 6] then 32 else if ty.toNat = 8 then 4 else 64 := by decide
    obtain ⟨hs, hb⟩ := hty ty h h8
    rw [hs, hb]

end Sys2Proof.Machine

namespace Sys2Proof.Proofs
open Sys2Proof Sys2Proof.Machine

/-- Settles O14: the sums and products are the operation's elements; FABS, FNEG and FCOPYSIGN work on the sign bits, of a
packed type on both. -/
theorem floatArithmetic : Obligations.FloatArithmetic := by
  unfold Obligations.FloatArithmetic
  intro f n
  refine ⟨?fadd, ?fsub, ?fmul, ?ffma, ?fabs, ?fneg, ?fcopysign⟩
  case fadd | fsub | fmul | ffma => exact givesF_of_fltOp fun _ => rfl
  case fabs =>
    refine gives_of_fltOp_bits (g := fun t x _ => x % 2 ^ (t.width - 1)) (fun _ => rfl) fun hc => ?_
    exact elements_abs (ty_mem_of_a3Codes (flags := [0]) (rounds := false) hc)
  case fneg =>
    refine gives_of_fltOp_bits (g := fun t x _ => x ^^^ 2 ^ (t.width - 1)) (fun _ => rfl) fun hc => ?_
    exact elements_neg (ty_mem_of_a3Codes (flags := [0]) (rounds := false) hc)
  case fcopysign =>
    refine gives_of_fltOp_bits (g := fun t x y =>
      x % 2 ^ (t.width - 1) + y / 2 ^ (t.width - 1) % 2 * 2 ^ (t.width - 1)) (fun _ => rfl) fun hc => ?_
    exact elements_copysign (ty_mem_of_a3Codes (flags := [0]) (rounds := false) hc)

/-- Settles O15: each writes its function's value in the mode of the instruction; a type that is not packed has one element. -/
theorem floatFunctionsAndTests : Obligations.FloatFunctionsAndTests := by
  unfold Obligations.FloatFunctionsAndTests
  intro f n t
  refine ⟨?fdiv, ?fsqrt, ?frsq, ?fexp2, ?flog2, ?fscale, ?fgetexp, ?fmin, ?fmax, ?fminm, ?fmaxm, ?fsetp, ?fclass⟩
  case fdiv =>
    exact givesF_of_fltOp_tyF (g := fun t r x y _ => fDiv t r (t.decode x) (t.decode y)) (fun _ => rfl) ty_mem_of_a3Codes
  case fsqrt => exact givesF_of_fltOp_tyF (g := fun t r x _ _ => fSqrt t r (t.decode x)) (fun _ => rfl) ty_mem_of_a3Codes
  case frsq => exact givesF_of_fltOp_tyF (g := fun t r x _ _ => fRsq t r (t.decode x)) (fun _ => rfl) ty_mem_of_a3Codes
  case fexp2 => exact givesF_of_fltOp_tyF (g := fun t r x _ _ => fExp2 t r x) (fun _ => rfl) ty_mem_of_a3Codes
  case flog2 => exact givesF_of_fltOp_tyF (g := fun t r x _ _ => fLog2 t r x) (fun _ => rfl) ty_mem_of_a3Codes
  case fscale =>
    refine givesF_of_codesOk (fun _ => rfl) fun _ w l => ?_
    rw [w.mode_eq_modeOf, sextN_eq_toInt _ _ (by decide)]
    rfl
  case fmin | fmax | fminm | fmaxm => exact givesF_of_fltOp fun _ => rfl
  case fgetexp | fsetp => exact givesF_of_codesOk (fun _ => rfl) fun _ _ _ => rfl
  case fclass => exact gives_of_codesOk (fun _ => rfl) fun _ _ _ _ => rfl

/-- Settles O16: the conversions' own functions, with the mode and the widths of the instruction. -/
theorem floatConversions : Obligations.FloatConversions := by
  unfold Obligations.FloatConversions
  intro f n t src
  refine ⟨?frnd, ?fcvt, ?fcvtSat, ?fcvti, ?icvtf, ?fpack, ?funpk⟩
  case frnd => exact givesF_of_fltOp fun _ => rfl
  case fcvt => exact givesF_of_codesOk (fun _ => rfl) fun _ w l => by rw [w.mode_eq_modeOf]
  case fcvtSat => exact givesF_of_codesOk (fun _ => rfl) fun _ w l => by rw [w.mode_eq_modeOf]
  case fcvti =>
    intro x hx
    have hcvt : x.2.1 = cvtBits x.1 ∧ x.2.2 = cvtSigned x.1 := by
      revert x
      decide
    rw [hcvt.1, hcvt.2]
    refine givesF_of_codesOk (fun _ => rfl) fun _ w l => ?_
    dsimp only
    rw [w.mode_eq_modeOf, wrapN_eq_toNat]
  case icvtf =>
    exact givesF_of_codesOk (fun _ => rfl) fun hc w l => by
      rw [w.mode_eq_modeOf, cvtSrc_eq_asInt (flg_mem_of_a3Codes hc)]
      rfl
  case fpack => exact givesF_of_codesOk (fun _ => rfl) fun _ w l => by rw [w.mode_eq_modeOf]
  case funpk => exact givesF_of_codesOk (fun _ => rfl) fun _ _ _ => rfl

/-- Settles O17: FDOT2 writes its function's value; the block instructions are their functions of the block, with nothing
written where no lane takes part. -/
theorem dotAndQuantise : Obligations.DotAndQuantise := by
  unfold Obligations.DotAndQuantise
  intro f t
  refine ⟨?fdot2, ?fqblk, ?fnxenc, ?fnxdec⟩
  case fdot2 => exact givesF_of_codesOk (fun _ => rfl) fun _ w l => by rw [w.mode_eq_modeOf]
  case fqblk => exact givesWave_of_onWave fun _ => rfl
  case fnxenc =>
    intro s w h
    refine (issue_done h rfl).trans ?_
    simp only [Wave.orFlags, ← BitVec.or_assoc]
    rfl
  case fnxdec => exact givesWave_of_onWave fun _ => rfl

end Sys2Proof.Proofs

/-! PROOFS. How a wave moves (R181, R182, R359): what passing on, a clause boundary, a condition and the leaving of a slot can change of
the machine and of the wave. The obligations O28 and O29. -/

namespace Sys2Proof.Machine

/-! ### The frame of the machine -/

/-- What the moving of a wave leaves alone: all but the waves, the bookkeeping of cores and the entries handed to worlds. -/
structure State.Frame (s t : State) : Prop where
  rest : t = { s with waves := t.waves, cores := t.cores, worlds := t.worlds }
  core : ∀ k, let c := s.core k
    t.core k = { c with lastWork := (t.core k).lastWork, tkWait := (t.core k).tkWait, stepping := (t.core k).stepping }
  world : ∀ k, t.world k = { s.world k with toPost := (t.world k).toPost }

namespace State.Frame

theorem refl (s : State) : s.Frame s := ⟨rfl, fun _ => rfl, fun _ => rfl⟩

theorem trans {s t u : State} (h : s.Frame t) (k : t.Frame u) : s.Frame u where
  rest := by rw [k.rest, h.rest]
  core j := by
    dsimp only
    rw [k.core j, h.core j]
  world j := by rw [k.world j, h.world j]

theorem putWave {s t : State} (h : s.Frame t) (id : Nat) (w : Wave) : s.Frame (t.putWave id w) :=
  h.trans ⟨rfl, fun _ => rfl, fun _ => rfl⟩

/-- A core's bookkeeping alone changes. -/
theorem putCore (s : State) (k : Nat) {c : CoreSt}
    (hc : c = { s.core k with lastWork := c.lastWork, tkWait := c.tkWait, stepping := c.stepping }) : s.Frame (s.putCore k c) where
  rest := rfl
  core j := by
    dsimp only
    rw [State.core_putCore]
    split
    next hj => rw [hj]; exact hc
    next => rfl
  world _ := rfl

theorem endStep (s : State) (id : Nat) (w : Wave) : s.Frame (s.endStep id w) := by
  unfold State.endStep
  dsimp only
  split
  · exact putCore s w.core rfl
  · exact refl s

theorem quit (s : State) (core id : Nat) : s.Frame (s.quit core id) := putCore s core rfl

theorem letBy (s : State) (id : Nat) (w : Wave) : s.Frame (s.letBy id w) := by
  unfold State.letBy
  split
  · exact ⟨rfl, fun _ => rfl, fun _ => rfl⟩
  · exact refl s

theorem post (s : State) (world : Nat) (p : Post) : s.Frame (s.post world p) where
  rest := rfl
  core _ := rfl
  world j := by
    unfold State.post
    rw [State.world_putWorld]
    split
    next hj => rw [hj]
    next => rfl

end State.Frame

@[simp] theorem State.endStep_waves (s : State) (id : Nat) (w : Wave) : (s.endStep id w).waves = s.waves := by
  unfold State.endStep
  dsimp only
  split <;> rfl

/-- A change of some entries of a table that keeps their numbers. -/
theorem tget_map_ite {α : Type} (c : Nat × α → Bool) (g : α → α) (t : Tab α) (k : Nat) :
    tget (t.map fun e => if c e then (e.1, g e.2) else e) k = (tget t k).map fun a => if c (k, a) then g a else a := by
  induction t with
  | nil => rfl
  | cons e t ih =>
    obtain ⟨j, a⟩ := e
    rw [List.map_cons]
    by_cases hj : j = k
    · subst hj
      by_cases hc : c (j, a) = true <;> simp [tget, hc]
    · by_cases hc : c (j, a) = true <;> simp [tget, hj, hc, ih]

/-- A clause of a wave has issued: of another wave it may end that it stands back, and the wave itself stays. -/
theorem State.tget_letBy (s : State) (id : Nat) (w : Wave) (k : Nat) : ∃ g : Wave → Bool,
    tget (s.letBy id w).waves k = (tget s.waves k).map (fun v => { v with behind := g v }) ∧ ∀ v, k = id → g v = v.behind := by
  have hkeep : tget s.waves k = (tget s.waves k).map fun v => { v with behind := v.behind } := Option.map_id'.symm
  unfold State.letBy
  split
  · refine ⟨fun v => if decide (k ≠ id ∧ v.core = w.core ∧ v.num % 4 = w.num % 4) && v.behind then false else v.behind,
      (tget_map_ite (fun e => decide (e.1 ≠ id ∧ e.2.core = w.core ∧ e.2.num % 4 = w.num % 4) && e.2.behind)
        (fun v : Wave => { v with behind := false }) _ _).trans ?_, fun v hk => if_neg (by simp [hk])⟩
    refine congrArg (fun f => Option.map f _) (funext fun v => ?_)
    dsimp only
    split <;> rfl
  · exact ⟨fun v => v.behind, hkeep, fun _ _ => rfl⟩

/-- Whether a condition goes to the device manager too is a matter of the object table alone. -/
theorem State.Frame.managerToo {s t : State} (h : s.Frame t) (world : Nat) (r : FaultRec) :
    t.managerToo world r = s.managerToo world r := by
  rw [h.rest]
  rfl

/-! ### The frame of the wave -/

/-- The requests that a wave's bundle, or one that it has set aside, waits for. -/
def Wave.Held (w : Wave) (l : List (Nat × Nat)) : Prop := l = w.hold ∨ ∃ e ∈ w.others, l = e.wait

/-- What the moving of a wave leaves alone of it: all but its frontier, its place, its record and its waits. -/
structure Wave.Moved (w w' : Wave) : Prop where
  rest : w' = { w with
    bundle := w'.bundle, others := w'.others, snap := w'.snap, clause := w'.clause, left := w'.left, ctl := w'.ctl
    yielded := w'.yielded, judge := w'.judge, behind := w'.behind, stalled := w'.stalled, waits := w'.waits, hold := w'.hold
    status := w'.status, regs := w'.regs, recKind := w'.recKind, recCnt := w'.recCnt, recSeq := w'.recSeq
    recFlags := w'.recFlags, recRidges := w'.recRidges, cause := w'.cause, edits := w'.edits, ldn := w'.ldn
    charge := w'.charge, slotSince := w'.slotSince, sv := w'.sv, lowerReq := w'.lowerReq }
  regs : w'.regs = { w.regs with vEmpty := w'.regs.vEmpty, sEmpty := w'.regs.sEmpty, vBusy := w'.regs.vBusy
                                 sBusy := w'.regs.sBusy }
  full : w'.status = .slot → w'.regs = w.regs
  hold : w.Held w'.hold
  sv : w.sup = false → w'.sv = w.sv

/-- A wave that has moved, whose set-aside bundles wait for what the wave's have waited for. -/
structure Wave.Moving (w v : Wave) : Prop where
  moved : w.Moved v
  aside : ∀ e ∈ v.others, e.mid ≠ none → w.Held e.wait

theorem Wave.Moving.refl (w : Wave) : w.Moving w :=
  ⟨⟨rfl, rfl, fun _ => rfl, .inl rfl, fun _ => rfl⟩, fun e he _ => .inr ⟨e, he, rfl⟩⟩

/-- Lanes join an entry: it is one of before, but for its lanes, or a new one that nothing holds. -/
theorem mem_joinEntry {prio : BitVec 16} {pc : Word} {m : Mask} {yld : Bool} {l : List Entry} {e : Entry}
    (h : e ∈ joinEntry prio pc m yld l) : e.mid = none ∨ ∃ x ∈ l, e.wait = x.wait ∧ e.mid = x.mid := by
  induction l with
  | nil =>
    rw [joinEntry] at h
    split at h
    · exact nomatch h
    · exact .inl (by rw [List.mem_singleton.mp h])
  | cons x l ih =>
    rw [joinEntry] at h
    split at h
    · obtain rfl | h := List.mem_cons.mp h
      · exact .inr ⟨x, List.mem_cons_self, rfl, rfl⟩
      · exact .inr ⟨e, List.mem_cons_of_mem _ h, rfl, rfl⟩
    · obtain rfl | h := List.mem_cons.mp h
      · exact .inr ⟨e, List.mem_cons_self, rfl, rfl⟩
      · exact (ih h).imp_right fun ⟨y, hy, he⟩ => ⟨y, List.mem_cons_of_mem _ hy, he⟩

/-- What holds of the waits of set-aside bundles holds of them where lanes that left have joined the entries. -/
theorem State.aside_joinLeft (s : State) (w : Wave) {P : List (Nat × Nat) → Prop} {l : List Entry}
    (h : ∀ e ∈ l, e.mid ≠ none → P e.wait) : ∀ e ∈ s.joinLeft w l, e.mid ≠ none → P e.wait :=
  foldl_keeps (fun l : List Entry => ∀ e ∈ l, e.mid ≠ none → P e.wait) _ _ _ h fun a x ha e he hm => by
    obtain hn | ⟨y, hy, hwait, hmid⟩ := mem_joinEntry he
    · exact absurd hn hm
    · exact hwait ▸ ha y hy (hmid ▸ hm)

theorem mem_insertEntry {e x : Entry} {l : List Entry} : e ∈ insertEntry x l ↔ e = x ∨ e ∈ l := by
  induction l with
  | nil => simp [insertEntry]
  | cons h t ih =>
    rw [insertEntry]
    split
    · simp
    · rw [List.mem_cons, ih, List.mem_cons]
      tauto

@[simp] theorem mem_sortEntries {e : Entry} {l : List Entry} : e ∈ sortEntries l ↔ e ∈ l := by
  induction l with
  | nil => rfl
  | cons h t ih =>
    rw [sortEntries, List.foldr_cons, mem_insertEntry, List.mem_cons]
    exact or_congr_right ih

/-- The entry found in the sorted list is one of the list. -/
theorem mem_of_find?_sorted {l : List Entry} {p : Entry → Bool} {e : Entry} (h : (sortEntries l).find? p = some e) : e ∈ l :=
  mem_sortEntries.mp (List.mem_of_find?_eq_some h)

/-- Making an entry the issuing one. -/
theorem Wave.Moving.take {w v : Wave} (h : w.Moving v) {e : Entry} (he : e.mid ≠ none → w.Held e.wait) : w.Moving (v.take e) := by
  obtain ⟨⟨hrest, hregs, hfull, hhold, hsv⟩, haside⟩ := h
  have hmem (x : Entry) (hx : x ∈ v.others.erase e) : x.mid ≠ none → w.Held x.wait := haside x (List.mem_of_mem_erase hx)
  unfold Wave.take
  dsimp only
  split
  next => exact ⟨⟨by rw [hrest], hregs, hfull, hhold, hsv⟩, hmem⟩
  next m hm => exact ⟨⟨by rw [hrest], hregs, hfull, he (hm ▸ Option.some_ne_none m), hsv⟩, hmem⟩

/-- Setting aside a bundle that waits for nothing. -/
theorem Wave.Moving.setAside {w v : Wave} (h : w.Moving v) (s : State) (hh : v.hold = []) : w.Moving (s.setAside v) := by
  obtain ⟨⟨hrest, hregs, hfull, hhold, hsv⟩, haside⟩ := h
  unfold State.setAside
  split
  next => exact ⟨⟨hrest, hregs, hfull, hhold, hsv⟩, haside⟩
  next b hb =>
    refine ⟨⟨by rw [hrest], hregs, hfull, hh ▸ hhold, hsv⟩, s.aside_joinLeft v fun e he hm => ?_⟩
    obtain rfl | he := List.mem_cons.mp he
    · exact hhold
    · exact haside e he hm

/-- A wave whose record is written has left its slot, with every register full (R57, R195). -/
theorem Wave.Moving.spill {w v : Wave} (h : w.Moving v) (s : State) (kind : BitVec 2) (cause : Option FaultRec) {status : Status}
    (hs : status ≠ .slot) : w.Moved (s.spill v kind cause status) := by
  obtain ⟨⟨hrest, hregs, hfull, hhold, hsv⟩, haside⟩ := h
  unfold State.spill
  dsimp only
  exact ⟨by rw [hrest], by rw [hregs], fun hc => absurd hc hs, hhold, hsv⟩

/-! ### Leaving a slot, conditions and the clause boundary -/

/-- What has become of wave `id`, which was `w`, in the state after: the waves otherwise are `ws`. -/
structure State.Carries (s t : State) (ws : Tab Wave) (id : Nat) (w : Wave) : Prop where
  frame : s.Frame t
  waves : ∃ w', t.waves = tset ws id w' ∧ w.Moved w'

theorem State.Carries.put {s t : State} {w v : Wave} (h : s.Frame t) (id : Nat) (hv : w.Moved v) :
    s.Carries (t.putWave id v) t.waves id w :=
  ⟨h.putWave id v, v, rfl, hv⟩

section
variable {w v : Wave} (h : w.Moving v) (s : State) (id : Nat)
include h

/-- A wave that waits. -/
theorem State.Carries.standBy : s.Carries (s.standBy id v) s.waves id w := by
  have hwait : w.Moved { v with stalled := true, waits := true } := by
    obtain ⟨⟨hrest, hregs, hfull, hhold, hsv⟩, -⟩ := h
    exact ⟨by rw [hrest], hregs, hfull, hhold, hsv⟩
  unfold State.standBy
  split
  next e he =>
    split
    next hc =>
      have hh : v.hold = [] := by
        simp only [Bool.and_eq_true, List.isEmpty_iff] at hc
        exact hc.1
      exact .put (.refl s) id ((h.setAside s hh).take (h.aside e (mem_of_find?_sorted he))).moved
    next => exact .put (.refl s) id hwait
  next => exact .put (.refl s) id hwait

/-- The wave's record is written. -/
theorem State.Carries.finishLeave (why : Leave) : s.Carries (s.finishLeave id v why) s.waves id w := by
  have hq := State.Frame.quit s v.core id
  unfold State.finishLeave
  dsimp only
  cases why with
  | barrier =>
    obtain ⟨hrest, hregs, hfull, hhold, hsv⟩ := h.spill (s.quit v.core id) (if ((s.quit v.core id).world v.world).left then
      (s.quit v.core id).fullKind v.world else 0#2) none (status := .lowered) (by decide)
    exact .put hq id ⟨by rw [hrest], hregs, (nomatch ·), hhold, hsv⟩
  | park us =>
    obtain ⟨hrest, hregs, -, hhold, hsv⟩ := h.spill (s.quit v.core id) ((s.quit v.core id).fullKind v.world) none
      (status := .parked us) (nomatch ·)
    refine .put hq id ⟨by rw [hrest], hregs, fun hc => ?_, hhold, hsv⟩
    dsimp only at hc
    split at hc <;> exact nomatch hc
  | fault r =>
    have hf := State.Carries.put hq id (h.spill (s.quit v.core id) ((s.quit v.core id).fullKind v.world) (some r)
      (status := .faulted) (by decide))
    dsimp only
    split
    · exact ⟨(hf.frame.trans (.post ..)).trans (.post ..), hf.waves⟩
    · exact ⟨hf.frame.trans (.post ..), hf.waves⟩
  | trap r =>
    have hf := State.Carries.put hq id (h.spill (s.quit v.core id) ((s.quit v.core id).fullKind v.world) (some r)
      (status := .faulted) (by decide))
    exact ⟨hf.frame.trans (.post ..), hf.waves⟩
  | preempt => exact .put hq id (h.spill _ _ none (by decide))

/-- The wave leaves its slot. -/
theorem State.Carries.leave (why : Leave) : s.Carries (s.leave id v why) s.waves id w := by
  unfold State.leave
  dsimp only
  split
  next => exact .standBy h s id
  next =>
    have he := State.Frame.endStep s id v
    split
    next =>
      obtain ⟨⟨hrest, hregs, -, hhold, hsv⟩, -⟩ := h
      have hm : w.Moved { v with status := .leaving why } := ⟨by rw [hrest], hregs, (nomatch ·), hhold, hsv⟩
      exact ⟨he.putWave id _, _, by rw [State.putWave_waves, State.endStep_waves], hm⟩
    next =>
      obtain ⟨hf, hw⟩ := State.Carries.finishLeave h (s.endStep id v) id why
      exact ⟨he.trans hf, by rwa [State.endStep_waves] at hw⟩

/-- The wave takes a condition. -/
theorem State.Carries.deliver (r : FaultRec) : s.Carries (s.deliver id v r) s.waves id w := by
  unfold State.deliver
  split
  next hsup =>
    obtain ⟨⟨hrest, hregs, hfull, hhold, hsv⟩, -⟩ := h
    have hw : w.sup = true := by rwa [hrest] at hsup
    unfold State.enterTrap
    dsimp only
    exact .put (.refl s) id ⟨by rw [hrest], hregs, hfull, hhold, fun hc => absurd hc (by rw [hw]; decide)⟩
  next => exact .leave h s id _

/-- The summit is chosen afresh. -/
theorem State.Carries.reselect : s.Carries (s.reselect id v) s.waves id w := by
  have hsnap : w.Moving { v with snap := sortEntries v.others } := by
    obtain ⟨⟨hrest, hregs, hfull, hhold, hsv⟩, haside⟩ := h
    exact ⟨⟨by rw [hrest], hregs, hfull, hhold, hsv⟩, haside⟩
  have hnone : w.Moving { v with snap := sortEntries v.others, clause := none, bundle := none } := by
    obtain ⟨⟨hrest, hregs, hfull, hhold, hsv⟩, haside⟩ := h
    exact ⟨⟨by rw [hrest], hregs, hfull, hhold, hsv⟩, haside⟩
  unfold State.reselect
  dsimp only
  split
  next e he =>
    have hmem : e ∈ v.others := by
      split at he <;> exact mem_of_find?_sorted he
    exact .put (.refl s) id (hsnap.take (h.aside e hmem)).moved
  next =>
    split
    next =>
      split
      next e t he =>
        have hmem : e ∈ v.others := mem_sortEntries.mp (he ▸ List.mem_cons_self)
        have htake : w.Moving { Wave.take { v with snap := sortEntries v.others, clause := none, bundle := none } e with
            bundle := some { e with hld := false } } := by
          obtain ⟨⟨hrest, hregs, hfull, hhold, hsv⟩, haside⟩ := hnone.take (h.aside e hmem)
          exact ⟨⟨by rw [hrest], hregs, hfull, hhold, hsv⟩, haside⟩
        exact .deliver htake s id _
      next => exact .put (.refl s) id hnone.moved
    next => exact .put (.refl s) id hnone.moved

end

/-- Of the waves other than `id`, no more has changed than that some stand back no longer (R185). -/
def State.Stands (s : State) (id : Nat) (ws : Tab Wave) : Prop := ∀ k, k ≠ id →
  ∃ g : Wave → Bool, tget ws k = (tget s.waves k).map fun v => { v with behind := g v }

theorem State.Stands.refl (s : State) (id : Nat) : s.Stands id s.waves := fun _ _ => ⟨fun v => v.behind, Option.map_id'.symm⟩

/-- What has become of wave `id`, which was `w`, and of the machine, where a bundle has passed on. -/
structure State.Passes (s t : State) (id : Nat) (w : Wave) : Prop where
  frame : s.Frame t
  others : s.Stands id t.waves
  wave : ∃ w', tget t.waves id = some w' ∧ w.Moved w'

theorem State.Carries.passes {s t : State} {ws : Tab Wave} {id : Nat} {w : Wave} (h : s.Carries t ws id w)
    (hws : s.Stands id ws) : s.Passes t id w := by
  obtain ⟨hf, w', hw, hm⟩ := h
  refine ⟨hf, fun k hk => ?_, w', by rw [hw, tget_tset_same], hm⟩
  rw [hw, tget_tset_other _ _ _ _ hk]
  exact hws k hk

/-- The clause boundary. -/
theorem State.Passes.closeClause {w v : Wave} (h : w.Moving v) (s : State) (id : Nat) : s.Passes (s.closeClause id v) id w := by
  unfold State.closeClause
  split
  next => exact (State.Carries.reselect h s id).passes (.refl s id)
  next b hb =>
    have hv (es : List Entry) (hes : ∀ e ∈ es, e.mid ≠ none → w.Held e.wait) : w.Moving { v with
        bundle := none, others := es, clause := none, left := [], ctl := false, yielded := 0#32 } := by
      obtain ⟨⟨hrest, hregs, hfull, hhold, hsv⟩, -⟩ := h
      exact ⟨⟨by rw [hrest], hregs, hfull, hhold, hsv⟩, hes⟩
    extract_lets n pc entries t again v'
    have hf : s.Frame t := (State.Frame.endStep s id v).trans (.letBy _ id v)
    have ht : s.Stands id t.waves := fun k _ => by
      obtain ⟨g, hg, -⟩ := State.tget_letBy (s.endStep id v) id v k
      exact ⟨g, by rw [hg, State.endStep_waves]⟩
    have haside : ∀ e ∈ entries, e.mid ≠ none → w.Held e.wait := fun e he hm => by
      obtain hn | ⟨y, hy, hwait, hmid⟩ := mem_joinEntry he
      · exact absurd hn hm
      · exact hwait ▸ s.aside_joinLeft v h.aside y hy (hmid ▸ hm)
    have hv' : w.Moving v' := hv entries haside
    have hre : s.Passes (t.reselect id v') id w :=
      have hc := State.Carries.reselect hv' t id
      State.Carries.passes ⟨hf.trans hc.frame, hc.waves⟩ ht
    split
    next => exact hre
    next =>
      split
      next e he =>
        have hmem : e ∈ entries := List.mem_of_find?_eq_some he
        obtain ⟨⟨hrest, hregs, hfull, hhold, hsv⟩, -⟩ := hv'.take (haside e hmem)
        refine (State.Carries.put hf id ?_).passes ht
        exact ⟨by rw [hrest], hregs, hfull, hhold, hsv⟩
      next => exact hre

/-- Passing on. -/
theorem State.Passes.advance {s : State} {id : Nat} {w : Wave} (hw : tget s.waves id = some w) : s.Passes (s.advance id) id w := by
  have hput {v : Wave} (hv : w.Moved v) : s.Passes (s.putWave id v) id w :=
    (State.Carries.put (.refl s) id hv).passes (.refl s id)
  have hrefl := Wave.Moving.refl w
  unfold State.advance
  rw [hw]
  dsimp only
  split
  next => exact ⟨.refl s, .refl s id, w, hw, hrefl.moved⟩
  next b hb =>
    split
    next => exact .closeClause hrefl s id
    next =>
      split
      next => exact hput ⟨rfl, rfl, fun _ => rfl, .inl rfl, fun _ => rfl⟩
      next =>
        split
        next => exact .closeClause (v := { w with waits := false }) ⟨⟨rfl, rfl, fun _ => rfl, .inl rfl, fun _ => rfl⟩, hrefl.aside⟩ s id
        next => exact hput ⟨rfl, rfl, fun _ => rfl, .inl rfl, fun _ => rfl⟩

/-- A wave that is not there passes on nowhere. -/
theorem State.advance_of_none {s : State} {id : Nat} (h : tget s.waves id = none) : s.advance id = s := by
  rw [State.advance, h]

/-- Within a clause only the resume index moves on (R181). -/
theorem State.advance_within {s : State} {id : Nat} {w : Wave} {b : Entry} {c : Clause} (hw : tget s.waves id = some w)
    (hb : w.bundle = some b) (hc : w.clause = some c) (hm : b.mask ≠ 0#32) (hr : b.ridx + 1 < c.words.length) :
    s.advance id = s.putWave id { w with bundle := some { b with ridx := b.ridx + 1 }, waits := false } := by
  rw [State.advance, hw]
  dsimp only
  rw [hb]
  dsimp only
  rw [if_neg hm, hc]
  exact if_neg (Nat.not_le.mpr hr)

/-- A full record has KIND 1 or 2 (R359). -/
theorem State.fullKind_ne_zero (s : State) (world : Nat) : s.fullKind world ≠ 0#2 := by
  unfold State.fullKind
  split <;> decide

/-- An ordinary wave whose fills have landed takes a condition: its record is written, and the entry handed to its world. -/
theorem State.deliver_lowers (s : State) (id : Nat) {w : Wave} (r : FaultRec) (hs : w.sup = false) (hf : w.fillsDue = false)
    (hm : s.managerToo w.world r = false) :
    let q := (s.endStep id w).quit w.core id
    s.deliver id w r = (q.putWave id (q.spill w (q.fullKind w.world) (some r) .faulted)).post w.world (q.mkPost w r 0) := by
  have ha : w.asideDue = false := by
    simp only [Wave.fillsDue, Bool.or_eq_false_iff] at hf
    exact hf.1.2
  rw [State.deliver, if_neg (by rw [hs]; decide), State.leave, if_neg (by rw [ha]; decide),
    if_neg (by rw [hf]; decide), State.finishLeave]
  dsimp only
  have hframe := ((State.Frame.endStep s id w).trans (.quit _ w.core id)).putWave id
    (((s.endStep id w).quit w.core id).spill w (((s.endStep id w).quit w.core id).fullKind w.world) (some r) .faulted)
  refine if_neg ?_
  rw [(hframe.trans (.post _ w.world _)).managerToo, hm]
  decide

/-- A supervisor wave takes a condition by entering at its SV_TRAPBASE (R225). -/
theorem State.deliver_sup (s : State) (id : Nat) {w : Wave} (r : FaultRec) (hs : w.sup = true) :
    s.deliver id w r = s.enterTrap id w (BitVec.ofNat 64 (r.toNat % 2 ^ 37)) r.addr := by
  rw [State.deliver, if_pos hs]

end Sys2Proof.Machine

namespace Sys2Proof.Proofs
open Sys2Proof Sys2Proof.Machine

/-- Settles O28: a condition writes the wave's record by `State.deliver_lowers`; a supervisor wave enters its trap. -/
theorem takingACondition : Obligations.TakingACondition := by
  unfold Obligations.TakingACondition
  intro s id w r
  refine ⟨fun hs hf hm => ?_, fun b hs hb => ?_⟩
  · have hcarry := State.Carries.deliver (.refl w) s id r
    have hframe := (State.Frame.endStep s id w).trans (.quit _ w.core id)
    intro t
    have ht : t = _ := s.deliver_lowers id r hs hf hm
    refine ⟨?_, ⟨((s.endStep id w).quit w.core id).mkPost w r 0, ?_, rfl, rfl, rfl, rfl, rfl, rfl, ?_⟩, s.deliver_mem id w r,
      fun k hk => ?_⟩
    · refine ⟨_, (congrArg (fun u : State => tget u.waves id) ht).trans (tget_tset_same ..), rfl, rfl, ?_, rfl, rfl, rfl, rfl, rfl, rfl⟩
      exact State.fullKind_ne_zero _ _
    · rw [ht, State.post, State.world_putWorld, if_pos rfl]
      have : (((s.endStep id w).quit w.core id).world w.world).toPost = (s.world w.world).toPost := by
        rw [State.endStep]
        split <;> rfl
      exact congrArg (· ++ [_]) this
    · rw [State.mkPost, State.recAddr, State.recAddr, hframe.rest]
      rfl
    · obtain ⟨-, w', hw', -⟩ := hcarry
      rw [hw', tget_tset_other _ _ _ _ hk]
  · rw [s.deliver_sup id r hs, State.enterTrap]
    dsimp only
    rw [hb]
    exact ⟨_, _, rfl, rfl, rfl, rfl, rfl, rfl, rfl, rfl⟩

/-- Settles O29: `State.Passes.advance`, taken apart. -/
theorem advanceFrame : Obligations.AdvanceFrame := by
  unfold Obligations.AdvanceFrame
  intro s id t
  refine ⟨?frame, ?others, ?cores, ?worlds, ?wave, fun w b c hw hb hc hm hr => s.advance_within hw hb hc hm hr⟩
  case wave =>
    intro w hw
    obtain ⟨w', hw', hrest, hregs, hfull, hhold, hsv⟩ := (State.Passes.advance hw).wave
    refine ⟨w', hw', hfull, hregs, ?_, ?_, ?_, ?_, ?_, ?_, ?_, ?_, ?_, ?_, hhold, hsv⟩ <;> rw [hrest]
  all_goals
    have hp : s.Frame t ∧ s.Stands id t.waves := by
      cases hw : tget s.waves id with
      | none =>
        have ht : t = s := State.advance_of_none hw
        rw [ht]
        exact ⟨.refl s, .refl s id⟩
      | some w => exact ⟨(State.Passes.advance hw).frame, (State.Passes.advance hw).others⟩
    obtain ⟨⟨hrest, hcore, hworld⟩, hstands⟩ := hp
  case frame => exact hrest
  case cores => exact hcore
  case worlds => exact hworld
  case others =>
    intro k hk
    obtain ⟨g, hg⟩ := hstands k hk
    exact ⟨fun v hv => ⟨g v, by rw [hg, hv]; rfl⟩, fun hv => by rw [hg, hv]; rfl⟩

end Sys2Proof.Proofs

/-! PROOFS. The frontier and the control instructions (R181 to R185, R246 to R251), masked synchronisation and ridges (R188 to R194).
The obligations O9 to O13. -/

namespace Sys2Proof.Machine

/-! ### An instruction that issues -/

/-- An instruction that issues does what its act in the active lanes says. -/
theorem issue_perform {i : Instr} {s : State} {w : Wave} {act : Wave → Mask → State → Act} (h : issues i s w = true) :
    issue i s act = .next (s.perform w (act w (w.active i) s)) := by
  simp only [issues, Bool.and_eq_true, decide_eq_true_eq, Bool.or_eq_true, Bool.not_eq_true'] at h
  obtain ⟨⟨⟨⟨⟨⟨⟨hw, hs⟩, hb⟩, hp⟩, hf⟩, hn⟩, hr⟩, hg⟩ := h
  have hp' : privileged i = true → w.sup = true := fun hi => hp.resolve_left (by simp [hi])
  rw [issue, issueState_ready i s act w hw hs (Option.isSome_iff_ne_none.1 hb) hp' hf hn hr hg]
  rfl

/-- An instruction that issues, and whose act raises a condition, delivers it. -/
theorem issue_raise {i : Instr} {s t : State} {w : Wave} {r : FaultRec} {act : Wave → Mask → State → Act} (h : issues i s w = true)
    (ha : act w (w.active i) s = .raise r t) : issue i s act = .next (t.deliver s.cur (tgetD t.waves s.cur w) r) := by
  rw [issue_perform h, ha]
  rfl

/-- An instruction that issues, and whose act moves the wave itself, leaves the state of the act. -/
theorem issue_jump {i : Instr} {s t : State} {w : Wave} {act : Wave → Mask → State → Act} (h : issues i s w = true)
    (ha : act w (w.active i) s = .jump t) : issue i s act = .next t := by
  rw [issue_perform h, ha]
  rfl

/-- The wave of an instruction that issues. -/
theorem tget_of_issues {i : Instr} {s : State} {w : Wave} (h : issues i s w = true) : tget s.waves s.cur = some w := by
  simp only [issues, Bool.and_eq_true, decide_eq_true_eq] at h
  exact h.1.1.1.1.1.1.1

@[inherit_doc tget_of_issues] theorem tgetD_of_issues {i : Instr} {s : State} {w : Wave} (h : issues i s w = true) (d : Wave) :
    tgetD s.waves s.cur d = w := by
  rw [tgetD, tget_of_issues h]
  rfl

/-! ### The summit (R181) -/

theorem pairwise_insertEntry (x : Entry) {l : List Entry} (h : l.Pairwise fun a b => a.rank ≤ b.rank) :
    (insertEntry x l).Pairwise fun a b => a.rank ≤ b.rank := by
  induction l with
  | nil => exact List.pairwise_singleton ..
  | cons y t ih =>
    obtain ⟨hy, ht⟩ := List.pairwise_cons.mp h
    rw [insertEntry]
    split
    next hx =>
      exact List.pairwise_cons.mpr ⟨fun z hz => (List.mem_cons.mp hz).elim (fun e => e ▸ hx) fun hz => hx.trans (hy z hz), h⟩
    next hx =>
      refine List.pairwise_cons.mpr ⟨fun z hz => ?_, ih ht⟩
      obtain rfl | hz := mem_insertEntry.mp hz
      · exact (Nat.lt_of_not_ge hx).le
      · exact hy z hz

/-- The sorted frontier rises by rank. -/
theorem pairwise_sortEntries (l : List Entry) : (sortEntries l).Pairwise fun a b => a.rank ≤ b.rank := by
  induction l with
  | nil => exact List.Pairwise.nil
  | cons x t ih => exact pairwise_insertEntry x ih

/-- The first entry of a kind in the sorted frontier ranks before every other of that kind. -/
theorem rank_le_of_find?_sorted {l : List Entry} {p : Entry → Bool} {e x : Entry} (h : (sortEntries l).find? p = some e)
    (hx : x ∈ l) (hp : p x = true) : e.rank ≤ x.rank := by
  obtain ⟨-, as, bs, hl, has⟩ := List.find?_eq_some_iff_append.mp h
  have hsort := pairwise_sortEntries l
  rw [hl, List.pairwise_append, List.pairwise_cons] at hsort
  have hmem : x ∈ as ++ e :: bs := hl ▸ mem_sortEntries.mpr hx
  obtain hx | hx := List.mem_append.mp hmem
  · simp only [Bool.not_eq_eq_eq_not, Bool.not_true] at has
    exact absurd hp (by simp [has x hx])
  · obtain rfl | hx := List.mem_cons.mp hx
    · exact le_rfl
    · exact hsort.2.1.1 x hx

/-! ### Control instructions (R182, R183, R247 to R251) -/

/-- A control instruction acts where the frontier stays within its depth (R183). -/
theorem State.control_fits (s : State) (id : Nat) {w : Wave} {b : Entry} (hb : w.bundle = some b) (m gone : Mask)
    (targets : List (Word × Mask)) (act : Wave → Wave)
    (hfit : frontierCount w b (s.clauseLen w b) gone (targets.map (fun x => x.1)) ≤ w.depth) :
    s.control id w m gone targets act = .done (s.putWave id { act w with
      bundle := some { b with mask := b.mask &&& ~~~gone }
      left := targets.foldl (fun l x => addLeft l x.1 x.2) (act w).left
      ctl := true }) := by
  rw [State.control, hb]
  exact if_neg (Nat.not_lt.mpr hfit)

/-- The lowest lane of a mask that is not empty is in it. -/
theorem Mask.first_mem {m : Mask} (h : m ≠ 0#32) : Mask.first m ∈ Mask.lanes m := by
  rw [Mask.first]
  cases hl : Mask.lanes m with
  | nil => exact absurd (Mask.lanes_eq_nil.mp hl) h
  | cons x t => exact List.mem_cons_self

/-- The target of a lane whose address passes the checks of R247. -/
theorem Wave.jumpTo_ok (w : Wave) (o : Operand) {l : Nat} (h : w.src o 2 l < 2 ^ 57 ∧ w.codeBase ≤ w.src o 2 l ∧
    w.src o 2 l < w.codeBase + w.extent ∧ w.src o 2 l % 8 = 0) :
    w.jumpTo o l = .ok (BitVec.ofNat 32 (w.src o 2 l - w.codeBase)) := by
  obtain ⟨hcanon, hlo, hhi, halign⟩ := h
  simp only [Wave.jumpTo]
  rw [if_neg (by omega), if_neg (by omega), if_neg (by omega)]

/-- BRX and RET raise what the lowest lane with a bad address meets (R26, R247). -/
theorem formLanes_of_first_error {α : Type} {g : Nat → Except Cond α} {l : Nat} {c : Cond} (hc : g l = .error c) :
    ∀ {ls : List Nat}, ls.Pairwise (· < ·) → l ∈ ls → (∀ k ∈ ls, k < l → ∃ a, g k = .ok a) → formLanes g ls = .error (l, c)
  | k :: ls, hs, hl, hk => by
    rw [List.pairwise_cons] at hs
    obtain rfl | hl := List.mem_cons.mp hl
    · simp [formLanes, hc]
    · obtain ⟨a, ha⟩ := hk k List.mem_cons_self (hs.1 l hl)
      have ih := formLanes_of_first_error hc hs.2 hl fun j hj => hk j (List.mem_cons_of_mem k hj)
      simp [formLanes, ha, ih]

theorem Mask.pairwise_lanes (m : Mask) : (Mask.lanes m).Pairwise (· < ·) :=
  List.pairwise_lt_range.filter _

/-- A wave has bundle `b`. -/
theorem Wave.bundleMask_of_some {w : Wave} {b : Entry} (hb : w.bundle = some b) : w.bundleMask = b.mask := by
  rw [Wave.bundleMask, hb]

/-- Counters at 0 let EXIT pass. -/
theorem State.firstFrozen_of_zero (s : State) (id : Nat) (w : Wave) :
    ∀ {l : List (Nat × Nat)}, (∀ x ∈ l, w.cntOf x.1 = 0) → s.firstFrozen id w l = none
  | [], _ => rfl
  | x :: l, h => by
    rw [State.firstFrozen, h x List.mem_cons_self, if_neg (Nat.not_lt_zero _)]
    exact firstFrozen_of_zero s id w fun y hy => h y (List.mem_cons_of_mem x hy)

theorem State.cntWait_of_zero (s : State) (id : Nat) (w : Wave) {l : List (Nat × Nat)} (h : ∀ x ∈ l, w.cntOf x.1 = 0) :
    s.cntWait id w l = .pass := by
  rw [State.cntWait, s.firstFrozen_of_zero id w h]
  exact if_pos (List.all_eq_true.mpr fun x hx => decide_eq_true (by rw [h x hx]; exact Nat.zero_le _))

/-- The wave that has ended, after its token has passed on. -/
theorem State.passToken_waves (s : State) (w : Wave) (t : Token) : (s.passToken w t).waves = s.waves ∧ (s.passToken w t).mem = s.mem := by
  unfold State.passToken
  split
  · exact ⟨rfl, rfl⟩
  · split <;> exact ⟨rfl, rfl⟩

/-- What is left of a wave that ends (R184). -/
theorem State.endWave_wave (s : State) (id : Nat) (w : Wave) : (s.endWave id w).mem = s.mem ∧ ∃ w',
    tget (s.endWave id w).waves id = some w' ∧ w'.status = .ended ∧ w'.bundle = none ∧ w'.others = [] ∧ w'.exited = w.exited ∧
    w'.regs = w.regs ∧ w'.fpflags = w.fpflags := by
  have hend := s.endStep_mem id w
  unfold State.endWave
  extract_lets q v u
  have hu : u.mem = s.mem := hend
  have hv : tget u.waves id = some v := tget_tset_same ..
  split
  next t _ =>
    obtain ⟨hw, hm⟩ := u.passToken_waves v t
    exact ⟨hm.trans hu, v, by rw [hw, hv], rfl, rfl, rfl, rfl, rfl, rfl⟩
  next => exact ⟨hu, v, hv, rfl, rfl, rfl, rfl, rfl, rfl⟩

/-! ### Masked synchronisation and arrivals (R190 to R193) -/

/-- A masked instruction all of whose lanes are active, with one mask that names just them, acts (R190). -/
theorem masked_acts {i : Instr} {mk : Wave → Nat → Mask} {s : State} {w : Wave} {k : Wave → Entry → Mask → State → Act} {a : Act}
    (h : issues i s w = true) (hm : w.active i ≠ 0#32) (hmk : ∀ l ∈ Mask.lanes (w.active i), mk w l = w.active i)
    (hex : w.active i &&& w.exited = 0#32) (hk : ∀ b, w.bundle = some b → k w b (w.active i) s = a) :
    masked i mk s k = .next (s.perform w a) := by
  obtain ⟨b, hb⟩ : ∃ b, w.bundle = some b := by
    cases hb : w.bundle with
    | some b => exact ⟨b, rfl⟩
    | none => exact absurd (by rw [Wave.active, Wave.bundleMask, hb]; exact BitVec.zero_and) hm
  have hfirst := Mask.first_mem hm
  have hsub : w.active i &&& b.mask = w.active i := by
    rw [Wave.active, Wave.bundleMask_of_some hb, BitVec.and_assoc, BitVec.and_comm _ b.mask, ← BitVec.and_assoc, BitVec.and_self]
  have hself (x : Mask) : x &&& ~~~x = 0#32 := BitVec.and_not_self x
  have hout : w.active i &&& ~~~b.mask = 0#32 := by
    rw [← hsub, BitVec.and_assoc, hself, BitVec.and_zero]
  have heval : syncEval w.exited b.mask (w.active i) (mk w) = .act (w.active i) := by
    simpa [syncEval, hmk _ hfirst, hself, hsub, hex, hout] using hmk
  rw [masked, issue_perform h, if_neg hm, hb]
  dsimp only
  rw [heval]
  dsimp only
  rw [hk b hb]

/-- With no active lane a masked instruction does nothing. -/
theorem masked_idle {i : Instr} {mk : Wave → Nat → Mask} {s : State} {w : Wave} {k : Wave → Entry → Mask → State → Act}
    (h : issues i s w = true) (hm : w.active i = 0#32) : masked i mk s k = .next (s.advance s.cur) :=
  issue_done h (if_pos hm)

/-- A release at CORE scope passes at once where nothing of the wave is open (R118, R283). -/
theorem State.gated_coreRelease {s : State} {id : Nat} {w : Wave} (hw : tget s.waves id = some w) (hg : w.gates = [])
    (hc : w.cleanDue = false) (k : Wave → State → Act) : s.gated id w 3 1 k = k w s := by
  have hb : s.before id w 3 1 = .go s := by
    simp [State.before, hg, State.release, hc]
  rw [State.gated, hb]
  dsimp only
  rw [tgetD, hw]
  rfl

/-- An arrival that passes the checks of R192. -/
theorem State.arrivalCheck_ok {s : State} {w : Wave} {m : Mask} {r k : Nat → Nat} {j n : Nat} {e : Ridge} (hm : m ≠ 0#32)
    (hr : s.ridgeOf w (r (Mask.first m)) = some (j, e)) (hmem : e.members.getLsbD w.num = true)
    (heq : ∀ l ∈ Mask.lanes m, r l = r (Mask.first m)) (hk : ∀ l ∈ Mask.lanes m, k l = n) (hn : 0 < n)
    (hmax : n ≤ 32 * e.members.cpop.toNat) (hexp : e.expset = true → n = e.expect) (hroom : e.arrived + (Mask.lanes m).length ≤ n) :
    s.arrivalCheck w m r k = .ok (j, e) := by
  have hfirst := Mask.first_mem hm
  have hr' : (Mask.lanes m).any (fun l => decide (r l ≠ r (Mask.first m))) = false :=
    List.any_eq_false.mpr fun l hl => by simp [heq l hl]
  have hk' : (Mask.lanes m).any (fun l => decide (k l ≠ n)) = false :=
    List.any_eq_false.mpr fun l hl => by simp [hk l hl]
  have hexp' : ¬(e.expset = true ∧ n ≠ e.expect) := fun h => h.2 (hexp h.1)
  rw [State.arrivalCheck, hr', hr, hk _ hfirst, hk']
  dsimp only
  rw [hmem, popCount_eq_cpop, if_neg Bool.false_ne_true, if_neg (by decide), if_neg Bool.false_ne_true, if_neg (by omega), if_neg hexp']
  exact if_neg (Nat.not_lt.mpr hroom)

/-- What an arrival leaves that passes its checks and completes no phase, or completes one (R192). -/
theorem arriveOp_acts {i : Instr} {f : FmtAI} {mk : Wave → Nat → Mask} {k : Wave → Nat → Nat} {sync : Bool} {s : State} {w : Wave}
    {j n : Nat} {e : Ridge} (h : issues i s w = true) (hm : w.active i ≠ 0#32)
    (hmk : ∀ l ∈ Mask.lanes (w.active i), mk w l = w.active i) (hex : w.active i &&& w.exited = 0#32) (hg : w.gates = [])
    (hc : w.cleanDue = false)
    (hcheck : s.arrivalCheck w (w.active i) (fun l => w.src f.dst 1 l) (k w) = .ok (j, e)) (hn : k w (Mask.first (w.active i)) = n)
    (hgo : sync = false ∨ (s.arrive s.cur w (w.active i) n (j, e)).2 = true) :
    arriveOp i f mk k sync s = .next ((s.arrive s.cur w (w.active i) n (j, e)).1.advance s.cur) := by
  refine masked_acts (a := .done (s.arrive s.cur w (w.active i) n (j, e)).1) h hm hmk hex fun b hb => ?_
  dsimp only
  rw [hcheck]
  dsimp only
  rw [State.gated_coreRelease (tget_of_issues h) hg hc, hn]
  exact if_pos (by simpa using hgo)

/-! ### The completion of a phase (R192) -/

theorem mem_of_tget {α : Type} {t : Tab α} {k : Nat} {a : α} (h : tget t k = some a) : (k, a) ∈ t := by
  induction t with
  | nil => exact nomatch h
  | cons x t ih =>
    obtain ⟨j, b⟩ := x
    rw [tget] at h
    split at h
    next hj => rw [hj, Option.some.inj h]; exact List.mem_cons_self
    next => exact List.mem_cons_of_mem _ (ih h)

theorem Wave.num_of_ridgeRec {w : Wave} {r : Nat} {x : RidgeRec} (h : w.ridgeRec r = some x) : x.num = r := by
  rw [Wave.ridgeRec] at h
  simpa using List.find?_some h

/-- A record that the wave has once it has replaced that of the ridge. -/
theorem Wave.ridgeRec_setRidge {w v : Wave} {r : Nat} {x y : RidgeRec} (hv : v.ridges = (w.setRidge x).ridges) (hx : x.num = r)
    (h : v.ridgeRec r = some y) : y = x := by
  have hy : y.num = r := Wave.num_of_ridgeRec h
  rw [Wave.ridgeRec, hv] at h
  obtain ⟨z, -, hz⟩ := List.mem_map.mp (List.mem_of_find?_eq_some h)
  split at hz
  next => exact hz.symm
  next hne => exact absurd (hz ▸ hy.trans hx.symm) hne

/-- The machine and the ridge records of a wave past the routines of a barrier. -/
theorem State.pastRoutines_eq (s : State) (w : Wave) (back : Mask) : ∃ n v, s.pastRoutines w back = (s.draw n, v) ∧ v.ridges = w.ridges := by
  unfold State.pastRoutines
  split
  · exact ⟨0, w, rfl, rfl⟩
  · exact ⟨regFree, _, rfl, rfl⟩

/-- What a wave that learns of a phase's completion leaves alone: memory, ridge tables and the other waves. -/
structure State.Released (s t : State) (id : Nat) : Prop where
  mem : t.mem = s.mem
  ridges : ∀ j, (t.core j).ridges = (s.core j).ridges
  others : ∀ j, j ≠ id → tget t.waves j = tget s.waves j

/-- Where a wave's record is pending, the wave has it cleared. -/
theorem State.releaseWave_released (s : State) (id : Nat) (w : Wave) (r : Nat) (ph : Bool) :
    s.Released (s.releaseWave id w r ph) id ∧ ((∃ x, w.ridgeRec r = some x ∧ x.pending = true ∧ x.phase = ph) →
      ∃ w', tget (s.releaseWave id w r ph).waves id = some w' ∧ ∀ x, w'.ridgeRec r = some x → x.pending = false) := by
  have hsame : s.Released s id := ⟨rfl, fun _ => rfl, fun _ _ => rfl⟩
  unfold State.releaseWave
  split
  next hr => exact ⟨hsame, fun ⟨x, hx, _⟩ => by rw [hr] at hx; exact nomatch hx⟩
  next x hr =>
    have hnum := Wave.num_of_ridgeRec hr
    have hput {n : Nat} {v : Wave} {t : State} (hc : (s.draw n).Carries t s.waves id v)
        (hv : v.ridges = (w.setRidge { x with pending := false }).ridges) : s.Released t id ∧
        ∃ w', tget t.waves id = some w' ∧ ∀ y, w'.ridgeRec r = some y → y.pending = false := by
      obtain ⟨⟨hrest, hcore, -⟩, w', hw', hm⟩ := hc
      refine ⟨⟨by rw [hrest]; rfl, fun j => by rw [hcore j]; rfl, fun j hj => by rw [hw', tget_tset_other _ _ _ _ hj]⟩,
        w', by rw [hw', tget_tset_same], fun y hy => ?_⟩
      have hy' : w'.ridges = (w.setRidge { x with pending := false }).ridges := by rw [hm.rest, ← hv]
      rw [Wave.ridgeRec_setRidge hy' hnum hy]
    have hself (n : Nat) (v : Wave) : (s.draw n).Carries ((s.draw n).putWave id v) s.waves id v :=
      .put (.refl (s.draw n)) id (Wave.Moving.refl v).moved
    split
    next hp =>
      extract_lets _ v base l back y u _ v'
      have hv : v.ridges = (w.setRidge { x with pending := false }).ridges := rfl
      obtain ⟨n, a, ha, har⟩ := s.pastRoutines_eq v back
      have hu : u = s.draw n := congrArg (·.1) ha
      have hv' : v'.ridges = (w.setRidge { x with pending := false }).ridges := by
        rw [← hv, ← har]
        exact congrArg (fun p : State × Wave => p.2.ridges) ha
      split
      next =>
        rw [hu]
        split
        next =>
          split
          next => exact (hput (hself n v') hv').imp_right fun h _ => h
          next => exact (hput (.reselect (.refl { v' with ctl := false }) (s.draw n) id) hv').imp_right fun h _ => h
        next => exact (hput (.reselect (.refl { v' with status := .slot, ctl := false }) (s.draw n) id) hv').imp_right fun h _ => h
        all_goals
          refine (hput (hself n _) ?_).imp_right fun h _ => h
          exact hv'
      next => exact (hput (hself 0 v) hv).imp_right fun h _ => h
    next hp =>
      refine ⟨hsame, fun ⟨y, hy, hpend, hph⟩ => absurd ?_ hp⟩
      rw [hr, Option.some.injEq] at hy
      exact ⟨hy ▸ hpend, hy ▸ hph⟩

/-- The waves of a list learn of a phase's completion, one after another. -/
def State.releaseAll (s : State) (l : Tab Wave) (r : Nat) (ph : Bool) : State :=
  l.foldl (fun (s : State) x => s.releaseWave x.1 (tgetD s.waves x.1 x.2) r ph) s

/-- Memory, the ridge tables and the waves that are not in the list stay as they are. -/
theorem State.releaseAll_released (s : State) (l : Tab Wave) (r : Nat) (ph : Bool) :
    (s.releaseAll l r ph).mem = s.mem ∧ (∀ j, ((s.releaseAll l r ph).core j).ridges = (s.core j).ridges) ∧
    ∀ j, j ∉ l.map (fun x => x.1) → tget (s.releaseAll l r ph).waves j = tget s.waves j := by
  unfold State.releaseAll
  refine List.foldlRecOn l _ (motive := fun t : State => t.mem = s.mem ∧ (∀ j, (t.core j).ridges = (s.core j).ridges) ∧
    ∀ j, j ∉ l.map (fun x => x.1) → tget t.waves j = tget s.waves j) ⟨rfl, fun _ => rfl, fun _ _ => rfl⟩ fun t ht x hx => ?_
  obtain ⟨hmem, hridges, hothers⟩ := (t.releaseWave_released x.1 (tgetD t.waves x.1 x.2) r ph).1
  refine ⟨hmem.trans ht.1, fun j => (hridges j).trans (ht.2.1 j), fun j hj => (hothers j fun he => hj ?_).trans (ht.2.2 j hj)⟩
  exact he ▸ List.mem_map_of_mem hx

/-- A wave of the list, which has a pending record, has it cleared. -/
theorem State.releaseAll_clears {s : State} {l : Tab Wave} {r : Nat} {ph : Bool} {id : Nat} {w : Wave} (hl : (id, w) ∈ l)
    (hn : (l.map fun x => x.1).Nodup) (hw : tget s.waves id = some w)
    (hx : ∃ x, w.ridgeRec r = some x ∧ x.pending = true ∧ x.phase = ph) :
    ∃ w', tget (s.releaseAll l r ph).waves id = some w' ∧ ∀ x, w'.ridgeRec r = some x → x.pending = false := by
  obtain ⟨as, bs, rfl⟩ := List.append_of_mem hl
  rw [List.map_append, List.map_cons, List.nodup_append] at hn
  obtain ⟨-, hbs, hab⟩ := hn
  have has : id ∉ as.map fun x => x.1 := fun h => hab id h id List.mem_cons_self rfl
  have hsplit : s.releaseAll (as ++ (id, w) :: bs) r ph =
      ((s.releaseAll as r ph).releaseWave id (tgetD (s.releaseAll as r ph).waves id w) r ph).releaseAll bs r ph := by
    rw [State.releaseAll, List.foldl_append]
    rfl
  have hbefore : tget (s.releaseAll as r ph).waves id = some w := ((s.releaseAll_released as r ph).2.2 id has).trans hw
  rw [hsplit, (State.releaseAll_released _ bs r ph).2.2 id (List.nodup_cons.mp hbs).1, tgetD, hbefore]
  exact (State.releaseWave_released _ id w r ph).2 hx

end Sys2Proof.Machine

namespace Sys2Proof.Proofs
open Sys2Proof Sys2Proof.Machine

/-- Settles O11: the summit is the first free entry of the sorted frontier. -/
theorem summitRanksFirst : Obligations.SummitRanksFirst := by
  unfold Obligations.SummitRanksFirst
  have hfree (x : Entry) : x.free = true ↔ x.hld = false ∧ x.bwt = none := by
    rw [Entry.free, Bool.and_eq_true, Bool.not_eq_true', Option.isNone_iff_eq_none]
  refine fun l => ⟨fun e he => ?_, fun h x hx => ?_⟩
  · obtain ⟨hhld, hbwt⟩ := (hfree e).mp (List.find?_some he)
    exact ⟨mem_of_find?_sorted he, hhld, hbwt, fun x hx hxh hxb => rank_le_of_find?_sorted he hx ((hfree x).mpr ⟨hxh, hxb⟩)⟩
  · have hx' := List.find?_eq_none.mp h x (mem_sortEntries.mpr hx)
    rw [hfree] at hx'
    cases hh : x.hld
    · exact .inr fun hb => hx' ⟨hh, hb⟩
    · exact .inl rfl

/-- Settles O10: the checks of `Wave.jumpTo` in the lowest lane that fails one. -/
theorem jumpConditions : Obligations.JumpConditions := by
  unfold Obligations.JumpConditions
  intro f s w i hi h l hl hbelow a
  have hexec : exec i s = jumpOp i f s := by
    simp only [List.mem_cons, List.not_mem_nil, or_false] at hi
    obtain rfl | rfl := hi <;> rfl
  have hraise {c : Cond} (hc : w.jumpTo f.opnd l = .error c) :
      exec i s = .next (s.deliver s.cur w (w.mkRec c.code c.step l c.addr c.level)) := by
    have hne : w.active i ≠ 0#32 := fun h0 => by simp [Mask.lanes_eq_nil.mpr h0] at hl
    rw [hexec, jumpOp, issue_raise h (r := w.recOf l c) (t := s), tgetD_of_issues h]
    · rfl
    · rw [if_neg hne, formLanes_of_first_error hc (Mask.pairwise_lanes _) hl hbelow]
  refine ⟨fun hcanon => hraise (c := { code := cNoncanon, step := stForm, addr := a }) ?_,
    fun hcanon hb => hraise (c := { code := cBounds, step := stForm, addr := a }) ?_,
    fun hcanon hlo hhi halign => hraise (c := { code := cAlign, step := stForm, addr := a }) ?_⟩ <;>
  simp only [Wave.jumpTo]
  · rw [if_pos hcanon]
  · rw [if_neg (Nat.not_le.mpr hcanon), if_pos hb]
  · rw [if_neg (Nat.not_le.mpr hcanon), if_neg (by omega), if_pos halign]

/-- Settles O9: each control instruction is `State.control` in its own lanes, with its own targets; the last EXIT ends the wave. -/
theorem controlTransfers : Obligations.ControlTransfers := by
  unfold Obligations.ControlTransfers
  intro f s w b hb t pc fits ok goes
  have hpc : targetPc w f = pc := by
    rw [targetPc, Wave.pcNat, hb]
    rfl
  refine ⟨?idle, ?bra, ?call, ?jump, ?yield, ?exit, ?last⟩
  case idle =>
    intro i hi h hm
    simp only [List.mem_cons, List.not_mem_nil, or_false] at hi
    obtain rfl | rfl | rfl | rfl | rfl | rfl := hi <;> exact issue_done h (if_pos hm)
  case bra =>
    intro h m hm hfit
    refine issue_done h ((if_neg hm).trans ?_)
    rw [hpc]
    exact s.control_fits s.cur hb m m _ _ hfit
  case call =>
    intro h m hm hfit
    refine issue_done h ((if_neg hm).trans ?_)
    rw [hpc, hb]
    exact s.control_fits s.cur hb m m _ _ hfit
  case jump =>
    intro i hi h m hm hok hfit
    have hexec : exec i s = jumpOp i f s := by
      simp only [List.mem_cons, List.not_mem_nil, or_false] at hi
      obtain rfl | rfl := hi <;> rfl
    rw [hexec]
    refine issue_done h ((if_neg hm).trans ?_)
    rw [formLanes_of_forall_ok fun l hl => w.jumpTo_ok f.opnd (hok l hl)]
    dsimp only
    rw [List.foldl_map]
    exact s.control_fits s.cur hb m m _ _ hfit
  case yield =>
    intro h m hm hfit
    exact issue_done h ((if_neg hm).trans (s.control_fits s.cur hb m 0#32 _ _ hfit))
  case exit =>
    intro h m hm hlast hfit
    refine issue_done h ((if_neg hm).trans ((if_neg ?_).trans (s.control_fits s.cur hb m m _ _ hfit)))
    rwa [Wave.bundleMask_of_some hb]
  case last =>
    intro h m hm hmask hleft hothers hcnt
    have hexec : exec (.exitOp f) s = .next (s.endWave s.cur { w with exited := w.exited ||| m }) := by
      refine issue_jump h ((if_neg hm).trans ((if_pos ?_).trans ?_))
      · rw [Wave.bundleMask_of_some hb]
        exact ⟨hmask, hleft, hothers⟩
      · rw [s.cntWait_of_zero s.cur w]
        simpa [exitWaits] using hcnt
    obtain ⟨hmem, w', hw', hst, hbu, hot, hex, hregs, hfl⟩ := s.endWave_wave s.cur { w with exited := w.exited ||| m }
    exact ⟨_, w', hexec, hw', hst, hbu, hot, hex, hregs, hfl, hmem⟩

/-- Settles O12: the masked instructions act by `masked_acts`, the arrivals by `State.arrivalCheck_ok` and `State.arrive`. -/
theorem barriers : Obligations.Barriers := by
  unfold Obligations.Barriers
  intro f x s w met regMask litOrReg ridge counts arrived opn done arrives
  have harrives {i j : Instr} {mk : Wave → Nat → Mask} {cnt : Wave → Nat → Nat}
      (hi : exec i s = arriveOp i f mk cnt false s) (hj : exec j s = arriveOp j f mk cnt true s) :
      arrives i j (mk w) (cnt w) := by
    intro k e n
    have hcheck {i : Instr} (hm : w.active i ≠ 0#32) (hr : ridge i k e) (hc : counts i e n)
        (hk : ∀ l ∈ Mask.lanes (w.active i), cnt w l = n) :
        s.arrivalCheck w (w.active i) (fun l => w.src f.dst 1 l) (cnt w) = .ok (k, e) ∧ cnt w (Mask.first (w.active i)) = n := by
      obtain ⟨hr, hmem, heq⟩ := hr
      obtain ⟨hn, hmax, hexp, hroom⟩ := hc
      exact ⟨State.arrivalCheck_ok hm hr hmem heq hk hn hmax hexp hroom, hk _ (Mask.first_mem hm)⟩
    have hopen {i : Instr} (ho : opn i e n) : s.arrive s.cur w (w.active i) n (k, e) = (arrived i k e n, false) := by
      refine if_neg fun hc => ?_
      simp only [Bool.not_eq_true'] at hc
      obtain ⟨hlt, hhold⟩ := hc
      obtain ho | ho := ho
      · exact absurd hlt ho.ne
      · exact absurd (ho.symm.trans hhold) (by decide)
    have hdone {i : Instr} (hc : counts i e n) (ho : ¬opn i e n) :
        s.arrive s.cur w (w.active i) n (k, e) = (done i k e n, true) := by
      obtain ⟨-, -, -, hroom⟩ := hc
      obtain ⟨hle, hhold⟩ := not_or.mp ho
      refine if_pos ⟨le_antisymm hroom (Nat.le_of_not_lt hle), ?_⟩
      simpa using hhold
    refine ⟨fun ⟨h, hm, hmk, hex⟩ hg hcl hr hc hk => ?_, fun ⟨h, hm, hmk, hex⟩ hg hcl hr hc hk ho => ?_⟩
    · obtain ⟨hcheck, hn⟩ := hcheck hm hr hc hk
      rw [hi, arriveOp_acts h hm hmk hex hg hcl hcheck hn (.inl rfl)]
      exact ⟨fun ho => by rw [hopen ho], fun ho => by rw [hdone hc ho]⟩
    · obtain ⟨hcheck, hn⟩ := hcheck hm hr hc hk
      rw [hj, arriveOp_acts h hm hmk hex hg hcl hcheck hn (.inr (by rw [hdone hc ho])), hdone hc ho]
  refine ⟨?idle, ?syncw, harrives (mk := maskM f) (cnt := countM f) rfl rfl, harrives (mk := maskK f) (cnt := countK f) rfl rfl, ?rwait, ?rquery, ?lower⟩
  case idle =>
    intro i hi h hm
    simp only [List.mem_cons, List.not_mem_nil, or_false] at hi
    obtain rfl | rfl | rfl | rfl | rfl | rfl := hi <;> exact masked_idle h hm
  case syncw =>
    intro ⟨h, hm, hmk, hex⟩ hg hcl
    exact masked_acts (a := .done s) h hm hmk hex fun b hb => State.gated_coreRelease (tget_of_issues h) hg hcl _
  case rwait =>
    intro k e ⟨h, hm, hmk, hex⟩ ⟨hr, hmem, heq⟩ hrec
    refine masked_acts (a := .done s) h hm hmk hex fun b hb => ?_
    have hany : (Mask.lanes (w.active (.rwait f))).any
        (fun l => decide (w.src f.dst 1 l ≠ w.src f.dst 1 (Mask.first (w.active (.rwait f))))) = false :=
      List.any_eq_false.mpr fun l hl => by simp [heq l hl]
    dsimp only
    rw [hany, hr]
    dsimp only
    rw [hmem, if_neg Bool.false_ne_true, if_neg (by decide)]
    split
    next y hy => rw [hrec y hy, if_neg Bool.false_ne_true]
    next => rfl
  case rquery => exact fun h => issue_done h rfl
  case lower => exact fun h hm => issue_done h (congrArg (fun v => Act.done (s.putWave s.cur v)) (if_neg hm))

/-- Settles O13: the phase toggles in the ridge's entry, and `State.releaseAll` clears the records of the workgroup's waves. -/
theorem phaseCompletion : Obligations.PhaseCompletion := by
  unfold Obligations.PhaseCompletion
  intro s wg core k e t
  let u := s.putRidge core k { e with phase := !e.phase, arrived := 0, expset := false }
  let l := u.waves.filter (fun x => decide (x.2.wg = wg) && !x.2.sup)
  have ht : t = u.releaseAll l e.num e.phase := rfl
  obtain ⟨hmem, hridges, -⟩ := u.releaseAll_released l e.num e.phase
  refine ⟨?_, ht ▸ hmem, fun id w hw hwg hsup hn hx => ?_⟩
  · rw [ht, hridges core]
    show tget ((s.putCore core _).core core).ridges k = _
    rw [State.core_putCore, if_pos rfl]
    exact tget_tset_same ..
  · refine State.releaseAll_clears (s := u) (w := w) ?_ (hn.sublist ((List.filter_sublist ..).map _)) hw hx
    exact List.mem_filter.mpr ⟨mem_of_tget hw, by simp [hwg, hsup]⟩

end Sys2Proof.Proofs

/-! PROOFS. Register writes (R18, R22, R30, R209, R222): what a read gives after them. Small tables of the statements: rounding, atomics,
the reset state and words of the spec. The obligations O18 to O20, O24, O30 and O37. -/

namespace Sys2Proof.Machine

/-! ### Reads after writes of one lane -/

theorem Regs.readV_writeV (g : Regs) {r q l k : Nat} (x : Word) (hl : l < 32) (hk : k < 32) :
    (g.writeV r l x).readV q k = if q = r ∧ k = l then x else g.readV q k := by
  rw [Regs.readV, Regs.writeV]
  dsimp only
  rw [tget_tset]
  by_cases h : q = r ∧ k = l
  · rw [if_pos (by omega), if_pos h]
  · rw [if_neg (by omega), if_neg h]
    rfl

theorem Regs.readS_writeS (g : Regs) (r q : Nat) (x : Word) : (g.writeS r x).readS q = if q = r then x else g.readS q := by
  rw [Regs.readS, Regs.writeS]
  dsimp only
  rw [tget_tset]
  by_cases h : q = r
  · rw [if_pos h, if_pos h]
  · rw [if_neg h, if_neg h]
    rfl

theorem Regs.has_readP_writeP (g : Regs) (r q : Nat) (m x : Mask) {l : Nat} (hl : l < 32) :
    ((g.writeP r m x).readP q).has l = if q = r ∧ m.has l then x.has l else (g.readP q).has l := by
  rw [Regs.readP, Regs.writeP]
  dsimp only
  rw [tget_tset]
  by_cases h : q = r
  · rw [if_pos h, Mask.has_or, Mask.has_and, Mask.has_and, Mask.has_not hl, h]
    cases m.has l <;> simp
  · rw [if_neg h, if_neg fun hc => h hc.1]
    rfl

/-- A value's words lie one after another in registers. -/
theorem div_words (x k : Nat) : x / 2 ^ 32 / 2 ^ (32 * k) = x / 2 ^ (32 * (k + 1)) := by
  rw [Nat.div_div_eq_div_mul, ← pow_add]
  congr 2
  ring

theorem Regs.readV_writeVs {l k : Nat} (hl : l < 32) (hk : k < 32) (q : Nat) : ∀ (n : Nat) (g : Regs) (r x : Nat),
    (g.writeVs r l x n).readV q k =
      if r ≤ q ∧ q < r + n ∧ k = l then BitVec.ofNat 32 (x / 2 ^ (32 * (q - r))) else g.readV q k
  | 0, g, r, x => by
    rw [if_neg (by omega)]
    rfl
  | n + 1, g, r, x => by
    rw [Regs.writeVs, readV_writeVs hl hk q n, g.readV_writeV _ hl hk]
    by_cases hq : r + 1 ≤ q ∧ q < r + 1 + n ∧ k = l
    · rw [if_pos hq, if_pos (by omega), div_words, show q - (r + 1) + 1 = q - r by omega]
    · rw [if_neg hq]
      by_cases hr : q = r ∧ k = l
      · rw [if_pos hr, if_pos (by omega), hr.1, Nat.sub_self]
        simp
      · rw [if_neg hr, if_neg (by omega)]

theorem Regs.readS_writeSs (q : Nat) : ∀ (n : Nat) (g : Regs) (r x : Nat),
    (g.writeSs r x n).readS q = if r ≤ q ∧ q < r + n then BitVec.ofNat 32 (x / 2 ^ (32 * (q - r))) else g.readS q
  | 0, g, r, x => by
    rw [if_neg (by omega)]
    rfl
  | n + 1, g, r, x => by
    rw [Regs.writeSs, readS_writeSs q n, g.readS_writeS]
    by_cases hq : r + 1 ≤ q ∧ q < r + 1 + n
    · rw [if_pos hq, if_pos (by omega), div_words, show q - (r + 1) + 1 = q - r by omega]
    · rw [if_neg hq]
      by_cases hr : q = r
      · rw [if_pos hr, if_pos (by omega), hr, Nat.sub_self]
        simp
      · rw [if_neg hr, if_neg (by omega)]

/-! ### What writes of one kind leave alone -/

/-- Registers of which only the vector registers have been written. -/
structure Regs.OnlyV (g h : Regs) : Prop where
  rest : h = { g with v := h.v, vBad := h.vBad }

/-- Registers of which only the scalar registers have been written. -/
structure Regs.OnlyS (g h : Regs) : Prop where
  rest : h = { g with s := h.s, sBad := h.sBad }

/-- Registers of which only the predicates have been written. -/
structure Regs.OnlyP (g h : Regs) : Prop where
  rest : h = { g with p := h.p, pBad := h.pBad }

theorem Regs.onlyV_writeVs (l : Nat) : ∀ (n : Nat) (g : Regs) (r x : Nat), g.OnlyV (g.writeVs r l x n)
  | 0, _, _, _ => ⟨rfl⟩
  | n + 1, g, r, x => ⟨by rw [Regs.writeVs, (onlyV_writeVs l n _ _ _).rest]; rfl⟩

theorem Regs.onlyS_writeSs : ∀ (n : Nat) (g : Regs) (r x : Nat), g.OnlyS (g.writeSs r x n)
  | 0, _, _, _ => ⟨rfl⟩
  | n + 1, g, r, x => ⟨by rw [Regs.writeSs, (onlyS_writeSs n _ _ _).rest]; rfl⟩

/-! ### A destination in the lanes of a mask -/

section
variable (g : Regs) (n : Nat) (m : Mask) (f : Nat → Nat)

/-- What writes in the lanes of a mask keep. -/
theorem Regs.writeLanes_keeps {o : Operand} (P : Regs → Prop) (hg : P g) (h : ∀ g l, P g → P (g.writeLane o n l (f l))) :
    P (g.writeLanes o n m f) :=
  foldl_keeps P _ _ _ hg h

theorem Regs.onlyV_writeLanes (k : BitVec 8) : g.OnlyV (g.writeLanes (.v k) n m f) :=
  g.writeLanes_keeps n m f g.OnlyV ⟨rfl⟩ fun a l ha => ⟨by
    rw [Regs.writeLane, (Regs.onlyV_writeVs l n a _ _).rest, ha.rest]⟩

theorem Regs.onlyS_writeLanes (k : BitVec 6) : g.OnlyS (g.writeLanes (.s k) n m f) :=
  g.writeLanes_keeps n m f g.OnlyS ⟨rfl⟩ fun a l ha => ⟨by
    rw [Regs.writeLane, (Regs.onlyS_writeSs n a _ _).rest, ha.rest]⟩

theorem Regs.onlyP_writeLanes (k : BitVec 3) : g.OnlyP (g.writeLanes (.p k) n m f) :=
  g.writeLanes_keeps n m f g.OnlyP ⟨rfl⟩ fun a l ha => ⟨by
    rw [Regs.writeLane, Regs.writeP, ha.rest]⟩

/-- What is no register takes no write. -/
theorem Regs.writeLanes_const {o : Operand} (h : ∀ g l x, Regs.writeLane g o n l x = g) : g.writeLanes o n m f = g :=
  g.writeLanes_keeps n m f (· = g) rfl fun a l ha => by rw [h, ha]

/-- Vector registers after a write of a destination (R18, R30). -/
theorem Regs.readV_writeLanes (k : BitVec 8) (q : Nat) {l : Nat} (hl : l < 32) : (g.writeLanes (.v k) n m f).readV q l =
    if k.toNat ≤ q ∧ q < k.toNat + n ∧ m.has l then BitVec.ofNat 32 (f l / 2 ^ (32 * (q - k.toNat))) else g.readV q l := by
  have hlist : ∀ (ls : List Nat) (g : Regs), (∀ j ∈ ls, j < 32) → (ls.foldl (fun g j => g.writeLane (.v k) n j (f j)) g).readV q l =
      if k.toNat ≤ q ∧ q < k.toNat + n ∧ l ∈ ls then BitVec.ofNat 32 (f l / 2 ^ (32 * (q - k.toNat))) else g.readV q l := by
    intro ls
    induction ls with
    | nil => intro g _; simp
    | cons j ls ih =>
      intro g hls
      rw [List.foldl_cons, ih _ fun i hi => hls i (List.mem_cons_of_mem j hi), Regs.writeLane,
        Regs.readV_writeVs (hls j List.mem_cons_self) hl]
      by_cases hj : l = j
      · subst hj
        simp only [List.mem_cons, true_or, and_true]
        by_cases hin : k.toNat ≤ q ∧ q < k.toNat + n
        · simp [hin]
        · simp [hin]
          intro h1 h2
          exact absurd ⟨h1, h2⟩ hin
      · simp [hj]
  rw [Regs.writeLanes, hlist _ g fun j hj => (Mask.mem_lanes.mp hj).1]
  simp [Mask.mem_lanes, hl]

/-- Scalar registers after a write of a destination that is one value in the active lanes (R209). -/
theorem Regs.readS_writeLanes (k : BitVec 6) (q x : Nat) (hx : ∀ l, l < 32 → m.has l = true → f l = x) :
    (g.writeLanes (.s k) n m f).readS q =
      if k.toNat ≤ q ∧ q < k.toNat + n ∧ m ≠ 0#32 then BitVec.ofNat 32 (x / 2 ^ (32 * (q - k.toNat))) else g.readS q := by
  have hlist : ∀ (ls : List Nat) (g : Regs), (∀ j ∈ ls, f j = x) → (ls.foldl (fun g j => g.writeLane (.s k) n j (f j)) g).readS q =
      if k.toNat ≤ q ∧ q < k.toNat + n ∧ ls ≠ [] then BitVec.ofNat 32 (x / 2 ^ (32 * (q - k.toNat))) else g.readS q := by
    intro ls
    induction ls with
    | nil => intro g _; simp
    | cons j ls ih =>
      intro g hls
      rw [List.foldl_cons, ih _ fun i hi => hls i (List.mem_cons_of_mem j hi), Regs.writeLane, Regs.readS_writeSs,
        hls j List.mem_cons_self]
      by_cases hin : k.toNat ≤ q ∧ q < k.toNat + n <;> simp [hin]
      simp only [not_and, not_lt] at hin
      intro h1 h2
      omega
  rw [Regs.writeLanes, hlist _ g fun j hj => hx j (Mask.mem_lanes.mp hj).1 (Mask.mem_lanes.mp hj).2]
  simp [Mask.lanes_eq_nil]

/-- Predicates after a write of a destination: bit 0 of the value, in the active lanes (R222). -/
theorem Regs.has_readP_writeLanes (k : BitVec 3) (q : Nat) {l : Nat} (hl : l < 32) :
    ((g.writeLanes (.p k) n m f).readP q).has l =
      if k.toNat = q ∧ m.has l then decide (f l % 2 = 1) else (g.readP q).has l := by
  have hlist : ∀ (ls : List Nat) (g : Regs), ((ls.foldl (fun g j => g.writeLane (.p k) n j (f j)) g).readP q).has l =
      if k.toNat = q ∧ l ∈ ls then decide (f l % 2 = 1) else (g.readP q).has l := by
    intro ls
    induction ls with
    | nil => intro g; simp
    | cons j ls ih =>
      intro g
      rw [List.foldl_cons, ih, Regs.writeLane, Regs.has_readP_writeP _ _ _ _ _ hl]
      by_cases hq : k.toNat = q
      · by_cases hj : l = j
        · subst hj
          by_cases hb : f l % 2 = 1 <;> simp [hq, hb, Mask.has_single, hl]
        · simp [hq, hj, Mask.has_single, hl]
      · simp [hq, Ne.symm hq]
  rw [Regs.writeLanes, hlist]
  simp [Mask.mem_lanes, hl]

end

/-! ### Rounding (R168) -/

/-- The multiple that a mode chooses is the one below, or the next one up. -/
theorem roundAt_fst (r : Rnd) (s : Bool) (m d : Nat) : (roundAt r s m 0 d false).1 =
    m / 2 ^ d + if roundUp r s (decide (m / 2 ^ d % 2 = 1)) (m % 2 ^ d) (2 ^ d) false then 1 else 0 := by
  cases d with
  | zero => cases r <;> simp [roundAt, roundUp, Nat.mod_one]
  | succ d =>
    rw [roundAt, if_neg (by omega), show ((d + 1 : Nat) - 0 : Int).toNat = d + 1 by omega]
    dsimp only
    split <;> rfl

/-- How far the chosen multiple lies from the number. -/
theorem roundAt_sub (r : Rnd) (s : Bool) (m d : Nat) : ((roundAt r s m 0 d false).1 : Int) * 2 ^ d - m =
    if roundUp r s (decide (m / 2 ^ d % 2 = 1)) (m % 2 ^ d) (2 ^ d) false then
      ((2 ^ d : Nat) : Int) - (m % 2 ^ d : Nat) else -((m % 2 ^ d : Nat) : Int) := by
  have hm : (m : Int) = (2 ^ d : Nat) * (m / 2 ^ d : Nat) + (m % 2 ^ d : Nat) := by exact_mod_cast (Nat.div_add_mod m (2 ^ d)).symm
  rw [roundAt_fst, hm]
  split <;> push_cast <;> ring

theorem roundAt_inexact (s : Bool) (m d : Nat) : (roundAt .rne s m 0 d false).2 = true ↔ ¬2 ^ d ∣ m := by
  cases d with
  | zero => simp [roundAt]
  | succ d =>
    rw [roundAt, if_neg (by omega), show ((d + 1 : Nat) - 0 : Int).toNat = d + 1 by omega, Nat.dvd_iff_mod_eq_zero]
    simp

/-! ### Atomics (R277, R279) -/

theorem sextN_toNat {n : Nat} (hn : 0 < n) (x : BitVec n) : sextN n x.toNat = x.toInt := by
  rw [sextN_eq_toInt _ _ hn, BitVec.ofNat_toNat, BitVec.setWidth_eq]

end Sys2Proof.Machine

namespace Sys2Proof.Proofs
open Sys2Proof Sys2Proof.Machine

/-- Settles O30: `Regs.readV_writeLanes` and its kin, by the kind of the destination. -/
theorem destinationWrite : Obligations.DestinationWrite := by
  unfold Obligations.DestinationWrite
  intro w o n m f g
  cases o with
  | v k =>
    have h : w.regs.OnlyV g := w.regs.onlyV_writeLanes n m f k
    exact ⟨fun r l hl => w.regs.readV_writeLanes n m f k r hl, fun r x _ => by rw [h.rest]; rfl, fun r l _ => by rw [h.rest]; rfl,
      by rw [h.rest], by rw [h.rest], rfl⟩
  | s k =>
    have h : w.regs.OnlyS g := w.regs.onlyS_writeLanes n m f k
    exact ⟨fun r l _ => by rw [h.rest]; rfl, fun r x hx => w.regs.readS_writeLanes n m f k r x hx, fun r l _ => by rw [h.rest]; rfl,
      by rw [h.rest], by rw [h.rest], rfl⟩
  | p k =>
    have h : w.regs.OnlyP g := w.regs.onlyP_writeLanes n m f k
    exact ⟨fun r l _ => by rw [h.rest]; rfl, fun r x _ => by rw [h.rest]; rfl, fun r l hl => w.regs.has_readP_writeLanes n m f k r hl,
      by rw [h.rest], by rw [h.rest], rfl⟩
  | pos k | neg k | flt k | rsv k =>
    have h : g = w.regs := w.regs.writeLanes_const n m f fun _ _ _ => rfl
    rw [h]
    exact ⟨fun _ _ _ => rfl, fun _ _ _ => rfl, fun _ _ _ => rfl, rfl, rfl, congrArg (fun x => { w with regs := x }) h⟩

/-- Settles O18: the distance of the chosen multiple (`roundAt_sub`), in each mode. -/
theorem roundingModes : Obligations.RoundingModes := by
  unfold Obligations.RoundingModes
  intro m d s n x
  have hr : m % 2 ^ d < 2 ^ d := Nat.mod_lt _ (Nat.two_pow_pos d)
  have hx (r : Rnd) : x r = _ := roundAt_sub r s m d
  have hn : n .rne = _ := roundAt_fst .rne s m d
  have hcast : ((2 : Int) ^ d) = ((2 ^ d : Nat) : Int) := by push_cast; rfl
  refine ⟨?_, ?_, ?_, ?_, ?_, ?_, ?_, roundAt_inexact s m d⟩ <;>
    simp only [hx, hn, hcast, roundUp, Bool.or_false, Bool.false_or, Bool.and_eq_true, Bool.or_eq_true, decide_eq_true_eq,
      Bool.false_eq_true, if_false, Bool.not_eq_true'] <;>
    generalize m % 2 ^ d = r at hr ⊢ <;> generalize m / 2 ^ d = q at * <;> generalize 2 ^ d = P at *
  · split <;> omega
  · intro h hd
    split at h <;> split <;> omega
  · split <;> omega
  · intro h hd
    split at h <;> split <;> omega
  · omega
  · cases s
    · simp only [Bool.false_eq_true, if_false, false_and]
      omega
    · simp only [if_true, true_and]
      split <;> omega
  · cases s
    · simp only [Bool.false_eq_true, if_false, true_and]
      split <;> omega
    · simp only [if_true, Bool.true_eq_false, false_and, if_false]
      omega

/-- Settles O19. -/
theorem resetState : Obligations.ResetState :=
  ⟨rfl, rfl, rfl, rfl, fun _ => ⟨rfl, rfl⟩, fun _ => ⟨rfl, rfl, rfl, rfl⟩, fun _ => ⟨rfl, rfl, rfl⟩, rfl, rfl, rfl, rfl, rfl⟩

/-- Settles O20. -/
theorem resetMemoryCanonical : Obligations.ResetMemoryCanonical := rfl

/-- Settles O24: the decoder, run on each word. -/
theorem decodedWords : Obligations.DecodedWords := by
  unfold Obligations.DecodedWords
  exact ⟨rfl, rfl, rfl, rfl, rfl, rfl, rfl, rfl, rfl⟩

/-- Settles O37: the model computes on numbers, the statement on bits. -/
theorem atomicTable : Obligations.AtomicTable := by
  unfold Obligations.AtomicTable
  intro W hW m b c new t
  have hpos : 0 < W := by
    simp only [List.mem_cons, List.not_mem_nil, or_false] at hW
    omega
  have hm := m.isLt
  have hb := b.isLt
  have hone : (1 : BitVec W).toNat = 1 := by
    rw [BitVec.ofNat_eq_ofNat, BitVec.toNat_ofNat, Nat.mod_eq_of_lt (Nat.one_lt_two_pow hpos.ne')]
  refine ⟨?add, ?min, ?minu, ?max, ?maxu, ?and, ?or, ?xor, rfl, ?cas, ?incr, ?decr, rfl, rfl, rfl⟩
  case add => exact congrArg some (BitVec.toNat_add ..).symm
  case min =>
    simp only [new, atomNew, sextN_toNat hpos, BitVec.slt_eq_decide, decide_eq_true_eq, apply_ite BitVec.toNat]
  case max =>
    simp only [new, atomNew, sextN_toNat hpos, BitVec.slt_eq_decide, decide_eq_true_eq, apply_ite BitVec.toNat]
  case minu => simp only [new, atomNew, BitVec.ult_eq_decide, decide_eq_true_eq, apply_ite BitVec.toNat]
  case maxu => simp only [new, atomNew, BitVec.ult_eq_decide, decide_eq_true_eq, apply_ite BitVec.toNat]
  case and => exact congrArg some (BitVec.toNat_and ..).symm
  case or => exact congrArg some (BitVec.toNat_or ..).symm
  case xor => exact congrArg some (BitVec.toNat_xor ..).symm
  case cas => simp only [new, atomNew, BitVec.toNat_inj]
  case incr =>
    simp only [new, atomNew, BitVec.le_def]
    refine congrArg some ?_
    split
    next => rfl
    next h =>
      rw [BitVec.toNat_add, hone, Nat.mod_eq_of_lt (by omega)]
  case decr =>
    simp only [new, atomNew, BitVec.lt_def]
    refine congrArg some ?_
    have hzero : m.toNat = 0 ↔ m = 0 := by rw [← BitVec.toNat_inj]; rfl
    by_cases h : m = 0 ∨ b.toNat < m.toNat
    · rw [if_pos h, if_pos (h.imp_left hzero.mpr)]
    · have hne : m.toNat ≠ 0 := fun h0 => h (.inl (hzero.mp h0))
      rw [if_neg h, if_neg fun hc => h (hc.imp_left hzero.mp), BitVec.toNat_sub, hone,
        show 2 ^ W - 1 + m.toNat = m.toNat - 1 + 2 ^ W by omega, Nat.add_mod_right, Nat.mod_eq_of_lt (by omega)]

end Sys2Proof.Proofs

/-! PROOFS. The decode and register-state steps of every instruction (R217, R219, R221), one step of the machine (log 1), and the frame
of the register-only instructions (R18, R222). The obligations O25 to O27 and O31. -/

namespace Sys2Proof.Machine

/-! ### The frame of register writes -/

/-- What register writes in the lanes of a mask, to the destinations of `D`, have changed. -/
structure Regs.Within (g h : Regs) (m : Mask) (D : Operand → Nat → Prop) : Prop where
  rest : h = { g with v := h.v, s := h.s, p := h.p, vBad := h.vBad, sBad := h.sBad, pBad := h.pBad }
  vec : ∀ q l, l < 32 → h.readV q l ≠ g.readV q l → m.has l = true ∧ ∃ k n, D (.v k) n ∧ k.toNat ≤ q ∧ q < k.toNat + n
  scalar : ∀ q, h.readS q ≠ g.readS q → m ≠ 0#32 ∧ ∃ k n, D (.s k) n ∧ k.toNat ≤ q ∧ q < k.toNat + n
  pred : ∀ q l, l < 32 → (h.readP q).has l ≠ (g.readP q).has l → m.has l = true ∧ ∃ k n, D (.p k) n ∧ k.toNat = q

theorem Regs.Within.refl (g : Regs) (m : Mask) (D : Operand → Nat → Prop) : g.Within g m D :=
  ⟨rfl, fun _ _ _ h => absurd rfl h, fun _ h => absurd rfl h, fun _ _ _ h => absurd rfl h⟩

theorem Regs.Within.trans {g h k : Regs} {m : Mask} {D : Operand → Nat → Prop} (a : g.Within h m D) (b : h.Within k m D) :
    g.Within k m D where
  rest := by rw [b.rest, a.rest]
  vec q l hl hne := by
    by_cases hk : k.readV q l = h.readV q l
    · exact a.vec q l hl fun he => hne (hk.trans he)
    · exact b.vec q l hl hk
  scalar q hne := by
    by_cases hk : k.readS q = h.readS q
    · exact a.scalar q fun he => hne (hk.trans he)
    · exact b.scalar q hk
  pred q l hl hne := by
    by_cases hk : (k.readP q).has l = (h.readP q).has l
    · exact a.pred q l hl fun he => hne (hk.trans he)
    · exact b.pred q l hl hk

/-- A scalar destination takes its own registers only, and none where no lane is active. -/
theorem Regs.readS_writeLanes_other (g : Regs) (n : Nat) (m : Mask) (f : Nat → Nat) (k : BitVec 6) {q : Nat}
    (h : m = 0#32 ∨ ¬(k.toNat ≤ q ∧ q < k.toNat + n)) : (g.writeLanes (.s k) n m f).readS q = g.readS q := by
  obtain rfl | h := h
  · rfl
  · refine g.writeLanes_keeps n m f (fun a => a.readS q = g.readS q) rfl fun a l ha => ?_
    rw [Regs.writeLane, Regs.readS_writeSs, if_neg h, ha]

/-- A write of a destination, in lanes of the mask. -/
theorem Regs.Within.writeLanes (g : Regs) {o : Operand} {n N : Nat} {m m' : Mask} (f : Nat → Nat) {D : Operand → Nat → Prop}
    (hD : D o N) (hN : n ≤ N) (hm : ∀ l, m'.has l = true → m.has l = true) : g.Within (g.writeLanes o n m' f) m D := by
  cases o with
  | v k =>
    have h := (g.onlyV_writeLanes n m' f k).rest
    refine ⟨by rw [h], fun q l hl hne => ?_, fun q hne => absurd ?_ hne, fun q l _ hne => absurd ?_ hne⟩
    · rw [g.readV_writeLanes n m' f k q hl] at hne
      split at hne
      next hc => exact ⟨hm l hc.2.2, k, N, hD, hc.1, by omega⟩
      next => exact absurd rfl hne
    · rw [h]; rfl
    · rw [h]; rfl
  | s k =>
    have h := (g.onlyS_writeLanes n m' f k).rest
    refine ⟨by rw [h], fun q l _ hne => absurd ?_ hne, fun q hne => ?_, fun q l _ hne => absurd ?_ hne⟩
    · rw [h]; rfl
    · by_cases hc : m' ≠ 0#32 ∧ k.toNat ≤ q ∧ q < k.toNat + n
      · refine ⟨fun h0 => hc.1 (Mask.ext_has fun l hl => ?_), k, N, hD, hc.2.1, by omega⟩
        rw [Mask.has_zero, Bool.eq_false_iff]
        intro hl'
        have hin := hm l hl'
        rw [h0, Mask.has_zero] at hin
        exact Bool.false_ne_true hin
      · rw [g.readS_writeLanes_other n m' f k (by tauto)] at hne
        exact absurd rfl hne
    · rw [h]; rfl
  | p k =>
    have h := (g.onlyP_writeLanes n m' f k).rest
    refine ⟨by rw [h], fun q l _ hne => absurd ?_ hne, fun q hne => absurd ?_ hne, fun q l hl hne => ?_⟩
    · rw [h]; rfl
    · rw [h]; rfl
    · rw [g.has_readP_writeLanes n m' f k q hl] at hne
      split at hne
      next hc => exact ⟨hm l hc.2, k, N, hD, hc.1⟩
      next => exact absurd rfl hne
  | pos k | neg k | flt k | rsv k =>
    rw [g.writeLanes_const n m' f fun _ _ _ => rfl]
    exact .refl g m D

/-! ### Register-only instructions -/

/-- A destination of an instruction. -/
def dstOf (i : Instr) (o : Operand) (n : Nat) : Prop := ∃ x ∈ slots i, x.isDst = true ∧ x.op = o ∧ x.count = n

/-- A wave whose destinations an instruction has written in the active lanes, with flags ORed in. -/
structure Wave.Written (i : Instr) (m : Mask) (w w' : Wave) : Prop where
  rest : w' = { w with regs := w'.regs, fpflags := w'.fpflags }
  flags : ∃ x, w'.fpflags = w.fpflags ||| x
  regs : w.regs.Within w'.regs m (dstOf i)

theorem Wave.Written.refl (i : Instr) (m : Mask) (w : Wave) : Wave.Written i m w w :=
  ⟨rfl, ⟨0#7, (BitVec.or_zero).symm⟩, .refl _ _ _⟩

/-- A written destination. -/
theorem Wave.Written.put {i : Instr} {m m' : Mask} {w w' : Wave} (h : Wave.Written i m w w') {o : Operand} {n N : Nat} (f : Nat → Nat)
    (hD : dstOf i o N) (hN : n ≤ N) (hm : ∀ l, m'.has l = true → m.has l = true) : Wave.Written i m w (w'.put o n m' f) where
  rest := by rw [Wave.put, h.rest]
  flags := h.flags
  regs := h.regs.trans (.writeLanes w'.regs f hD hN hm)

/-- Flags ORed in. -/
theorem Wave.Written.orFlags {i : Instr} {m : Mask} {w w' : Wave} (h : Wave.Written i m w w') (x : Flags) :
    Wave.Written i m w (w'.orFlags x) where
  rest := by rw [Wave.orFlags, h.rest]
  flags := by
    obtain ⟨y, hy⟩ := h.flags
    exact ⟨y ||| x, by rw [Wave.orFlags, hy, BitVec.or_assoc]⟩
  regs := h.regs

/-- An instruction that only writes its destinations in the active lanes, with flags. -/
def WritesOnly (i : Instr) : Prop := ∃ g : State → Wave → Mask → Wave,
  (∀ s, exec i s = issue i s fun w m s => .done (s.putWave s.cur (g s w m))) ∧ ∀ s w m, Wave.Written i m w (g s w m)

section
variable {i : Instr} {x : Slot} {l : List Slot} {n : Nat}

/-- The first slot of a word is its destination. -/
theorem dstOf_head (hs : slots i = x :: l) (hx : x.isDst = true) : dstOf i x.op x.count :=
  ⟨x, hs ▸ List.mem_cons_self, hx, rfl, rfl⟩

/-- An instruction that writes values into its first slot. -/
theorem writesOnly_put (hs : slots i = x :: l) (hx : x.isDst = true) {val : State → Wave → Mask → Nat → Nat}
    (he : ∀ s, exec i s = issue i s fun w m s => .done (s.putWave s.cur (w.put x.op n m (val s w m)))) (hn : n ≤ x.count) :
    WritesOnly i :=
  ⟨_, he, fun _ w m => (Wave.Written.refl i m w).put _ (dstOf_head hs hx) hn fun _ h => h⟩

/-- An instruction that writes values into its first slot, with flags. -/
theorem writesOnly_putF (hs : slots i = x :: l) (hx : x.isDst = true) {val : Wave → Nat → Nat × Flags}
    (he : ∀ s, exec i s = issue i s (onWave fun w m => w.putF x.op n m (val w))) (hn : n ≤ x.count) : WritesOnly i :=
  ⟨_, he, fun _ w m => ((Wave.Written.refl i m w).put _ (dstOf_head hs hx) hn fun _ h => h).orFlags _⟩

end

theorem Mask.has_lowest {m : Mask} {l : Nat} (h : (Mask.lowest m).has l = true) : m.has l = true := by
  rw [Mask.lowest, Mask.has_and, Bool.and_eq_true] at h
  exact h.1

theorem has_blockLanes {f : FmtA3} {m : Mask} {l : Nat} (h : (blockLanes f m).has l = true) : m.has l = true := by
  rw [blockLanes] at h
  split at h
  · exact h
  · exact Mask.has_lowest h

/-- Every register-only instruction writes its destinations in the active lanes, with flags, and nothing else. -/
theorem writesOnly_of_registerOnly {i : Instr} (h : registerOnly i = true) : WritesOnly i := by
  cases i
  case iadd | isub | imul | imulh | imad | imadw | idiv | irem | imin | imax | iabs | ineg | iadds | isubs | andOp | orOp | xorOp | andn
      | shl | shr | sar | bfe | bfi | popc | clz | ctz | brev | isetp | sel | mov | psetp | p2v | iaddImm | iaddImm64
      | imulImm | andImm | orImm | xorImm | movi | moviI64 | moviF64 | lea | matchOp | fclass | peq | plt | ple | pext =>
    exact writesOnly_put rfl rfl (fun _ => rfl) le_rfl
  case shf f | permb f => exact writesOnly_put rfl rfl (fun _ => rfl) (wordsI_pos f.ty)
  case fadd | fsub | fmul | ffma | fabs | fneg | fdiv | fsqrt | frsq | fexp2 | flog2 | fscale | fgetexp | fcopysign | fmin | fmax | fminm
      | fmaxm | fsetp | frnd | fcvt | fcvtSat | icvtf | fpack | funpk | fdot2 =>
    exact writesOnly_putF rfl rfl (fun _ => rfl) le_rfl
  case nop => exact ⟨fun _ w _ => w, fun _ => rfl, fun _ w m => .refl _ m w⟩
  case vote f =>
    refine writesOnly_put (x := dSlot f (if f.flg.toNat < 3 then .pdst else .dst 1)) rfl ?_ (fun _ => rfl) ?_ <;> rw [dSlot]
    · split <;> rfl
    · split <;> exact le_rfl
  case srd f =>
    have hk : (srdKind f.sel = .vdst 1 ∨ srdKind f.sel = .dst 1) ∧ f.sel ≠ 0xB#16 ∨ srdKind f.sel = .dst 2 := by
      unfold srdKind
      split
      next h0 => exact .inl ⟨.inl rfl, by rw [h0]; decide⟩
      next =>
        split
        next => exact .inr rfl
        next hb => exact .inl ⟨.inr rfl, hb⟩
    refine writesOnly_put (x := ⟨f.dst, srdKind f.sel, false⟩) rfl ?_ (fun _ => rfl) ?_
    · obtain ⟨hk | hk, -⟩ | hk := hk <;> rw [hk] <;> rfl
    · obtain ⟨hk | hk, hb⟩ | hk := hk <;> rw [hk]
      · exact (if_neg hb).le
      · exact (if_neg hb).le
      · split
        · exact le_rfl
        · exact Nat.le_succ 1
  case fcvti t f => cases t <;> exact writesOnly_putF rfl rfl (fun _ => rfl) le_rfl
  case psub f =>
    refine ⟨_, fun _ => rfl, fun _ w m => ?_⟩
    have hd : dstOf (.psub f) f.dst 2 := dstOf_head (x := dSlot f (.dst 2)) rfl rfl
    have hc : dstOf (.psub f) f.c 1 := ⟨cSlot f .pdst, ?_, rfl, rfl, rfl⟩
    · exact ((Wave.Written.refl _ m w).put _ hd le_rfl fun _ h => h).put _ hc le_rfl fun _ h => h
    exact .tail _ (.tail _ (.tail _ (.head _)))
  case fqblk f =>
    refine ⟨_, fun _ => rfl, fun _ w m => ?_⟩
    dsimp only
    split
    · exact .refl _ m w
    · exact ((Wave.Written.refl _ m w).put _ (dstOf_head (x := dSlot f (.vdst 1)) rfl rfl) le_rfl fun _ h => h).orFlags _
  case fnxenc f | fnxdec f =>
    refine ⟨_, fun _ => rfl, fun _ w m => ?_⟩
    dsimp only
    split
    · exact .refl _ m w
    · exact ((Wave.Written.refl _ m w).put _ (dstOf_head (x := dSlot f (.dst 1)) rfl rfl) le_rfl fun _ h => has_blockLanes h).orFlags _
  all_goals exact absurd h Bool.false_ne_true

/-! ### The steps before the act (R217, R219) -/

/-- Every instruction with words of its own runs through the decode and register-state steps and then its act. -/
theorem exec_eq_issue {i : Instr} (h : encodable i = true) : ∃ act, ∀ s, exec i s = issue i s act := by
  cases i
  case mstat f => exact ⟨fun w m s => onWave (fun w m => w.put f.dst 1 m fun _ =>
    if f.sel = 0#16 then s.matrixDue w.wg else if f.sel = 1#16 then s.tokenSample w
    else match s.wgOf w with
      | some g => g.reruns.toNat
      | none => 0) w m s, fun _ => rfl⟩
  all_goals first
    | exact ⟨_, fun _ => rfl⟩
    | exact absurd h Bool.false_ne_true

/-- The register-state step of an instruction whose decode step passes (R217). -/
theorem issueState_regState {i : Instr} {s : State} {act : Wave → Mask → State → Act} {w : Wave} (hw : s.curWave = some w)
    (hs : w.status = .slot) (hb : w.bundle ≠ none) (hp : privileged i = true → w.sup = true)
    (hf : (fieldsOk i && fieldsFit w.nv w.firstFrontier i) = true) (hh : w.hold = []) (hl : w.ldn = none) :
    (regState w.regs (w.active i) (regSlots i) = .stall → issueState i s act = s.standBy s.cur w) ∧
    ∀ l, regState w.regs (w.active i) (regSlots i) = .emptyRead l →
      issueState i s act = s.deliver s.cur w (w.mkRec cEmpty stReg l) := by
  have h1 : ¬(w.status ≠ .slot ∨ w.bundle = none) := by simp [hs, hb]
  have h2 : (privileged i && !w.sup) = false := by
    cases h : privileged i
    · rfl
    · simp [hp h]
  have h3 : (!(fieldsOk i && fieldsFit w.nv w.firstFrontier i)) = false := by rw [hf]; rfl
  constructor
  · intro hr
    simp only [issueState, hw, h1, h2, h3, hh, hl, hr, if_false, Bool.false_eq_true, and_self, if_true]
  · intro l hr
    simp only [issueState, hw, h1, h2, h3, hh, hl, hr, if_false, Bool.false_eq_true, and_self, if_true]

/-- A wave with no bundle set aside waits where it stands. -/
theorem State.standBy_of_no_aside (s : State) (id : Nat) {w : Wave} (h : w.asideDue = false) :
    s.standBy id w = s.putWave id { w with stalled := true, waits := true } := by
  have hnone : (sortEntries w.others).find? (fun e => !e.wait.isEmpty && s.answeredAll e.wait) = none :=
    List.find?_eq_none.mpr fun e he hc => by
      rw [Bool.and_eq_true] at hc
      exact List.any_eq_false.mp h e (mem_sortEntries.mp he) hc.1
  rw [State.standBy, hnone]

/-! ### One step (log 1) -/

theorem State.tick_eq (s : State) : s.tick = { s with clock := s.clock + 1#64 } := rfl

/-- The word that reaches issue without decoding raises its condition (R219). -/
theorem State.refuseWord_eq (s : State) (id : Nat) (w : Wave) (x : DWord) (e : DecodeError) : s.refuseWord id w x e =
    s.deliver id w (w.mkRec (if w.sup = false ∧ 0x360 ≤ x.toNat / 2 ^ 54 ∧ x.toNat / 2 ^ 54 < 0x380 then 0x04
      else if e = .illegalOpcode then 0x01 else if e = .reservedField then 0x03 else 0x02) 0 (Mask.first w.bundleMask)) := by
  have hop : field x 54 10 = x.toNat / 2 ^ 54 := by
    have := x.isLt
    rw [field]
    omega
  unfold State.refuseWord
  rw [hop]
  cases w.sup <;> cases e <;> simp [cPrivilege, cIllegal, cMalformed, cReserved, stDecode]

/-- An event lands, after which waves that wait try again. -/
theorem stepEvent_next {i : Instr} {a : Arg} {s t : State} (h : exec i { s with arg := a } = .next t) :
    stepEvent i a s = .next t.retry := by
  rw [stepEvent, h]

/-- An issue step of a wave whose bundle has its answers. -/
theorem stepIssue_answered {s : State} {id : Nat} {w : Wave} (h : s.answered w = true) : stepIssue s id w =
    match (match w.word with
      | none => exec .clauseFetch { s with cur := id, bg := true, arg := { a := id } }
      | some x =>
        match decodeWord x with
        | .ok i => exec i { s with cur := id, bg := true }
        | .error e => .next ({ s with cur := id, bg := true }.refuseWord id w x e)) with
    | .next t => .next (t.afterIssue id w.word.isSome)
    | o => o := by
  rw [stepIssue, h]
  rfl

/-- Where no event is listed and it is not the turn of one, the picked wave issues. -/
theorem step_eq_stepIssue {s : State} {id : Nat} {w : Wave} (ha : s.agenda = []) (hb : s.plat.boot ≠ .lost) (hg : s.bg = false)
    (hp : s.tick.pick = some (id, w)) : step s = stepIssue s.tick id w := by
  have ha' : s.tick.agenda = [] := ha
  have hb' : ¬s.tick.plat.boot = .lost := hb
  have hg' : s.tick.bg = false := hg
  rw [step]
  simp only [ha', hb', hg', hp, if_false, Bool.false_eq_true]

/-- The core of a debugger's step halts only after its own wave's issue (R369). -/
theorem State.afterIssue_of_not_stepping {s : State} {id : Nat} (b : Bool)
    (h : ∀ x, tget s.waves id = some x → (s.core x.core).stepping ≠ some id) : s.afterIssue id b = s := by
  rw [State.afterIssue]
  split
  next => rfl
  next w hw => exact if_pos (h w hw)

end Sys2Proof.Machine

namespace Sys2Proof.Proofs
open Sys2Proof Sys2Proof.Machine

/-- Settles O26: the decode step of an instruction comes before its act. -/
theorem decodeStepConditions : Obligations.DecodeStepConditions := by
  unfold Obligations.DecodeStepConditions
  intro i s w he hw hs hb
  obtain ⟨act, hact⟩ := exec_eq_issue he
  refine ⟨fun hp hu => ?_, fun hp hf => ?_⟩
  · rw [hact, issue, issueState_privilege i s act w hw hs hb hp hu]
    rfl
  · rw [hact, issue, issueState_reserved i s act w hw hs hb hp hf]
    rfl

/-- Settles O27: the register-state step of an instruction comes before its act. -/
theorem emptyRegisters : Obligations.EmptyRegisters := by
  unfold Obligations.EmptyRegisters
  intro i s w he hw hs hb hp hf hh hl
  obtain ⟨act, hact⟩ := exec_eq_issue he
  obtain ⟨hstall, hempty⟩ := issueState_regState (act := act) hw hs hb hp hf hh hl
  refine ⟨fun hr ha => ?_, fun l hr => ?_⟩
  · rw [hact, issue, hstall hr, s.standBy_of_no_aside s.cur ha]
  · rw [hact, issue, hempty l hr]
    rfl

/-- Settles O25: the branches of `step`, by the turn, the agenda and the word of the picked wave. -/
theorem stepRunsDecoded : Obligations.StepRunsDecoded := by
  unfold Obligations.StepRunsDecoded
  intro s u
  refine ⟨?event, ?lost, ?background, ?halt, ?issued⟩
  case event =>
    intro i a rest t ha he
    have ha' : s.tick.agenda = (i, a) :: rest := ha
    have hstep : step s = stepEvent i a { s.tick with agenda := rest } := by
      rw [step]
      simp only [ha']
    exact hstep.trans (stepEvent_next he)
  case lost =>
    intro ha hb
    have ha' : s.tick.agenda = [] := ha
    rw [step]
    simp only [ha']
    exact if_pos hb
  case background =>
    intro ha hb hg
    have ha' : s.tick.agenda = [] := ha
    have hb' : ¬s.tick.plat.boot = .lost := hb
    have hg' : s.tick.bg = true := hg
    have hstep : step s = stepBackground s.tick := by
      rw [step]
      simp only [ha', hb', hg', if_false, if_true]
    refine ⟨fun i a t hn he => ?_, fun hn => ?_⟩
    · have hn' : s.tick.nextEvent = some (i, a) := hn
      rw [hstep, stepBackground, hn']
      exact stepEvent_next he
    · have hn' : s.tick.nextEvent = none := hn
      rw [hstep, stepBackground, hn']
      rfl
  case halt => exact fun v id b h => State.afterIssue_of_not_stepping b h
  case issued =>
    intro id w ha hb hg hp t
    have hstep : step s = stepIssue u id w := step_eq_stepIssue ha hb hg hp
    refine ⟨fun hans => ?_, fun hans hword v he => ?_, fun x hans hword => ⟨fun i v hd he => ?_, fun e hd => ?_⟩⟩
    · rw [hstep, stepIssue, hans]
      rfl
    · rw [hstep, stepIssue_answered hans, hword]
      dsimp only
      rw [show exec .clauseFetch { u with cur := id, bg := true, arg := { a := id } } = .next v from he]
      rfl
    · rw [hstep, stepIssue_answered hans, hword]
      dsimp only
      rw [hd]
      dsimp only
      rw [show exec i { u with cur := id, bg := true } = .next v from he]
      rfl
    · refine ⟨_, ?_, rfl⟩
      rw [hstep, stepIssue_answered hans, hword]
      dsimp only
      rw [hd]
      dsimp only
      rw [State.refuseWord_eq]
      rfl

/-- Settles O31: a register-only instruction writes its destinations (`writesOnly_of_registerOnly`) and passes on
(`State.Passes.advance`). -/
theorem registerFrame : Obligations.RegisterFrame := by
  unfold Obligations.RegisterFrame
  intro i s w t hi h he dst inV inS inP
  obtain ⟨g, hexec, hg⟩ := writesOnly_of_registerOnly hi
  obtain ⟨hvrest, ⟨x, hflags⟩, hrest, hvec, hscalar, hpred⟩ := hg s w (w.active i)
  let v := g s w (w.active i)
  let u := s.putWave s.cur v
  have ht : u.advance s.cur = t := by
    have := (hexec s).symm.trans he
    rw [issue_done h rfl] at this
    injection this
  obtain ⟨⟨hfrest, hcore, -⟩, hothers, w', hw', hm⟩ := State.Passes.advance (s := u) (id := s.cur) (w := v) (tget_tset_same ..)
  rw [ht] at hfrest hcore hothers hw'
  have hreadV (r l : Nat) : w'.regs.readV r l = v.regs.readV r l := by rw [hm.regs]; rfl
  have hreadS (r : Nat) : w'.regs.readS r = v.regs.readS r := by rw [hm.regs]; rfl
  have hreadP (r : Nat) : w'.regs.readP r = v.regs.readP r := by rw [hm.regs]; rfl
  refine ⟨by rw [hfrest]; rfl, fun a => by rw [hfrest]; rfl, by rw [hfrest]; rfl, by rw [hfrest]; rfl, by rw [hfrest]; rfl, fun k => ?_,
    fun k hk => ?_, w', hw', fun r l hl hd => ?_, fun r hd => ?_, fun r l hl hd => ?_, fun hs => ?_, ?_⟩
  · rw [hcore k]
    exact ⟨rfl, rfl, rfl, rfl, rfl, rfl⟩
  · obtain ⟨z, hz⟩ := hothers k hk
    rw [State.putWave_waves, tget_tset_other _ _ _ _ hk] at hz
    exact ⟨fun a ha => ⟨z a, by rw [hz, ha]; rfl⟩, fun ha => by rw [hz, ha]; rfl⟩
  · by_contra hne
    rw [hreadV] at hne
    obtain ⟨hact, k, n, ⟨y, hy, hyd, hyo, hyn⟩, hlo, hhi⟩ := hvec r l hl hne
    obtain hd | hd := hd
    · exact hd ⟨y, hy, hyd, by rw [hyo, hyn]; exact decide_eq_true ⟨hlo, hhi⟩⟩
    · exact absurd (hact.symm.trans hd) (by decide)
  · by_contra hne
    rw [hreadS] at hne
    obtain ⟨hact, k, n, ⟨y, hy, hyd, hyo, hyn⟩, hlo, hhi⟩ := hscalar r hne
    obtain hd | hd := hd
    · exact hd ⟨y, hy, hyd, by rw [hyo, hyn]; exact decide_eq_true ⟨hlo, hhi⟩⟩
    · exact hact hd
  · by_contra hne
    rw [hreadP] at hne
    obtain ⟨hact, k, n, ⟨y, hy, hyd, hyo, hyn⟩, heq⟩ := hpred r l hl hne
    obtain hd | hd := hd
    · exact hd ⟨y, hy, hyd, by rw [hyo]; exact decide_eq_true heq⟩
    · exact absurd (hact.symm.trans hd) (by decide)
  · rw [hm.full hs, hrest]
    exact ⟨rfl, rfl⟩
  · have hv : v = { w with regs := v.regs, fpflags := v.fpflags } := hvrest
    have hflag : w'.fpflags = w.fpflags ||| x := by rw [hm.rest, ← hflags]
    refine ⟨by rw [hm.rest, hv], ?_, by rw [hm.rest, hv], by rw [hm.rest, hv], by rw [hm.rest, hv], by rw [hm.rest, hv],
      by rw [hm.rest, hv], by rw [hm.rest, hv], fun hs => ?_⟩
    · rw [hflag]
      ext j
      simp only [BitVec.getElem_and, BitVec.getElem_or]
      cases w.fpflags[j] <;> simp
    · rw [hm.sv (by rw [hv]; exact hs), hv]

end Sys2Proof.Proofs

/-! PROOFS. Memory instructions (R270 to R284): what translation, the data checks and the waits before an access leave
unchanged, and from it the on-chip and `g:` loads and stores, the atomics, the fences and the cache instructions. -/

namespace Sys2Proof.Machine

/-! ### Memory traffic: what translations, data checks, fills and prefetches change -/

/-- `t` is `s` after traffic of the memory system: memory, sidebands, caches, translations, the fabric, the platform's records
and the counters of numbers may differ, the node's number not, and a canonical memory stays so. -/
structure State.Traffic (s t : State) : Prop where
  rest : t = { s with
    mem := t.mem, side := t.side, cache := t.cache, unconf := t.unconf, xl := t.xl, fab := t.fab, plat := t.plat
    nextId := t.nextId, free := t.free }
  node : t.plat.node = s.plat.node
  keeps : s.memOk = true → t.memOk = true

theorem State.Traffic.refl (s : State) : s.Traffic s := ⟨rfl, rfl, id⟩

theorem State.Traffic.trans {s t u : State} (h : s.Traffic t) (k : t.Traffic u) : s.Traffic u where
  rest := by rw [k.rest, h.rest]
  node := k.node.trans h.node
  keeps hs := k.keeps (h.keeps hs)

/-- Traffic that leaves memory as it is. -/
theorem State.Traffic.of_mem {s t : State} (hm : t.mem = s.mem) (hn : t.plat.node = s.plat.node)
    (hrest : t = { s with
      mem := t.mem, side := t.side, cache := t.cache, unconf := t.unconf, xl := t.xl, fab := t.fab, plat := t.plat
      nextId := t.nextId, free := t.free }) : s.Traffic t :=
  ⟨hrest, hn, fun h => by rw [State.memOk, hm]; exact h⟩

/-- A fold of traffic is traffic. -/
theorem State.Traffic.foldl {β : Type} (f : State → β → State) (h : ∀ (s : State) b, s.Traffic (f s b)) (l : List β) (s : State) :
    s.Traffic (l.foldl f s) :=
  foldl_keeps (fun t => s.Traffic t) f l s (.refl s) fun _ b ha => ha.trans (h _ b)

theorem State.traffic_ras (s : State) (type unit loc addr : Nat) : s.Traffic (s.ras type unit loc addr) := by
  refine .of_mem (State.ras_mem ..) ?_ (by rw [State.ras_eq])
  unfold State.ras
  extract_lets
  split <;> rfl

theorem State.traffic_rasLine (s : State) (type line : Nat) : s.Traffic (s.rasLine type line) := State.traffic_ras ..

theorem State.traffic_putSide (s : State) (k : Nat) (x : Side) : s.Traffic (s.putSide k x) := .of_mem rfl rfl rfl

theorem State.traffic_condemn (s : State) (k : Nat) : s.Traffic (s.condemn k) := by
  unfold State.condemn
  split
  · exact .refl s
  · exact .of_mem rfl rfl rfl

theorem State.traffic_countCorrected (s : State) (line : Nat) : s.Traffic (s.countCorrected line) := by
  unfold State.countCorrected
  extract_lets k now c c' _ t
  have ht : s.Traffic t := .of_mem rfl rfl rfl
  split
  · exact ht.trans (State.traffic_condemn ..)
  · exact ht

theorem State.traffic_markBad (s : State) (line : Nat) : s.Traffic (s.markBad line) :=
  (State.traffic_putSide ..).trans (State.traffic_rasLine ..)

theorem State.traffic_corrected (s : State) (line : Nat) : s.Traffic (s.corrected line) := by
  unfold State.corrected
  dsimp only
  split
  · exact ((State.traffic_putSide ..).trans (State.traffic_rasLine ..)).trans (State.traffic_countCorrected ..)
  · exact .refl s

theorem State.traffic_checkRead (s : State) (world : Option Nat) (pa n : Nat) : s.Traffic (s.checkRead world pa n).1 := by
  unfold State.checkRead
  split
  · exact .refl s
  · refine foldl_keeps (fun a : State × Bool => s.Traffic a.1) _ _ _ (.refl s) fun a b h => ?_
    split
    · exact h.trans (State.traffic_corrected ..)
    · exact h
    · dsimp only
      split
      · exact h
      · exact h.trans ((State.traffic_rasLine ..).trans (State.traffic_condemn ..))
    · exact h.trans (State.traffic_markBad ..)

theorem State.traffic_request (s : State) (pa : Nat) (who : Stamp) (write : Bool) : s.Traffic (s.request pa who write) := by
  unfold State.request
  split
  · exact .refl s
  · exact .of_mem rfl rfl rfl

theorem State.traffic_fill (s : State) (die world pa : Nat) (who : Stamp) : s.Traffic (s.fill die world pa who) := by
  unfold State.fill
  split
  · split
    · exact State.traffic_request ..
    · exact .refl s
  · exact State.traffic_request ..

theorem State.traffic_fillRequests (s : State) (w : Wave) (l : List (Nat × Nat)) : s.Traffic (s.fillRequests w l) :=
  .foldl _ (fun _ _ => State.traffic_fill ..) _ _

theorem State.traffic_countLink (s : State) (world line : Nat) : s.Traffic (s.countLink world line) := by
  unfold State.countLink
  dsimp only
  split
  · exact .refl s
  · split
    · exact .refl s
    · exact .of_mem rfl rfl rfl

theorem State.traffic_probe (s : State) (die world pa : Nat) (who : Stamp) : s.Traffic (s.probe die world pa who) := by
  unfold State.probe
  split
  · exact .refl s
  · exact (State.traffic_countLink ..).trans (State.traffic_request ..)

theorem State.traffic_noteLink (s : State) (world n pa : Nat) : s.Traffic (s.noteLink world n pa) := by
  unfold State.noteLink
  split
  · exact .refl s
  · split
    · exact .refl s
    · exact .of_mem rfl rfl rfl

theorem State.traffic_writeBack (s : State) (c : DieLine) (who : Stamp) : s.Traffic (s.writeBack c who) := by
  unfold State.writeBack
  split
  · exact .refl s
  · refine .foldl _ (fun t i => ?_) _ _
    split
    · exact State.traffic_request ..
    · exact .refl t

theorem State.traffic_install (s : State) (who : Stamp) (c : DieLine) : s.Traffic (s.install who c) := by
  unfold State.install
  extract_lets
  split
  · exact .of_mem rfl rfl rfl
  · split
    · exact .of_mem rfl rfl rfl
    · split
      · refine State.Traffic.trans (t := State.draw _ 1) ?_ (State.traffic_writeBack ..)
        exact .of_mem rfl rfl rfl
      · exact .of_mem rfl rfl rfl

theorem State.traffic_useLine (s : State) (who : Stamp) (line : Nat) : s.Traffic (s.useLine who line) := .of_mem rfl rfl rfl

theorem State.traffic_cacheRead (s : State) (die world pa n : Nat) (inv : Option Word) (who : Stamp) :
    s.Traffic (s.cacheRead die world pa n inv who).1 := by
  have key (c : DieLine) : s.Traffic (((s.countLink world (pa / 128)).useLine who (pa / 128)).install who c) :=
    ((State.traffic_countLink ..).trans (State.traffic_useLine ..)).trans (State.traffic_install ..)
  unfold State.cacheRead
  extract_lets line need
  split
  · split
    · split
      · exact .refl s
      · exact State.traffic_useLine ..
    · exact key _
  · exact key _

theorem State.traffic_grant (s : State) (die : Option Nat) (world : Nat) (who : Stamp) (line : Nat) (bits : BitVec 2) :
    s.Traffic (s.grant die world who line bits) := by
  unfold State.grant
  extract_lets other old waiting s1 s2 prev _ users _
  have h1 : s.Traffic s1 := by
    simp only [s1]
    exact .of_mem rfl rfl rfl
  have h2 : s1.Traffic s2 := by
    cases die with
    | none => exact .refl _
    | some d =>
      refine State.Traffic.trans ?_ (State.traffic_install ..)
      split
      · exact State.traffic_countLink ..
      · exact .refl _
  have h := h1.trans h2
  split
  · exact h.trans (State.Traffic.of_mem rfl rfl rfl)
  · exact h.trans (State.Traffic.of_mem rfl rfl rfl)

/-! ### Writes of the device itself -/

theorem State.traffic_sideWrite (s : State) (world line map : Nat) : s.Traffic (s.sideWrite world line map) := by
  unfold State.sideWrite
  extract_lets x whole own y
  split
  · exact ⟨rfl, rfl, fun h => wf_czero _ _ _ h⟩
  · split
    · exact .of_mem rfl rfl rfl
    · split
      · exact State.traffic_putSide ..
      · split
        · exact (State.traffic_putSide ..).trans (State.traffic_rasLine ..)
        · exact ((State.traffic_putSide ..).trans (State.traffic_rasLine ..)).trans (State.traffic_condemn ..)
        · exact (State.traffic_corrected ..).trans (State.traffic_putSide ..)

theorem State.traffic_prepLine (s : State) (world : Nat) (cells : List (Nat × Byte)) (line : Nat) :
    s.Traffic (s.prepLine world cells line) := by
  unfold State.prepLine
  split
  · exact State.traffic_sideWrite ..
  · split
    · exact .of_mem rfl rfl rfl
    · exact .refl s

theorem State.traffic_markFrames (s : State) (pas : List Nat) : s.Traffic (s.markFrames pas) := by
  refine .foldl _ (fun t f => ?_) _ _
  dsimp only
  split
  · split
    · exact .of_mem rfl rfl rfl
    · exact .refl t
  · exact .refl t

/-- A write of bytes is traffic. -/
theorem State.traffic_setMem (s : State) (m : Memory) (h : Memory.wf s.mem = true → Memory.wf m = true) :
    s.Traffic { s with mem := m } := ⟨rfl, rfl, h⟩

theorem State.traffic_pokeCells (s : State) (world : Nat) (cells : List (Nat × Byte)) : s.Traffic (s.pokeCells world cells) :=
  ((State.traffic_markFrames ..).trans (.foldl _ (fun _ _ => State.traffic_prepLine ..) _ _)).trans
    (State.traffic_setMem _ _ (wf_cells _ _ _))

theorem State.traffic_pokeRaw (s : State) (world pa : Nat) (bs : List Byte) : s.Traffic (s.pokeRaw world pa bs) := by
  unfold State.pokeRaw
  extract_lets t
  have h : s.Traffic t := .foldl _ (fun t line => by
    split
    · exact .refl t
    · exact State.traffic_sideWrite ..) _ _
  refine h.trans ((State.traffic_markFrames t [pa]).trans (State.traffic_setMem _ _ ?_))
  rw [State.markFrames_mem]
  exact wf_cwrite _ _ _

theorem State.traffic_storeCells (s : State) (die : Option Nat) (world : Nat) (who : Stamp) (cells : List (Nat × Byte)) :
    s.Traffic (s.storeCells die world who cells) :=
  State.Traffic.trans (.foldl _ (fun _ _ => State.traffic_grant ..) _ _) (State.traffic_pokeCells ..)

/-! ### Translation -/

/-- The state that a translation answers with; none where the access has to wait for a unit, which the fault unit fetches. -/
def XRes.state : XRes → State
  | .ok _ s | .cond _ s | .miss _ s | .wait s => s

/-- The answer is one of a departed object, which its access makes arrive. -/
def XRes.departs : XRes → Bool
  | .miss (.obj _) _ => true
  | _ => false

theorem State.traffic_send (s : State) (r : Request) : s.Traffic (s.send r) := .of_mem rfl rfl rfl

theorem State.traffic_tierStep (s : State) (world : Nat) (r : Range) (pa : Nat) (acc : Access) (addr : Nat) :
    s.Traffic (s.tierStep world r pa acc addr).state := by
  unfold State.tierStep
  split
  · split <;> exact .refl s
  · split
    · exact .refl s
    · extract_lets k t _ t'
      split
      · exact .refl s
      · split
        · exact .of_mem rfl rfl rfl
        · exact State.traffic_noteLink ..

theorem State.traffic_stage2 (s : State) (world ia : Nat) (ok1 : Bool) (acc : Access) (addr : Nat) :
    s.Traffic (s.stage2 world ia ok1 acc addr).state := by
  unfold State.stage2
  split
  · exact .refl s
  · split
    · exact .refl s
    · exact State.traffic_tierStep ..

theorem State.traffic_keepTlb (s : State) (p : Path) (t : Tlb) : s.Traffic (s.keepTlb p t) := by
  unfold State.keepTlb
  extract_lets u
  have h : s.Traffic u := .of_mem rfl rfl rfl
  split
  · exact h.trans (.of_mem rfl rfl rfl)
  · exact h

theorem State.traffic_stage2Keep (s : State) (p : Path) (obj : Option Nat) (a size ia : Nat) (r w x d : Bool) (acc : Access)
    (addr : Nat) : s.Traffic (s.stage2Keep p obj a size ia r w x d acc addr).state := by
  have h := State.traffic_stage2 s p.world ia (admits r w x acc) acc addr
  unfold State.stage2Keep
  split
  next pa s' heq =>
    rw [heq] at h
    split
    · exact h
    · exact h.trans (State.traffic_keepTlb ..)
  · exact h

/-- The state that the read of a table entry answers with. -/
def TableRead.state : TableRead → State
  | .val _ _ s => s
  | .stop x => x.state

theorem State.traffic_remoteEntry (s : State) (p : Path) (pa va : Nat) : s.Traffic (s.remoteEntry p pa va).state := by
  unfold State.remoteEntry
  split
  · split
    · exact State.traffic_send ..
    · exact .refl s
  next e heq =>
    have h : s.Traffic { s with fab := { s.fab with requests := tdel s.fab.requests e.1 } } := .of_mem rfl rfl rfl
    dsimp only
    split
    · exact .refl s
    · exact h
    · exact h

theorem State.traffic_tableRead (s : State) (p : Path) (eIa va : Nat) : s.Traffic (s.tableRead p eIa va).state := by
  have h := State.traffic_stage2 s p.world eIa true .load va
  unfold State.tableRead
  split
  next pa s' heq =>
    rw [heq] at h
    split
    · exact h.trans (State.traffic_remoteEntry ..)
    · have hc (t : State) (ht : s.Traffic t) : s.Traffic (t.tableCheck p.world pa).1 := ht.trans (State.traffic_checkRead ..)
      have hp := h.trans (State.traffic_probe s' (dieOfCluster p.cluster) p.world pa p.who)
      dsimp only
      split
      · exact hc _ hp
      · exact hc _ hp
  · exact h

theorem State.traffic_entryAt (s : State) (p : Path) (eIa va : Nat) : s.Traffic (s.entryAt p eIa va).state := by
  unfold State.entryAt
  split
  · exact .refl s
  · exact State.traffic_tableRead ..

theorem State.traffic_keepTable (s : State) (p : Path) (eIa e : Nat) : s.Traffic (s.keepTable p eIa e) := by
  unfold State.keepTable
  split
  · exact .refl s
  · exact .of_mem rfl rfl rfl

/-- The state that a walk answers with. -/
def Walk.state : Walk → State
  | .leaf _ _ _ _ s | .invalid s => s
  | .stop x => x.state

theorem ite_cases {α : Sort _} {P : α → Prop} {c : Prop} [Decidable c] {a b : α} (ha : P a) (hb : P b) : P (if c then a else b) := by
  split
  · exact ha
  · exact hb

theorem State.traffic_walk (p : Path) (va : Nat) (fuel : Nat) (s : State) (table : Nat) :
    s.Traffic (s.walk p va fuel table).state := by
  induction fuel generalizing s table with
  | zero => exact .refl s
  | succ fuel ih =>
    rw [State.walk]
    dsimp only
    have h := State.traffic_entryAt s p (table + 8 * bits va (levelShift fuel) (levelBits fuel)) va
    split
    next x heq => rwa [heq] at h
    next e ePa s' heq =>
      rw [heq] at h
      split
      · exact h
      · split
        · exact h
        · split
          · exact h
          · split
            · exact h
            · split
              · split <;> exact h
              · have hk (eIa table : Nat) := h.trans ((State.traffic_keepTable s' p eIa e).trans (ih (s'.keepTable p eIa e) table))
                exact ite_cases (P := fun x : Walk => s.Traffic x.state) h (hk _ _)

theorem State.traffic_setAD (s : State) (p : Path) (ePa e : Nat) (writes : Bool) : s.Traffic (s.setAD p ePa e writes) := by
  unfold State.setAD
  extract_lets e'
  split
  · exact .refl s
  · split
    · exact State.traffic_send ..
    · exact State.traffic_pokeRaw ..

theorem State.traffic_pageRequest (s : State) (world page : Nat) : s.Traffic (s.pageRequest world page) := by
  unfold State.pageRequest
  split
  · exact .refl s
  · exact .of_mem rfl rfl rfl

theorem State.traffic_walkTables (s : State) (p : Path) (va : Nat) (acc : Access) (denied : List Nat) :
    s.Traffic (s.walkTables p va acc denied).state := by
  have h := State.traffic_walk p va 5 s (s.world p.world).s1root.toNat
  unfold State.walkTables
  split
  next x heq => rwa [heq] at h
  next s' heq =>
    rw [heq] at h
    split
    · exact h
    · exact h.trans (State.traffic_pageRequest ..)
  next e ePa size ia s' heq =>
    rw [heq] at h
    extract_lets t
    have ht : s'.Traffic t := by
      show s'.Traffic (if _ then _ else _)
      split
      · exact State.traffic_setAD ..
      · exact .refl s'
    split
    · exact h.trans ht
    · exact h.trans (ht.trans (State.traffic_stage2Keep ..))

theorem State.traffic_walkFlat (s : State) (p : Path) (va : Nat) (acc : Access) (denied : List Nat) :
    s.Traffic (s.walkFlat p va acc denied).state := by
  unfold State.walkFlat
  split
  · exact State.traffic_walkTables ..
  next k r heq =>
    have h : s.Traffic { s with fab := { s.fab with requests := tdel s.fab.requests k } } := .of_mem rfl rfl rfl
    dsimp only
    split
    · exact .refl s
    · exact h.trans (State.traffic_walkTables ..)
    · exact h

theorem State.traffic_hit (s : State) (p : Path) (t : Tlb) (a : Nat) (acc : Access) (addr : Nat) (x : XRes)
    (h : s.hit p t a acc addr = some x) : s.Traffic x.state := by
  unfold State.hit at h
  split at h
  · cases h
    exact .refl s
  · split at h
    · cases h
    · split at h
      · cases h
        exact .refl s
      · cases h
        exact (State.traffic_keepTlb ..).trans (State.traffic_noteLink ..)

theorem State.traffic_cached (s : State) (o : Option Tlb) (p : Path) (a : Nat) (acc : Access) (addr : Nat) (x : XRes)
    (h : o.bind (fun t => s.hit p t a acc addr) = some x) : s.Traffic x.state := by
  obtain ⟨t, -, ht⟩ := Option.bind_eq_some_iff.mp h
  exact State.traffic_hit s p t a acc addr x ht

theorem State.traffic_xlateFlat (s : State) (p : Path) (va : Nat) (acc : Access) (denied : List Nat) :
    s.Traffic (s.xlateFlat p va acc denied).state := by
  unfold State.xlateFlat
  split
  next x heq => exact State.traffic_cached s _ _ _ _ _ _ heq
  · exact State.traffic_walkFlat ..

/-- An object access that is not of a departed object leaves the object table as it is. -/
theorem State.traffic_xlateObj (s : State) (p : Path) (h off : Nat) (acc : Access)
    (hd : (s.xlateObj p h off acc).departs = false) : s.Traffic (s.xlateObj p h off acc).state := by
  unfold State.xlateObj at hd ⊢
  dsimp only at hd ⊢
  split
  next he =>
    rw [he] at hd
    cases hd
  · exact .refl s
  · split
    next x heq => exact State.traffic_cached s _ _ _ _ _ _ heq
    · split
      · exact State.traffic_checkRead ..
      · split
        · exact .refl s
        · exact State.traffic_stage2Keep ..

/-- A translation that is not of a departed object is traffic. -/
theorem State.traffic_xlate (s : State) (p : Path) (g : GAddr) (acc : Access) (denied : List Nat)
    (hd : (s.xlate p g acc denied).departs = false) : s.Traffic (s.xlate p g acc denied).state := by
  unfold State.xlate at hd ⊢
  split
  next va =>
    dsimp only at hd
    split
    · split <;> exact .refl s
    · exact State.traffic_xlateFlat ..
  next h off => exact State.traffic_xlateObj s p h off acc hd

theorem State.traffic_of_xlate_ok {s s' : State} {p : Path} {g : GAddr} {acc : Access} {denied : List Nat} {pa : Nat}
    (h : s.xlate p g acc denied = .ok pa s') : s.Traffic s' := by
  have ht := State.traffic_xlate s p g acc denied (by rw [h]; rfl)
  rwa [h] at ht

end Sys2Proof.Machine

namespace Sys2Proof.Machine

/-! ### What traffic leaves unchanged -/

section
variable {s t : State} (h : s.Traffic t)
include h

theorem State.Traffic.waves_eq : t.waves = s.waves := by rw [h.rest]
theorem State.Traffic.cur_eq : t.cur = s.cur := by rw [h.rest]
theorem State.Traffic.clock_eq : t.clock = s.clock := by rw [h.rest]
theorem State.Traffic.cores_eq : t.cores = s.cores := by rw [h.rest]
theorem State.Traffic.worlds_eq : t.worlds = s.worlds := by rw [h.rest]
theorem State.Traffic.rot_eq : t.rot = s.rot := by rw [h.rest]
theorem State.Traffic.ops_eq : t.ops = s.ops := by rw [h.rest]

theorem State.Traffic.isRemote_eq (pa : Nat) : t.isRemote pa = s.isRemote pa := by rw [State.isRemote, h.node]; rfl

theorem State.Traffic.cutOff_eq (world pa : Nat) : t.cutOff world pa = s.cutOff world pa := by
  rw [State.cutOff, State.world, h.worlds_eq]
  rfl

theorem State.Traffic.stampOf_eq (w : Wave) : t.stampOf w = s.stampOf w := by rw [h.rest]; rfl

theorem State.Traffic.queued_eq (core pa n : Nat) : t.queued core pa n = s.queued core pa n := by rw [h.rest]; rfl

end

/-- A wave put into its place leaves the stamps of accesses, which depend on the wave alone. -/
theorem State.stampOf_putWave (s : State) (id : Nat) (v w : Wave) : (s.putWave id v).stampOf w = s.stampOf w := rfl

/-- A lane is added to translated ones where its own translation passes. -/
theorem XAll.add_ok {p : Path} {acc : Access} {denied : List Nat} {s0 s' : State} {r : XAll} {x : Nat × GAddr}
    {pas : List (Nat × Nat)} (h : XAll.add p acc denied s0 r x = .ok pas s') :
    ∃ l s1, r = .ok l s1 ∧ s1.Traffic s' := by
  unfold XAll.add at h
  split at h
  · split at h
    · split at h <;> cases h
    · cases h
  · split at h
    next hx =>
      cases h
      exact ⟨_, _, rfl, State.traffic_of_xlate_ok hx⟩
    all_goals cases h
  · split at h <;> cases h
  · split at h <;> cases h

/-- Where every lane's address is translated, that is traffic. -/
theorem State.traffic_of_xlateAll_ok {s s' : State} {p : Path} {acc : Access} {denied : List Nat} {l : List (Nat × GAddr)}
    {pas : List (Nat × Nat)} (h : s.xlateAll p acc denied l = .ok pas s') : s.Traffic s' := by
  refine foldl_keeps (fun r : XAll => ∀ pas s', r = .ok pas s' → s.Traffic s') _ _ _ (fun pas s' he => ?_)
    (fun r x hr pas s' he => ?_) pas s' h
  · cases he
    exact .refl s
  · obtain ⟨l, s1, rfl, ht⟩ := XAll.add_ok he
    exact (hr _ _ rfl).trans ht

@[inherit_doc State.traffic_of_xlateAll_ok]
theorem State.traffic_of_cleanAll_ok {s s' : State} {w : Wave} {l : List (Nat × GAddr)} {pas : List (Nat × Nat)}
    (h : s.cleanAll w l = .ok pas s') : s.Traffic s' := by
  refine foldl_keeps (fun r : XAll => ∀ pas s', r = .ok pas s' → s.Traffic s') _ _ _ (fun pas s' he => ?_)
    (fun r x hr pas s' he => ?_) pas s' h
  · cases he
    exact .refl s
  · split at he
    · exact hr _ _ he
    · obtain ⟨l, s1, rfl, ht⟩ := XAll.add_ok he
      exact (hr _ _ rfl).trans ht

theorem State.traffic_of_dataCheck_ok {w : Wave} {n : Nat} {l : List (Nat × Nat)} {s s' : State}
    (h : s.dataCheck w n l = .ok s') : s.Traffic s' := by
  induction l generalizing s with
  | nil =>
    cases h
    exact .refl _
  | cons x l ih =>
    rw [State.dataCheck] at h
    split at h
    · split at h <;> cases h
    · exact (State.traffic_checkRead ..).trans (ih h)

/-! ### The waits before an access (R116, R119, R126) -/

/-- What the waits before an access change: gates and sights of the wave, and the copies of the die that an acquire drops. -/
def State.Waited (s t : State) : Prop := t = { s with waves := t.waves, cache := t.cache, fab := t.fab }

theorem State.Waited.refl (s : State) : s.Waited s := rfl

theorem State.Waited.trans {s t u : State} (h : s.Waited t) (k : t.Waited u) : s.Waited u := by
  unfold State.Waited at *
  rw [k, h]

theorem State.Waited.cur_eq {s t : State} (h : s.Waited t) : t.cur = s.cur := by rw [h]

theorem State.waited_updWave (s : State) (id : Nat) (f : Wave → Wave) : s.Waited (s.updWave id f) := by
  unfold State.Waited
  rw [State.updWave_eq]

theorem State.waited_acquire (s : State) (w : Wave) (scope : Nat) : s.Waited (s.acquire w scope) := by
  unfold State.acquire
  split
  · rfl
  · exact .refl s

theorem State.waited_fenceSc {s t : State} {id : Nat} {w : Wave} {scope : Nat} (h : s.fenceSc id w scope = .go t) :
    s.Waited t := by
  unfold State.fenceSc at h
  split at h
  · cases h
  · split at h
    · cases h
      exact (State.waited_acquire ..).trans (State.waited_updWave ..)
    · cases h
    · cases h

theorem State.waited_passGates {id : Nat} {w : Wave} {l : List Gate} {s t : State} (h : s.passGates id w l = .go t) :
    s.Waited t := by
  induction l generalizing s with
  | nil =>
    cases h
    exact State.waited_updWave ..
  | cons g l ih =>
    cases g with
    | acquire _ _ => cases h
    | fence scope =>
      rw [State.passGates] at h
      split at h
      next s' hf => exact (State.waited_fenceSc hf).trans (ih h)
      · next hn => exact absurd h (hn t)

theorem State.waited_before {s t : State} {id : Nat} {w : Wave} {order scope : Nat} (h : s.before id w order scope = .go t) :
    s.Waited t := by
  unfold State.before at h
  split at h
  next s1 h1 =>
    have hs : s.Waited s1 := by
      split at h1
      · cases h1
        exact .refl s
      · exact State.waited_passGates h1
    split at h
    · split at h
      · cases h
        exact hs.trans (ite_cases (P := fun t => s1.Waited t) (State.waited_acquire ..) (.refl s1))
      · cases h
      · cases h
    · split at h
      · exact hs.trans (State.waited_fenceSc h)
      · split at h
        · cases h
          exact hs.trans ((State.waited_acquire ..).trans (State.waited_updWave ..))
        · cases h
          exact hs
  · next hn => exact absurd h (hn t)

/-- An access whose waits are over runs in the state after them. -/
theorem State.gated_of_before {s t : State} {id : Nat} {w : Wave} {order scope : Nat} (h : s.before id w order scope = .go t)
    (k : Wave → State → Act) : s.gated id w order scope k = k (tgetD t.waves id w) t := by
  rw [State.gated, h]

end Sys2Proof.Machine

namespace Sys2Proof.Proofs

open Sys2Proof Sys2Proof.Machine

/-! ### No acting lane (R18, R209) -/

/-- An instruction whose act without a lane is done does nothing without an active lane. -/
theorem idle_of_issue {i : Instr} {s t : State} {w : Wave} {act : Wave → Mask → State → Act} (h : issues i s w = true)
    (hm : w.active i = 0#32) (ha : act w 0#32 s = .done t) : issue i s act = .next (t.advance s.cur) :=
  issue_done h (by rw [hm, ha])

/-- Without an active lane no lane acts (R209). -/
theorem actingLanes_zero (f : FmtM) : actingLanes f 0#32 = 0#32 := by
  unfold actingLanes
  split <;> rfl

@[inherit_doc idle_of_issue]
theorem idle_of_issueM {i : Instr} {f : FmtM} {s t : State} {w : Wave} {act : Wave → Mask → State → Act} (h : issues i s w = true)
    (hm : w.active i = 0#32) (ha : act w 0#32 s = .done t) : issueM i f s act = .next (t.advance s.cur) :=
  idle_of_issue h hm (by rw [actingLanes_zero, ha])

/-- A RED without an acting lane is done. -/
theorem redG_idle {i : Instr} {op : AtomOp} {f : FmtM} {s : State} {w : Wave} (h : issues i s w = true) (hm : w.active i = 0#32) :
    redG i op f s = .next (s.advance s.cur) :=
  idle_of_issueM h hm (if_pos rfl)

/-- An ATOM without an acting lane, which holds no bundle and replays nothing, is done; its wave is put back as it is. -/
theorem atomG_idle {i : Instr} {op : AtomOp} {f : FmtM} {s : State} {w : Wave} (h : issues i s w = true) (hm : w.active i = 0#32)
    (hh : w.hold = []) (hr : w.replay = none) : atomG i op f s = .next ((s.putWave s.cur w).advance s.cur) := by
  have hn : w.replayMask = none := by rw [Wave.replayMask, hr]
  have he : s.updWave s.cur Wave.endReplay = s.putWave s.cur w := by
    rw [State.updWave, tget_of_issues h]
    simp only [Wave.endReplay, hn, Option.isSome_none, Bool.false_eq_true, if_false]
  refine idle_of_issueM h hm ?_
  simp only [hn, hh, List.isEmpty_nil, Bool.not_true, Bool.false_eq_true, if_false, if_true, he]

/-- Settles O38: each of these instructions is done where no lane acts, before it looks at anything. -/
theorem noActingLane : Obligations.NoActingLane := by
  unfold Obligations.NoActingLane
  intro f e x s w
  refine ⟨fun i hi h hm => ?_, fun y hy h hm => ?_, fun y hy h hm hh hr => ?_⟩
  · simp only [List.mem_cons, List.not_mem_nil, or_false] at hi
    rcases hi with rfl | rfl | rfl | rfl | rfl | rfl | rfl | rfl | rfl | rfl | rfl | rfl | rfl | rfl | rfl | rfl | rfl | rfl |
      rfl | rfl | rfl | rfl | rfl | rfl | rfl | rfl | rfl | rfl | rfl | rfl | rfl
    iterate 15 exact (idle_of_issue h hm <| by exact if_pos (actingLanes_zero f))
    · refine idle_of_issue h hm ?_
      show Act.done ((Mask.lanes (actingLanes f 0#32)).foldl _ s) = .done s
      rw [actingLanes_zero]
      rfl
    iterate 2 exact (idle_of_issue h hm <| by exact if_pos (actingLanes_zero f))
    iterate 2 exact (idle_of_issue h hm <| by exact if_pos rfl)
    iterate 2 exact (idle_of_issue h hm <| by exact if_pos (actingLanes_zero f))
    iterate 9 exact (idle_of_issue h hm <| by exact if_pos rfl)
  · simp only [reds, List.mem_cons, List.not_mem_nil, or_false] at hy
    rcases hy with rfl | rfl | rfl | rfl | rfl | rfl | rfl | rfl | rfl | rfl | rfl | rfl | rfl
    all_goals exact redG_idle h hm
  · simp only [atoms, List.mem_cons, List.not_mem_nil, or_false] at hy
    rcases hy with rfl | rfl | rfl | rfl | rfl | rfl | rfl | rfl | rfl | rfl | rfl | rfl | rfl | rfl | rfl
    all_goals exact atomG_idle h hm hh hr

/-! ### Fences (R117, R119, R126, R284) -/

/-- At CLUSTER scope and above a release that is ready has its accesses performed and its lines confirmed. -/
theorem State.performed_of_release {s : State} {id : Nat} {w : Wave} {scope : Nat} (h : s.release id w scope = .ready)
    (hs : 2 ≤ scope) : s.performed id w = true ∧ s.confirmed w scope = true := by
  rw [State.release, if_neg (by omega)] at h
  split at h
  · cases h
  next hn => simpa using hn

/-- At WAVE and CORE scope no CINV or CCLEAN of the wave is due behind a release. -/
theorem State.clean_of_release {s : State} {id : Nat} {w : Wave} {scope : Nat} (h : s.release id w scope = .ready)
    (hs : scope < 2) : w.cleanDue = false := by
  rw [State.release, if_pos hs] at h
  split at h
  · cases h
  next hn => simpa using hn

/-- At DOMAIN and SYSTEM scope no remote operation of the wave is outstanding behind a release. -/
theorem State.posted_of_release {s : State} {id : Nat} {w : Wave} {scope : Nat} (h : s.release id w scope = .ready)
    (hs : 5 ≤ scope) : w.cntOf 3 = 0 := by
  rw [State.release, if_neg (by omega)] at h
  split at h
  · cases h
  · rw [if_neg (by simp only [scDomain]; omega)] at h
    split at h
    · cases h
    · split at h
      · assumption
      · cases h

/-- What the accesses of the core's waves are once those before a release are performed. -/
theorem State.of_performed {s : State} {id : Nat} {w : Wave} (h : s.performed id w = true) {k : Nat} {v : Wave}
    (hv : (k, v) ∈ s.waves) (hc : v.core = w.core) : (∀ l ∈ v.loads, k ≠ id ∧ w.seen ≤ l.stamp) ∧
      ∀ q ∈ v.storeQ, (q.engine = true ∧ q.covered = false) ∨ (k ≠ id ∧ w.seen ≤ q.stamp) := by
  have hq := List.all_eq_true.mp h _ hv
  simp only [hc, ne_eq, not_true_eq_false, decide_false, Bool.false_or] at hq
  split at hq
  · simp only [Bool.and_eq_true, Wave.storesOut, List.all_eq_true, List.isEmpty_iff] at hq
    refine ⟨fun l hl => ?_, fun q hm => .inl ?_⟩
    · rw [hq.2] at hl
      cases hl
    · simpa [QEntry.ordered] using hq.1 q hm
  next hk =>
    simp only [Bool.and_eq_true, List.all_eq_true, decide_eq_true_eq, Bool.or_eq_true] at hq
    refine ⟨fun l hl => ⟨hk, hq.2 l hl⟩, fun q hm => ?_⟩
    rcases hq.1 q hm with ho | ho
    · exact .inl (by simpa [QEntry.ordered] using ho)
    · exact .inr ⟨hk, ho⟩

/-- What a confirmed line still waits for: at DEVICE scope no die and no host, at SYSTEM scope not the CXL home either. -/
theorem State.of_confirmed {s : State} {w : Wave} {scope : Nat} (h : s.confirmed w scope = true) (hs : 4 ≤ scope) {u : Unconf}
    (hu : u ∈ s.unconf) {x : User} (hx : x ∈ u.users) (ho : w.orders x = true) : scope < 6 ∧ ∀ p ∈ u.waiting, p = 99 := by
  unfold State.confirmed scDevice scSystem at h
  simp only [Bool.or_eq_true, decide_eq_true_eq, List.all_eq_true, Bool.and_eq_true, Bool.not_eq_true', List.any_eq_false] at h
  rcases h with h | h
  · omega
  · rcases h u hu with hn | hc
    · exact absurd ho (hn x hx)
    · exact hc

/-- Settles O39: the waits of a fence are those of a release or an acquire before an access, and a release that is ready has
seen the conditions of its scope hold. -/
theorem fences : Obligations.Fences := by
  unfold Obligations.Fences
  intro f s w w1 acq
  refine ⟨fun s1 h hm hb => ⟨fun ho => ?_, fun ho hl ha => ?_⟩, fun s1 h hm hb => ?_, fun id scope h => ?_⟩
  · refine issue_done h ?_
    rw [if_neg hm, State.gated_of_before hb, if_pos ho]
  · refine issue_done h ?_
    rw [if_neg hm, State.gated_of_before hb, if_neg ho, if_pos]
    · rfl
    · simp only [w1] at hl ha
      simp [Wave.valuesIn, hl, ha]
  · refine issue_done h ?_
    rw [if_neg hm, State.gated_of_before hb]
  · refine ⟨State.clean_of_release h, fun hs k v hv hc => State.of_performed (State.performed_of_release h hs).1 hv hc,
      fun hs u hu x hx hop hd hsame => ?_, State.posted_of_release h⟩
    refine State.of_confirmed (State.performed_of_release h (by omega)).2 hs hu hx ?_
    simp [Wave.orders, hop, hd, hsame]

end Sys2Proof.Proofs

/-! PROOFS. Loads and stores of the on-chip spaces (R24, R62, R70, R272): what a read gives after a write of a run of bytes, and
what the instructions do where every lane's address fits. -/

namespace Sys2Proof.Machine

/-! ### Bytes of an on-chip space

A space is cut into units, granules of `l:` and lines of a typed buffer; a unit that no write has opened reads as zeros. -/

/-- Bytes of a unit of a space. -/
def chipUnit : Option Nat → Nat
  | none => 128
  | some _ => 512

theorem chipUnit_pos : ∀ b : Option Nat, 0 < chipUnit b
  | none => by decide
  | some _ => Nat.zero_lt_succ 511

/-- The unit has been written: its V is set. -/
def CoreSt.unitV (c : CoreSt) : Option Nat → Nat → Bool
  | none, j => (tgetD c.gran j { tag := 0, v := false }).v
  | some k, j => (c.tag k j).v

/-- The cells of a space. -/
def CoreSt.spaceMem (c : CoreSt) : Option Nat → Memory
  | none => c.lmem
  | some k => c.buf k

/-- A byte of a space as a read gives it. -/
def CoreSt.spaceByte (c : CoreSt) (b : Option Nat) (x : Nat) : Byte :=
  if c.unitV b (x / chipUnit b) then cget (c.spaceMem b) x else 0#8

/-- Opens a unit for a write. -/
def CoreSt.openUnit (z : Option (BitVec 3)) (b : Option Nat) (c : CoreSt) (k : Nat) : CoreSt :=
  match b with
  | none => c.lOpen k
  | some j => CoreSt.bOpen z j c k

/-- The units that a run touches. -/
def unitsOf (u a n : Nat) : List Nat := if n = 0 then [] else (List.range ((a + n - 1) / u - a / u + 1)).map (· + a / u)

/-- Writes a run of bytes of a space. -/
def CoreSt.spaceWrite (c : CoreSt) (b : Option Nat) (a : Nat) (bs : List Byte) (z : Option (BitVec 3)) : CoreSt :=
  match b with
  | none => c.lWrite a bs
  | some k => c.bWrite k a bs z

theorem CoreSt.chipRead_eq (c : CoreSt) (b : Option Nat) (a n : Nat) :
    c.chipRead b a n = (List.range n).map (fun i => c.spaceByte b (a + i)) := by
  cases b with
  | some k => rfl
  | none =>
    refine List.map_congr_left fun i _ => ?_
    show _ = if (tgetD c.gran ((a + i) / 128) _).v then _ else _
    rw [tgetD]
    cases tget c.gran ((a + i) / 128) <;> rfl

@[simp] theorem CoreSt.buf_setBuf (c : CoreSt) (b : Nat) (m : Memory) (t : Tab LineTag) : (c.setBuf b m t).buf b = m := by
  unfold CoreSt.setBuf CoreSt.buf
  split
  · rfl
  · split <;> rfl

@[simp] theorem CoreSt.tags_setBuf (c : CoreSt) (b : Nat) (m : Memory) (t : Tab LineTag) : (c.setBuf b m t).tags b = t := by
  unfold CoreSt.setBuf CoreSt.tags
  split
  · rfl
  · split <;> rfl

theorem CoreSt.mend_gran (c : CoreSt) (sp a n : Nat) : (c.mend sp a n).gran = c.gran := by
  unfold CoreSt.mend
  split <;> rfl

theorem CoreSt.mend_lmem (c : CoreSt) (sp a n : Nat) : (c.mend sp a n).lmem = c.lmem := by
  unfold CoreSt.mend
  split <;> rfl

/-- Opening a line writes its tag with V set, and zeroes the line where V was clear. -/
theorem CoreSt.bOpen_eq (z : Option (BitVec 3)) (b : Nat) (c : CoreSt) (k : Nat) :
    (∃ t : LineTag, t.v = true ∧ (CoreSt.bOpen z b c k).tags b = tset (c.tags b) k t) ∧
      (CoreSt.bOpen z b c k).buf b = if (c.tag b k).v then c.buf b else czero (c.buf b) (k * 512) 512 := by
  unfold CoreSt.bOpen
  extract_lets t t'
  have ht : t'.v = true := by
    simp only [t']
    cases z <;> rfl
  split
  · exact ⟨⟨t', ht, CoreSt.tags_setBuf ..⟩, CoreSt.buf_setBuf ..⟩
  · exact ⟨⟨t', ht, CoreSt.tags_setBuf ..⟩, CoreSt.buf_setBuf ..⟩

/-- Opening a unit sets its V and leaves that of every other unit. -/
theorem CoreSt.unitV_openUnit (z : Option (BitVec 3)) (b : Option Nat) (c : CoreSt) (k j : Nat) :
    (CoreSt.openUnit z b c k).unitV b j = (decide (j = k) || c.unitV b j) := by
  cases b with
  | none =>
    by_cases hv : (tgetD c.gran k { tag := 0, v := false }).v = true
    · by_cases hj : j = k
      · simp [CoreSt.openUnit, CoreSt.lOpen, CoreSt.unitV, hv, hj]
      · simp [CoreSt.openUnit, CoreSt.lOpen, CoreSt.unitV, hv, hj]
    · by_cases hj : j = k
      · simp [CoreSt.openUnit, CoreSt.lOpen, CoreSt.unitV, hv, hj]
      · simp [CoreSt.openUnit, CoreSt.lOpen, CoreSt.unitV, hv, hj, tgetD_tset]
  | some y =>
    obtain ⟨⟨t, ht, he⟩, -⟩ := CoreSt.bOpen_eq z y c k
    show (tgetD ((CoreSt.bOpen z y c k).tags y) j _).v = (decide (j = k) || (tgetD (c.tags y) j _).v)
    rw [he, tgetD_tset]
    by_cases hj : j = k <;> simp [hj, ht]

/-- Opening a unit zeroes its bytes where its V was clear. -/
theorem CoreSt.spaceMem_openUnit (z : Option (BitVec 3)) (b : Option Nat) (c : CoreSt) (k : Nat) :
    (CoreSt.openUnit z b c k).spaceMem b =
      if c.unitV b k then c.spaceMem b else czero (c.spaceMem b) (k * chipUnit b) (chipUnit b) := by
  cases b with
  | none =>
    show (c.lOpen k).lmem = if (tgetD c.gran k _).v then _ else _
    unfold CoreSt.lOpen
    dsimp only
    split <;> rfl
  | some y => exact (CoreSt.bOpen_eq z y c k).2

/-- Opening a unit leaves every byte as a read gives it. -/
theorem CoreSt.spaceByte_openUnit (z : Option (BitVec 3)) (b : Option Nat) (c : CoreSt) (k x : Nat) :
    (CoreSt.openUnit z b c k).spaceByte b x = c.spaceByte b x := by
  have hu := chipUnit_pos b
  unfold CoreSt.spaceByte
  rw [CoreSt.unitV_openUnit, CoreSt.spaceMem_openUnit]
  have hx : (k * chipUnit b ≤ x ∧ x < k * chipUnit b + chipUnit b) ↔ x / chipUnit b = k := by
    rw [Nat.div_eq_iff hu]
    constructor <;> intro h <;> omega
  by_cases hk : x / chipUnit b = k
  · by_cases hv : c.unitV b k = true
    · simp [hk, hv]
    · simp [hk, hv, cget_czero, hx]
  · by_cases hv : c.unitV b k = true
    · simp [hk, hv]
    · simp [hk, hv, cget_czero, hx]

/-- The bytes of a space are in canonical form. -/
def CoreSt.spaceOk (c : CoreSt) (b : Option Nat) : Prop := Memory.wf (c.spaceMem b) = true

theorem CoreSt.spaceOk_openUnit {z : Option (BitVec 3)} {b : Option Nat} {c : CoreSt} {k : Nat} (h : c.spaceOk b) :
    (CoreSt.openUnit z b c k).spaceOk b := by
  unfold CoreSt.spaceOk
  rw [CoreSt.spaceMem_openUnit]
  split
  · exact h
  · exact wf_czero _ _ _ h

/-- Opening units leaves every byte, keeps the canonical form, and sets the V of each of them. -/
theorem CoreSt.openUnits (z : Option (BitVec 3)) (b : Option Nat) (ks : List Nat) (c : CoreSt) (h : c.spaceOk b) :
    (ks.foldl (CoreSt.openUnit z b) c).spaceOk b ∧
    (∀ x, (ks.foldl (CoreSt.openUnit z b) c).spaceByte b x = c.spaceByte b x) ∧
    ∀ j, j ∈ ks ∨ c.unitV b j = true → (ks.foldl (CoreSt.openUnit z b) c).unitV b j = true := by
  induction ks generalizing c with
  | nil => exact ⟨h, fun _ => rfl, fun j hj => hj.resolve_left (by simp)⟩
  | cons k ks ih =>
    obtain ⟨h1, h2, h3⟩ := ih (CoreSt.openUnit z b c k) (CoreSt.spaceOk_openUnit h)
    refine ⟨h1, fun x => (h2 x).trans (CoreSt.spaceByte_openUnit ..), fun j hj => h3 j ?_⟩
    rw [CoreSt.unitV_openUnit]
    rcases hj with hj | hj
    · rcases List.mem_cons.mp hj with rfl | hj
      · exact .inr (by simp)
      · exact .inl hj
    · exact .inr (by simp [hj])

theorem div_mem_unitsOf {u a n x : Nat} (ha : a ≤ x) (hx : x < a + n) : x / u ∈ unitsOf u a n := by
  have h1 : a / u ≤ x / u := Nat.div_le_div_right ha
  have h2 : x / u ≤ (a + n - 1) / u := Nat.div_le_div_right (by omega)
  rw [unitsOf, if_neg (by omega), List.mem_map]
  exact ⟨x / u - a / u, List.mem_range.mpr (by omega), by omega⟩

/-- A write opens the units of its run and then puts the bytes. -/
theorem CoreSt.spaceWrite_eq (c : CoreSt) (b : Option Nat) (a : Nat) (bs : List Byte) (z : Option (BitVec 3)) :
    let d := (unitsOf (chipUnit b) a bs.length).foldl (CoreSt.openUnit z b) c
    (∀ j, (c.spaceWrite b a bs z).unitV b j = d.unitV b j) ∧ (c.spaceWrite b a bs z).spaceMem b = cwrite (d.spaceMem b) a bs := by
  cases b with
  | none =>
    refine ⟨fun j => ?_, rfl⟩
    show (tgetD ((CoreSt.mend _ 3 a bs.length).gran) j _).v = _
    rw [CoreSt.mend_gran]
    rfl
  | some k =>
    refine ⟨fun j => ?_, CoreSt.buf_setBuf ..⟩
    show (tgetD (CoreSt.tags (CoreSt.setBuf _ k _ _) k) j _).v = _
    rw [CoreSt.tags_setBuf]
    rfl

theorem cget_cread (m : Memory) (a n i : Nat) (h : i < n) : (cread m a n).getD i 0#8 = cget m (a + i) := by
  rw [List.getD_eq_getElem?_getD, cread_getElem? m a n i h]
  rfl

/-- What a read gives of a byte after a write of a run: the byte of the run, and elsewhere the byte as before. -/
theorem CoreSt.spaceByte_spaceWrite (c : CoreSt) (b : Option Nat) (a : Nat) (bs : List Byte) (z : Option (BitVec 3))
    (h : c.spaceOk b) (x : Nat) :
    (c.spaceWrite b a bs z).spaceByte b x = if a ≤ x ∧ x < a + bs.length then bs.getD (x - a) 0#8 else c.spaceByte b x := by
  obtain ⟨hv, hm⟩ := CoreSt.spaceWrite_eq c b a bs z
  obtain ⟨hw, hb, ho⟩ := CoreSt.openUnits z b (unitsOf (chipUnit b) a bs.length) c h
  rw [← hb x]
  unfold CoreSt.spaceByte
  rw [hv, hm]
  by_cases hx : a ≤ x ∧ x < a + bs.length
  · have hc := cget_cread (cwrite ((List.foldl (CoreSt.openUnit z b) c (unitsOf (chipUnit b) a bs.length)).spaceMem b) a bs) a
      bs.length (x - a) (by omega)
    rw [cread_cwrite _ _ _ hw, Nat.add_sub_cancel' hx.1] at hc
    rw [if_pos hx, if_pos (ho _ (.inl (div_mem_unitsOf hx.1 hx.2))), hc]
  · rw [if_neg hx, cget_cwrite_other _ _ _ _ hw (by omega)]

theorem CoreSt.spaceOk_spaceWrite {c : CoreSt} {b : Option Nat} {a : Nat} {bs : List Byte} {z : Option (BitVec 3)}
    (h : c.spaceOk b) : (c.spaceWrite b a bs z).spaceOk b := by
  unfold CoreSt.spaceOk
  rw [(CoreSt.spaceWrite_eq c b a bs z).2]
  exact wf_cwrite _ _ _ (CoreSt.openUnits z b _ c h).1

/-- Writes a run of each element of a list, one after another. -/
def CoreSt.writeAll {α : Type} (b : Option Nat) (at' : α → Nat) (bytes : α → List Byte) (z : CoreSt → α → Option (BitVec 3))
    (l : List α) (c : CoreSt) : CoreSt :=
  l.foldl (fun c x => c.spaceWrite b (at' x) (bytes x) (z c x)) c

section
variable {α : Type} {b : Option Nat} {at' : α → Nat} {bytes : α → List Byte} {z : CoreSt → α → Option (BitVec 3)} {l : List α}
  {c : CoreSt}

theorem CoreSt.spaceOk_writeAll (h : c.spaceOk b) : (c.writeAll b at' bytes z l).spaceOk b :=
  foldl_keeps (fun c : CoreSt => c.spaceOk b) _ _ _ h fun _ _ h => CoreSt.spaceOk_spaceWrite h

/-- A byte that no run covers reads as before. -/
theorem CoreSt.spaceByte_writeAll_other (h : c.spaceOk b) {x : Nat} (hx : ∀ y ∈ l, x < at' y ∨ at' y + (bytes y).length ≤ x) :
    (c.writeAll b at' bytes z l).spaceByte b x = c.spaceByte b x := by
  induction l generalizing c with
  | nil => rfl
  | cons y l ih =>
    refine (ih (CoreSt.spaceOk_spaceWrite h) fun k hk => hx k (List.mem_cons_of_mem _ hk)).trans ?_
    rw [CoreSt.spaceByte_spaceWrite _ _ _ _ _ h, if_neg]
    have := hx y List.mem_cons_self
    omega

/-- A run that no later one overlaps reads as it was written. -/
theorem CoreSt.chipRead_writeAll (h : c.spaceOk b) {pre post : List α} {y : α} (hl : l = pre ++ y :: post)
    (hd : ∀ k ∈ post, at' k + (bytes k).length ≤ at' y ∨ at' y + (bytes y).length ≤ at' k) :
    (c.writeAll b at' bytes z l).chipRead b (at' y) (bytes y).length = bytes y := by
  have hp : (c.writeAll b at' bytes z pre).spaceOk b := CoreSt.spaceOk_writeAll h
  rw [CoreSt.chipRead_eq]
  refine map_range_eq _ _ fun i hi => ?_
  have hs : c.writeAll b at' bytes z l = CoreSt.writeAll b at' bytes z post
      ((c.writeAll b at' bytes z pre).spaceWrite b (at' y) (bytes y) (z (c.writeAll b at' bytes z pre) y)) := by
    rw [hl]
    simp only [CoreSt.writeAll, List.foldl_append, List.foldl_cons]
  rw [hs, CoreSt.spaceByte_writeAll_other (CoreSt.spaceOk_spaceWrite hp), CoreSt.spaceByte_spaceWrite _ _ _ _ _ hp,
    if_pos ⟨by omega, by omega⟩, Nat.add_sub_cancel_left]
  · exact List.getD_eq_getElem _ _ hi
  · intro k hk
    have := hd k hk
    omega

end

end Sys2Proof.Machine

namespace Sys2Proof.Machine

/-! ### Lanes of an on-chip access -/

/-- A space of the on-chip instructions: `l:`, or one of the three buffers. -/
def IsSpace (b : Option Nat) : Prop := b = none ∨ b = some 0 ∨ b = some 1 ∨ b = some 2

theorem State.chipAt_eq (s : State) (w : Wave) (f : FmtM) (b : Option Nat) (l : Nat) :
    s.chipAt w b (chipAddr w f l).toNat = chipByte s w f b l := by
  cases b with
  | none => rfl
  | some k => exact (Nat.zero_add _).symm

/-- An operand that fits has its address in a lane. -/
theorem Wave.onChip_ok {w : Wave} {f : FmtM} {size l : Nat} (h1 : chipAddr w f l % (2 ^ f.width.toNat : Nat) = 0)
    (h2 : 0 ≤ chipAddr w f l) (h3 : chipAddr w f l + (2 ^ f.width.toNat : Nat) ≤ size) :
    w.onChip f size (widthOf f) l = .ok (chipAddr w f l).toNat := by
  have hs : w.onChipSum f l = chipAddr w f l := rfl
  unfold Wave.onChip
  dsimp only
  rw [hs, widthOf, if_neg (not_not_intro h1), if_neg (by omega)]

/-- The first byte of a lane in a buffer is the address that the lane's operand gives. -/
theorem find?_isNone_of_isSome {α β : Type} {g : α → Option β} {l : List α} (h : ∀ x ∈ l, (g x).isSome = true) :
    l.find? (fun x => (g x).isNone) = none :=
  List.find?_eq_none.mpr fun x hx => by simp [Option.isSome_iff_ne_none.mp (h x hx)]

/-- Where every lane's address fits, and each word that is read is sound, the checks of an on-chip access give the addresses. -/
theorem State.onChipLanes_ok {s : State} {w : Wave} {f : FmtM} {b : Option Nat} {reads : Bool} {m : Mask} (hb : IsSpace b)
    (hf : chipFits s w f b m)
    (hr : reads = true → ∀ l ∈ Mask.lanes m, (s.core w.core).badAt (b.getD 3) (chipByte s w f b l) (2 ^ f.width.toNat) = false) :
    s.onChipLanes w b f reads m = .ok ((Mask.lanes m).map fun l => (l, (chipAddr w f l).toNat)) := by
  have hbad : (if reads = true then ((Mask.lanes m).map fun l => (l, (chipAddr w f l).toNat)).find?
      (fun x => (s.core w.core).badAt (b.getD 3) (s.chipAt w b x.2) (widthOf f)) else none) = none := by
    split
    next h =>
      refine List.find?_eq_none.mpr fun x hx => ?_
      obtain ⟨l, hl, rfl⟩ := List.mem_map.mp hx
      rw [State.chipAt_eq, widthOf, hr h l hl]
      decide
    · rfl
  unfold State.onChipLanes
  cases b with
  | none =>
    dsimp only
    rw [formLanes_of_forall_ok (fun l hl => Wave.onChip_ok (hf l hl).1 (hf l hl).2.1 (hf l hl).2.2.1)]
    dsimp only
    rw [hbad]
  | some k =>
    have hk : k = 0 ∨ k = 1 ∨ k = 2 := by simpa [IsSpace] using hb
    have hform : ∀ l ∈ Mask.lanes m, (if widthOf f < 4 then
        (.error { code := cAlign, step := stForm, addr := wrapN 64 (w.onChipSum f l) } : Except Cond Nat)
        else w.onChip f (bufBytes k) (widthOf f) l) = .ok (chipAddr w f l).toNat := fun l hl => by
      obtain ⟨h1, h2, h3, h4⟩ := hf l hl
      rw [if_neg (by have := (h4 k rfl).1; rw [widthOf]; omega)]
      refine Wave.onChip_ok h1 h2 ?_
      rcases hk with rfl | rfl | rfl <;> exact h3
    have hbare : ((Mask.lanes m).map fun l => (l, (chipAddr w f l).toNat)).find?
        (fun x => ((s.core w.core).covering (s.slotOf w) k x.2 (widthOf f)).isNone) = none := by
      refine find?_isNone_of_isSome fun x hx => ?_
      obtain ⟨l, hl, rfl⟩ := List.mem_map.mp hx
      exact ((hf l hl).2.2.2 k rfl).2
    dsimp only
    rw [formLanes_of_forall_ok hform]
    dsimp only
    rw [hbare, hbad]

/-! ### Loads (R24, R272) -/

theorem CoreSt.chipRead_length (c : CoreSt) (b : Option Nat) (a n : Nat) : (c.chipRead b a n).length = n := by
  rw [CoreSt.chipRead_eq, List.length_map, List.length_range]

/-- The bytes of a load below a register's width are extended by the sign where the load is signed. -/
theorem extend_eq (signed : Bool) (bs : List Byte) (h : 0 < bs.length) : extend signed bs =
    if bs.length < 4 ∧ signed = true then ((BitVec.ofNat (8 * bs.length) (leNat bs)).signExtend 32).toNat else leNat bs := by
  unfold extend
  dsimp only
  split
  · rw [sextN_eq_toInt _ _ (by omega), wrapN_eq_toNat]
    rfl
  · rfl

end Sys2Proof.Machine

namespace Sys2Proof.Proofs

open Sys2Proof Sys2Proof.Machine

theorem chipRead_eq (c : CoreSt) (b : Option Nat) (a n : Nat) : chipRead c b a n = c.chipRead b a n := by
  cases b <;> rfl

/-- A load from an on-chip space whose lanes fit, of words without an uncorrectable error. -/
theorem loadChip_fits {i : Instr} {f : FmtM} {b : Option Nat} {signed : Bool} {s s1 : State} {w : Wave} (hb : IsSpace b)
    (hg : goesOn i f f.order.toNat s w s1) :
    let w1 := tgetD s1.waves s.cur w
    let m := actingLanes f (w.active i)
    let n := 2 ^ f.width.toNat
    chipFits s1 w1 f b m →
    (∀ l ∈ Mask.lanes m, (s1.core w1.core).badAt (b.getD 3) (chipByte s1 w1 f b l) n = false) →
    (w1.loads = [] →
      loadChip i f b signed s = .next ((s1.putWave s.cur (w1.put f.data (wordsM f.width) m (fun l =>
        let v := leNat (chipRead (s1.core w1.core) b (chipByte s1 w1 f b l) n)
        if n < 4 ∧ signed = true then ((BitVec.ofNat (8 * n) v).signExtend 32).toNat else v))).advance s.cur)) ∧
    (w1.loads ≠ [] →
      let op : LoadOp := { stamp := s1.nextId, dst := f.data, width := n, signed := signed, inv := false, who := s1.stampOf w1,
                           lanes := (Mask.lanes m).map (fun l => (l, .chip b (chipByte s1 w1 f b l))) }
      loadChip i f b signed s = .next (((s1.putWave s.cur { w1 with
        regs := w1.regs.setBusy f.data (wordsM f.width) m, loads := w1.loads ++ [op]
        gates := w1.gates ++ (if f.order = 2#3 ∨ f.order = 5#3 then [.acquire s1.nextId f.scope.toNat] else []) }).bump).advance
          s.cur)) := by
  intro w1 m n hf hbad
  obtain ⟨hi, hm, hbef⟩ := hg
  have hcur := (State.waited_before hbef).cur_eq
  have hlanes : s1.onChipLanes w1 b f true m = .ok ((Mask.lanes m).map fun l => (l, (chipAddr w1 f l).toNat)) :=
    State.onChipLanes_ok hb hf fun _ => hbad
  refine ⟨fun hl => ?_, fun hl => ?_⟩
  · refine issue_done hi ?_
    dsimp only
    rw [if_neg hm, State.gated_of_before hbef]
    show (match s1.onChipLanes w1 b f true m with | .error e => _ | .ok l => _) = _
    rw [hlanes]
    dsimp only
    rw [if_pos hl, hcur]
    congr 2
    refine Wave.put_congr _ _ _ fun l hlm => ?_
    rw [find?_map_lane (fun l => (chipAddr w1 f l).toNat) hlm]
    dsimp only
    rw [State.chipAt_eq, extend_eq _ _ (by rw [CoreSt.chipRead_length]; exact Nat.two_pow_pos _), CoreSt.chipRead_length,
      chipRead_eq]
    rfl
  · refine issue_done hi ?_
    dsimp only
    rw [if_neg hm, State.gated_of_before hbef]
    show (match s1.onChipLanes w1 b f true m with | .error e => _ | .ok l => _) = _
    rw [hlanes]
    dsimp only
    rw [if_neg hl, hcur, List.map_map]
    have hat (l : Nat) : s1.chipAt (tgetD s1.waves s.cur w) b (chipAddr w1 f l).toNat = chipByte s1 w1 f b l := State.chipAt_eq ..
    simp only [Function.comp_def, hat]
    rfl

/-- Settles O32: the checks pass in every lane, and the load writes its destination or joins the outstanding loads. -/
theorem onChipLoads : Obligations.OnChipLoads := by
  unfold Obligations.OnChipLoads
  intro f s w s1 x hx
  simp only [chipLoads, List.mem_cons, List.not_mem_nil, or_false] at hx
  rcases hx with rfl | rfl | rfl | rfl | rfl
  · exact loadChip_fits (.inl rfl)
  · exact loadChip_fits (.inl rfl)
  · exact loadChip_fits (.inr (.inl rfl))
  · exact loadChip_fits (.inr (.inr (.inl rfl)))
  · exact loadChip_fits (.inr (.inr (.inr rfl)))

/-! ### Stores (R62, R70, R113, R272) -/

/-- The swizzle that a store stamps on the lines of a lane: that of the held record that covers the access. -/
def swizzleOf (slot : Nat) (b : Option Nat) (n : Nat) (a : Nat → Nat) (c : CoreSt) (l : Nat) : Option (BitVec 3) :=
  b.bind fun k => (c.covering slot k (a l) n).map cSwz

theorem length_leBytes (n v : Nat) : (leBytes n v).length = n := by
  induction n generalizing v with
  | zero => rfl
  | succ n ih => rw [leBytes, List.length_cons, ih]

theorem length_storeBytes (w : Wave) (f : FmtM) (l : Nat) : (w.storeBytes f l).length = 2 ^ f.width.toNat := length_leBytes _ _

/-- The lanes of a store write their runs one after another. -/
theorem State.storeLanes_eq (s : State) (w : Wave) (b : Option Nat) (f : FmtM) (ls : List Nat) :
    s.storeLanes w b f (ls.map fun l => (l, (chipAddr w f l).toNat)) = s.putCore w.core ((s.core w.core).writeAll b
      (chipByte s w f b) (w.storeBytes f)
      (swizzleOf (s.slotOf w) b (2 ^ f.width.toNat) (fun l => (chipAddr w f l).toNat)) ls) := by
  unfold State.storeLanes CoreSt.writeAll
  rw [List.foldl_map]
  refine congrArg (s.putCore w.core) (List.foldl_ext _ _ _ fun c l _ => ?_)
  cases b with
  | none => rfl
  | some k =>
    simp only [CoreSt.spaceWrite, swizzleOf, Option.bind_some, length_storeBytes, chipByte, Nat.zero_add]
    congr 1
    cases (c.covering (s.slotOf w) k (chipAddr w f l).toNat (2 ^ f.width.toNat)) <;> rfl

/-- A store to an on-chip space whose lanes fit. -/
theorem storeChip_fits {i : Instr} {f : FmtM} {b : Option Nat} {s s1 : State} {w : Wave} (hb : IsSpace b)
    (hg : goesOn i f (if f.order = 5#3 then 3 else f.order.toNat) s w s1) :
    let w1 := tgetD s1.waves s.cur w
    let m := actingLanes f (w.active i)
    let n := 2 ^ f.width.toNat
    let addr (l : Nat) : Nat := chipByte s1 w1 f b l
    chipFits s1 w1 f b m → s1.chipDue w1.core = false →
    (∀ k, Memory.wf (s1.core k).lmem = true ∧ ∀ b, Memory.wf ((s1.core k).buf b) = true) →
    ∃ u : State, storeChip i f b s = .next ((if f.order = 5#3 then
        u.updWave s.cur (fun w => { w with gates := w.gates ++ [.fence f.scope.toNat] }) else u).advance s.cur) ∧
      u = { s1 with cores := u.cores } ∧ (∀ k, k ≠ w1.core → u.core k = s1.core k) ∧
      (∀ l ∈ Mask.lanes m, (∀ k ∈ Mask.lanes m, l < k → addr k + n ≤ addr l ∨ addr l + n ≤ addr k) →
        chipRead (u.core w1.core) b (addr l) n = leBytes n (w1.storeVal f l)) ∧
      (∀ a, (∀ l ∈ Mask.lanes m, a < addr l ∨ addr l + n ≤ a) →
        chipRead (u.core w1.core) b a 1 = chipRead (s1.core w1.core) b a 1) := by
  intro w1 m n addr hf hdue hwf
  obtain ⟨hi, hm, hbef⟩ := hg
  have hcur := (State.waited_before hbef).cur_eq
  have hlanes : s1.onChipLanes w1 b f false m = .ok ((Mask.lanes m).map fun l => (l, (chipAddr w1 f l).toNat)) :=
    State.onChipLanes_ok hb hf fun h => by cases h
  have hok : (s1.core w1.core).spaceOk b := by
    cases b with
    | none => exact (hwf w1.core).1
    | some k => exact (hwf w1.core).2 k
  have hlen (l : Nat) : (w1.storeBytes f l).length = n := length_storeBytes w1 f l
  have hu := State.storeLanes_eq s1 w1 b f (Mask.lanes m)
  refine ⟨s1.storeLanes w1 b f ((Mask.lanes m).map fun l => (l, (chipAddr w1 f l).toNat)), ?_, rfl, fun k hk => ?_,
    fun l hl hdis => ?_, fun a ha => ?_⟩
  · refine issue_done hi ?_
    dsimp only
    rw [if_neg hm, State.gated_of_before hbef]
    show (match s1.onChipLanes w1 b f false m with | .error e => _ | .ok l => _) = _
    rw [hlanes]
    dsimp only
    rw [if_neg (by rw [hdue]; decide)]
    congr 2
    exact congrFun (congrArg _ hcur) _
  · rw [hu, State.core_putCore, if_neg hk]
  · rw [hu, State.core_putCore, if_pos rfl, chipRead_eq]
    obtain ⟨pre, post, hsplit⟩ := List.append_of_mem hl
    have hsort := Mask.pairwise_lanes m
    rw [hsplit, List.pairwise_append, List.pairwise_cons] at hsort
    have h := CoreSt.chipRead_writeAll (at' := addr) (bytes := w1.storeBytes f)
      (z := swizzleOf (s1.slotOf w1) b (2 ^ f.width.toNat) (fun l => (chipAddr w1 f l).toNat)) hok hsplit fun k hk => by
        rw [hlen, hlen]
        exact hdis k (by rw [hsplit]; simp [hk]) (hsort.2.1.1 k hk)
    rwa [hlen] at h
  · rw [hu, State.core_putCore, if_pos rfl, chipRead_eq, chipRead_eq, CoreSt.chipRead_eq, CoreSt.chipRead_eq]
    refine List.map_congr_left fun i hi => ?_
    obtain rfl : i = 0 := by simpa using hi
    exact CoreSt.spaceByte_writeAll_other hok fun l hl => by
      rw [hlen]
      exact ha l hl

/-- Settles O33: the lanes write their runs in lane order, so that a run that no higher lane overlaps stands, and a byte that none
covers reads as before. -/
theorem onChipStores : Obligations.OnChipStores := by
  unfold Obligations.OnChipStores
  intro f s w s1 x hx
  simp only [chipStores, List.mem_cons, List.not_mem_nil, or_false] at hx
  rcases hx with rfl | rfl | rfl | rfl
  · exact storeChip_fits (.inl rfl)
  · exact storeChip_fits (.inr (.inl rfl))
  · exact storeChip_fits (.inr (.inr (.inl rfl)))
  · exact storeChip_fits (.inr (.inr (.inr rfl)))

end Sys2Proof.Proofs

/-! PROOFS. `g:` loads, stores and atomics (R55, R125, R272, R278), LDG2L, PREFETCH, CINV and CCLEAN (R280 to R283): an access
whose lanes have passed joins the outstanding loads, the store queue or the operations of its wave. -/

namespace Sys2Proof.Machine

/-! ### An access that has been translated -/

theorem tgetD_tgetD {α : Type} (t : Tab α) (k : Nat) (d : α) : tgetD t k (tgetD t k d) = tgetD t k d := by
  unfold tgetD
  cases tget t k <;> rfl

/-- The lanes of this node are all lanes. -/
theorem filter_local {p : Nat → Bool} {pas : List (Nat × Nat)} (h : ∀ x ∈ pas, p x.2 = false) :
    pas.filter (fun x => p x.2) = [] ∧ pas.filter (fun x => !p x.2) = pas :=
  ⟨List.filter_eq_nil_iff.mpr fun x hx => by simp [h x hx], List.filter_eq_self.mpr fun x hx => by simp [h x hx]⟩

/-- The data step looks at the world and the core of a wave alone. -/
theorem State.dataCheck_congr {w v : Wave} (hw : w.world = v.world) (hc : w.core = v.core) (n : Nat) (l : List (Nat × Nat)) (s : State) :
    s.dataCheck w n l = s.dataCheck v n l := by
  induction l generalizing s with
  | nil => rfl
  | cons x l ih => simp only [State.dataCheck, hw, hc, ih]

theorem State.fillRequests_mem (s : State) (w : Wave) (l : List (Nat × Nat)) : (s.fillRequests w l).mem = s.mem :=
  foldl_keeps (fun t : State => t.mem = s.mem) _ _ _ rfl fun _ _ h => (State.fill_mem ..).trans h

/-! ### The device's own region through the data step -/

/-- The stacks in use and the size of the device's own region stay. -/
def State.KeepsPrivate (s t : State) : Prop := t.plat.dram = s.plat.dram ∧ t.plat.privateGiB = s.plat.privateGiB

theorem State.KeepsPrivate.trans {s t u : State} (h : s.KeepsPrivate t) (k : t.KeepsPrivate u) : s.KeepsPrivate u :=
  ⟨k.1.trans h.1, k.2.trans h.2⟩

theorem State.KeepsPrivate.inPrivate_eq {s t : State} (h : s.KeepsPrivate t) (pa : Nat) : t.inPrivate pa = s.inPrivate pa := by
  unfold State.inPrivate State.privBase State.dramBytes
  rw [h.1, h.2]

theorem State.keepsPrivate_rasLine (s : State) (type line : Nat) : s.KeepsPrivate (s.rasLine type line) := by
  unfold State.rasLine State.ras
  extract_lets
  split <;> exact ⟨rfl, rfl⟩

theorem State.keepsPrivate_condemn (s : State) (k : Nat) : s.KeepsPrivate (s.condemn k) := by
  unfold State.condemn
  split <;> exact ⟨rfl, rfl⟩

theorem State.keepsPrivate_countCorrected (s : State) (line : Nat) : s.KeepsPrivate (s.countCorrected line) := by
  unfold State.countCorrected
  extract_lets k now c c' _ t
  have ht : s.KeepsPrivate t := ⟨rfl, rfl⟩
  split
  · exact ht.trans (State.keepsPrivate_condemn ..)
  · exact ht

theorem State.keepsPrivate_putSide (s : State) (line : Nat) (x : Side) : s.KeepsPrivate (s.putSide line x) := ⟨rfl, rfl⟩

theorem State.keepsPrivate_corrected (s : State) (line : Nat) : s.KeepsPrivate (s.corrected line) := by
  unfold State.corrected
  dsimp only
  split
  · exact ((State.keepsPrivate_putSide ..).trans (State.keepsPrivate_rasLine ..)).trans (State.keepsPrivate_countCorrected ..)
  · exact ⟨rfl, rfl⟩

theorem State.keepsPrivate_checkRead (s : State) (world : Option Nat) (pa n : Nat) :
    s.KeepsPrivate (s.checkRead world pa n).1 := by
  unfold State.checkRead
  split
  · exact ⟨rfl, rfl⟩
  · refine foldl_keeps (fun a : State × Bool => s.KeepsPrivate a.1) _ _ _ ⟨rfl, rfl⟩ fun a b h => ?_
    split
    · exact h.trans (State.keepsPrivate_corrected ..)
    · exact h
    · dsimp only
      split
      · exact h
      · exact h.trans ((State.keepsPrivate_rasLine ..).trans (State.keepsPrivate_condemn ..))
    · exact h.trans ((State.keepsPrivate_putSide ..).trans (State.keepsPrivate_rasLine ..))

theorem State.keepsPrivate_of_dataCheck_ok {w : Wave} {n : Nat} {l : List (Nat × Nat)} {s s' : State}
    (h : s.dataCheck w n l = .ok s') : s.KeepsPrivate s' := by
  induction l generalizing s with
  | nil =>
    cases h
    exact ⟨rfl, rfl⟩
  | cons x l ih =>
    rw [State.dataCheck] at h
    split at h
    · split at h <;> cases h
    · exact (State.keepsPrivate_checkRead ..).trans (ih h)

end Sys2Proof.Machine

namespace Sys2Proof.Proofs

open Sys2Proof Sys2Proof.Machine

/-! ### An access whose lanes have reached memory -/

/-- An access whose lanes have passed formation and translation goes on in the state after them. -/
theorem State.access_of_reaches {i : Instr} {f : FmtM} {useIndex : Bool} {n : Nat} {acc : Access} {s s1 s2 : State} {w : Wave}
    {l : List (Nat × GAddr)} {pas : List (Nat × Nat)} (h : reaches i f useIndex n acc s w s1 l pas s2) (hc : s1.cur = s.cur)
    (k : (Nat → Nat) → List (Nat × Nat) → State → Act) :
    s1.access s1.cur (tgetD s1.waves s.cur w) f useIndex n acc (actingLanes f (w.active i)) k = k (s1.laneAddr l) pas s2 := by
  obtain ⟨hl, ⟨s', hx, rfl⟩, -⟩ := h
  have ha : s'.laneAddr l = s1.laneAddr l := by
    rw [(State.traffic_of_xlateAll_ok hx).rest]
    rfl
  unfold State.access
  rw [hl]
  dsimp only
  rw [hx]
  dsimp only
  rw [ha, hc]

/-- What translation leaves of the state in which an access goes on: the numbers of the issuing wave and of every world. -/
theorem State.cur_of_reaches {i : Instr} {f : FmtM} {useIndex : Bool} {n : Nat} {acc : Access} {s s1 s2 : State} {w : Wave}
    {l : List (Nat × GAddr)} {pas : List (Nat × Nat)} (h : reaches i f useIndex n acc s w s1 l pas s2) (hc : s1.cur = s.cur) :
    s2.cur = s.cur := by
  obtain ⟨-, ⟨s', hx, rfl⟩, -⟩ := h
  rw [State.updWave_eq]
  exact (State.traffic_of_xlateAll_ok hx).cur_eq.trans hc

/-- Translation clears the denied pages of the issuing wave, and changes no more of it. -/
theorem Wave.of_reaches {i : Instr} {f : FmtM} {useIndex : Bool} {n : Nat} {acc : Access} {s s1 s2 : State} {w : Wave}
    {l : List (Nat × GAddr)} {pas : List (Nat × Nat)} (h : reaches i f useIndex n acc s w s1 l pas s2) :
    tgetD s2.waves s.cur (tgetD s1.waves s.cur w) = { tgetD s1.waves s.cur w with denied := [] } ∨
      tgetD s2.waves s.cur (tgetD s1.waves s.cur w) = tgetD s1.waves s.cur w := by
  obtain ⟨-, ⟨s', hx, rfl⟩, -⟩ := h
  have hw := (State.traffic_of_xlateAll_ok hx).waves_eq
  unfold State.updWave
  rw [hw]
  cases ht : tget s1.waves s.cur with
  | none =>
    refine .inr ?_
    dsimp only
    rw [hw, tgetD_tgetD]
  | some v =>
    refine .inl ?_
    dsimp only
    rw [State.putWave_waves, tgetD_tset_same, tgetD, ht]
    rfl

/-! ### Loads (R55, R272) -/

/-- A `g:` load whose lanes are of this node and pass the data step becomes outstanding. -/
theorem loadG_reaches {i : Instr} {f : FmtM} {signed : Bool} {s s1 s2 s3 : State} {w : Wave} {l : List (Nat × GAddr)}
    {pas : List (Nat × Nat)} (hg : goesOn i f f.order.toNat s w s1)
    (hr : reaches i f true (2 ^ f.width.toNat) .load s w s1 l pas s2)
    (hd : s2.dataCheck (tgetD s1.waves s.cur w) (2 ^ f.width.toNat) pas = .ok s3) :
    let w3 := tgetD s3.waves s.cur (tgetD s1.waves s.cur w)
    let n := 2 ^ f.width.toNat
    w.hold = [] → w3.hold = [] → ¬(w3.sup = true ∧ ∃ y ∈ pas, s3.inPrivate y.2 = true ∧ s3.queued w3.core y.2 n = true) →
    let u := s3.fillRequests w3 pas
    let op : LoadOp := { stamp := u.nextId, dst := f.data, width := n, signed := signed, inv := decide (f.order = 1#3), who := u.stampOf w3,
                         lanes := pas.map (fun y => (y.1, match (if w3.sup = true ∧ u.inPrivate y.2 = true then u.viewBytes y.2 n
                                                                else none) with
                           | some bs => LoadSrc.known bs
                           | none => .phys y.2)) }
    let gate : List Gate := if f.order = 2#3 ∨ f.order = 5#3 then [.acquire u.nextId f.scope.toNat] else []
    loadG i f signed State.viewBytes s = .next ({ u.putWave s.cur { w3 with
        regs := w3.regs.clearFull f.data (wordsM f.width) (actingLanes f (w.active i))
        loads := w3.loads ++ [op], gates := w3.gates ++ gate } with nextId := u.nextId + 1 }.advance s.cur) := by
  intro w3 n hh hh3 hp u op gate
  obtain ⟨hi, hm, hbef⟩ := hg
  have hc1 := (State.waited_before hbef).cur_eq
  have hc2 := State.cur_of_reaches hr hc1
  have ht := State.traffic_of_dataCheck_ok hd
  have hloc := filter_local hr.2.2
  have hw3 : tgetD s2.waves s.cur (tgetD s1.waves s.cur w) = w3 := by rw [← ht.waves_eq]
  have hw3' : tgetD s3.waves s.cur w3 = w3 := tgetD_tgetD ..
  have hsame : w3.world = (tgetD s1.waves s.cur w).world ∧ w3.core = (tgetD s1.waves s.cur w).core := by
    rw [← hw3]
    rcases Wave.of_reaches hr with h | h <;> rw [h] <;> exact ⟨rfl, rfl⟩
  have hpriv : (w3.sup && pas.any fun x => s2.inPrivate x.2 && s2.queued w3.core x.2 n) = false := by
    have hk := State.keepsPrivate_of_dataCheck_ok hd
    simp only [← hk.inPrivate_eq, ← ht.queued_eq]
    simpa using hp
  have hrem : ∀ x ∈ pas, u.isRemote x.2 = false := fun x hx => by
    rw [(State.traffic_fillRequests ..).isRemote_eq, ht.isRemote_eq, hr.2.2 x hx]
  refine issue_done hi ?_
  dsimp only
  rw [if_neg hm, hh, if_neg (by decide), State.gated_of_before hbef]
  refine (State.access_of_reaches hr hc1 _).trans ?_
  rw [show widthOf f = n from rfl, hc2, hw3, hloc.1, hloc.2, if_neg (fun h => h.1 rfl), if_neg (by rw [hpriv]; decide)]
  have hrl : s2.remoteLoad s.cur w3 n (s1.laneAddr l) [] = .have [] s2 := by
    unfold State.remoteLoad
    simp [hh3]
  rw [hrl]
  dsimp only
  rw [State.dataCheck_congr hsame.1 hsame.2, hd]
  dsimp only
  rw [ht.cur_eq, hc2, hw3', (State.traffic_fillRequests s3 w3 pas).cur_eq, ht.cur_eq, hc2]
  have hlanes : pas.map (fun x => (x.1, match ([] : List (Nat × List Byte)).find? (fun b => decide (b.1 = x.1)) with
      | some b => LoadSrc.known b.2
      | none => if u.isRemote x.2 then .away x.2
        else (match (if w3.sup && u.inPrivate x.2 then u.viewBytes x.2 n else none) with
          | some b => .known b
          | none => .phys x.2))) = op.lanes := by
    refine List.map_congr_left fun x hx => ?_
    simp only [List.find?_nil, hrem x hx, Bool.false_eq_true, if_false, Bool.and_eq_true]
  refine Eq.trans (congrArg (fun ls => Act.done (u.issueLoad s.cur w3 { op with lanes := ls } (wordsM f.width)
    (actingLanes f (w.active i)) (if f.order = 2#3 ∨ f.order = 5#3 then some f.scope.toNat else none))) hlanes) ?_
  unfold State.issueLoad
  by_cases ho : f.order = 2#3 ∨ f.order = 5#3
  · simp only [gate, if_pos ho]
    rfl
  · simp only [gate, if_neg ho]
    rfl

/-- Settles O34: the lanes are of this node and pass the data step, so that nothing is sent and nothing raised, and the load joins
the outstanding ones. -/
theorem globalLoads : Obligations.GlobalLoads := by
  unfold Obligations.GlobalLoads
  intro f s w s1 s2 s3 l pas x hx hg hr hd
  simp only [List.mem_cons, List.not_mem_nil, or_false] at hx
  rcases hx with rfl | rfl
  · exact loadG_reaches hg hr hd
  · exact loadG_reaches hg hr hd

/-! ### The store queue (R125) -/

/-- The entry that a store, an atomic or a cache operation of local lanes becomes. -/
def localEntry (u : State) (w : Wave) (kind : QKind) (lanes : List QLane) (unit : Nat) : QEntry :=
  { stamp := u.nextId, kind := kind, lanes := lanes.filter (fun l => !u.cutOff w.world l.pa), remoteOp := none, engine := false
    whole := [], who := u.stampOf w, after := w.seen, unit := unit }

/-- An entry whose lanes are all of this node counts no posted write: it joins the queue of its wave under the next number. -/
theorem State.enqueue_local {u : State} {id : Nat} {w : Wave} {kind : QKind} {lanes : List QLane} {gates : List Gate} {unit : Nat}
    (hp : ∀ l ∈ lanes, l.posted = false) : u.enqueue id w kind lanes gates unit = ((u.putWave id w).putWave id { w with
      storeQ := w.storeQ ++ [localEntry u w kind lanes unit], gates := w.gates ++ gates }).bump := by
  have hs : shownLanes kind lanes = lanes := by
    unfold shownLanes
    split
    · exact List.filter_eq_self.mpr fun l hl => by simp [hp l hl]
    · rfl
  have hn : ((lanes.filter fun l => !u.cutOff w.world l.pa).filter fun l => l.posted).length = 0 := by
    rw [List.length_eq_zero_iff, List.filter_eq_nil_iff]
    exact fun l hl => by simp [hp l (List.mem_filter.mp hl).1]
  unfold State.enqueue
  dsimp only
  rw [hs, if_pos hn, if_pos hn, State.putWave_waves, tgetD_tset_same]
  rfl

/-- The lanes that a store puts into the queue, as the statement of the store lists them. -/
theorem filter_map_lanes {u : State} {world : Nat} {pas : List (Nat × Nat)} (g : Nat × Nat → QLane) (hg : ∀ x, (g x).pa = x.2) :
    (pas.map g).filter (fun l => !u.cutOff world l.pa) = (pas.filter (fun x => !u.cutOff world x.2)).map g := by
  rw [List.filter_map]
  simp only [Function.comp_def, hg]

/-- The state after a local entry has joined the queue of the issuing wave: memory as before, the wave with the entry, and every
other wave as it was. -/
theorem enqueued {s2 u : State} {id : Nat} {w2 : Wave} {q : QEntry} {gates : List Gate} (hm : u.mem = s2.mem)
    (hw : u.waves = s2.waves) :
    let t := ((u.putWave id w2).putWave id { w2 with storeQ := w2.storeQ ++ [q], gates := w2.gates ++ gates }).bump
    t.mem = s2.mem ∧ t.nextId = u.nextId + 1 ∧
      tget t.waves id = some { w2 with storeQ := w2.storeQ ++ [q], gates := w2.gates ++ gates } ∧
      ∀ k, k ≠ id → tget t.waves k = tget s2.waves k :=
  ⟨hm, rfl, tget_tset_same .., fun k hk => (tget_tset_other _ _ _ _ hk).trans ((tget_tset_other _ _ _ _ hk).trans (by rw [hw]))⟩

theorem State.storeRoom_local {s : State} {w : Wave} {pas : List (Nat × Nat)} (h : w.queueRoom = true)
    (hl : ∀ x ∈ pas, s.isRemote x.2 = false) : s.storeRoom w pas = true := by
  have : pas.any (fun x => s.isRemote x.2) = false := List.any_eq_false.mpr fun x hx => by simp [hl x hx]
  rw [State.storeRoom, h, this]
  rfl

/-- The queue lanes of a store whose lanes are of this node: none is posted. -/
def storeLanesOf (pas : List (Nat × Nat)) (bytes : Nat → List Byte) (va : Nat → Nat) : List QLane :=
  pas.map fun x => { lane := x.1, pa := x.2, bytes := bytes x.1, b := 0#64, cmp := 0#64, posted := false, va := va x.1 }

theorem storeLanesOf_eq {s : State} {pas : List (Nat × Nat)} {bytes bytes' : Nat → List Byte} {va : Nat → Nat}
    (hl : ∀ x ∈ pas, s.isRemote x.2 = false) (hb : ∀ x ∈ pas, bytes' x.1 = bytes x.1) :
    pas.map (fun x => ({ lane := x.1, pa := x.2, bytes := bytes' x.1, b := 0#64, cmp := 0#64, posted := s.isRemote x.2
                         va := va x.1 } : QLane)) = storeLanesOf pas bytes va :=
  List.map_congr_left fun x hx => by rw [hl x hx, hb x hx]

/-- A store whose lanes are of this node puts its entry into the queue. -/
theorem State.enqueue_store {s2 : State} {id : Nat} {w : Wave} {pas : List (Nat × Nat)} {bytes : Nat → List Byte} {va : Nat → Nat}
    {gates : List Gate} {unit : Nat} :
    let u := s2.fillRequests w pas
    u.enqueue id w .store (storeLanesOf pas bytes va) gates unit = ((u.putWave id w).putWave id { w with
      storeQ := w.storeQ ++ [{ stamp := u.nextId, kind := .store, remoteOp := none, engine := false, whole := [], who := u.stampOf w,
                               after := w.seen, unit := unit,
                               lanes := (pas.filter (fun x => !s2.cutOff w.world x.2)).map (fun x =>
                                 { lane := x.1, pa := x.2, bytes := bytes x.1, b := 0#64, cmp := 0#64, posted := false
                                   va := va x.1 }) }]
      gates := w.gates ++ gates }).bump := by
  intro u
  rw [State.enqueue_local, localEntry, storeLanesOf, filter_map_lanes _ fun _ => rfl]
  · simp only [(State.traffic_fillRequests s2 w pas).cutOff_eq, u]
  · intro l hl
    obtain ⟨x, -, rfl⟩ := List.mem_map.mp hl
    rfl

/-- The number that a list of lanes and numbers holds for a lane. -/
def foundAt (l : List (Nat × Nat)) (lane : Nat) : Nat :=
  match l.find? (fun y => decide (y.1 = lane)) with
  | some y => y.2
  | none => 0

/-- Settles O35: with room in the queue and every lane of this node, the entry joins the queue and memory stays. -/
theorem globalStores : Obligations.GlobalStores := by
  unfold Obligations.GlobalStores
  intro f s w s1 s2 l pas w1 w2 queued
  have hfill := State.traffic_fillRequests s2 w2 pas
  refine ⟨fun hg hr h1 h2 _ => ?_, fun hg hr h1 h2 _ slot hslot hpas => ?_⟩
  · obtain ⟨hi, hm, hbef⟩ := hg
    have hc1 := (State.waited_before hbef).cur_eq
    have hc2 := State.cur_of_reaches hr hc1
    refine ⟨_, issue_done hi ?_, enqueued (State.fillRequests_mem s2 w2 pas) hfill.waves_eq⟩
    dsimp only
    rw [if_neg hm, State.gated_of_before hbef, if_neg (by rw [h1]; decide)]
    refine (State.access_of_reaches hr hc1 _).trans ?_
    rw [hc2, show tgetD s2.waves s.cur (tgetD s1.waves s.cur w) = w2 from rfl,
      if_neg (by rw [State.storeRoom_local h2 hr.2.2]; decide), (filter_local hr.2.2).2, hfill.cur_eq, hc2,
      storeLanesOf_eq (bytes := w2.storeBytes f) hr.2.2 fun _ _ => rfl]
    exact congrArg Act.done State.enqueue_store
  · obtain ⟨hi, hm, hbef⟩ := hg
    have hc1 := (State.waited_before hbef).cur_eq
    have hc2 := State.cur_of_reaches hr hc1
    refine ⟨_, issue_done hi ?_, enqueued (State.fillRequests_mem s2 w2 pas) hfill.waves_eq⟩
    dsimp only
    rw [if_neg hm, State.gated_of_before hbef, if_neg (by rw [h1]; decide)]
    refine (State.access_of_reaches hr hc1 _).trans ?_
    rw [hc2, show tgetD s2.waves s.cur (tgetD s1.waves s.cur w) = w2 from rfl, formLanes_of_forall_ok hslot]
    dsimp only
    have hfind (x : Nat × Nat) (hx : x ∈ pas) :
        leBytes 16 (foundAt ((Mask.lanes (actingLanes f (w.active (.stn f)))).map fun k => (k, slot k)) x.1) =
          leBytes 16 (slot x.1) := by
      rw [foundAt, find?_map_lane slot (by rw [← hpas]; exact List.mem_map_of_mem hx)]
    rw [if_neg (by rw [State.storeRoom_local h2 hr.2.2]; decide), (filter_local hr.2.2).2, hfill.cur_eq, hc2]
    refine Eq.trans (congrArg (fun ls => Act.done (State.enqueue _ s.cur w2 .store ls [] 16)) (storeLanesOf_eq
      (bytes' := fun k => leBytes 16 (foundAt _ k)) (bytes := fun k => leBytes 16 (slot k)) (va := s1.laneAddr l) hr.2.2 hfind)) ?_
    exact congrArg Act.done State.enqueue_store

/-! ### Atomics (R277, R278) -/

/-- The queue lanes of an atomic whose lanes are of this node: none is posted, none away. -/
def atomLanesOf (w : Wave) (op : AtomOp) (o : Operand) (words : Nat) (va : Nat → Nat) (pas : List (Nat × Nat)) : List QLane :=
  pas.map fun x => { lane := x.1, pa := x.2, bytes := [], b := BitVec.ofNat 64 (w.atomOperand op o words x.1).1
                     cmp := BitVec.ofNat 64 (w.atomOperand op o words x.1).2, posted := false, va := va x.1 }

theorem State.atomLanes_local {s : State} {w : Wave} {op : AtomOp} {o : Operand} {words : Nat} {va : Nat → Nat}
    {pas : List (Nat × Nat)} {ret : Bool} (hl : ∀ x ∈ pas, s.isRemote x.2 = false) :
    s.atomLanes w op o words va pas ret = atomLanesOf w op o words va pas :=
  List.map_congr_left fun x hx => by
    rw [hl x hx]
    rfl

/-- An atomic whose lanes are of this node puts its entry into the queue. -/
theorem State.enqueue_atomic {s3 u : State} {id : Nat} {w w' : Wave} {pas : List (Nat × Nat)} {op op' : AtomOp} {n words : Nat}
    {o : Operand} {ret : Option Operand} {va : Nat → Nat} {gates : List Gate} (hu : s3.Traffic u) (hw : w'.world = w.world) :
    u.enqueue id w' (.atomic op n ret) (atomLanesOf w op' o words va pas) gates = ((u.putWave id w').putWave id { w' with
      storeQ := w'.storeQ ++ [{ stamp := u.nextId, kind := .atomic op n ret, remoteOp := none, engine := false, whole := []
                                who := u.stampOf w', after := w'.seen,
                                lanes := atomLanesOf w op' o words va (pas.filter (fun x => !s3.cutOff w.world x.2)) }]
      gates := w'.gates ++ gates }).bump := by
  rw [State.enqueue_local, localEntry, atomLanesOf, filter_map_lanes _ fun _ => rfl]
  · simp only [hu.cutOff_eq, hw]
    rfl
  · intro l hl
    obtain ⟨x, -, rfl⟩ := List.mem_map.mp hl
    rfl

/-- An ATOM whose lanes are of this node and pass the data step joins the store queue. -/
theorem atomG_reaches {i : Instr} {op : AtomOp} {f : FmtM} {s s1 s2 s3 : State} {w : Wave} {l : List (Nat × GAddr)}
    {pas : List (Nat × Nat)} (hg : goesOn i f f.order.toNat s w s1)
    (hr : reaches i f false (2 ^ f.width.toNat) .atomic s w s1 l pas s2)
    (hd : s2.dataCheck (tgetD s1.waves s.cur w) (2 ^ f.width.toNat) pas = .ok s3) :
    let w1 := tgetD s1.waves s.cur w
    let w3 := tgetD s3.waves s.cur w1
    let u := s3.fillRequests w3 pas
    let gates : List Gate := if f.order = 5#3 then [.acquire u.nextId f.scope.toNat, .fence f.scope.toNat]
      else if f.order = 2#3 ∨ f.order = 4#3 then [.acquire u.nextId f.scope.toNat] else []
    w1.queueRoom = true → w.hold = [] → w.replay = none → w3.replay = none →
    ∃ t : State, atomG i op f s = .next (t.advance s.cur) ∧ t.mem = s3.mem ∧
      tget t.waves s.cur = some { w3 with
        regs := w3.regs.clearFull f.data (wordsM f.width) (actingLanes f (w.active i))
        storeQ := w3.storeQ ++ [{ stamp := u.nextId, kind := .atomic op (2 ^ f.width.toNat) (some f.data)
                                  lanes := atomLanesOf w3 op f.index (wordsM f.width) (s1.laneAddr l)
                                    (pas.filter (fun x => !s3.cutOff w3.world x.2))
                                  remoteOp := none, engine := false, whole := [], who := u.stampOf w3, after := w3.seen }]
        gates := w3.gates ++ gates } := by
  intro w1 w3 u gates hq hh hre hre3
  obtain ⟨hi, hm, hbef⟩ := hg
  have hc1 := (State.waited_before hbef).cur_eq
  have hc2 := State.cur_of_reaches hr hc1
  have ht := State.traffic_of_dataCheck_ok hd
  have hu : s3.Traffic u := State.traffic_fillRequests ..
  have hloc := filter_local hr.2.2
  have hrem : ∀ x ∈ pas, u.isRemote x.2 = false := fun x hx => by rw [hu.isRemote_eq, ht.isRemote_eq, hr.2.2 x hx]
  have hmask : w.replayMask = none := by rw [Wave.replayMask, hre]
  have hcu : u.cur = s.cur := hu.cur_eq.trans (ht.cur_eq.trans hc2)
  let w' : Wave := { w3 with regs := w3.regs.clearFull f.data (wordsM f.width) (actingLanes f (w.active i)) }
  let v : Wave := { w' with
    storeQ := w'.storeQ ++ [{ stamp := u.nextId, kind := .atomic op (2 ^ f.width.toNat) (some f.data), remoteOp := none
                              engine := false, whole := [], who := u.stampOf w', after := w'.seen
                              lanes := atomLanesOf w3 op f.index (wordsM f.width) (s1.laneAddr l)
                                (pas.filter (fun x => !s3.cutOff w3.world x.2)) }]
    gates := w'.gates ++ atomGates f.order.toNat f.scope.toNat u.nextId }
  have hv : v.endReplay = v := by
    unfold Wave.endReplay Wave.replayMask
    rw [show v.replay = none from hre3]
    rfl
  have ho (k : Nat) (hk : k < 8) : f.order.toNat = k ↔ f.order = BitVec.ofNat 3 k := by
    rw [← BitVec.toNat_inj, BitVec.toNat_ofNat, Nat.mod_eq_of_lt hk]
  have hgates : atomGates f.order.toNat f.scope.toNat u.nextId = gates := by
    simp only [atomGates, gates, ho 5 (by decide), ho 2 (by decide), ho 4 (by decide)]
  refine ⟨((u.putWave s.cur w').putWave s.cur v).bump.updWave s.cur Wave.endReplay, issue_done hi ?_, ?_, ?_⟩
  · dsimp only
    rw [hmask, hh]
    dsimp only
    rw [if_neg (by decide), if_neg hm, State.gated_of_before hbef, if_neg (by rw [hq]; decide)]
    refine (State.access_of_reaches hr hc1 _).trans ?_
    rw [hloc.1, hloc.2, show widthOf f = 2 ^ f.width.toNat from rfl, hd]
    dsimp only
    rw [if_neg (by simp), ht.cur_eq, hc2, show tgetD s3.waves s.cur (tgetD s1.waves s.cur w) = w3 from rfl,
      (State.traffic_fillRequests s3 w3 pas).cur_eq, ht.cur_eq, hc2, State.atomLanes_local hrem, List.isEmpty_nil, if_pos rfl]
    exact congrArg (fun t : State => Act.done (t.updWave s.cur Wave.endReplay)) (State.enqueue_atomic (w := w3) (w' := w') hu rfl)
  · rw [State.updWave_mem]
    exact State.fillRequests_mem ..
  · have hget : tget ((u.putWave s.cur w').putWave s.cur v).bump.waves s.cur = some v := tget_tset_same ..
    rw [State.updWave, hget]
    dsimp only
    rw [hv, State.putWave_waves, tget_tset_same, ← hgates]
    rfl

/-- A RED whose lanes are of this node and pass the data step joins the store queue. -/
theorem redG_reaches {i : Instr} {op : AtomOp} {f : FmtM} {s s1 s2 s3 : State} {w : Wave} {l : List (Nat × GAddr)}
    {pas : List (Nat × Nat)} (hg : goesOn i f f.order.toNat s w s1)
    (hr : reaches i f true (2 ^ f.width.toNat) .atomic s w s1 l pas s2)
    (hd : s2.dataCheck (tgetD s1.waves s.cur w) (2 ^ f.width.toNat) pas = .ok s3) :
    let w1 := tgetD s1.waves s.cur w
    let w3 := tgetD s3.waves s.cur w1
    let u := s3.fillRequests w3 pas
    w1.queueRoom = true → w3.queueRoom = true →
    ∃ t : State, redG i op f s = .next (t.advance s.cur) ∧ t.mem = s3.mem ∧
      tget t.waves s.cur = some { w3 with
        storeQ := w3.storeQ ++ [{ stamp := u.nextId, kind := .atomic op (2 ^ f.width.toNat) none
                                  lanes := atomLanesOf w3 op f.data (wordsM f.width) (s1.laneAddr l)
                                    (pas.filter (fun x => !s3.cutOff w3.world x.2))
                                  remoteOp := none, engine := false, whole := [], who := u.stampOf w3, after := w3.seen }] } := by
  intro w1 w3 u hq hq3
  obtain ⟨hi, hm, hbef⟩ := hg
  have hc1 := (State.waited_before hbef).cur_eq
  have hc2 := State.cur_of_reaches hr hc1
  have ht := State.traffic_of_dataCheck_ok hd
  have hloc := filter_local hr.2.2
  let u' : State := u.dropLines (dieOf w3.core) w3.world []
  have hu : s3.Traffic u' := (State.traffic_fillRequests s3 w3 pas).trans (.of_mem rfl rfl rfl)
  have hrem3 : ∀ x ∈ pas, s3.isRemote x.2 = false := fun x hx => by rw [ht.isRemote_eq, hr.2.2 x hx]
  have hrem : ∀ x ∈ pas, u'.isRemote x.2 = false := fun x hx => by rw [hu.isRemote_eq, hrem3 x hx]
  let v : Wave := { w3 with
    storeQ := w3.storeQ ++ [{ stamp := u'.nextId, kind := .atomic op (2 ^ f.width.toNat) none, remoteOp := none
                              engine := false, whole := [], who := u'.stampOf w3, after := w3.seen
                              lanes := atomLanesOf w3 op f.data (wordsM f.width) (s1.laneAddr l)
                                (pas.filter (fun x => !s3.cutOff w3.world x.2)) }]
    gates := w3.gates ++ [] }
  refine ⟨((u'.putWave s.cur w3).putWave s.cur v).bump, issue_done hi ?_, State.fillRequests_mem .., ?_⟩
  · dsimp only
    rw [if_neg hm, State.gated_of_before hbef, if_neg (by rw [hq]; decide)]
    refine (State.access_of_reaches hr hc1 _).trans ?_
    rw [hloc.2, show widthOf f = 2 ^ f.width.toNat from rfl, hd]
    dsimp only
    rw [ht.cur_eq, hc2, show tgetD s3.waves s.cur (tgetD s1.waves s.cur w) = w3 from rfl,
      if_neg (by rw [State.storeRoom_local hq3 hrem3]; decide), (filter_local hrem3).1]
    show Act.done (u'.enqueue u'.cur w3 (.atomic op (2 ^ f.width.toNat) none)
      (u'.atomLanes w3 op f.data (wordsM f.width) (s1.laneAddr l) pas) []) = _
    rw [hu.cur_eq, ht.cur_eq, hc2, State.atomLanes_local hrem]
    exact congrArg Act.done (State.enqueue_atomic hu rfl)
  · refine (tget_tset_same ..).trans ?_
    simp only [v, List.append_nil]
    rfl

/-- Settles O36: the lanes are of this node and pass the data step, so that the atomic joins the store queue; an ATOM empties its
destination and puts its gates behind it. -/
theorem atomics : Obligations.Atomics := by
  unfold Obligations.Atomics
  intro f s w s1 s2 s3 l pas w1 w3 words lanes ready u gates
  refine ⟨fun x hx hrd => ?_, fun x hx hrd => ?_⟩
  · obtain ⟨hg, hr, hd, -, -, hq, -, -, hh, hre, hre3⟩ := hrd
    simp only [atoms, List.mem_cons, List.not_mem_nil, or_false] at hx
    rcases hx with rfl | rfl | rfl | rfl | rfl | rfl | rfl | rfl | rfl | rfl | rfl | rfl | rfl | rfl | rfl
    all_goals exact atomG_reaches hg hr hd hq hh hre hre3
  · obtain ⟨hg, hr, hd, -, -, hq, hq3, -⟩ := hrd
    simp only [reds, List.mem_cons, List.not_mem_nil, or_false] at hx
    rcases hx with rfl | rfl | rfl | rfl | rfl | rfl | rfl | rfl | rfl | rfl | rfl | rfl | rfl
    all_goals exact redG_reaches hg hr hd hq hq3

/-! ### LDG2L, PREFETCH and cache maintenance (R280 to R283) -/

/-- Where a check passes in every lane of a list, a check that asks it and one more, which passes there, gives both values. -/
theorem formLanes_pair {α β : Type} {a : Nat → α} {g : Nat → Except Cond β} {h : Nat → Except Cond (α × DWord)} {val : β → DWord} :
    ∀ {ls : List Nat} {l : List (Nat × β)}, (∀ k ∈ ls, ∀ b, g k = .ok b → h k = .ok (a k, val b)) → formLanes g ls = .ok l →
      formLanes h ls = .ok (l.map fun x => (x.1, a x.1, val x.2))
  | [], l, _, hl => by
    cases hl
    rfl
  | k :: ks, l, hh, hl => by
    rw [formLanes] at hl
    split at hl
    · cases hl
    next b hb =>
      split at hl
      · cases hl
      next r hr =>
        cases hl
        rw [formLanes, hh k List.mem_cons_self b hb]
        dsimp only
        rw [formLanes_pair (fun j hj => hh j (List.mem_cons_of_mem _ hj)) hr]
        rfl

end Sys2Proof.Proofs

namespace Sys2Proof.Machine

/-! ### What PREFETCH leaves unchanged -/

theorem State.traffic_setMap (s : State) (h page m : Nat) : s.Traffic (s.setMap h page m) :=
  State.Traffic.trans (t := s.dropTlb _) (.of_mem rfl rfl rfl) (State.traffic_pokeRaw ..)

theorem State.traffic_joinPending (s : State) (who : Stamp) (u : MissUnit) : s.Traffic (s.joinPending who u) := by
  have h1 : s.Traffic (if s.xl.pending.length < 4096 then s
      else s.request s.privBase { who with core := Config.cores, index := 9 } true) :=
    ite_cases (P := fun t => s.Traffic t) (.refl s) (State.traffic_request ..)
  unfold State.joinPending
  split
  · exact .refl s
  · dsimp only
    refine h1.trans ?_
    generalize (if s.xl.pending.length < 4096 then s
      else s.request s.privBase { who with core := Config.cores, index := 9 } true) = t
    have h2 : t.Traffic { t with xl := { t.xl with pending := t.xl.pending ++ [(u, who)] } } := .of_mem rfl rfl rfl
    cases u with
    | page _ _ => exact h2.trans (State.traffic_request ..)
    | objPage h p => exact h2.trans (State.traffic_setMap ..)
    | tier _ _ _ => exact h2
    | obj _ => exact h2
    | resolve _ _ _ => exact h2

theorem State.traffic_warm (s : State) (w : Wave) (l : List (Nat × Nat)) (die world pa n : Nat) (inv : Option Word) (who : Stamp) :
    s.Traffic ((s.fillRequests w l).cacheRead die world pa n inv who).1 :=
  (State.traffic_fillRequests ..).trans (State.traffic_cacheRead ..)

theorem State.traffic_prefetchLane (s : State) (id : Nat) (w : Wave) (f : FmtM) (lane : Nat) :
    s.Traffic (s.prefetchLane id w f lane) := by
  unfold State.prefetchLane
  dsimp only
  split
  · exact .refl s
  next g hg =>
    split
    · exact .refl s
    · split
      · exact .refl s
      · exact .refl s
      next hx =>
        have h := State.traffic_xlate s w.path g .load [] (by rw [hx]; rfl)
        rw [hx] at h
        exact h.trans (State.traffic_joinPending ..)
      next hx =>
        have h := State.traffic_xlate s w.path g .load [] (by rw [hx]; rfl)
        rw [hx] at h
        exact h.trans (State.traffic_joinPending ..)
      · exact .refl s
      next hx =>
        have h := State.traffic_of_xlate_ok hx
        split
        · split
          · exact h
          · exact h.trans (State.traffic_send ..)
        · split
          · exact h.trans ((State.traffic_warm ..).trans (State.traffic_grant ..))
          · exact h.trans (State.traffic_warm ..)

/-- A base whose N is clear forms a flat address. -/
theorem State.formG_flat {s : State} {world base : Nat} {sum : Int} {width : Nat} {g : GAddr} (hb : base < 2 ^ 63)
    (h : s.formG world base sum width = .ok g) : ∃ a, g = .flat a := by
  have hn : bit base 63 = false := by rw [bit, Nat.testBit_eq_false_of_lt hb]
  unfold State.formG at h
  rw [if_neg (by rw [hn]; decide)] at h
  split at h
  · cases h
  · dsimp only at h
    split at h
    · cases h
    · split at h
      · cases h
      · cases h
        exact ⟨_, rfl⟩

/-- A flat address of a supervisor wave is physical: its lane walks no table, and a prefetch leaves memory as it is. -/
theorem State.prefetchLane_mem {s : State} {id : Nat} {w : Wave} {f : FmtM} {lane : Nat} (hs : w.sup = true)
    (ha : w.src f.base 2 lane < 2 ^ 63) : (s.prefetchLane id w f lane).mem = s.mem := by
  have hflat {g : GAddr} (hg : s.formLane w f true 1 lane = .ok g) : ∃ a, g = .flat a := State.formG_flat ha hg
  have hphys (a : Nat) : s.xlate w.path (.flat a) .load [] = (if a < 2 ^ 52 then .ok (s.hostPa w.world (s.ownPa a)) s
      else .cond { code := cWorld, step := stXlat, addr := a } s) := by
    unfold State.xlate
    dsimp only
    rw [if_pos (show w.path.phys = true from hs)]
    rfl
  unfold State.prefetchLane
  dsimp only
  split
  · rfl
  next g hg =>
    obtain ⟨a, rfl⟩ := hflat hg
    split
    · rfl
    · rw [hphys]
      split
      · rfl
      · rfl
      next hx => split at hx <;> cases hx
      next hx => split at hx <;> cases hx
      · rfl
      next hx =>
        split at hx
        · cases hx
          split
          · split <;> rfl
          · split
            · rw [State.grant_mem, State.cacheRead_mem, State.fillRequests_mem]
            · rw [State.cacheRead_mem, State.fillRequests_mem]
        · cases hx

end Sys2Proof.Machine

namespace Sys2Proof.Proofs

open Sys2Proof Sys2Proof.Machine

/-- The acting lanes of an instruction are active. -/
theorem mem_lanes_of_acting {f : FmtM} {m : Mask} {l : Nat} (h : l ∈ Mask.lanes (actingLanes f m)) : l ∈ Mask.lanes m := by
  unfold actingLanes at h
  split at h
  · exact h
  · rw [Mask.mem_lanes] at h ⊢
    exact ⟨h.1, Mask.has_lowest h.2⟩

/-- The gather operation that LDG2L counts (R280). -/
def gatherOp (s : State) (id : Nat) (w : Wave) (m : Mask) (n : Nat) (l : List (Nat × Nat × DWord)) : EngOp :=
  { kind := .ldg2l, wave := id, wg := w.wg, num := w.num, core := w.core, world := w.world, lane := Mask.first m, cls := 2
    seq := w.seqOf 2, svc := w.svc, deadline := s.deadlineOf w, blockAddr := 0#64, blockLen := 0, block := [], progress := 0
    state := .run, flags := 0#7, args := [n], lanes := l.map (fun x => (x.1, x.2.1, x.2.2))
    dests := [], cairns := [], amax := 0#64, unacked := 0, denied := []
    cover := [], lines := [], unfold := none, noPages := [] }

/-- LDG2L whose addresses are well formed counts one operation. -/
theorem ldg2l_counts {f : FmtM} {s s1 : State} {w : Wave} {l : List (Nat × GAddr)}
    (hg : goesOn (.ldg2l f) { f with scope := 0#3 } 0 s w s1) :
    let w1 := tgetD s1.waves s.cur w
    let m := actingLanes f (w.active (.ldg2l f))
    let n := 2 ^ f.width.toNat
    (∀ k ∈ Mask.lanes m, w1.src f.data 1 k % n = 0 ∧ w1.src f.data 1 k + n ≤ s1.lSize w1) →
    formLanes (s1.formLane w1 f true n) (Mask.lanes m) = .ok l →
    (∀ q ∈ w1.storeQ, q.engine = true ∧ q.covered = false) → s1.chipDue w1.core = false → w1.cntOf 2 < 63 →
    ∃ op : EngOp, exec (.ldg2l f) s =
        .next ((((s1.putOp s1.nextId op).putWave s.cur (w1.count 2 1)).bump).advance s.cur) ∧
      op.kind = .ldg2l ∧ op.cls = 2 ∧ op.seq = w1.seqOf 2 ∧ op.wave = s.cur ∧ op.world = w1.world ∧ op.state = .run ∧
      op.args = [n] ∧ op.lanes = l.map (fun x => (x.1, w1.src f.data 1 x.1, BitVec.ofNat 64 (s1.faultAddr x.2))) := by
  intro w1 m n ha hl hq hdue hcnt
  obtain ⟨hi, hm, hbef⟩ := hg
  have hc1 := (State.waited_before hbef).cur_eq
  have hout : w1.storesOut = true := List.all_eq_true.mpr fun q hm => by simp [QEntry.ordered, hq q hm]
  have hroom : w1.room 2 1 = true := decide_eq_true (by omega)
  have hform := formLanes_pair (a := fun k => w1.src f.data 1 k) (val := fun g => BitVec.ofNat 64 (s1.faultAddr g))
    (g := s1.formLane w1 f true n)
    (h := fun k => match (if w1.src f.data 1 k % n ≠ 0 then
        (.error { code := cAlign, step := stForm, addr := w1.src f.data 1 k } : Except Cond Nat)
      else if s1.lSize w1 < w1.src f.data 1 k + n then .error { code := cBounds, step := stForm, addr := w1.src f.data 1 k }
      else .ok (w1.src f.data 1 k)), s1.formLane w1 f true n k with
      | .error c, _ => .error c
      | .ok _, .error c => .error c
      | .ok a, .ok g => .ok (a, BitVec.ofNat 64 (s1.faultAddr g)))
    (fun k hk b hb => by
      obtain ⟨h1, h2⟩ := ha k hk
      rw [if_neg (not_not_intro h1), if_neg (by omega), hb]) hl
  refine ⟨gatherOp s1 s.cur w1 m n (l.map fun x => (x.1, w1.src f.data 1 x.1, BitVec.ofNat 64 (s1.faultAddr x.2))), issue_done hi ?_,
    rfl, rfl, rfl, rfl, rfl, rfl, rfl, by simp [gatherOp]⟩
  dsimp only
  rw [if_neg (show actingLanes f (w.active (.ldg2l f)) ≠ 0#32 from hm),
    State.gated_of_before (show s.before s.cur w 0 0 = .go s1 from hbef)]
  refine Eq.trans (congrArg (fun r => match r with
    | .error e => Act.raise (w1.recOf e.1 e.2) s1
    | .ok l => if !w1.storesOut ∨ !w1.room 2 1 ∨ s1.chipDue w1.core = true then Act.stay s1
      else .done (((s1.putOp s1.nextId (gatherOp s1 s1.cur w1 m n l)).putWave s1.cur (w1.count 2 1)).bump)) hform) ?_
  dsimp only
  rw [if_neg (by simp [hout, hroom, hdue]), hc1]

/-- CINV and CCLEAN whose targets translate join the store queue with their lines. -/
theorem cleanOp_joins {i : Instr} {f : FmtM} {inval : Bool} {s s1 s2 : State} {w : Wave} {l : List (Nat × GAddr)}
    {pas : List (Nat × Nat)} (hg : goesOn i { f with scope := 0#3 } 0 s w s1) :
    let w1 := tgetD s1.waves s.cur w
    let w2 := tgetD s2.waves s.cur w1
    w1.queueRoom = true → formLanes (s1.formLane w1 f true 1) (Mask.lanes (actingLanes f (w.active i))) = .ok l →
    s1.cleanAll w1 l = .ok pas s2 →
    ∃ t : State, cleanOp i f inval s = .next (t.advance s.cur) ∧ t.mem = s2.mem ∧
      tget t.waves s.cur = some { w2 with storeQ := w2.storeQ ++
        [{ stamp := s2.nextId, kind := .clean (dedupN (pas.flatMap (fun y => cleanLines (f.width == 1#3) y.2))) inval, lanes := []
           remoteOp := none, engine := false, whole := [], who := s2.stampOf w2, after := w2.seen }] } := by
  intro w1 w2 hq hl hx
  obtain ⟨hi, hm, hbef⟩ := hg
  have hc1 := (State.waited_before hbef).cur_eq
  have hc2 := (State.traffic_of_cleanAll_ok hx).cur_eq
  let v : Wave := { w2 with
    storeQ := w2.storeQ ++ [localEntry s2 w2 (.clean (dedupN (pas.flatMap (fun y => cleanLines (f.width == 1#3) y.2))) inval) [] 8]
    gates := w2.gates ++ [] }
  refine ⟨((s2.putWave s.cur w2).putWave s.cur v).bump, issue_done hi ?_, rfl, ?_⟩
  · dsimp only
    rw [if_neg (show actingLanes f (w.active i) ≠ 0#32 from hm),
      State.gated_of_before (show s.before s.cur w 0 0 = .go s1 from hbef), if_neg (by rw [hq]; decide)]
    rw [show formLanes (s1.formLane (tgetD s1.waves s.cur w) f true 1) (Mask.lanes (actingLanes f (w.active i))) = .ok l from hl]
    dsimp only
    rw [show s1.cleanAll (tgetD s1.waves s.cur w) l = .ok pas s2 from hx]
    dsimp only
    rw [hc2, hc1, State.enqueue_local (by simp)]
  · refine (tget_tset_same ..).trans ?_
    simp only [v, List.append_nil]
    rfl

/-- Settles O40: LDG2L becomes one operation, the prefetch of a lane is traffic of the memory system, and CINV and CCLEAN join the
store queue with the lines of their targets. -/
theorem cacheInstructions : Obligations.CacheInstructions := by
  unfold Obligations.CacheInstructions
  intro f s w
  refine ⟨fun s1 l hg => ldg2l_counts hg, fun hi => ?_, fun s1 s2 l pas x hx hg => ?_⟩
  · refine ⟨_, issue_done hi rfl, (State.Traffic.foldl _ (fun _ _ => State.traffic_prefetchLane ..) _ s).rest, fun hs ha => ?_⟩
    refine List.foldlRecOn (motive := fun t : State => t.mem = s.mem) _ _ rfl fun t ht l hl => ?_
    exact (State.prefetchLane_mem hs (ha l (mem_lanes_of_acting hl))).trans ht
  · simp only [List.mem_cons, List.not_mem_nil, or_false] at hx
    rcases hx with rfl | rfl
    · exact cleanOp_joins hg
    · exact cleanOp_joins hg

end Sys2Proof.Proofs

/-! PROOFS. What keeps the canonical form of memory. -/

namespace Sys2Proof.Machine

/-! ### Memory, translations and the order of accesses -/

/-- Traffic of the memory system keeps the canonical form of memory. -/
theorem State.Traffic.wf {s t : State} (ht : s.Traffic t) (h : Memory.wf s.mem = true) : Memory.wf t.mem = true := ht.keeps h

@[simp] theorem State.wf_sideWrite (s : State) (world line map : Nat) (h : Memory.wf s.mem = true) :
    Memory.wf (s.sideWrite world line map).mem = true := State.memOk_sideWrite s world line map h

@[simp] theorem State.wf_prepLine (s : State) (world : Nat) (cells : List (Nat × Byte)) (line : Nat) (h : Memory.wf s.mem = true) :
    Memory.wf (State.prepLine s world cells line).mem = true := by
  unfold State.prepLine
  split
  · simp [h]
  · split <;> simp [h]

@[simp] theorem State.wf_pokeCells (s : State) (world : Nat) (cells : List (Nat × Byte)) (h : Memory.wf s.mem = true) :
    Memory.wf (s.pokeCells world cells).mem = true := State.memOk_pokeCells s world cells h

@[simp] theorem State.wf_pokeRaw (s : State) (world pa : Nat) (bs : List Byte) (h : Memory.wf s.mem = true) :
    Memory.wf (s.pokeRaw world pa bs).mem = true := State.memOk_pokeRaw s world pa bs h

@[simp] theorem State.wf_noteLink (s : State) (world n pa : Nat) (h : Memory.wf s.mem = true) :
    Memory.wf (State.noteLink s world n pa).mem = true := by
  unfold State.noteLink
  split
  · simp [h]
  · split <;> simp [h]

@[simp] theorem State.wf_probe (s : State) (die world pa : Nat) (who : Stamp) (h : Memory.wf s.mem = true) :
    Memory.wf (State.probe s die world pa who).mem = true := by
  unfold State.probe
  split <;> simp [h]

@[simp] theorem State.wf_coverUses (s : State) (w : Wave) (l : List (Nat × Nat)) (h : Memory.wf s.mem = true) :
    Memory.wf (State.coverUses s w l).mem = true := by
  unfold State.coverUses
  split <;> simp [h]

@[simp] theorem State.wf_storeCells (s : State) (die : Option Nat) (world : Nat) (who : Stamp) (cells : List (Nat × Byte))
    (h : Memory.wf s.mem = true) : Memory.wf (s.storeCells die world who cells).mem = true :=
  State.memOk_storeCells s die world who cells h

@[simp] theorem State.wf_keepAt (s : State) (place cap : Nat) (t : Tlb) (h : Memory.wf s.mem = true) :
    Memory.wf (State.keepAt s place cap t).mem = true :=
  h

@[simp] theorem State.wf_keepTlb (s : State) (p : Path) (t : Tlb) (h : Memory.wf s.mem = true) :
    Memory.wf (State.keepTlb s p t).mem = true := by
  unfold State.keepTlb
  split <;> simp [h]

@[simp] theorem State.wf_send (s : State) (r : Request) (h : Memory.wf s.mem = true) :
    Memory.wf (State.send s r).mem = true :=
  h

@[simp] theorem State.wf_tableCheck (s : State) (world pa : Nat) (h : Memory.wf s.mem = true) :
    Memory.wf (State.tableCheck s world pa).1.mem = true := by
  unfold State.tableCheck
  simp [h]

@[simp] theorem State.wf_keepTable (s : State) (p : Path) (eIa e : Nat) (h : Memory.wf s.mem = true) :
    Memory.wf (State.keepTable s p eIa e).mem = true := by
  unfold State.keepTable
  split <;> simp [h]

@[simp] theorem State.wf_setAD (s : State) (p : Path) (ePa e : Nat) (writes : Bool) (h : Memory.wf s.mem = true) :
    Memory.wf (State.setAD s p ePa e writes).mem = true := by
  unfold State.setAD
  dsimp only
  (repeat' split) <;> simp [h]

@[simp] theorem State.wf_pageRequest (s : State) (world page : Nat) (h : Memory.wf s.mem = true) :
    Memory.wf (State.pageRequest s world page).mem = true := by
  unfold State.pageRequest
  split <;> simp [h]

/-- A translation has left memory canonical. -/
@[simp] def XRes.Canon : XRes → Prop
  | .ok _ s | .cond _ s | .miss _ s | .wait s => Memory.wf s.mem = true

theorem XRes.canon_of_traffic {s : State} {r : XRes} (ht : s.Traffic r.state) (h : Memory.wf s.mem = true) : r.Canon := by
  cases r <;> exact ht.wf h

/-- An object access changes the object table where the object has departed, and is traffic where it has not. -/
theorem State.canon_xlateObj (s : State) (p : Path) (h off : Nat) (acc : Access) (hs : Memory.wf s.mem = true) :
    (s.xlateObj p h off acc).Canon := by
  unfold State.xlateObj
  dsimp only
  split
  · exact hs
  · exact hs
  · split
    next x heq => exact XRes.canon_of_traffic (State.traffic_cached s _ _ _ _ _ _ heq) hs
    · split
      · exact (State.traffic_checkRead ..).wf hs
      · split
        · exact hs
        · exact XRes.canon_of_traffic (State.traffic_stage2Keep ..) hs

theorem State.canon_xlate (s : State) (p : Path) (g : GAddr) (acc : Access) (denied : List Nat) (h : Memory.wf s.mem = true) :
    (s.xlate p g acc denied).Canon := by
  unfold State.xlate
  split
  · split
    · split <;> exact h
    · exact XRes.canon_of_traffic (State.traffic_xlateFlat ..) h
  · exact State.canon_xlateObj s p _ _ acc h

/-- The translation of all lanes has left memory canonical. -/
@[simp] def XAll.Canon : XAll → Prop
  | .ok _ s | .cond _ _ s | .miss _ s | .wait s => Memory.wf s.mem = true

theorem XAll.canon_add (p : Path) (acc : Access) (denied : List Nat) (s0 : State) (r : XAll) (x : Nat × GAddr)
    (h0 : Memory.wf s0.mem = true) (h : r.Canon) : (XAll.add p acc denied s0 r x).Canon := by
  unfold XAll.add
  split
  · have hx := State.canon_xlate s0 p x.2 acc denied h0
    split
    next heq =>
      rw [heq] at hx
      split
      · exact hx
      · exact h
    · exact h
  all_goals
    next s =>
      have hx := State.canon_xlate s p x.2 acc denied h
      split
      all_goals
        next heq =>
          rw [heq] at hx
          exact hx

theorem State.canon_xlateAll (s : State) (p : Path) (acc : Access) (denied : List Nat) (l : List (Nat × GAddr))
    (h : Memory.wf s.mem = true) : (s.xlateAll p acc denied l).Canon :=
  foldl_keeps XAll.Canon _ _ _ h fun r x hr => XAll.canon_add p acc denied s r x h hr

@[simp] theorem State.wf_setMap (s : State) (hd page m : Nat) (h : Memory.wf s.mem = true) :
    Memory.wf (s.setMap hd page m).mem = true := (State.traffic_setMap s hd page m).wf h

@[simp] theorem State.wf_joinPending (s : State) (who : Stamp) (u : MissUnit) (h : Memory.wf s.mem = true) :
    Memory.wf (s.joinPending who u).mem = true := (State.traffic_joinPending s who u).wf h

theorem State.wf_of_takeHandle {s t : State} {k : Nat} (hk : s.takeHandle = some (k, t)) (h : Memory.wf s.mem = true) :
    Memory.wf t.mem = true := by
  unfold State.takeHandle at hk
  split at hk
  · cases hk
    exact h
  · split at hk
    · cases hk
      simpa using h
    · cases hk

@[simp] theorem State.wf_settleDoomed (s : State) (h : Memory.wf s.mem = true) :
    Memory.wf (State.settleDoomed s).mem = true :=
  h

/-- An act has left memory canonical. -/
abbrev Act.Canon (a : Act) : Prop := a.Leaves (fun m => Memory.wf m = true)

theorem Act.canon_onRaise (g : State → State) (hg : ∀ s, Memory.wf s.mem = true → Memory.wf (g s).mem = true) (a : Act)
    (h : a.Canon) : (a.onRaise g).Canon := by
  cases a with
  | raise r s => exact hg s h
  | done s | stay s | jump s => exact h

@[simp] theorem State.wf_requeue (s : State) (id : Nat) (w : Wave) (h : Memory.wf s.mem = true) :
    Memory.wf (State.requeue s id w).mem = true := by
  unfold State.requeue
  dsimp only
  (repeat' split) <;> simp [h]

@[simp] theorem State.wf_see (s : State) (id : Nat) (h : Memory.wf s.mem = true) :
    Memory.wf (State.see s id).mem = true := by
  unfold State.see
  simp [h]

@[simp] theorem State.wf_seeAt (s : State) (id stamp : Nat) (h : Memory.wf s.mem = true) :
    Memory.wf (State.seeAt s id stamp).mem = true := by
  unfold State.seeAt
  simp [h]

@[simp] theorem State.wf_acquire (s : State) (w : Wave) (scope : Nat) (h : Memory.wf s.mem = true) :
    Memory.wf (State.acquire s w scope).mem = true := by
  unfold State.acquire
  split <;> simp [h]

/-- The waits before an access have left memory canonical. -/
@[simp] def Pass.Canon : Pass → Prop
  | .go s => Memory.wf s.mem = true
  | .wait | .refused _ => True

theorem State.canon_fenceSc (s : State) (id : Nat) (w : Wave) (scope : Nat) (h : Memory.wf s.mem = true) :
    (s.fenceSc id w scope).Canon := by
  unfold State.fenceSc
  split
  · trivial
  · split <;> simp [h]

theorem State.canon_passGates (s : State) (id : Nat) (w : Wave) (l : List Gate) (h : Memory.wf s.mem = true) :
    (s.passGates id w l).Canon := by
  induction l generalizing s with
  | nil => simpa [State.passGates] using h
  | cons g t ih =>
    cases g with
    | acquire st sc => trivial
    | fence scope =>
      rw [State.passGates]
      have hf := State.canon_fenceSc s id w scope h
      split
      next heq =>
        rw [heq] at hf
        exact ih _ hf
      · exact hf

@[simp] theorem State.wf_openGate (s : State) (id stamp : Nat) (h : Memory.wf s.mem = true) :
    Memory.wf (State.openGate s id stamp).mem = true := by
  unfold State.openGate
  split
  · simp [h]
  · split <;> simp [h]

theorem State.canon_before (s : State) (id : Nat) (w : Wave) (order scope : Nat) (h : Memory.wf s.mem = true) :
    (s.before id w order scope).Canon := by
  have hg : (if w.gates = [] then Pass.go s else s.passGates id w w.gates).Canon :=
    ite_cases h (State.canon_passGates s id w _ h)
  unfold State.before
  split
  next t heq =>
    rw [heq] at hg
    replace hg : Memory.wf t.mem = true := hg
    split
    · split
      · exact ite_cases (P := fun u : State => Memory.wf u.mem = true) (by simp [hg]) hg
      · trivial
      · trivial
    · split
      · exact State.canon_fenceSc t id w scope hg
      · split <;> simp [hg]
  · exact hg

/-- An access whose waits come first leaves memory canonical where it does so itself. -/
theorem State.canon_gated (s : State) (id : Nat) (w : Wave) (order scope : Nat) (k : Wave → State → Act) (h : Memory.wf s.mem = true)
    (hk : ∀ w s, Memory.wf s.mem = true → (k w s).Canon) : (s.gated id w order scope k).Canon := by
  have hb := State.canon_before s id w order scope h
  unfold State.gated
  split
  next heq =>
    rw [heq] at hb
    exact hk _ _ hb
  · exact h
  · exact h

@[simp] theorem State.wf_parkOn (s : State) (id : Nat) (w : Wave) (us : List MissUnit) (h : Memory.wf s.mem = true) :
    Memory.wf (s.parkOn id w us).mem = true := by
  unfold State.parkOn
  simpa using foldl_keeps (fun s : State => Memory.wf s.mem = true) _ us s h fun s u hs => State.wf_joinPending _ _ u hs

theorem State.canon_xlateFor (s : State) (w : Wave) (acc : Access) (l : List (Nat × GAddr)) (h : Memory.wf s.mem = true) :
    (s.xlateFor w acc l).Canon := State.canon_xlateAll s _ acc _ l h

/-- A `g:` access leaves memory canonical where what it does at its physical addresses does so. -/
theorem State.canon_access (s : State) (id : Nat) (w : Wave) (f : FmtM) (useIndex : Bool) (width : Nat) (acc : Access) (m : Mask)
    (k : (Nat → Nat) → List (Nat × Nat) → State → Act) (h : Memory.wf s.mem = true)
    (hk : ∀ fa l s, Memory.wf s.mem = true → (k fa l s).Canon) : (s.access id w f useIndex width acc m k).Canon := by
  unfold State.access
  split
  · exact h
  next l hl =>
    have hx := State.canon_xlateFor s w acc l h
    split <;> rename_i heq <;> rw [heq] at hx
    · simpa [Act.Leaves] using hx
    · exact hx
    · exact State.wf_parkOn _ _ _ _ hx
    · exact hk _ _ _ (by simpa using hx)

/-- The data step has left memory canonical. -/
@[simp] def DataCheck.Canon : DataCheck → Prop
  | .ok s | .poison _ _ s => Memory.wf s.mem = true
  | .wait => True

theorem State.canon_dataCheck (s : State) (w : Wave) (n : Nat) (l : List (Nat × Nat)) (h : Memory.wf s.mem = true) :
    (s.dataCheck w n l).Canon := by
  induction l generalizing s with
  | nil => exact h
  | cons x t ih =>
    have hc := (State.traffic_checkRead s (some w.world) x.2 n).wf h
    rw [State.dataCheck]
    split
    · split
      · trivial
      · exact hc
    · exact ih _ hc

@[simp] theorem State.wf_storeLanes (s : State) (w : Wave) (b : Option Nat) (f : FmtM) (l : List (Nat × Nat)) (h : Memory.wf s.mem = true) :
    Memory.wf (State.storeLanes s w b f l).mem = true :=
  h

@[simp] theorem State.wf_holdFor (s : State) (id : Nat) (shared : Bool) (mk : Nat → Nat → Request) (l : List (Nat × Nat))
    (h : Memory.wf s.mem = true) : Memory.wf (s.holdFor id shared mk l).mem = true := by
  unfold State.holdFor
  extract_lets r
  have hr : Memory.wf r.1.mem = true :=
    foldl_keeps (fun a : State × List (Nat × Nat × Nat) => Memory.wf a.1.mem = true) _ l (s, []) h fun a x ha => by
      dsimp only
      split <;> exact ha
  simpa using hr

@[simp] theorem State.wf_endHold (s : State) (id : Nat) (h : Memory.wf s.mem = true) :
    Memory.wf (State.endHold s id).mem = true := by
  unfold State.endHold
  split <;> simp [h]

/-- The remote lanes of a load have left memory canonical. -/
@[simp] def Remote.Canon : Remote → Prop
  | .have _ s | .wait s | .held s | .raise _ s => Memory.wf s.mem = true

theorem State.canon_remoteLoad (s : State) (id : Nat) (w : Wave) (n : Nat) (fa : Nat → Nat) (l : List (Nat × Nat))
    (h : Memory.wf s.mem = true) : (s.remoteLoad id w n fa l).Canon := by
  have he := State.wf_endHold s id h
  unfold State.remoteLoad
  extract_lets die run got due
  split
  · split
    · exact h
    · split
      · exact he
      · split <;> exact he
  · split
    · exact h
    · split
      · exact h
      · exact State.wf_holdFor s _ _ _ _ h

@[simp] theorem State.wf_issueLoad (s : State) (id : Nat) (w : Wave) (op : LoadOp) (words : Nat) (m : Mask) (gate : Option Nat) (h : Memory.wf s.mem = true) :
    Memory.wf (State.issueLoad s id w op words m gate).mem = true :=
  h

@[simp] theorem State.wf_emptyDst (s : State) (id : Nat) (o : Operand) (words : Nat) (m : Mask) (h : Memory.wf s.mem = true) :
    Memory.wf (State.emptyDst s id o words m).mem = true := by
  unfold State.emptyDst
  simp [h]

@[simp] theorem State.wf_refillDst (s : State) (id : Nat) (o : Operand) (words : Nat) (m : Mask) (h : Memory.wf s.mem = true) :
    Memory.wf (State.refillDst s id o words m).mem = true := by
  unfold State.refillDst
  simp [h]

@[simp] theorem State.wf_closeLoad (s : State) (id : Nat) (w : Wave) (keep : Bool) (h : Memory.wf s.mem = true) :
    Memory.wf (State.closeLoad s id w keep).mem = true := by
  unfold State.closeLoad
  simp [h]

theorem State.canon_endLoad (s : State) (id : Nat) (w : Wave) (f : FmtM) (m : Mask) (h : Memory.wf s.mem = true) :
    (s.endLoad id w f m).Canon := by
  unfold State.endLoad
  split
  · exact State.wf_endHold s id h
  next op hop =>
    split
    · exact h
    · extract_lets va stop
      have hstop (t : State) (ht : Memory.wf t.mem = true) : Memory.wf (stop t).mem = true := by simp [stop, ht]
      have hd {l r} (hr : s.dataCheck w op.width l = r) : r.Canon := hr ▸ State.canon_dataCheck s w op.width l h
      split
      · exact h
      all_goals
        rename_i heq _
        replace hd := hd heq
      · exact State.wf_closeLoad _ _ _ _ hd
      all_goals exact hstop _ hd

@[simp] theorem State.wf_countPosted (s : State) (id : Nat) (w : Wave) (n : Nat) (h : Memory.wf s.mem = true) :
    Memory.wf (State.countPosted s id w n).mem = true :=
  h

@[simp] theorem State.wf_enqueue (s : State) (id : Nat) (w : Wave) (kind : QKind) (lanes : List QLane) (gates : List Gate) (unit : Nat) (h : Memory.wf s.mem = true) :
    Memory.wf (State.enqueue s id w kind lanes gates unit).mem = true := by
  unfold State.enqueue
  dsimp only
  split <;> simp [h]

@[simp] theorem State.wf_dropLines (s : State) (die world : Nat) (l : List (Nat × Nat)) (h : Memory.wf s.mem = true) :
    Memory.wf (State.dropLines s die world l).mem = true :=
  h

@[simp] theorem State.wf_homeAtom (s : State) (id : Nat) (h : Memory.wf s.mem = true) :
    Memory.wf (State.homeAtom s id).mem = true := by
  unfold State.homeAtom
  dsimp only
  (repeat' split) <;> simp [h]

theorem State.canon_endAtom (s : State) (id : Nat) (w : Wave) (f : FmtM) (h : Memory.wf s.mem = true) :
    (s.endAtom id w f).Canon := by
  unfold State.endAtom
  split
  · exact h
  · extract_lets words regs bad va s'
    have hs : Memory.wf s'.mem = true := State.wf_homeAtom _ _ (by simp [h])
    split
    · exact ite_cases (P := fun t : State => Memory.wf t.mem = true) (by simpa using hs) hs
    · exact hs

theorem State.canon_cleanAll (s : State) (w : Wave) (l : List (Nat × GAddr)) (h : Memory.wf s.mem = true) :
    (s.cleanAll w l).Canon :=
  foldl_keeps XAll.Canon _ _ _ h fun r x hr => by
    split
    · exact hr
    · exact XAll.canon_add _ _ _ s r x h hr

end Sys2Proof.Machine

/-! PROOFS. What keeps the canonical form of memory. -/

namespace Sys2Proof.Machine

@[simp] theorem State.wf_interrupt (s : State) (world vec : Nat) (h : Memory.wf s.mem = true) :
    Memory.wf (State.interrupt s world vec).mem = true := by
  unfold State.interrupt
  dsimp only
  (repeat' split) <;> simp [h]

@[simp] theorem State.wf_dropScheduler (s : State) (world : Nat) (h : Memory.wf s.mem = true) :
    Memory.wf (State.dropScheduler s world).mem = true :=
  h

@[simp] theorem State.wf_failPushes (s : State) (k : Nat) (h : Memory.wf s.mem = true) :
    Memory.wf (State.failPushes s k).mem = true := by
  unfold State.failPushes
  split <;> simp [h]

@[simp] theorem State.wf_queueError (s : State) (k : Nat) (h : Memory.wf s.mem = true) :
    Memory.wf (s.queueError k).mem = true := by
  unfold State.queueError
  dsimp only
  split
  · exact h
  · refine ite_cases (P := fun t : State => Memory.wf t.mem = true) (State.wf_interrupt _ _ _ ?_) ?_ <;>
      exact State.wf_failPushes _ k (State.wf_dropScheduler s _ h)

@[simp] theorem State.wf_clearMissed (s : State) (k page : Nat) (h : Memory.wf s.mem = true) :
    Memory.wf (State.clearMissed s k page).mem = true := by
  unfold State.clearMissed
  dsimp only
  split <;> simp [h]

/-- An access of the scheduler to a queue's memory has left memory canonical. -/
@[simp] def QMem.Canon {α : Type} : QMem α → Prop
  | .ok _ s | .miss s => Memory.wf s.mem = true
  | .bad => True

theorem State.canon_qAddrFor (s : State) (world k va : Nat) (acc : Access) (h : Memory.wf s.mem = true) :
    (s.qAddrFor world k va acc).Canon := by
  have hx {d r} (hr : s.xlateFlat { cluster := ioCluster, world := world, who := s.ioStamp } va acc d = r) : r.Canon :=
    hr ▸ XRes.canon_of_traffic (State.traffic_xlateFlat ..) h
  unfold State.qAddrFor
  split
  · trivial
  · dsimp only
    split <;> rename_i heq <;> replace hx := hx heq
    · exact State.wf_clearMissed _ _ _ hx
    · trivial
    · exact hx
    · exact State.wf_joinPending _ _ _ hx

theorem State.canon_qAddr (s : State) (k va : Nat) (acc : Access) (h : Memory.wf s.mem = true) :
    (s.qAddr k va acc).Canon := State.canon_qAddrFor s _ k va acc h

theorem State.canon_qRemote (s : State) (world pa n : Nat) (bytes : List Byte) (atomic : Option AtomOp) (h : Memory.wf s.mem = true) :
    (s.qRemote world pa n bytes atomic).Canon := by
  unfold State.qRemote
  split
  · split
    · exact h
    · trivial
  · split
    · exact h
    · exact h
    · trivial

theorem State.canon_qRead (s : State) (k va n : Nat) (h : Memory.wf s.mem = true) : (s.qRead k va n).Canon := by
  have ha := State.canon_qAddr s k va .load h
  unfold State.qRead
  split <;> rename_i heq <;> rw [heq] at ha
  · trivial
  · exact ha
  · split
    · exact State.canon_qRemote _ _ _ _ _ _ ha
    · dsimp only
      split
      · trivial
      · exact foldl_keeps (fun s : State => Memory.wf s.mem = true) _ _ _ ((State.traffic_checkRead ..).wf ha) fun s l hs =>
          State.wf_probe _ _ _ _ _ hs

theorem State.canon_qWrite (s : State) (k va : Nat) (bs : List Byte) (h : Memory.wf s.mem = true) : (s.qWrite k va bs).Canon := by
  have ha := State.canon_qAddr s k va .store h
  unfold State.qWrite
  split <;> rename_i heq <;> rw [heq] at ha
  · trivial
  · exact ha
  next pa t =>
    split
    · have hr := State.canon_qRemote t (t.queue k).world pa bs.length bs none ha
      split <;> rename_i heq <;> rw [heq] at hr
      · exact hr
      · exact hr
      · trivial
    · split
      · exact ha
      · exact State.wf_storeCells _ _ _ _ _ ha

@[simp] theorem State.wf_keepMiss (s t : State) (k : Nat) (h : Memory.wf s.mem = true) :
    Memory.wf (State.keepMiss s t k).mem = true :=
  h

@[simp] theorem State.wf_notePush (s : State) (k pos : Nat) (h : Memory.wf s.mem = true) :
    Memory.wf (State.notePush s k pos).mem = true :=
  h

@[simp] theorem State.wf_fillWindow (k n : Nat) (s : State) (h : Memory.wf s.mem = true) :
    Memory.wf (State.fillWindow k n s).mem = true := by
  induction n generalizing s with
  | zero => exact h
  | succ n ih =>
    have hr {p r} (hq : s.qRead k ((s.queue k).ringAt p) 32 = r) : r.Canon := hq ▸ State.canon_qRead s k _ 32 h
    unfold State.fillWindow
    dsimp only
    split
    · exact h
    · split <;> rename_i heq <;> replace hr := hr heq
      · exact State.wf_queueError s k h
      · exact State.wf_keepMiss s _ k h
      · exact ih _ hr

theorem State.canon_writeRc (s : State) (k : Nat) (h : Memory.wf s.mem = true) : (s.writeRc k).Canon :=
  State.canon_qWrite s k _ _ h

@[simp] theorem State.wf_dropHead (s : State) (k : Nat) (h : Memory.wf s.mem = true) :
    Memory.wf (s.dropHead k).mem = true := by
  unfold State.dropHead
  extract_lets q s1
  have h1 : Memory.wf s1.mem = true := h
  have hw := State.canon_writeRc s1 k h1
  split <;> rename_i heq <;> rw [heq] at hw
  · exact State.wf_fillWindow k 32 _ hw
  next t => exact State.wf_fillWindow k 32 _ (State.wf_keepMiss s1 t k h1)
  · exact State.wf_queueError s1 k h1

@[simp] theorem State.wf_settleQueue (s : State) (k : Nat) (h : Memory.wf s.mem = true) :
    Memory.wf (s.settleQueue k).mem = true := by
  unfold State.settleQueue
  dsimp only
  split
  · exact h
  · refine State.wf_fillWindow k 32 _ ?_
    have hw := State.canon_writeRc s k h
    split
    · exact h
    · split <;> rename_i heq <;> rw [heq] at hw
      · exact hw
      · exact State.wf_keepMiss s _ k h
      · exact State.wf_queueError s k h

theorem State.canon_pushRecord (s : State) (k : Nat) (rec : List Byte) (h : Memory.wf s.mem = true) : (s.pushRecord k rec).Canon := by
  have hw := State.canon_qWrite s k ((s.queue k).ringAt (s.queue k).wc) rec h
  unfold State.pushRecord
  dsimp only
  split
  · exact h
  · split
    next heq =>
      rw [heq] at hw
      exact hw
    · exact hw

@[simp] theorem State.wf_pushSome (k : Nat) (l : List (List Byte)) (s : State) (h : Memory.wf s.mem = true) :
    Memory.wf (State.pushSome k l s).2.1.mem = true := by
  induction l generalizing s with
  | nil => exact h
  | cons r t ih =>
    have hp := State.canon_pushRecord s k r h
    unfold State.pushSome
    dsimp only
    split
    · exact h
    · split <;> rename_i heq <;> rw [heq] at hp
      · exact ih _ hp
      · exact State.wf_keepMiss s _ k h
      · exact h

@[simp] theorem State.wf_spend (s : State) (w : Wave) (n count : Nat) (h : Memory.wf s.mem = true) :
    Memory.wf (State.spend s w n count).mem = true := by
  unfold State.spend
  dsimp only
  (repeat' split) <;> simp [h]

@[simp] theorem State.wf_unspend (s : State) (w : Wave) (n count : Nat) (h : Memory.wf s.mem = true) :
    Memory.wf (State.unspend s w n count).mem = true := by
  unfold State.unspend
  dsimp only
  (repeat' split) <;> simp [h]

theorem State.canon_pushOn (s : State) (id : Nat) (w : Wave) (f : FmtM) (p : Push) (h : Memory.wf s.mem = true) :
    (s.pushOn id w f p).Canon := by
  unfold State.pushOn
  extract_lets fail st count first
  have hf (t : State) (n : Nat) (ht : Memory.wf t.mem = true) : (fail t n).Canon :=
    State.wf_unspend _ _ _ _ (by simpa using ht)
  split
  · exact hf s count h
  · split
    · exact h
    · split
      · exact h
      · have hp := State.wf_pushSome p.queue p.left s h
        dsimp only
        have hn : Memory.wf (if p.places = [] ∧ (State.pushSome p.queue p.left s).1.length < p.left.length then
            (State.pushSome p.queue p.left s).2.1.notePush p.queue first else (State.pushSome p.queue p.left s).2.1).mem = true :=
          ite_cases (P := fun t : State => Memory.wf t.mem = true) hp hp
        split
        · exact hf _ _ (State.wf_queueError _ _ (by simpa using hn))
        · refine ite_cases (P := Act.Canon) ?_ ?_ <;> simpa [Act.Leaves] using hn

theorem State.canon_head (s : State) (k : Nat) (h : Memory.wf s.mem = true) : (s.head k).Canon := by
  have hr := State.canon_qRead s k ((s.queue k).ringAt (s.queue k).rc) 32 h
  unfold State.head
  dsimp only
  split
  · exact h
  · split
    · split <;> rename_i heq <;> rw [heq] at hr
      · exact hr
      · exact hr
      · trivial
    · exact h

@[simp] theorem State.wf_skipGone (k n : Nat) (s : State) (h : Memory.wf s.mem = true) :
    Memory.wf (State.skipGone k n s).mem = true := by
  induction n generalizing s with
  | zero => exact h
  | succ n ih =>
    unfold State.skipGone
    split
    · exact ih _ (State.wf_dropHead s k h)
    · exact h

theorem State.canon_popLanes (k : Nat) (w : Wave) (l : List (Nat × Nat)) (s : State) (h : Memory.wf s.mem = true) :
    (State.popLanes k w l s).Canon := by
  induction l generalizing s with
  | nil => exact h
  | cons x t ih =>
    have hg := State.canon_head _ k (State.wf_skipGone k (s.queue k).gone.length s h)
    unfold State.popLanes
    dsimp only
    split <;> rename_i heq <;> rw [heq] at hg
    · trivial
    · exact hg
    · refine ih _ (ite_cases (P := fun s : State => Memory.wf s.mem = true) (State.wf_dropHead _ k ?_) ?_) <;> exact hg

@[simp] theorem State.wf_setToken (s : State) (core : Nat) (t : Option Token) (h : Memory.wf s.mem = true) :
    Memory.wf (State.setToken s core t).mem = true :=
  h

@[simp] theorem State.wf_passToken (s : State) (w : Wave) (t : Token) (h : Memory.wf s.mem = true) :
    Memory.wf (State.passToken s w t).mem = true := by
  unfold State.passToken
  split
  · simp [h]
  · split <;> simp [h]

@[simp] theorem State.wf_endWave (s : State) (id : Nat) (w : Wave) (h : Memory.wf s.mem = true) :
    Memory.wf (State.endWave s id w).mem = true := by
  unfold State.endWave
  dsimp only
  split <;> simp [h]

/-- The read of code words has left memory canonical. -/
@[simp] def CodeRead.Canon : CodeRead → Prop
  | .got _ s | .moved s => Memory.wf s.mem = true

theorem State.canon_codeRead (s : State) (id : Nat) (w : Wave) (keys : List (Nat × Nat)) (h : Memory.wf s.mem = true) :
    (s.codeRead id w keys).Canon := by
  unfold State.codeRead
  dsimp only
  have hx {l r} (hr : s.xlateFor w .fetch l = r) : r.Canon := hr ▸ State.canon_xlateFor s w .fetch l h
  split <;> rename_i heq <;> replace hx := hx heq
  · simpa using hx
  · simpa using hx
  · exact State.wf_parkOn _ _ _ _ hx
  next pas t =>
    have hd {v l r} (hr : t.dataCheck v 8 l = r) : r.Canon := hr ▸ State.canon_dataCheck t v 8 l hx
    split <;> rename_i heq2 <;> replace hd := hd heq2
    · simpa using hx
    · simpa using hd
    next u =>
      split
      · exact by
          have he := State.wf_endHold u id hd
          simpa using he
      · have hr {v fa l r} (hr : u.remoteLoad id v 8 fa l = r) : r.Canon := hr ▸ State.canon_remoteLoad u id v 8 fa l hd
        split <;> rename_i heq3 <;> replace hr := hr heq3
        · simpa using hr
        · exact hr
        · simpa using hr
        · exact foldl_keeps (fun s : State => Memory.wf s.mem = true) _ _ _ hr fun s l hs => State.wf_probe _ _ _ _ _ hs

@[simp] theorem State.wf_beginClause (s : State) (id : Nat) (w : Wave) (b : Entry) (c : Clause) (h : Memory.wf s.mem = true) :
    Memory.wf (State.beginClause s id w b c).mem = true := by
  unfold State.beginClause
  dsimp only
  split <;> simp [h]

@[simp] theorem State.wf_fetchClause (s : State) (id : Nat) (w : Wave) (b : Entry) (h : Memory.wf s.mem = true) :
    Memory.wf (s.fetchClause id w b).mem = true := by
  unfold State.fetchClause
  extract_lets bad pc
  have hbad (t : State) (v : Wave) (ht : Memory.wf t.mem = true) : Memory.wf (bad t v).mem = true := by simp [bad, ht]
  split
  · exact hbad s w h
  · have hc := State.canon_codeRead s id w [(32, pc)] h
    split <;> rename_i heq <;> rw [heq] at hc
    · exact hc
    next hs t =>
      replace hc : Memory.wf t.mem = true := hc
      extract_lets v0 x n b' v u
      replace hc : Memory.wf u.mem = true := hc
      refine ite_cases (P := fun t : State => Memory.wf t.mem = true) (hbad u v hc) ?_
      split
      · exact hc
      · have hd := State.canon_codeRead u id v ((List.range n).map (fun k => (k, pc + 8 * (1 + k)))) hc
        split <;> rename_i heq <;> rw [heq] at hd
        · exact hd
        · dsimp only
          split
          · exact hbad _ _ hd
          · exact State.wf_beginClause _ _ _ _ _ hd

theorem State.canon_control (s : State) (id : Nat) (w : Wave) (m gone : Mask) (targets : List (Word × Mask)) (act : Wave → Wave)
    (h : Memory.wf s.mem = true) : (s.control id w m gone targets act).Canon := by
  unfold State.control
  split
  · exact h
  · split <;> exact h

@[simp] theorem State.wf_rotWrite (s : State) (k : Nat) (l : List (Nat × Byte)) (h : Memory.wf s.mem = true) :
    Memory.wf (s.rotWrite k l).mem = true := by
  unfold State.rotWrite
  simpa using h

@[simp] theorem State.wf_tierWrite (s : State) (k : Nat) (l : List (Nat × Byte)) (h : Memory.wf s.mem = true) :
    Memory.wf (State.tierWrite s k l).mem = true :=
  h

@[simp] theorem State.wf_supCells (s : State) (w : Wave) (cells : List (Nat × Byte)) (h : Memory.wf s.mem = true) :
    Memory.wf (State.supCells s w cells).mem = true := by
  unfold State.supCells
  simp [h]

@[simp] theorem State.wf_supWrite (s : State) (w : Wave) (a : Nat) (bs : List Byte) (h : Memory.wf s.mem = true) :
    Memory.wf (State.supWrite s w a bs).mem = true := by
  unfold State.supWrite
  simp [h]

@[simp] theorem State.wf_holdEntry (s : State) (id : Nat) (w : Wave) (b : Entry) (h : Memory.wf s.mem = true) :
    Memory.wf (State.holdEntry s id w b).mem = true := by
  unfold State.holdEntry
  simp [h]

@[simp] theorem State.wf_putRidge (s : State) (core k : Nat) (e : Ridge) (h : Memory.wf s.mem = true) :
    Memory.wf (State.putRidge s core k e).mem = true :=
  h

@[simp] theorem State.wf_pastRoutines (s : State) (w : Wave) (back : Mask) (h : Memory.wf s.mem = true) :
    Memory.wf (State.pastRoutines s w back).1.mem = true := by
  unfold State.pastRoutines
  split <;> simp [h]

@[simp] theorem State.wf_releaseWave (s : State) (id : Nat) (w : Wave) (r : Nat) (ph : Bool) (h : Memory.wf s.mem = true) :
    Memory.wf (State.releaseWave s id w r ph).mem = true := by
  unfold State.releaseWave
  dsimp only
  (repeat' split) <;> simp [h]

@[simp] theorem State.wf_completePhase (s : State) (wg core k : Nat) (e : Ridge) (h : Memory.wf s.mem = true) :
    Memory.wf (State.completePhase s wg core k e).mem = true := by
  unfold State.completePhase
  exact foldl_keeps (fun t : State => Memory.wf t.mem = true) _ _ _ h fun t x ht => by simp [ht]

@[simp] theorem State.wf_arrive (s : State) (id : Nat) (w : Wave) (m : Mask) (k : Nat) (x : Nat × Ridge) (h : Memory.wf s.mem = true) :
    Memory.wf (State.arrive s id w m k x).1.mem = true := by
  unfold State.arrive
  dsimp only
  split <;> simp [h]

@[simp] theorem State.wf_toCarry (s : State) (id : Nat) (w : Wave) (h : Memory.wf s.mem = true) :
    Memory.wf (State.toCarry s id w).mem = true :=
  h

@[simp] theorem State.wf_lowerWave (s : State) (id : Nat) (w : Wave) (h : Memory.wf s.mem = true) :
    Memory.wf (State.lowerWave s id w).mem = true := by
  unfold State.lowerWave
  split <;> simp [h]

@[simp] theorem State.wf_waitEntry (s : State) (id : Nat) (w : Wave) (b : Entry) (r : Nat) (ph : Bool) (h : Memory.wf s.mem = true) :
    Memory.wf (State.waitEntry s id w b r ph).mem = true := by
  unfold State.waitEntry
  dsimp only
  split <;> simp [h]

@[simp] theorem State.wf_dropAnswer (s : State) (world : Nat) (realm : BitVec 16) (serial : BitVec 64) (h : Memory.wf s.mem = true) :
    Memory.wf (State.dropAnswer s world realm serial).mem = true :=
  h

/-- The resolution of a slot has left memory canonical. -/
@[simp] def NameStep.Canon : NameStep → Prop
  | .value _ s | .cond _ s | .hold _ _ s | .park _ s => Memory.wf s.mem = true

theorem State.canon_resolveSlot (s : State) (w : Wave) (slot addr : Nat) (h : Memory.wf s.mem = true) :
    (s.resolveSlot w slot addr).Canon := by
  unfold State.resolveSlot
  split
  · dsimp only
    split
    · exact State.wf_joinPending _ _ _ h
    · exact h
  · exact h
  · dsimp only
    split
    · exact State.wf_joinPending _ _ _ h
    · exact h
    · exact h
    · exact h
    · split
      · exact h
      next hd t hk =>
        have ht := State.wf_of_takeHandle hk h
        exact State.wf_joinPending _ _ _ (State.wf_dropAnswer _ _ _ _ ht)

/-- The resolution of the lanes of an LDN has left memory canonical. -/
@[simp] def NameAll.Canon : NameAll → Prop
  | .ok _ s | .cond _ _ s | .hold _ s | .park _ s => Memory.wf s.mem = true

theorem State.canon_resolveLanes (s : State) (w : Wave) (l : List (Nat × Nat × Nat)) (h : Memory.wf s.mem = true) :
    (s.resolveLanes w l).Canon := by
  induction l generalizing s with
  | nil => exact h
  | cons x t ih =>
    have hx := State.canon_resolveSlot s w x.2.1 x.2.2 h
    unfold State.resolveLanes
    split <;> rename_i heq <;> rw [heq] at hx
    · exact hx
    all_goals
      have hi := ih _ hx
      split
      all_goals first
        | (rename_i he; rw [he] at hi; exact hi)
        | exact hi

@[simp] theorem State.wf_slotBytes (s : State) (w : Wave) (pa : Nat) (h : Memory.wf s.mem = true) :
    Memory.wf (State.slotBytes s w pa).1.mem = true := by
  unfold State.slotBytes
  simp [h]

@[simp] theorem State.wf_beginLdn (s : State) (id : Nat) (f : FmtM) (m : Mask) (names : List (BitVec 16 × BitVec 64)) (h : Memory.wf s.mem = true) :
    Memory.wf (State.beginLdn s id f m names).mem = true := by
  unfold State.beginLdn
  simp [h]

@[simp] theorem State.wf_stopLdn (s : State) (id : Nat) (f : FmtM) (m : Mask) (h : Memory.wf s.mem = true) :
    Memory.wf (State.stopLdn s id f m).mem = true := by
  unfold State.stopLdn
  simp [h]

@[simp] theorem State.wf_tidyNames (s : State) (h : Memory.wf s.mem = true) :
    Memory.wf (State.tidyNames s).mem = true :=
  h

end Sys2Proof.Machine

/-! PROOFS. What keeps the canonical form of memory. -/

namespace Sys2Proof.Machine

@[simp] theorem State.wf_wgWrite (s : State) (o : EngOp) (off : Nat) (bs : List Byte) (h : Memory.wf s.mem = true) :
    Memory.wf (State.wgWrite s o off bs).mem = true :=
  h

/-! ### Engine operations -/

/-- An engine's access has left memory canonical. -/
@[simp] def EAcc.Canon {α : Type} : EAcc α → Prop
  | .ok _ s | .cond _ s | .miss _ s | .wait s => Memory.wf s.mem = true

theorem State.canon_opXlate (s : State) (o : EngOp) (acc : Access) (g : GAddr) (l : List (Nat × Nat)) (out : List (Nat × Nat × Nat))
    (h : Memory.wf s.mem = true) : (s.opXlate o acc g l out).Canon := by
  induction l generalizing s out with
  | nil => exact h
  | cons x t ih =>
    have hx := State.canon_xlate s (s.opPath o) (g.shift x.1) acc o.noPages h
    unfold State.opXlate
    dsimp only
    split <;> rename_i heq <;> rw [heq] at hx
    · exact ih _ _ hx
    all_goals exact hx

@[simp] theorem State.wf_opAsk (s : State) (key : Nat) (o : EngOp) (l : List (Nat × Nat × Nat)) (h : Memory.wf s.mem = true) :
    Memory.wf (s.opAsk key o l).mem = true :=
  foldl_keeps (fun s : State => Memory.wf s.mem = true) _ l s h fun s x hs => by
    split <;> exact hs

theorem State.canon_opFetch (s : State) (key : Nat) (o : EngOp) (g : GAddr) (l : List (Nat × Nat × Nat))
    (h : Memory.wf s.mem = true) : (s.opFetch key o g l).Canon := by
  unfold State.opFetch
  extract_lets runs rem chk t answers r
  have hc : Memory.wf t.mem = true :=
    foldl_keeps (fun a : State × Option Nat => Memory.wf a.1.mem = true) _ _ (s, none) h fun a x ha =>
      (State.traffic_checkRead ..).wf ha
  have hr : Memory.wf r.1.mem = true :=
    foldl_keeps (fun a : State × List Byte => Memory.wf a.1.mem = true) _ _ (t, []) hc fun a x ha => by
      dsimp only
      split
      · exact ha
      · exact (State.traffic_cacheRead ..).wf ((State.traffic_fill ..).wf ha)
  split
  · exact hc
  · split
    · exact hc
    · split
      · exact hc
      · split
        · exact State.wf_opAsk _ _ _ _ hc
        · exact hr

@[simp] theorem State.wf_opClear (s : State) (key : Nat) (h : Memory.wf s.mem = true) :
    Memory.wf (State.opClear s key).mem = true :=
  h

theorem State.canon_opRead (s : State) (key : Nat) (o : EngOp) (base : Nat) (sum : Int) (n : Nat) (h : Memory.wf s.mem = true) :
    (s.opRead key o base sum n).Canon := by
  unfold State.opRead
  split
  · exact h
  next g _ =>
    have hx := State.canon_opXlate s o .load g (pieces g.low n 65536) [] h
    split <;> rename_i heq <;> rw [heq] at hx
    · exact State.canon_opFetch _ _ _ _ _ hx
    all_goals exact hx

theorem State.canon_opWrite (s : State) (key : Nat) (o : EngOp) (base : Nat) (sum : Int) (bs : List Byte) (h : Memory.wf s.mem = true) :
    (s.opWrite key o base sum bs).Canon := by
  unfold State.opWrite
  split
  · exact h
  next g _ =>
    have hx := State.canon_opXlate s o .store g (pieces g.low bs.length 65536) [] h
    split <;> rename_i heq <;> rw [heq] at hx
    · exact hx
    · exact hx
    · exact hx
    · simpa using hx

@[simp] theorem State.wf_forget (s t : State) (o : EngOp) (h : Memory.wf s.mem = true) :
    Memory.wf (State.forget s t o).mem = true :=
  h

@[simp] theorem State.wf_freeRun (s : State) (key : Nat) (o : EngOp) (base : Nat) (sum : Int) (n : Nat) (h : Memory.wf s.mem = true) :
    Memory.wf (s.freeRun key o base sum n).mem = true :=
  foldl_keeps (fun s : State => Memory.wf s.mem = true) _ _ s h fun s p hs => by
    have hw {c b bs r} (hr : (s.draw p.2).opWrite key c base b bs = r) : r.Canon := hr ▸ State.canon_opWrite (s.draw p.2) _ _ _ _ _ hs
    dsimp only
    split
    next heq => exact ite_cases (P := fun s : State => Memory.wf s.mem = true) (hw heq) (State.wf_forget _ _ _ hs)
    · exact hs

theorem State.wf_opStuck (s : State) (key : Nat) (o : EngOp) {α : Type} (r : EAcc α) (h : r.Canon) :
    Memory.wf (s.opStuck key o r).mem = true := by
  cases r with
  | miss u s => exact State.wf_joinPending _ _ _ h
  | ok a s | cond c s | wait s => exact h

@[simp] theorem State.wf_holdRidge (s : State) (w : Wave) (o : EngOp) (h : Memory.wf s.mem = true) :
    Memory.wf (State.holdRidge s w o).mem = true := by
  unfold State.holdRidge
  dsimp only
  (repeat' split) <;> simp [h]

@[simp] theorem State.wf_issueOp (s : State) (id : Nat) (o : EngOp) (h : Memory.wf s.mem = true) :
    Memory.wf (State.issueOp s id o).mem = true := by
  unfold State.issueOp
  split <;> simp [h]

@[simp] theorem State.wf_fetchBlock (s : State) (key : Nat) (o : EngOp) (done : State → EngOp → EngOp) (h : Memory.wf s.mem = true) :
    Memory.wf (s.fetchBlock key o done).mem = true := by
  have hr := State.canon_opRead s key o o.blockAddr.toNat 0 o.blockLen h
  unfold State.fetchBlock
  split
  next heq =>
    rw [heq] at hr
    exact hr
  · exact State.wf_opStuck _ _ _ _ hr

@[simp] theorem State.wf_settleCairns (s : State) (core wg slot : Nat) (h : Memory.wf s.mem = true) :
    Memory.wf (State.settleCairns s core wg slot).mem = true :=
  h

@[simp] theorem State.wf_countRerun (s : State) (wg : Nat) (h : Memory.wf s.mem = true) :
    Memory.wf (State.countRerun s wg).mem = true := by
  unfold State.countRerun
  split <;> simp [h]

@[simp] theorem State.wf_mmaDone (s : State) (key : Nat) (o : EngOp) (err err2 : Nat) (h : Memory.wf s.mem = true) :
    Memory.wf (State.mmaDone s key o err err2).mem = true := by
  unfold State.mmaDone
  dsimp only
  (repeat' split) <;> simp [h]

@[simp] theorem State.wf_mmaStart (s : State) (key : Nat) (o : EngOp) (h : Memory.wf s.mem = true) :
    Memory.wf (State.mmaStart s key o).mem = true := by
  unfold State.mmaStart
  split
  · simp [h]
  · split <;> simp [h]

@[simp] theorem State.wf_mzeroStart (s : State) (key : Nat) (o : EngOp) (h : Memory.wf s.mem = true) :
    Memory.wf (State.mzeroStart s key o).mem = true := by
  unfold State.mzeroStart
  dsimp only
  split <;> simp [h]

theorem State.canon_opTouch (s : State) (o : EngOp) (acc : Access) (base : Nat) (sum : Int) (n : Nat) (h : Memory.wf s.mem = true) :
    (s.opTouch o acc base sum n).Canon := by
  unfold State.opTouch
  split
  · exact h
  next g _ =>
    have hx := State.canon_opXlate s o acc g (pieces g.low n 65536) [] h
    split <;> rename_i heq <;> rw [heq] at hx <;> exact hx

theorem State.canon_opTouchAll (s : State) (o : EngOp) (acc : Access) (base : Nat) (l : List (Int × Nat)) (h : Memory.wf s.mem = true) :
    (s.opTouchAll o acc base l).Canon := by
  induction l generalizing s with
  | nil => exact h
  | cons x t ih =>
    have hx := State.canon_opTouch s o acc base x.1 x.2 h
    unfold State.opTouchAll
    split
    next heq =>
      rw [heq] at hx
      exact ih _ hx
    · exact hx

theorem State.canon_opWriteAll (s : State) (key : Nat) (o : EngOp) (base : Nat) (l : List (Int × List Byte)) (h : Memory.wf s.mem = true) :
    (s.opWriteAll key o base l).Canon := by
  induction l generalizing s o with
  | nil => exact h
  | cons x t ih =>
    have hx := State.canon_opWrite s key o base x.1 x.2 h
    unfold State.opWriteAll
    split
    next heq =>
      rw [heq] at hx
      exact ih _ _ hx
    · exact hx

@[simp] theorem State.wf_drainStrip (s : State) (key : Nat) (o : EngOp) (d : Drain) (h : Memory.wf s.mem = true) :
    Memory.wf (s.drainStrip key o d).mem = true := by
  have ht {runs r} (hr : s.opTouchAll o .store d.gaddr runs = r) : r.Canon := hr ▸ State.canon_opTouchAll s o .store _ _ h
  unfold State.drainStrip
  extract_lets p rows esz runs
  split
  · exact h
  · split
    next t heq =>
      replace ht : Memory.wf t.mem = true := ht heq
      extract_lets r u0 u v
      clear_value r
      have hw := State.canon_opWriteAll u key v d.gaddr r.2.2.2.2 ht
      clear_value u v
      generalize u.opWriteAll key v d.gaddr r.2.2.2.2 = q at hw ⊢
      cases q with
      | ok o s => exact hw
      | cond c s | miss m s | wait s => exact State.wf_opStuck _ _ _ _ hw
    · exact State.wf_opStuck _ _ _ _ (ht rfl)

@[simp] theorem State.wf_drainProgress (s : State) (key : Nat) (o : EngOp) (h : Memory.wf s.mem = true) :
    Memory.wf (State.drainProgress s key o).mem = true := by
  unfold State.drainProgress
  split <;> simp [h]

@[simp] theorem State.wf_drainStart (s : State) (key : Nat) (o : EngOp) (h : Memory.wf s.mem = true) :
    Memory.wf (State.drainStart s key o).mem = true := by
  unfold State.drainStart
  split <;> simp [h]

@[simp] theorem State.wf_drainDone (s : State) (key : Nat) (o : EngOp) (h : Memory.wf s.mem = true) :
    Memory.wf (State.drainDone s key o).mem = true := by
  unfold State.drainDone
  dsimp only
  (repeat' split) <;> simp [h]

@[simp] theorem State.wf_loadProgram (s : State) (key : Nat) (o : EngOp) (h : Memory.wf s.mem = true) :
    Memory.wf (State.loadProgram s key o).mem = true := by
  unfold State.loadProgram
  dsimp only
  (repeat' split) <;> simp [h]

@[simp] theorem State.wf_matrixStep (s : State) (key : Nat) (o : EngOp) (h : Memory.wf s.mem = true) :
    Memory.wf (s.matrixStep key o).mem = true := by
  unfold State.matrixStep
  split
  · split
    · split <;> simp [h]
    · exact h
  · split <;> simp [h]
  · exact h

theorem State.canon_keepRuns (s : State) (key : Nat) (o : EngOp) (t : Trav) (l : List (Nat × Nat)) (h : Memory.wf s.mem = true) :
    (s.keepRuns key o t l).Canon := by
  induction l generalizing s o with
  | nil => exact h
  | cons x l ih =>
    have hg : (if t.ssp = 1 then EAcc.ok (s.wgRead o (t.src + x.1) x.2) s else s.opRead key o t.src (x.1 : Nat) x.2).Canon :=
      ite_cases h (State.canon_opRead s key o _ _ _ h)
    unfold State.keepRuns
    dsimp only
    split <;> rename_i heq <;> rw [heq] at hg
    · exact ih _ _ hg
    · exact ih _ _ hg
    · exact hg
    · exact hg

theorem State.canon_keepAhead (s : State) (key : Nat) (o : EngOp) (t : Trav) (dbase doff n : Nat) (reads : Nat → Bool)
    (h : Memory.wf s.mem = true) : (s.keepAhead key o t dbase doff n reads).Canon := State.canon_keepRuns s key o t _ h

@[simp] theorem State.wf_overlay (s : State) (o : EngOp) (t : Trav) (dbase doff : Nat) (reads : Nat → Bool) (bs : List Byte) (h : Memory.wf s.mem = true) :
    Memory.wf (State.overlay s o t dbase doff reads bs).1.mem = true := by
  unfold State.overlay
  dsimp only
  split <;> simp [h]

theorem State.canon_travWrite (s : State) (key : Nat) (o : EngOp) (t : Trav) (base off : Nat) (bs : List Byte) (h : Memory.wf s.mem = true) :
    (s.travWrite key o t base off bs).Canon := by
  unfold State.travWrite
  split
  · exact State.canon_opWrite s key o _ _ _ h
  · split <;> exact h

theorem State.canon_travRead (s : State) (key : Nat) (o : EngOp) (t : Trav) (l : List (Nat × Nat)) (out : List Byte)
    (h : Memory.wf s.mem = true) : (s.travRead key o t l out).Canon := by
  induction l generalizing s out with
  | nil => exact h
  | cons x l ih =>
    have hr := State.canon_opRead s key o t.src (x.1 : Nat) x.2 h
    unfold State.travRead
    split
    · exact ih _ _ h
    · split
      · split
        next heq =>
          rw [heq] at hr
          exact ih _ _ hr
        · exact hr
      · split
        · exact h
        · exact ih _ _ h

@[simp] theorem State.wf_mcSend (s : State) (key : Nat) (o : EngOp) (off : Nat) (bs own : List Byte) (h : Memory.wf s.mem = true) :
    Memory.wf (s.mcSend key o off bs own).mem = true :=
  foldl_keeps (fun s : State => Memory.wf s.mem = true) _ _ s h fun s _ hs =>
    foldl_keeps (fun s : State => Memory.wf s.mem = true) _ _ s hs fun _ _ ht => ht

/-- A run of a copy or gather is overlaid, written, and its operation goes on. -/
theorem State.wf_placeRun (s s0 : State) (key : Nat) (o : EngOp) (t : Trav) (base off : Nat) (reads : Nat → Bool) (bs : List Byte)
    (next : EngOp → EngOp) (h : Memory.wf s.mem = true) :
    Memory.wf (match (s.overlay o t base off reads bs).1.travWrite key (s.overlay o t base off reads bs).2.1 t base off
        (s.overlay o t base off reads bs).2.2 with
      | .ok o s => s.putOp key (next o)
      | r => s0.opStuck key o r).mem = true := by
  have hw := State.canon_travWrite _ key (s.overlay o t base off reads bs).2.1 t base off (s.overlay o t base off reads bs).2.2
    (State.wf_overlay s o t base off reads bs h)
  split
  next heq =>
    rw [heq] at hw
    exact hw
  · exact State.wf_opStuck _ _ _ _ hw

@[simp] theorem State.wf_copyRow (s : State) (key : Nat) (o : EngOp) (h : Memory.wf s.mem = true) :
    Memory.wf (s.copyRow key o).mem = true := by
  unfold State.copyRow
  extract_lets t n row
  split
  · exact h
  · split
    · exact h
    · split
      · exact h
      · have hr := State.canon_travRead s key o t row.1 [] h
        split
        next bs u heq =>
          rw [heq] at hr
          replace hr : Memory.wf u.mem = true := hr
          split
          · split
            · exact hr
            · extract_lets x
              have hx : Memory.wf x.1.mem = true := by
                unfold x
                split
                · exact State.wf_overlay u _ _ _ _ _ _ hr
                · exact hr
              exact State.wf_mcSend _ _ _ _ _ _ hx
          · have hk := State.canon_keepAhead u key o t (o.dstBase t) row.2 bs.length t.reads hr
            split
            next v w heq =>
              rw [heq] at hk
              exact State.wf_placeRun w w key v t (v.dstBase t) row.2 t.reads bs (fun o => { o.next n with lines := t.buffers row.1 bs }) hk
            · exact State.wf_opStuck _ _ _ _ hk
        · exact State.wf_opStuck _ _ _ _ hr

@[simp] theorem State.wf_gatherElem (s : State) (key : Nat) (o : EngOp) (h : Memory.wf s.mem = true) :
    Memory.wf (s.gatherElem key o).mem = true := by
  unfold State.gatherElem
  extract_lets t n ix put off pre
  have hput (u : State) (bs : List Byte) (hu : Memory.wf u.mem = true) : Memory.wf (put u bs).mem = true := by
    have hk := State.canon_keepAhead u key o t (o.dstBase t) (o.progress * t.d1) bs.length (u.gatherReads o t) hu
    unfold put
    split
    next v w heq =>
      rw [heq] at hk
      exact State.wf_placeRun w w key v t (v.dstBase t) (v.progress * t.d1) (w.gatherReads v t) bs (fun o => o.next n) hk
    · exact State.wf_opStuck _ _ _ _ hk
  have hr := State.canon_opRead s key o t.src (off : Nat) t.rowlen h
  split
  · exact h
  · split
    · exact h
    · split
      · exact hput s _ h
      · clear_value pre
        cases pre with
        | some c => exact h
        | none =>
          dsimp only
          split
          · split
            next heq =>
              rw [heq] at hr
              exact hput _ _ hr
            · exact State.wf_opStuck _ _ _ _ hr
          · split
            · exact h
            · exact hput s _ h

@[simp] theorem State.wf_mcLand (s : State) (d : McDest) (off : Nat) (bs : List Byte) (h : Memory.wf s.mem = true) :
    Memory.wf (State.mcLand s d off bs).mem = true := by
  unfold State.mcLand
  exact foldl_keeps (fun t : State => Memory.wf t.mem = true) _ _ _ h fun t x ht => by
    dsimp only
    (repeat' split) <;> simp [ht]

@[simp] theorem State.wf_spoil (s : State) (key : Nat) (o : EngOp) (h : Memory.wf s.mem = true) :
    Memory.wf (s.spoil key o).mem = true := by
  unfold State.spoil
  extract_lets t gather
  split
  · exact h
  · exact foldl_keeps (fun a : State × EngOp => Memory.wf a.1.mem = true) _ _ (s, o) h fun a k ha => by
      extract_lets row bs u reads x y
      replace ha : Memory.wf u.mem = true := ha
      split
      · have hx : Memory.wf x.1.mem = true := by
          unfold x
          split
          · exact State.wf_overlay u _ _ _ _ _ _ ha
          · exact ha
        exact foldl_keeps (fun s : State => Memory.wf s.mem = true) _ _ x.1 hx fun s d hs => State.wf_mcLand _ _ _ _ hs
      · have hy : Memory.wf y.1.mem = true := State.wf_overlay u _ _ _ _ _ _ ha
        split
        · exact State.wf_freeRun _ _ _ _ _ _ hy
        · have hw := State.canon_travWrite y.1 key y.2.1 t (a.2.dstBase t) row.1 y.2.2 hy
          split
          next heq =>
            rw [heq] at hw
            exact hw
          · exact ha

@[simp] theorem State.wf_ldg2lLane (s : State) (key : Nat) (o : EngOp) (h : Memory.wf s.mem = true) :
    Memory.wf (s.ldg2lLane key o).mem = true := by
  unfold State.ldg2lLane
  split
  · exact h
  next ga _ =>
    have hr := State.canon_opRead s key o ga.toNat 0 (o.argAt 0) h
    split
    next heq =>
      rw [heq] at hr
      exact hr
    · exact State.wf_opStuck _ _ _ _ hr

@[simp] theorem State.wf_travStart (s : State) (key : Nat) (o : EngOp) (gather : Bool) (h : Memory.wf s.mem = true) :
    Memory.wf (State.travStart s key o gather).mem = true := by
  unfold State.travStart
  split <;> simp [h]

@[simp] theorem State.wf_copyStep (s : State) (key : Nat) (o : EngOp) (h : Memory.wf s.mem = true) :
    Memory.wf (State.copyStep s key o).mem = true := by
  unfold State.copyStep
  split <;> simp [h]

@[simp] theorem State.wf_copyDone (s : State) (key : Nat) (o : EngOp) (h : Memory.wf s.mem = true) :
    Memory.wf (State.copyDone s key o).mem = true := by
  unfold State.copyDone
  dsimp only
  (repeat' split) <;> simp [h]

@[simp] theorem State.wf_lPut (s : State) (w : Wave) (a : Nat) (bs : List Byte) (h : Memory.wf s.mem = true) :
    Memory.wf (State.lPut s w a bs).mem = true :=
  h

theorem canon_ringMove (w : Wave) (s : State) (a off ptr k : Nat) (h : Memory.wf s.mem = true) : (ringMove w s a off ptr k).Canon := by
  unfold ringMove
  split
  · exact h
  · refine State.canon_gated s _ w 3 1 _ h fun w s hs => ?_
    split
    · exact hs
    · split <;> exact hs

theorem State.canon_readEach (s : State) (key : Nat) (o : EngOp) (sp base n : Nat) (l : List Nat) (out : Tab (List Byte))
    (h : Memory.wf s.mem = true) : (s.readEach key o sp base n l out).Canon := by
  induction l generalizing s out with
  | nil => exact h
  | cons off l ih =>
    have hr := State.canon_opRead s key o base (off : Nat) n h
    unfold State.readEach
    split
    · exact ih _ _ h
    · split
      · split
        · exact h
        · exact ih _ _ h
      · split <;> rename_i heq <;> rw [heq] at hr
        · exact ih _ _ hr
        all_goals exact hr

@[simp] theorem State.wf_levelBlock (s : State) (key : Nat) (o : EngOp) (h : Memory.wf s.mem = true) :
    Memory.wf (s.levelBlock key o).mem = true := by
  unfold State.levelBlock
  extract_lets t b total osz fi fo pts offs first
  have hr := State.canon_readEach s key o t.isp t.inp (dim t.istr 0) offs [] h
  split
  next m u heq =>
    rw [heq] at hr
    replace hr : Memory.wf u.mem = true := hr
    have hd : (if t.op = 2 then u.readEach key o t.osp t.out (b.2.1 * osz) [first] [] else EAcc.ok [] u).Canon :=
      ite_cases (State.canon_readEach u key o _ _ _ _ _ hr) hr
    split
    next dm v heq =>
      rw [heq] at hd
      replace hd : Memory.wf v.mem = true := hd
      extract_lets old ys fl bs x r
      have hx : Memory.wf x.1.mem = true := by
        unfold x
        split <;> exact hd
      have hw : r.Canon := ite_cases (State.canon_opWrite _ _ _ _ _ _ hx) hx
      clear_value r
      cases r with
      | ok o s => exact hw
      | cond c s | miss m s | wait s => exact State.wf_opStuck _ _ _ _ hw
    · exact State.wf_opStuck _ _ _ _ hd
  · exact State.wf_opStuck _ _ _ _ hr

@[simp] theorem State.wf_spoilLevel (s : State) (key : Nat) (o : EngOp) (h : Memory.wf s.mem = true) :
    Memory.wf (s.spoilLevel key o).mem = true := by
  unfold State.spoilLevel
  dsimp only
  split
  · exact h
  · exact foldl_keeps (fun s : State => Memory.wf s.mem = true) _ _ s h fun s k hs => by
      split
      · exact State.wf_freeRun _ _ _ _ _ _ hs
      · exact State.wf_wgWrite _ _ _ _ hs

@[simp] theorem State.wf_levelStep (s : State) (key : Nat) (o : EngOp) (h : Memory.wf s.mem = true) :
    Memory.wf (s.levelStep key o).mem = true := by
  unfold State.levelStep
  split
  · split <;> exact h
  · exact State.wf_levelBlock s key o h
  · exact h

@[simp] theorem State.wf_unfoldStep (s : State) (key : Nat) (o : EngOp) (h : Memory.wf s.mem = true) :
    Memory.wf (s.unfoldStep key o).mem = true := by
  unfold State.unfoldStep
  split
  · split <;> exact h
  next u _ _ =>
    split
    · exact h
    · split
      next x _ =>
        have hw := State.canon_opWrite s key o u.heap.toNat (x.1.off : Nat) (leBytes 16 (u.header x.2)) h
        split
        next heq =>
          rw [heq] at hw
          exact hw
        · exact State.wf_opStuck _ _ _ _ hw
      · split <;> exact h
  · exact h

@[simp] theorem State.wf_dispatch (s : State) (key : Nat) (o : EngOp) (u : Unfold) (p : Nat) (h : Memory.wf s.mem = true) :
    Memory.wf (State.dispatch s key o u p).mem = true := by
  unfold State.dispatch
  dsimp only
  (repeat' split) <;> simp [h]

/-- A routine's reading of its object's limits has left memory canonical, in whichever of its two states it goes on. -/
@[simp] def CanonPair (r : Option State × State) : Prop :=
  (∀ s, r.1 = some s → Memory.wf s.mem = true) ∧ Memory.wf r.2.mem = true

theorem canonPair_some {s : State} (h : Memory.wf s.mem = true) : CanonPair (some s, s) :=
  ⟨fun _ he => Option.some.inj he ▸ h, h⟩

theorem canonPair_none {s : State} (h : Memory.wf s.mem = true) : CanonPair (none, s) := ⟨fun _ he => (nomatch he), h⟩

theorem State.canon_reread (s : State) (id key : Nat) (o : EngOp) (u : Unfold) (h : Memory.wf s.mem = true) :
    CanonPair (s.reread id key o u) := by
  have hr := State.canon_opRead s key o o.blockAddr.toNat 0 128 h
  unfold State.reread
  dsimp only
  split
  · split <;> rename_i heq <;> rw [heq] at hr
    · exact canonPair_some hr
    · exact canonPair_some hr
    · exact canonPair_none (State.wf_joinPending _ _ _ hr)
    · exact canonPair_none hr
  · exact canonPair_some h

theorem State.canon_rereadIn (s : State) (id : Nat) (l : List Nat) (h : Memory.wf s.mem = true) : CanonPair (s.rereadIn id l) := by
  induction l generalizing s with
  | nil => exact canonPair_some h
  | cons lane t ih =>
    unfold State.rereadIn
    split
    · exact ih s h
    next key o u r _ =>
      have hr := State.canon_reread s id key o u h
      split
      · exact ih s h
      · split
        next heq =>
          rw [heq] at hr
          exact ih _ (hr.1 _ rfl)
        · exact hr

/-- RCHILD in one lane leaves memory canonical, whether or not it raises a condition. -/
theorem State.canon_childIn (s : State) (id lane : Nat) (h : Memory.wf s.mem = true) :
    (∀ e, s.childIn id lane = .error e → Memory.wf e.2.mem = true) ∧ ∀ x, s.childIn id lane = .ok x → Memory.wf x.2.mem = true := by
  unfold State.childIn
  split
  · exact ⟨fun e he => Except.error.inj he ▸ h, fun _ hx => (nomatch hx)⟩
  · split
    · exact ⟨fun e he => Except.error.inj he ▸ h, fun _ hx => (nomatch hx)⟩
    · split
      · exact ⟨fun e he => Except.error.inj he ▸ h, fun _ hx => (nomatch hx)⟩
      · exact ⟨fun _ he => (nomatch he), fun x hx => Except.ok.inj hx ▸ State.wf_freeRun _ _ _ _ _ _ h⟩

theorem State.wf_of_childrenIn {s : State} {id : Nat} {l : List Nat} {x : List (Nat × Nat) × State} (hx : s.childrenIn id l = .ok x)
    (h : Memory.wf s.mem = true) : Memory.wf x.2.mem = true := by
  induction l generalizing s x with
  | nil => exact Except.ok.inj hx ▸ h
  | cons lane t ih =>
    unfold State.childrenIn at hx
    split at hx
    · cases hx
    next y hy =>
      split at hx
      · cases hx
      next z hz =>
        cases hx
        have hw := ih hz ((State.canon_childIn s id lane h).2 y hy)
        exact hw

@[simp] theorem State.wf_stopChild (s : State) (id lane : Nat) (h : Memory.wf s.mem = true) :
    Memory.wf (s.stopChild id lane).mem = true := by
  unfold State.stopChild
  split
  next x heq => exact (State.canon_childIn s id lane h).1 _ heq
  · exact h
  · exact h

@[simp] theorem State.wf_clearHold (s : State) (o : EngOp) (h : Memory.wf s.mem = true) :
    Memory.wf (s.clearHold o).mem = true := by
  unfold State.clearHold
  split
  · exact h
  · split
    · exact h
    · refine foldl_keeps (fun s : State => Memory.wf s.mem = true) _ _ _
        (ite_cases (P := fun s : State => Memory.wf s.mem = true) (State.wf_completePhase _ _ _ _ _ h) h) fun s y hs => ?_
      exact ite_cases (P := fun s : State => Memory.wf s.mem = true) (State.wf_lowerWave _ _ _ hs) hs

@[simp] theorem State.wf_sweep (s : State) (key : Nat) (h : Memory.wf s.mem = true) : Memory.wf (s.sweep key).mem = true := by
  unfold State.sweep
  split
  · exact ite_cases (P := fun s : State => Memory.wf s.mem = true) (State.wf_clearHold _ _ h) h
  · exact h

@[simp] theorem State.wf_doneIn (s : State) (id lane : Nat) (h : Memory.wf s.mem = true) :
    Memory.wf (State.doneIn s id lane).mem = true := by
  unfold State.doneIn
  split <;> simp [h]

end Sys2Proof.Machine

/-! PROOFS. What keeps the canonical form of memory. -/

namespace Sys2Proof.Machine

@[simp] theorem State.wf_fillPage (s : State) (dst world : Nat) (data : List (Nat × Byte)) (h : Memory.wf s.mem = true) :
    Memory.wf (s.fillPage dst world data).mem = true :=
  foldl_keeps (fun m : Memory => Memory.wf m = true) _ _ _ (wf_czero _ _ _ h) fun m _ hm => wf_cset m _ _ hm

@[simp] theorem State.wf_copyPage (s : State) (src dst world : Nat) (h : Memory.wf s.mem = true) :
    Memory.wf (State.copyPage s src dst world).mem = true := by
  unfold State.copyPage
  simp [h]

@[simp] theorem State.wf_pageTraffic (s : State) (page : Nat) (who : Stamp) (write : Bool) (h : Memory.wf s.mem = true) :
    Memory.wf (s.pageTraffic page who write).mem = true := by
  unfold State.pageTraffic
  split
  · exact h
  · exact foldl_keeps (fun s : State => Memory.wf s.mem = true) _ _ s h fun s i hs => (State.traffic_request ..).wf hs

@[simp] theorem State.wf_freeTier (s : State) (world home k : Nat) (who : Stamp) (h : Memory.wf s.mem = true) :
    Memory.wf (State.freeTier s world home k who).mem = true := by
  unfold State.freeTier
  dsimp only
  split <;> simp [h]

@[simp] theorem State.wf_dropTiers (s : State) (world : Nat) (r : Range) (h : Memory.wf s.mem = true) :
    Memory.wf (s.dropTiers world r).mem = true := by
  unfold State.dropTiers
  exact foldl_keeps (fun s : State => Memory.wf s.mem = true) _ _ s h fun s e hs => State.wf_freeTier _ _ _ _ _ hs

@[simp] theorem State.wf_beginDemote (s : State) (k : Nat) (h : Memory.wf s.mem = true) :
    Memory.wf (State.beginDemote s k).mem = true := by
  unfold State.beginDemote
  dsimp only
  split <;> simp [h]

@[simp] theorem State.wf_starve (s : State) (world k : Nat) (h : Memory.wf s.mem = true) :
    Memory.wf (State.starve s world k).mem = true := by
  unfold State.starve
  dsimp only
  (repeat' split) <;> simp [h]

@[simp] theorem State.wf_beginMigrate (s : State) (world k : Nat) (h : Memory.wf s.mem = true) :
    Memory.wf (State.beginMigrate s world k).mem = true := by
  unfold State.beginMigrate
  dsimp only
  (repeat' split) <;> simp [h]

@[simp] theorem State.wf_tierDone (s : State) (world : Nat) (r : Range) (k : Nat) (h : Memory.wf s.mem = true) :
    Memory.wf (State.tierDone s world r k).mem = true := by
  unfold State.tierDone
  dsimp only
  (repeat' split) <;> simp [h]

@[simp] theorem State.wf_departImage (s : State) (k : Nat) (e : RotEnt) (h : Memory.wf s.mem = true) :
    Memory.wf (s.departImage k e).mem = true := h

@[simp] theorem State.wf_dropObjLines (s : State) (k : Nat) (e : RotEnt) (h : Memory.wf s.mem = true) :
    Memory.wf (s.dropObjLines k e).mem = true := h

@[simp] theorem State.wf_unmapObject (s : State) (k : Nat) (e : RotEnt) (h : Memory.wf s.mem = true) :
    Memory.wf (s.unmapObject k e).mem = true :=
  foldl_keeps (fun s : State => Memory.wf s.mem = true) _ _ s h fun s p hs => by
    dsimp only
    split
    · exact State.wf_setMap _ _ _ _ hs
    · exact hs

@[simp] theorem State.wf_objPageDone (s : State) (k page frame : Nat) (data : List (Nat × Byte)) (h : Memory.wf s.mem = true) :
    Memory.wf (s.objPageDone k page frame data).mem = true := by
  unfold State.objPageDone
  extract_lets e m
  split
  · exact h
  · split
    · exact h
    · dsimp only
      split
      · exact h
      · exact State.wf_setMap _ _ _ _ (State.wf_fillPage _ _ _ _ (State.wf_pageTraffic _ _ _ _ h))

@[simp] theorem State.wf_dropWalks (s : State) (p : Nat → Bool) (h : Memory.wf s.mem = true) :
    Memory.wf (State.dropWalks s p).mem = true :=
  h

@[simp] theorem State.wf_dropWorldXlat (s : State) (p : Nat → Bool) (h : Memory.wf s.mem = true) :
    Memory.wf (State.dropWorldXlat s p).mem = true :=
  h

theorem State.wf_of_rangeApply {s t : State} {w : Wave} {n hi : Nat} (ht : s.rangeApply w n hi = some t) (h : Memory.wf s.mem = true) :
    Memory.wf t.mem = true := by
  simp only [State.rangeApply] at ht
  split at ht
  · cases ht
  · split at ht
    · obtain rfl := Option.some.inj ht
      rw [State.putWorld_mem]
      refine State.wf_dropWorldXlat _ _ ?_
      split
      · exact h
      · exact State.wf_dropTiers _ _ _ h
    · obtain rfl := Option.some.inj ht
      exact h

@[simp] theorem State.wf_dropInvariant (s : State) (seq : Option Word) (h : Memory.wf s.mem = true) :
    Memory.wf (State.dropInvariant s seq).mem = true := by
  unfold State.dropInvariant
  split <;> simp [h]

@[simp] theorem State.wf_dropLaunch (s : State) (k : Nat) (h : Memory.wf s.mem = true) :
    Memory.wf (s.dropLaunch k).mem = true := by
  unfold State.dropLaunch
  split
  · exact h
  · exact State.wf_settleDoomed _ (State.wf_dropInvariant _ _ h)

@[simp] theorem State.wf_discardUnplaced (s : State) (k : Nat) (h : Memory.wf s.mem = true) :
    Memory.wf (s.discardUnplaced k).mem = true :=
  foldl_keeps (fun s : State => Memory.wf s.mem = true) _ _ s h fun s e hs => by
    split
    · split
      · exact State.wf_dropLaunch _ _ hs
      · exact hs
    · exact hs

@[simp] theorem State.wf_unbind (s : State) (k : Nat) (q : Queue) (h : Memory.wf s.mem = true) :
    Memory.wf (s.unbind k q).mem = true :=
  State.wf_discardUnplaced _ k (State.wf_failPushes _ k (State.wf_dropScheduler s _ h))

@[simp] theorem State.wf_bind (s : State) (k : Nat) (q : Queue) (h : Memory.wf s.mem = true) :
    Memory.wf (State.bind s k q).mem = true := by
  unfold State.bind
  split <;> simp [h]

theorem State.wf_of_queueStateWrite {s t : State} {k v : Nat} (ht : s.queueStateWrite k v = some t) (h : Memory.wf s.mem = true) :
    Memory.wf t.mem = true := by
  unfold State.queueStateWrite at ht
  extract_lets q q' st at ht
  repeat' split at ht
  all_goals cases ht
  · exact h
  · exact State.wf_bind _ _ _ h
  · exact h
  · exact h
  · exact State.wf_unbind _ _ _ h

@[simp] theorem State.wf_updSv (s : State) (id : Nat) (g : SupRegs → SupRegs) (h : Memory.wf s.mem = true) :
    Memory.wf (State.updSv s id g).mem = true := by
  unfold State.updSv
  simp [h]

theorem State.wf_of_svWrite {s t : State} {id : Nat} {w : Wave} {sel : Nat} {v : DWord} (ht : s.svWrite id w sel v = some t)
    (h : Memory.wf s.mem = true) : Memory.wf t.mem = true := by
  have hw {b : Bool} {u : State} (hm : Memory.wf u.mem = true) (hu : (if b then some u else none) = some t) : Memory.wf t.mem = true := by
    split at hu
    · cases hu
      exact hm
    · cases hu
  have hs {u : State} (hm : Memory.wf u.mem = true) (hu : some u = some t) : Memory.wf t.mem = true := Option.some.inj hu ▸ hm
  have hv {g : SupRegs → SupRegs} := State.wf_updSv s id g h
  have hi {c : Prop} [Decidable c] {a b : Option State} (ha : a = some t → Memory.wf t.mem = true)
      (hb : b = some t → Memory.wf t.mem = true) : (if c then a else b) = some t → Memory.wf t.mem = true :=
    ite_cases (P := fun o : Option State => o = some t → Memory.wf t.mem = true) ha hb
  revert ht
  unfold State.svWrite
  dsimp only
  exact hi (hw hv) <| hi (hs hv) <| hi (hw hv) <| hi (hw hv) <| hi (hw h) <| hi (hs h) <| hi (hw h) <| hi (hw h) <|
    hi (hi (hs hv) (State.wf_of_rangeApply · h)) <| hi (hw h) <| hi (hw h) <| hi (hw h) <|
    hi (State.wf_of_queueStateWrite · h) <| hi (hw h) <| hi (hw h) (hs h)

@[simp] theorem State.wf_loadImports (s : State) (h : Memory.wf s.mem = true) :
    Memory.wf (State.loadImports s).mem = true := by
  unfold State.loadImports
  simp [h]

@[simp] theorem State.wf_resumeWave (s : State) (id : Nat) (h : Memory.wf s.mem = true) :
    Memory.wf (State.resumeWave s id).mem = true := by
  unfold State.resumeWave
  simp [h]

@[simp] theorem State.wf_restartOp (s : State) (id : Nat) (w : Wave) (h : Memory.wf s.mem = true) :
    Memory.wf (State.restartOp s id w).mem = true := by
  unfold State.restartOp
  dsimp only
  (repeat' split) <;> simp [h]

@[simp] theorem State.wf_freeHeap (s : State) (key : Nat) (h : Memory.wf s.mem = true) : Memory.wf (s.freeHeap key).mem = true := by
  unfold State.freeHeap
  split
  · split
    · exact foldl_keeps (fun s : State => Memory.wf s.mem = true) _ _ s h fun s g hs => State.wf_freeRun _ _ _ _ _ _ hs
    · exact h
  · exact h

@[simp] theorem State.wf_cancelLanes (s : State) (id : Nat) (m : Mask) (h : Memory.wf s.mem = true) :
    Memory.wf (State.cancelLanes s id m).mem = true := by
  unfold State.cancelLanes
  exact foldl_keeps (fun t : State => Memory.wf t.mem = true) _ _ _ h fun t x ht => by
    dsimp only
    (repeat' split) <;> simp [ht]

@[simp] theorem State.wf_cancelOp (s : State) (id : Nat) (w : Wave) (h : Memory.wf s.mem = true) :
    Memory.wf (s.cancelOp id w).mem = true := by
  unfold State.cancelOp
  split
  · exact ite_cases (P := fun s : State => Memory.wf s.mem = true) (State.wf_freeHeap s _ h) h
  · split
    · split
      · exact State.wf_cancelLanes _ _ _ h
      · exact h
    · exact h

@[simp] theorem State.wf_killWave (s : State) (id : Nat) (h : Memory.wf s.mem = true) : Memory.wf (s.killWave id).mem = true := by
  have h1 : Memory.wf ((s.endHold id).homeAtom id).mem = true := by simp [h]
  unfold State.killWave
  extract_lets s1 dead s2
  split
  · exact h1
  · have h2 : Memory.wf s2.mem = true := foldl_keeps (fun s : State => Memory.wf s.mem = true) _ _ s1 h1 fun _ _ hs => hs
    exact ite_cases (P := fun s : State => Memory.wf s.mem = true) h2 (State.wf_endWave _ _ _ h2)

@[simp] theorem State.wf_reap (s : State) (h : Memory.wf s.mem = true) :
    Memory.wf (State.reap s).mem = true := by
  unfold State.reap
  exact foldl_keeps (fun t : State => Memory.wf t.mem = true) _ _ _ h fun t x ht => by simp [ht]

@[simp] theorem State.wf_killLaunch (s : State) (k : Nat) (h : Memory.wf s.mem = true) : Memory.wf (s.killLaunch k).mem = true := by
  unfold State.killLaunch
  split
  · exact h
  next l _ =>
    extract_lets s1 s2 s3
    have h3 : Memory.wf s3.mem = true :=
      State.wf_reap _ (ite_cases (P := fun s : State => Memory.wf s.mem = true) (State.wf_dropHead s1 _ h) h)
    exact ite_cases (P := fun s : State => Memory.wf s.mem = true) (State.wf_dropLaunch s3 _ h3) h3

@[simp] theorem State.wf_killWhere (s : State) (p : Launch → Bool) (h : Memory.wf s.mem = true) :
    Memory.wf (s.killWhere p).mem = true :=
  foldl_keeps (fun s : State => Memory.wf s.mem = true) _ _ s h fun s e hs => State.wf_killLaunch s e.1 hs

@[simp] theorem State.wf_setPending (s : State) (world : Nat) (h : Memory.wf s.mem = true) :
    Memory.wf (State.setPending s world).mem = true :=
  h

@[simp] theorem State.wf_resetBegin (s : State) (world : Nat) (h : Memory.wf s.mem = true) :
    Memory.wf (s.resetBegin world).mem = true := by
  unfold State.resetBegin
  extract_lets s1 s2 s3
  have h1 : Memory.wf s1.mem = true :=
    foldl_keeps (fun s : State => Memory.wf s.mem = true) _ _ s h fun s e hs => State.wf_unbind _ _ _ hs
  exact State.wf_killWhere _ _ h1

@[simp] theorem State.wf_resetEnd (s : State) (world : Nat) (h : Memory.wf s.mem = true) :
    Memory.wf (State.resetEnd s world).mem = true :=
  h

end Sys2Proof.Machine

/-! PROOFS. What keeps the canonical form of memory. -/

namespace Sys2Proof.Machine

@[simp] theorem State.wf_opUnit (s : State) (key : Nat) (o : EngOp) (h : Memory.wf s.mem = true) :
    Memory.wf (State.opUnit s key o).mem = true := by
  unfold State.opUnit
  split
  · simp [h]
  · split <;> simp [h]

@[simp] theorem State.wf_opProgress (s : State) (key : Nat) (h : Memory.wf s.mem = true) :
    Memory.wf (State.opProgress s key).mem = true := by
  unfold State.opProgress
  dsimp only
  (repeat' split) <;> simp [h]

@[simp] theorem State.wf_opFinish (s : State) (key : Nat) (o : EngOp) (err err2 : Nat) (h : Memory.wf s.mem = true) :
    Memory.wf (State.opFinish s key o err err2).mem = true := by
  unfold State.opFinish
  split <;> simp [h]

@[simp] theorem State.wf_repoint (s : State) (key new : Nat) (h : Memory.wf s.mem = true) :
    Memory.wf (State.repoint s key new).mem = true :=
  h

@[simp] theorem State.wf_passPosted (s : State) (id : Nat) (key : Nat) (o : EngOp) (h : Memory.wf s.mem = true) :
    Memory.wf (State.passPosted s id key o).mem = true := by
  unfold State.passPosted
  split
  · simp [h]
  · split <;> simp [h]

@[simp] theorem State.wf_retireNotice (s : State) (id cls : Nat) (h : Memory.wf s.mem = true) :
    Memory.wf (s.retireNotice id cls).mem = true := by
  unfold State.retireNotice
  split
  next key o _ w _ _ =>
    extract_lets posts s1 s2 s3
    have h1 : Memory.wf s1.mem = true :=
      ite_cases (P := fun s : State => Memory.wf s.mem = true) (State.wf_passPosted _ _ _ _ h) h
    have h3 : Memory.wf s3.mem = true := by simp [s3, s2, h1]
    refine ite_cases (P := fun s : State => Memory.wf s.mem = true) h ?_
    refine ite_cases (P := fun s : State => Memory.wf s.mem = true) ?_ (State.wf_settleCairns _ _ _ _ h3)
    exact ite_cases (P := fun s : State => Memory.wf s.mem = true) (State.wf_clearHold _ _ h3) h3
  · exact h

@[simp] theorem State.wf_copyResult (s : State) (key : Nat) (o : EngOp) (u : Unfold) (h : Memory.wf s.mem = true) :
    Memory.wf (s.copyResult key o u).mem = true := by
  have hr := State.canon_opRead s key o (u.resAddr 0) 0 u.resSz h
  unfold State.copyResult
  split
  · exact h
  · split
    next bs t heq =>
      rw [heq] at hr
      have hw := State.canon_opWrite t key o u.result.toNat 0 bs hr
      split
      next heq =>
        rw [heq] at hw
        exact hw
      · exact State.wf_opStuck _ _ _ _ hw
    · exact State.wf_opStuck _ _ _ _ hr

@[simp] theorem State.wf_countDrop (s : State) (core : Nat) (h : Memory.wf s.mem = true) :
    Memory.wf (State.countDrop s core).mem = true :=
  h

@[simp] theorem State.wf_mcOver (s : State) (id : Nat) (m : McWrite) (h : Memory.wf s.mem = true) :
    Memory.wf (State.mcOver s id m).mem = true := by
  unfold State.mcOver
  dsimp only
  (repeat' split) <;> simp [h]

@[simp] theorem State.wf_takeBytes (s : State) (w : Wave) (op : LoadOp) (pa n : Nat) (h : Memory.wf s.mem = true) :
    Memory.wf (State.takeBytes s w op pa n).1.mem = true := by
  unfold State.takeBytes
  simp [h]

@[simp] theorem State.wf_laneBytes (s : State) (w : Wave) (op : LoadOp) (src : LoadSrc) (h : Memory.wf s.mem = true) :
    Memory.wf (State.laneBytes s w op src).1.mem = true := by
  unfold State.laneBytes
  split <;> simp [h]

@[simp] theorem State.wf_takeUnits (s : State) (w : Wave) (op : LoadOp) (units : List Nat) (src : LoadSrc) (h : Memory.wf s.mem = true) :
    Memory.wf (State.takeUnits s w op units src).1.mem = true := by
  unfold State.takeUnits
  dsimp only
  (repeat' split) <;> simp [h]

@[simp] theorem State.wf_loadPart (s : State) (id : Nat) (w : Wave) (op : LoadOp) (units : List Nat) (h : Memory.wf s.mem = true) :
    Memory.wf (s.loadPart id w op units).mem = true := by
  have hr := foldl_keeps (fun a : State × List (Nat × LoadSrc) => Memory.wf a.1.mem = true)
    (fun (acc : State × List (Nat × LoadSrc)) x =>
      let b := acc.1.takeUnits w op units x.2
      (b.1, acc.2 ++ [(x.1, b.2)])) op.lanes (s, []) h fun a x ha => State.wf_takeUnits _ _ _ _ _ ha
  unfold State.loadPart
  exact State.wf_seeAt _ _ _ (by simpa using hr)

@[simp] theorem State.wf_landed (s : State) (id : Nat) (h : Memory.wf s.mem = true) : Memory.wf (s.landed id).mem = true := by
  unfold State.landed
  split
  · exact h
  · split
    · split <;> simp [h]
    · split <;> simp [h]
    · exact h

@[simp] theorem State.wf_loadReturn (s : State) (id : Nat) (w : Wave) (op : LoadOp) (h : Memory.wf s.mem = true) :
    Memory.wf (s.loadReturn id w op).mem = true := by
  unfold State.loadReturn
  extract_lets n r t
  have hr : Memory.wf r.1.mem = true :=
    foldl_keeps (fun a : State × Regs => Memory.wf a.1.mem = true) _ op.lanes (s, w.regs) h fun a x ha => State.wf_laneBytes _ _ _ _ ha
  exact State.wf_landed _ _ (State.wf_openGate _ _ _ (State.wf_seeAt _ _ _ (by simpa [t] using hr)))

@[simp] theorem State.wf_refusePosted (s : State) (op : Option Nat) (lane code va : Nat) (h : Memory.wf s.mem = true) :
    Memory.wf (State.refusePosted s op lane code va).mem = true := by
  unfold State.refusePosted
  dsimp only
  (repeat' split) <;> simp [h]

@[simp] theorem State.wf_ackPosted (s : State) (op : Option Nat) (h : Memory.wf s.mem = true) :
    Memory.wf (State.ackPosted s op).mem = true := by
  unfold State.ackPosted
  split
  · simp [h]
  · split <;> simp [h]

@[simp] theorem State.wf_sendPosted (s : State) (id : Nat) (w : Wave) (q : QEntry) (l : QLane) (h : Memory.wf s.mem = true) :
    Memory.wf (State.sendPosted s id w q l).mem = true := by
  unfold State.sendPosted
  dsimp only
  (repeat' split) <;> simp [h]

@[simp] theorem State.wf_wholeLines (s : State) (world : Nat) (ls : List Nat) (h : Memory.wf s.mem = true) :
    Memory.wf (s.wholeLines world ls).mem = true :=
  foldl_keeps (fun s : State => Memory.wf s.mem = true) _ _ s h fun s l hs => by split <;> exact hs

@[simp] theorem State.wf_applyAtom (s : State) (w : Wave) (op : AtomOp) (n : Nat) (who : Stamp) (l : QLane) (h : Memory.wf s.mem = true) :
    Memory.wf (State.applyAtom s w op n who l).1.mem = true := by
  unfold State.applyAtom
  dsimp only
  (repeat' split) <;> simp [h]

@[simp] theorem State.wf_accept (s : State) (id : Nat) (w : Wave) (q : QEntry) (ls : List QLane) (h : Memory.wf s.mem = true) :
    Memory.wf (s.accept id w q ls).mem = true := by
  unfold State.accept
  split
  · dsimp only
    split
    · exact State.memOk_supCells s w _ h
    · exact State.wf_wholeLines _ _ _ (State.wf_storeCells _ _ _ _ _ h)
  next op n ret _ =>
    have hr := foldl_keeps (fun a : State × List (Nat × Nat) => Memory.wf a.1.mem = true)
      (fun (acc : State × List (Nat × Nat)) l =>
        let x := acc.1.applyAtom w op n q.who l
        (x.1, acc.2 ++ [(l.lane, x.2)])) ls (s, []) h fun a x ha => State.wf_applyAtom _ _ _ _ _ _ ha
    dsimp only
    split
    · exact hr
    · simpa using hr
  · exact foldl_keeps (fun s : State => Memory.wf s.mem = true) _ _ s h fun s c hs => (State.traffic_writeBack ..).wf hs

@[simp] theorem State.wf_afterDrain (s : State) (id : Nat) (q : QEntry) (h : Memory.wf s.mem = true) :
    Memory.wf (s.afterDrain id q).mem = true := by
  unfold State.afterDrain
  split
  · exact State.wf_landed _ _ (State.wf_openGate _ _ _ (State.wf_seeAt _ _ _ h))
  · exact h

@[simp] theorem State.wf_drain (s : State) (id : Nat) (w : Wave) (q : QEntry) (pick : QLane → Bool) (h : Memory.wf s.mem = true) :
    Memory.wf (s.drain id w q pick).mem = true := by
  unfold State.drain
  extract_lets ls rest full who q0 s1 s2 q' s3
  have h2 : Memory.wf s2.mem = true :=
    foldl_keeps (fun s : State => Memory.wf s.mem = true) _ _ s1 (State.wf_accept _ _ _ _ _ h) fun s l hs => State.wf_sendPosted _ _ _ _ _ hs
  have h3 : Memory.wf s3.mem = true := by simpa [s3] using h2
  exact ite_cases (P := fun s : State => Memory.wf s.mem = true) (State.wf_afterDrain _ _ _ h3) h3

@[simp] theorem State.wf_sendDone (s : State) (h : Memory.wf s.mem = true) :
    Memory.wf (State.sendDone s).mem = true := by
  unfold State.sendDone
  split <;> simp [h]

@[simp] theorem State.wf_confirm (s : State) (line die : Nat) (h : Memory.wf s.mem = true) :
    Memory.wf (State.confirm s line die).mem = true := by
  unfold State.confirm
  split
  · simp [h]
  · split <;> simp [h]

@[simp] theorem State.wf_countMiss (s : State) (r : DramReq) (h : Memory.wf s.mem = true) :
    Memory.wf (State.countMiss s r).mem = true := by
  unfold State.countMiss
  dsimp only
  (repeat' split) <;> simp [h]

@[simp] theorem State.wf_dramSlot (s : State) (k : Nat) (ch : Chan) (h : Memory.wf s.mem = true) :
    Memory.wf (State.dramSlot s k ch).mem = true := by
  unfold State.dramSlot
  dsimp only
  (repeat' split) <;> simp [h]

@[simp] theorem State.wf_endRequest (s : State) (world page : Nat) (h : Memory.wf s.mem = true) :
    Memory.wf (State.endRequest s world page).mem = true :=
  h

@[simp] theorem State.wf_unitReady (s : State) (u : MissUnit) (h : Memory.wf s.mem = true) :
    Memory.wf (State.unitReady s u).mem = true :=
  h

@[simp] theorem State.wf_sweepEpochs (s : State) (h : Memory.wf s.mem = true) :
    Memory.wf (State.sweepEpochs s).mem = true := by
  unfold State.sweepEpochs
  split <;> simp [h]

theorem State.canon_qReadAll (k va : Nat) (l : List (Nat × Nat)) (acc : List Byte) (s : State) (h : Memory.wf s.mem = true) :
    (State.qReadAll k va l acc s).Canon := by
  induction l generalizing s acc with
  | nil => exact h
  | cons x t ih =>
    have hr := State.canon_qRead s k (va + x.1) x.2 h
    unfold State.qReadAll
    split <;> rename_i heq <;> rw [heq] at hr
    · exact ih _ _ hr
    · exact hr
    · trivial

theorem State.canon_qNum (s : State) (k va n : Nat) (h : Memory.wf s.mem = true) : (s.qNum k va n).Canon := by
  have hr := State.canon_qReadAll k va (pieces va n 65536) [] s h
  unfold State.qNum
  split <;> rename_i heq <;> rw [heq] at hr
  · exact hr
  · exact hr
  · trivial

/-- The examination of a head has left memory canonical. -/
@[simp] def Head.Canon : Head → Prop
  | .miss s | .held s | .start _ s => Memory.wf s.mem = true
  | .none | .bad => True

theorem State.canon_schedule (s : State) (k n : Nat) (l : Launch) (h : Memory.wf s.mem = true) : (s.schedule k n l).Canon := by
  have hn {s : State} (hs : Memory.wf s.mem = true) {a m r} (hr : s.qNum k a m = r) : r.Canon := hr ▸ State.canon_qNum s k a m hs
  unfold State.schedule
  dsimp only
  split <;> rename_i heq <;> have h1 := hn h heq
  · trivial
  · exact h1
  · split
    · trivial
    · split <;> rename_i heq <;> have h2 := hn h1 heq
      · trivial
      · exact h2
      · split <;> rename_i heq <;> have h3 := hn h2 heq
        · trivial
        · exact h3
        · split <;> rename_i heq <;> have h4 := hn h3 heq
          · trivial
          · exact h4
          · split
            · trivial
            · split
              · trivial
              · exact h4

theorem State.canon_testHead (s : State) (k n : Nat) (l : Launch) (h : Memory.wf s.mem = true) : (s.testHead k n l).Canon := by
  have hn := State.canon_qNum s k ((s.queue k).sigbase.toNat * 4096 + 8 * bits n 48 16) 8 h
  unfold State.testHead
  split
  · exact h
  · split
    · exact h
    · split <;> rename_i heq <;> rw [heq] at hn
      · trivial
      · exact hn
      · split <;> exact hn

theorem State.canon_examine (s : State) (k : Nat) (h : Memory.wf s.mem = true) : (s.examine k).Canon := by
  unfold State.examine
  dsimp only
  split
  · trivial
  · split
    · trivial
    · split
      · trivial
      · split
        · exact State.canon_testHead _ _ _ _ h
        · have hs {n l r} (hr : s.schedule k n l = r) : r.Canon := hr ▸ State.canon_schedule s k n l h
          split
          next heq => exact State.canon_testHead _ _ _ _ (hs heq)
          · exact hs rfl

@[simp] theorem State.wf_refill (s : State) (h : Memory.wf s.mem = true) :
    Memory.wf (State.refill s).mem = true :=
  h

@[simp] theorem State.wf_startRecord (s : State) (k : Nat) (l : Launch) (h : Memory.wf s.mem = true) :
    Memory.wf (State.startRecord s k l).mem = true :=
  h

@[simp] theorem State.wf_numberLaunch (s : State) (k : Nat) (l : Launch) (h : Memory.wf s.mem = true) :
    Memory.wf (s.numberLaunch k l).mem = true := by
  unfold State.numberLaunch
  split
  · exact h
  · exact ite_cases (P := fun s : State => Memory.wf s.mem = true) (State.wf_sweepEpochs _ h) h

@[simp] theorem State.wf_placeWg (s : State) (k core slot base : Nat) (l : Launch) (h : Memory.wf s.mem = true) :
    Memory.wf (s.placeWg k core slot base l).mem = true := by
  unfold State.placeWg
  extract_lets id x y z inside c ents c1 c2 g s1 s2 s3 s4 s5 w0 s6
  have h3 : Memory.wf s3.mem = true := foldl_keeps (fun s : State => Memory.wf s.mem = true) _ _ s2 h fun _ _ hs => hs
  have h5 : Memory.wf s5.mem = true := ite_cases (P := fun s : State => Memory.wf s.mem = true) h3 h3
  have h6 : Memory.wf s6.mem = true := ite_cases (P := fun s : State => Memory.wf s.mem = true) h5 h5
  exact ite_cases (P := fun s : State => Memory.wf s.mem = true) (State.wf_dropHead _ _ h6) h6

@[simp] theorem State.wf_releaseWg (s : State) (id : Nat) (g : Wg) (h : Memory.wf s.mem = true) :
    Memory.wf (State.releaseWg s id g).mem = true :=
  h

theorem State.canon_decrement (s : State) (l : Launch) (h : Memory.wf s.mem = true) : (s.decrement l).Canon := by
  have ha := State.canon_qAddrFor s l.world l.queue (l.sigbase * 4096 + 8 * l.donesig) .atomic h
  unfold State.decrement
  split <;> rename_i heq <;> rw [heq] at ha
  · trivial
  · exact ha
  next pa t =>
    split
    · have hr := State.canon_qRemote t l.world pa 8 (leBytes 8 (2 ^ 64 - 1) ++ leBytes 8 0) (some .add) ha
      split <;> rename_i heq <;> rw [heq] at hr
      · exact hr
      · exact hr
      · trivial
    · dsimp only
      split
      · trivial
      · exact State.wf_storeCells _ _ _ _ _ ((State.traffic_checkRead ..).wf ha)

@[simp] theorem State.wf_handOver (s : State) (id : Nat) (w : Wave) (p : Post) (h : Memory.wf s.mem = true) :
    Memory.wf (State.handOver s id w p).mem = true :=
  h

@[simp] theorem State.wf_preemptWave (s : State) (id : Nat) (w : Wave) (h : Memory.wf s.mem = true) :
    Memory.wf (State.preemptWave s id w).mem = true := by
  unfold State.preemptWave
  split <;> simp [h]

@[simp] theorem State.wf_preempt (s : State) (core world : Nat) (h : Memory.wf s.mem = true) :
    Memory.wf (s.preempt core world).mem = true := by
  unfold State.preempt
  exact ite_cases (P := fun s : State => Memory.wf s.mem = true) h
    (foldl_keeps (fun s : State => Memory.wf s.mem = true) _ _ s h fun s e hs => State.wf_preemptWave _ _ _ hs)

@[simp] theorem State.wf_wakeWg (s : State) (id : Nat) (h : Memory.wf s.mem = true) :
    Memory.wf (State.wakeWg s id).mem = true :=
  h

@[simp] theorem State.wf_retag (s : State) (id tag : Nat) (h : Memory.wf s.mem = true) :
    Memory.wf (State.retag s id tag).mem = true :=
  h

@[simp] theorem State.wf_restoreWg (s : State) (id : Nat) (g : Wg) (x : CoreSt) (h : Memory.wf s.mem = true) :
    Memory.wf (State.restoreWg s id g x).mem = true := by
  unfold State.restoreWg
  split <;> simp [h]

@[simp] theorem State.wf_dropRequest (s : State) (id : Nat) (h : Memory.wf s.mem = true) :
    Memory.wf (State.dropRequest s id).mem = true :=
  h

@[simp] theorem State.wf_answer (s : State) (id : Nat) (r : Request) (ans : RemoteAns) (h : Memory.wf s.mem = true) :
    Memory.wf (s.answer id r ans).mem = true := by
  unfold State.answer
  split
  · split
    · exact State.wf_ackPosted _ _ (State.wf_refusePosted _ _ _ _ _ (State.wf_dropRequest _ _ h))
    · exact h
  · split
    · exact h
    · split
      · exact State.wf_dropRequest _ _ h
      · exact h

@[simp] theorem State.wf_keepRemote (s : State) (r : Request) (line : List Byte) (h : Memory.wf s.mem = true) :
    Memory.wf (State.keepRemote s r line).mem = true := by
  unfold State.keepRemote
  split <;> simp [h]

@[simp] theorem State.wf_refuseRequest (s : State) (id : Nat) (h : Memory.wf s.mem = true) :
    Memory.wf (State.refuseRequest s id).mem = true := by
  unfold State.refuseRequest
  split <;> simp [h]

@[simp] theorem State.wf_dropCopies (s : State) (a n : Nat) (h : Memory.wf s.mem = true) :
    Memory.wf (State.dropCopies s a n).mem = true :=
  h

@[simp] theorem State.wf_respond (s : State) (ans : RemoteAns) (h : Memory.wf s.mem = true) :
    Memory.wf (State.respond s ans).mem = true :=
  h

@[simp] theorem State.wf_snoopHosts (s : State) (line : Nat) (h : Memory.wf s.mem = true) :
    Memory.wf (State.snoopHosts s line).mem = true := by
  unfold State.snoopHosts
  dsimp only
  split <;> simp [h]

@[simp] theorem State.wf_respondAfter (s : State) (lines : List Nat) (ans : RemoteAns) (h : Memory.wf s.mem = true) :
    Memory.wf (State.respondAfter s lines ans).mem = true := by
  unfold State.respondAfter
  split <;> simp [h]

@[simp] theorem State.wf_peerWrite (s : State) (world a : Nat) (bs : List Byte) (h : Memory.wf s.mem = true) :
    Memory.wf (s.peerWrite world a bs).mem = true :=
  foldl_keeps (fun s : State => Memory.wf s.mem = true) _ _ _ (State.wf_pokeCells _ _ _ (State.wf_dropCopies s a _ h))
    fun _ _ hs => State.wf_snoopHosts _ _ hs

@[simp] theorem State.wf_serve (s : State) (world : Nat) (req : FabricReq) (h : Memory.wf s.mem = true) :
    Memory.wf (State.serve s world req).mem = true := by
  unfold State.serve
  dsimp only
  (repeat' split) <;> simp [h]

@[simp] theorem State.wf_putPort (s : State) (k : Nat) (p : Port) (h : Memory.wf s.mem = true) :
    Memory.wf (State.putPort s k p).mem = true :=
  h

@[simp] theorem State.wf_maybeRun (s : State) (h : Memory.wf s.mem = true) :
    Memory.wf (State.maybeRun s).mem = true := by
  unfold State.maybeRun
  split <;> simp [h]

@[simp] theorem State.wf_tried (s : State) (k : Nat) (h : Memory.wf s.mem = true) :
    Memory.wf (State.tried s k).mem = true := by
  unfold State.tried
  simp [h]

@[simp] theorem State.wf_putLd (s : State) (k : Nat) (x : Ld) (h : Memory.wf s.mem = true) :
    Memory.wf (State.putLd s k x).mem = true :=
  h

@[simp] theorem State.wf_hostGets (s : State) (bs : List Byte) (poison : Bool) (h : Memory.wf s.mem = true) :
    Memory.wf (State.hostGets s bs poison).mem = true :=
  h

@[simp] theorem State.wf_countDropped (s : State) (fn : Nat) (h : Memory.wf s.mem = true) :
    Memory.wf (State.countDropped s fn).mem = true := by
  unfold State.countDropped
  split <;> simp [h]

@[simp] theorem State.wf_hostReads (s : State) (v : Nat) (h : Memory.wf s.mem = true) :
    Memory.wf (State.hostReads s v).mem = true :=
  h

@[simp] theorem State.wf_handled (s : State) (stack layer : Nat) (h : Memory.wf s.mem = true) :
    Memory.wf (State.handled s stack layer).mem = true :=
  h

@[simp] theorem State.wf_loseLine (s : State) (die line : Nat) (h : Memory.wf s.mem = true) :
    Memory.wf (State.loseLine s die line).mem = true := by
  unfold State.loseLine
  exact foldl_keeps (fun t : State => Memory.wf t.mem = true) _ _ _ h fun t x ht => by
    dsimp only
    (repeat' split) <;> simp [ht]

@[simp] theorem State.wf_sramError (s : State) (place x : Nat) (ys : List Nat) (hard : Bool) (h : Memory.wf s.mem = true) :
    Memory.wf (State.sramError s place x ys hard).mem = true := by
  unfold State.sramError
  dsimp only
  (repeat' split) <;> simp [h]

@[simp] theorem State.wf_sensed (s : State) (h : Memory.wf s.mem = true) :
    Memory.wf (State.sensed s).mem = true :=
  h

@[simp] theorem State.wf_gate (s : State) (core n : Nat) (p : CorePower) (h : Memory.wf s.mem = true) :
    Memory.wf (State.gate s core n p).mem = true := by
  unfold State.gate
  dsimp only
  split <;> simp [h]

/-- Cells picked by a test still rise strictly. -/
theorem wf_filter (p : Nat × Byte → Bool) (m : Memory) (h : Memory.wf m = true) : Memory.wf (m.filter p) = true := by
  simp only [Memory.wf, Bool.and_eq_true] at h ⊢
  exact ⟨risesFrom_filter p m 0 h.1, List.all_eq_true.mpr fun e he => List.all_eq_true.mp h.2 e (List.mem_of_mem_filter he)⟩

@[simp] theorem State.wf_afterReset (s : State) (h : Memory.wf s.mem = true) : Memory.wf s.afterReset.mem = true :=
  wf_filter _ _ h

@[simp] theorem State.wf_trainStacks (s : State) (failed : List Nat) (h : Memory.wf s.mem = true) :
    Memory.wf (State.trainStacks s failed).mem = true := by
  unfold State.trainStacks
  exact foldl_keeps (fun t : State => Memory.wf t.mem = true) _ _ _ h fun t x ht => by simp [ht]

@[simp] theorem State.wf_startFirmware (s : State) (length : Nat) (body : List Byte) (h : Memory.wf s.mem = true) :
    Memory.wf (s.startFirmware length body).mem = true :=
  wf_cwrite _ _ _ (foldl_keeps (fun s : State => Memory.wf s.mem = true) _ _ s h fun _ _ hs => hs)

@[simp] theorem State.wf_romDone (s : State) (img : Image) (failed : List Nat) (h : Memory.wf s.mem = true) :
    Memory.wf (State.romDone s img failed).mem = true := by
  unfold State.romDone
  split <;> simp [h]

@[simp] theorem State.wf_romStep (s : State) (h : Memory.wf s.mem = true) :
    Memory.wf (State.romStep s).mem = true := by
  unfold State.romStep
  dsimp only
  (repeat' split) <;> simp [h]

@[simp] theorem State.wf_spdmSays (s : State) (x : Option (BitVec 512)) (h : Memory.wf s.mem = true) :
    Memory.wf (State.spdmSays s x).mem = true :=
  h

@[simp] theorem State.wf_tdispSays (s : State) (world : Nat) (bad : Bool) (h : Memory.wf s.mem = true) :
    Memory.wf (State.tdispSays s world bad).mem = true :=
  h

@[simp] theorem State.wf_leaveRun (s : State) (world : Nat) (h : Memory.wf s.mem = true) :
    Memory.wf (State.leaveRun s world).mem = true := by
  unfold State.leaveRun
  exact foldl_keeps (fun t : State => Memory.wf t.mem = true) _ _ _ h fun t x ht => by simp [ht]

@[simp] theorem State.wf_endSession (s : State) (world : Nat) (h : Memory.wf s.mem = true) :
    Memory.wf (State.endSession s world).mem = true := by
  unfold State.endSession
  split
  · simp [h]
  · split <;> simp [h]

end Sys2Proof.Machine

/-! PROOFS. Every instruction leaves memory canonical. -/

namespace Sys2Proof.Machine

/-! ### Instructions -/

/-- The state that an outcome goes on to has canonical memory. -/
def OutCanon (o : Out) : Prop := ∀ t, o = .next t → Memory.wf t.mem = true

theorem outCanon_next {s : State} (h : Memory.wf s.mem = true) : OutCanon (.next s) := by
  rintro _ ⟨⟩
  exact h

/-- An instruction leaves memory canonical where its act does so. -/
theorem canon_issue {i : Instr} {s : State} {act : Wave → Mask → State → Act} (h : Memory.wf s.mem = true)
    (ha : ∀ w m, (act w m s).Canon) : OutCanon (issue i s act) :=
  outCanon_next (issueState_mem (fun m => Memory.wf m = true) i s act h ha)

theorem canon_issueM {i : Instr} {f : FmtM} {s : State} {act : Wave → Mask → State → Act} (h : Memory.wf s.mem = true)
    (ha : ∀ w m, (act w m s).Canon) : OutCanon (issueM i f s act) := canon_issue h fun w _ => ha w _

/-- An instruction that only changes its wave leaves memory canonical. -/
theorem canon_onWave {i : Instr} {s : State} {f : Wave → Mask → Wave} (h : Memory.wf s.mem = true) :
    OutCanon (issue i s (onWave f)) := canon_issue h fun _ _ => h

@[simp] theorem State.wf_updWave (s : State) (id : Nat) (f : Wave → Wave) (h : Memory.wf s.mem = true) :
    Memory.wf (s.updWave id f).mem = true := by simpa using h

@[simp] theorem State.wf_fillRequests (s : State) (w : Wave) (l : List (Nat × Nat)) (h : Memory.wf s.mem = true) :
    Memory.wf (s.fillRequests w l).mem = true := (State.traffic_fillRequests s w l).wf h

section
variable {s : State} (h : Memory.wf s.mem = true)
include h

/-! Registers and control -/

theorem canon_shfl (f : FmtA3) : OutCanon (execShfl f s) := canon_issue h fun w m => by
  dsimp only
  split
  · split <;> exact h
  · split
    · exact h
    · split <;> exact h

theorem canon_clock (f : FmtX) : OutCanon (execClock f s) := canon_issue h fun w m => by split <;> exact h

theorem canon_bra (f : FmtB) : OutCanon (execBra f s) := canon_issue h fun w m =>
  ite_cases (P := Act.Canon) h (State.canon_control s _ w m _ _ _ h)

theorem canon_call (f : FmtB) : OutCanon (execCall f s) := canon_issue h fun w m =>
  ite_cases (P := Act.Canon) h (State.canon_control s _ w m _ _ _ h)

theorem canon_yield (f : FmtB) : OutCanon (execYield f s) := canon_issue h fun w m =>
  ite_cases (P := Act.Canon) h (State.canon_control s _ w m _ _ _ h)

theorem canon_exitOp (f : FmtB) : OutCanon (execExitOp f s) := canon_issue h fun w m => by
  split
  · exact h
  · split
    · split
      · exact h
      · exact h
      · exact State.wf_endWave _ _ _ h
    · exact State.canon_control s _ w m _ _ _ h

theorem canon_jumpOp (i : Instr) (f : FmtB) : OutCanon (jumpOp i f s) := canon_issue h fun w m => by
  split
  · exact h
  · split
    · exact h
    · exact State.canon_control s _ w m _ _ _ h

theorem canon_padd (f : FmtA3) : OutCanon (execPadd f s) := canon_issue h fun w m => by split <;> exact h

theorem canon_pname (f : FmtA3) : OutCanon (execPname f s) := canon_issue h fun w m => by
  split
  · exact h
  · split <;> exact h

/-! Barriers -/

theorem canon_masked (i : Instr) (mk : Wave → Nat → Mask) (k : Wave → Entry → Mask → State → Act)
    (hk : ∀ w b m, (k w b m s).Canon) : OutCanon (masked i mk s k) := canon_issue h fun w m => by
  split
  · exact h
  · split
    · exact h
    · split
      · exact h
      · exact State.wf_holdEntry _ _ _ _ h
      · exact hk _ _ _

theorem canon_syncw (f : FmtAI) : OutCanon (execSyncw f s) := canon_masked h _ _ _ fun w _ _ =>
  State.canon_gated s _ w 3 1 _ h fun _ _ hs => hs

theorem canon_arriveOp (i : Instr) (f : FmtAI) (mk : Wave → Nat → Mask) (k : Wave → Nat → Nat) (sync : Bool) :
    OutCanon (arriveOp i f mk k sync s) := canon_masked h _ _ _ fun w b m => by
  split
  · exact h
  next x _ =>
    refine State.canon_gated s _ w 3 1 _ h fun w s hs => ?_
    have ha := State.wf_arrive s s.cur w m (k w (Mask.first m)) x hs
    exact ite_cases (P := Act.Canon) ha (State.wf_waitEntry _ _ _ _ _ _ ha)

theorem canon_rwait (f : FmtAI) : OutCanon (execRwait f s) := canon_masked h _ _ _ fun w b m => by
  dsimp only
  split
  · exact h
  · split
    · exact h
    · split
      · exact h
      · split
        · split
          · exact State.wf_waitEntry _ _ _ _ _ _ h
          · exact h
        · exact h

/-! Loads and stores -/

theorem canon_loadChip (i : Instr) (f : FmtM) (b : Option Nat) (signed : Bool) : OutCanon (loadChip i f b signed s) :=
  canon_issueM h fun w m => by
    split
    · exact h
    · refine State.canon_gated s _ w _ _ _ h fun w s hs => ?_
      split
      · exact hs
      · exact ite_cases (P := Act.Canon) hs hs

theorem canon_storeChip (i : Instr) (f : FmtM) (b : Option Nat) : OutCanon (storeChip i f b s) :=
  canon_issueM h fun w m => by
    split
    · exact h
    · refine State.canon_gated s _ w _ _ _ h fun w s hs => ?_
      split
      · exact hs
      next l _ =>
        have hl := State.wf_storeLanes s w b f l hs
        refine ite_cases (P := Act.Canon) hs ?_
        exact ite_cases (P := fun s : State => Memory.wf s.mem = true) (State.wf_updWave _ _ _ hl) hl

theorem canon_loadG (i : Instr) (f : FmtM) (signed : Bool) (view : State → Nat → Nat → Option (List Byte)) :
    OutCanon (loadG i f signed view s) := canon_issueM h fun w m => by
  dsimp only
  split
  · exact h
  · split
    · exact State.canon_endLoad s _ w f m h
    · refine State.canon_gated s _ w _ _ _ h fun w s hs => ?_
      refine State.canon_access s _ w f true _ _ m _ hs fun fa pas s hs => ?_
      split
      · exact hs
      · split
        · exact hs
        · have hr := State.canon_remoteLoad s s.cur (tgetD s.waves s.cur w) (widthOf f) fa (pas.filter (fun x => s.isRemote x.2)) hs
          split <;> rename_i heq <;> rw [heq] at hr
          · exact hr
          · exact hr
          · exact State.wf_issueLoad _ _ _ _ _ _ _ (State.wf_fillRequests _ _ _ hr)
          next t =>
            have hd {w l r} (hq : t.dataCheck w (widthOf f) l = r) : r.Canon := hq ▸ State.canon_dataCheck t w _ l hr
            split <;> rename_i heq <;> replace hd := hd heq
            · exact hr
            · exact hd
            · exact State.wf_issueLoad _ _ _ _ _ _ _ (State.wf_fillRequests _ _ _ hd)

theorem canon_storeG (i : Instr) (f : FmtM) : OutCanon (storeG i f s) := canon_issueM h fun w m => by
  split
  · exact h
  · refine State.canon_gated s _ w _ _ _ h fun w s hs => ?_
    split
    · exact hs
    · refine State.canon_access s _ w f true _ _ m _ hs fun fa pas s hs => ?_
      dsimp only
      split
      · exact hs
      · exact State.wf_enqueue _ _ _ _ _ _ _ (State.wf_fillRequests _ _ _ hs)

theorem canon_redG (i : Instr) (op : AtomOp) (f : FmtM) : OutCanon (redG i op f s) := canon_issueM h fun w m => by
  split
  · exact h
  · refine State.canon_gated s _ w _ _ _ h fun w s hs => ?_
    split
    · exact hs
    · refine State.canon_access s _ w f true _ _ m _ hs fun fa pas s hs => ?_
      have hd := State.canon_dataCheck s w (widthOf f) (pas.filter (fun x => !s.isRemote x.2)) hs
      dsimp only
      split <;> rename_i heq <;> rw [heq] at hd
      · exact hs
      · exact hd
      · split
        · exact hd
        · exact State.wf_enqueue _ _ _ _ _ _ _ (State.wf_dropLines _ _ _ _ (State.wf_fillRequests _ _ _ hd))

theorem canon_atomG (i : Instr) (op : AtomOp) (f : FmtM) : OutCanon (atomG i op f s) := canon_issueM h fun w m => by
  dsimp only
  split
  · exact State.canon_endAtom s _ w f h
  · refine ite_cases (P := Act.Canon) (State.wf_updWave _ _ _ h) ?_
    refine State.canon_gated s _ w _ _ _ h fun w s hs => ?_
    split
    · exact hs
    · refine State.canon_access s _ w f false _ _ _ _ hs fun fa pas s hs => ?_
      have hd := State.canon_dataCheck s w (widthOf f) (pas.filter (fun x => !s.isRemote x.2)) hs
      split <;> rename_i heq <;> rw [heq] at hd
      · exact hs
      · exact hd
      · split
        · exact hd
        · have he {s : State} (hs : Memory.wf s.mem = true) {a w k l g u} : Memory.wf (s.enqueue a w k l g u).mem = true :=
            State.wf_enqueue _ _ _ _ _ _ _ hs
          refine ite_cases (P := Act.Canon) (State.wf_updWave _ _ _ (he (State.wf_fillRequests _ _ _ hd))) ?_
          exact State.wf_holdFor _ _ _ _ _ (State.wf_dropLines _ _ _ _ (he (State.wf_fillRequests _ _ _ hd)))

theorem canon_stn (f : FmtM) : OutCanon (execStn f s) := canon_issueM h fun w m => by
  split
  · exact h
  · refine State.canon_gated s _ w _ _ _ h fun w s hs => ?_
    split
    · exact hs
    · refine State.canon_access s _ w f true _ _ m _ hs fun fa pas s hs => ?_
      dsimp only
      split
      · exact hs
      · split
        · exact hs
        · exact State.wf_enqueue _ _ _ _ _ _ _ (State.wf_fillRequests _ _ _ hs)

theorem canon_ldn (f : FmtM) : OutCanon (execLdn f s) := canon_issueM h fun w m => by
  split
  · exact h
  · split
    · exact h
    · refine Act.canon_onRaise _ (fun s hs => State.wf_tidyNames _ (State.wf_stopLdn _ _ _ _ hs)) _ ?_
      refine State.canon_gated s _ w _ _ _ h fun w s hs => ?_
      refine State.canon_access s _ w f true _ _ m _ hs fun fa pas s hs => ?_
      extract_lets rem loc
      split
      · exact hs
      · have hd := State.canon_dataCheck s w 16 loc hs
        split <;> rename_i heq <;> rw [heq] at hd
        · exact hs
        · exact hd
        next t =>
          have hr {w l r} (hq : t.remoteLoad t.cur w 16 fa l = r) : r.Canon := hq ▸ State.canon_remoteLoad t _ w _ _ l hd
          split <;> rename_i heq <;> replace hr := hr heq
          · exact hr
          · exact State.wf_beginLdn _ _ _ _ _ hr
          · exact hr
          next bs u =>
            extract_lets v r
            have hr : Memory.wf r.1.mem = true :=
              foldl_keeps (fun a : State × List (Nat × Nat × Nat) => Memory.wf a.1.mem = true) _ pas (u.fillRequests v loc, [])
                (State.wf_fillRequests _ _ _ hr) fun a x ha => by
                  dsimp only
                  split
                  · exact ha
                  · exact State.wf_slotBytes _ _ _ ha
            have hn := State.canon_resolveLanes r.1 v r.2 hr
            split <;> rename_i heq <;> rw [heq] at hn
            · exact hn
            · exact State.wf_beginLdn _ _ _ _ _ hn
            · exact State.wf_parkOn _ _ _ _ (State.wf_stopLdn _ _ _ _ hn)
            · exact State.wf_see _ _ (State.wf_acquire _ _ _ (State.wf_stopLdn _ _ _ _ hn))

theorem canon_ldg2l (f : FmtM) : OutCanon (execLdg2l f s) := canon_issueM h fun w m => by
  split
  · exact h
  · refine State.canon_gated s _ w _ _ _ h fun w s hs => ?_
    dsimp only
    split
    · exact hs
    · split <;> exact hs

theorem canon_prefetch (f : FmtM) : OutCanon (execPrefetch f s) := canon_issueM h fun _ _ =>
  foldl_keeps (fun s : State => Memory.wf s.mem = true) _ _ s h fun _ _ hs => (State.traffic_prefetchLane ..).wf hs

theorem canon_cleanOp (i : Instr) (f : FmtM) (invalidate : Bool) : OutCanon (cleanOp i f invalidate s) := canon_issueM h fun w m => by
  split
  · exact h
  · refine State.canon_gated s _ w _ _ _ h fun w s hs => ?_
    split
    · exact hs
    · split
      · exact hs
      next l _ =>
        have hc := State.canon_cleanAll s w l hs
        split <;> rename_i heq <;> rw [heq] at hc
        · exact hc
        · exact hc
        · exact hc
        · exact State.wf_enqueue _ _ _ _ _ _ _ hc

theorem canon_fence (f : FmtM) : OutCanon (execFence f s) := canon_issue h fun w m => by
  split
  · exact h
  · refine State.canon_gated s _ w _ _ _ h fun w s hs => ?_
    split
    · exact hs
    · split
      · exact State.wf_acquire _ _ _ hs
      · exact hs

theorem canon_fenceSc (f : FmtM) : OutCanon (execFenceSc f s) := canon_issue h fun w _ =>
  ite_cases (P := Act.Canon) h (State.canon_gated s _ w _ _ _ h fun _ _ hs => hs)

/-! Channels, cairns, tokens and engines -/

theorem canon_qpush (f : FmtM) : OutCanon (execQpush f s) := canon_issueM h fun w m => by
  split
  · exact h
  · split
    · exact State.canon_pushOn s _ w f _ h
    · refine State.canon_gated s _ w _ _ _ h fun w s hs => ?_
      dsimp only
      split
      · exact hs
      · split
        · exact hs
        · split
          · exact hs
          · split
            · exact hs
            · exact State.canon_pushOn _ _ _ f _ (State.wf_updWave _ _ _ (State.wf_spend _ _ _ _ hs))

theorem canon_qpop (f : FmtM) : OutCanon (execQpop f s) := canon_issueM h fun w m => by
  split
  · exact h
  · refine State.canon_gated s _ w _ _ _ h fun w s hs => ?_
    dsimp only
    split
    · exact hs
    next l _ =>
      split
      · exact hs
      · split
        · exact hs
        · have hp := State.canon_popLanes (chanQueue (s.channel w (chanNum f.data))) w l s hs
          split <;> rename_i heq <;> rw [heq] at hp
          · exact hp
          · exact State.wf_keepMiss _ _ _ hs
          · exact State.wf_queueError _ _ hs

theorem canon_qstat (f : FmtX) : OutCanon (execQstat f s) := canon_issue h fun w m => by
  dsimp only
  split
  · exact h
  · split <;> exact h

theorem canon_cairn (f : FmtA3) : OutCanon (execCairn f s) := canon_issue h fun w m => by
  dsimp only
  split
  · exact h
  · split
    · exact h
    · split
      · exact h
      · split
        · split <;> exact h
        · exact h

theorem canon_cairnq (f : FmtX) : OutCanon (execCairnq f s) := canon_issue h fun w m => by
  dsimp only
  split <;> exact h

theorem canon_cairnx (f : FmtX) : OutCanon (execCairnx f s) := canon_issue h fun w m => by
  dsimp only
  split
  · exact h
  · split <;> exact h

theorem canon_mzero (f : FmtA3) : OutCanon (execMzero f s) := canon_issue h fun w m => by
  split
  · exact h
  · refine State.canon_gated s _ w _ _ _ h fun w s hs => ?_
    split
    · exact hs
    · exact foldl_keeps (fun s : State => Memory.wf s.mem = true) _ _ s hs fun s l hs => State.wf_issueOp _ _ _ hs

theorem canon_engineOp (i : Instr) (f : FmtE) (kind : OpKind) (cls len : Nat) (reads : Bool) (pre : Wave → Mask → State → Option FaultRec)
    (names : State → EngOp → List Byte → List Nat) (mk : Wave → State → EngOp → EngOp) :
    OutCanon (engineOp i f kind cls len reads pre names mk s) := canon_issue h fun w m => by
  split
  · exact h
  · refine State.canon_gated s _ w _ _ _ h fun w s hs => ?_
    split
    · exact hs
    · split
      · exact hs
      · exact hs
      · split
        · exact hs
        · exact foldl_keeps (fun s : State => Memory.wf s.mem = true) _ _ s hs fun s l hs => State.wf_issueOp _ _ _ hs

theorem canon_mma (f : FmtE) : OutCanon (execMma f s) := canon_engineOp h (.mma f) f _ _ _ _ _ _ _

theorem canon_mdrain (f : FmtE) : OutCanon (execMdrain f s) := canon_engineOp h (.mdrain f) f _ _ _ _ _ _ _

theorem canon_dpload (f : FmtE) : OutCanon (execDpload f s) := canon_engineOp h (.dpload f) f _ _ _ _ _ _ _

theorem canon_xcopy (f : FmtE) : OutCanon (execXcopy f s) := canon_engineOp h (.xcopy f) f _ _ _ _ _ _ _

theorem canon_xgather (f : FmtE) : OutCanon (execXgather f s) := canon_engineOp h (.xgather f) f _ _ _ _ _ _ _

theorem canon_xlevel (f : FmtE) : OutCanon (execXlevel f s) := canon_engineOp h (.xlevel f) f _ _ _ _ _ _ _

theorem canon_rbegin (f : FmtE) : OutCanon (execRbegin f s) := canon_engineOp h (.rbegin f) f _ _ _ _ _ _ _

theorem canon_tktake (f : FmtX) : OutCanon (execTktake f s) := canon_issue h fun w m => by
  dsimp only
  split
  · exact h
  · split
    · exact h
    · split
      · exact h
      · split
        · split
          · exact State.canon_gated s _ w _ _ _ h fun _ _ hs => hs
          · exact h
        · split
          · split
            · exact State.canon_gated s _ w _ _ _ h fun _ _ hs => hs
            · exact h
          · exact h

theorem canon_tokenPass (i : Instr) (f : FmtX) (free : Bool) : OutCanon (tokenPass i f free s) := canon_issue h fun w m => by
  dsimp only
  split
  · exact h
  · split
    · split <;> exact h
    · split
      · split
        · exact h
        · split
          · exact h
          · refine State.canon_gated s _ w _ _ _ h fun w s hs => ?_
            exact ite_cases (P := Act.Canon) (State.wf_setToken _ _ _ hs) (State.wf_passToken _ _ _ hs)
      · exact h

theorem canon_waitc (f : FmtE) : OutCanon (execWaitc f s) := canon_issue h fun w m => by
  split
  · exact h
  · split
    · exact State.wf_coverUses _ _ _ h
    · exact h
    · exact h

theorem canon_ringOp (i : Instr) (f : FmtA3) (fresh : Bool) (act : Wave → Mask → State → Nat → Ring → Nat → Act)
    (ha : ∀ w m a r k, (act w m s a r k).Canon) : OutCanon (ringOp i f fresh act s) := canon_issue h fun w m => by
  dsimp only
  split
  · exact h
  · split
    · exact h
    · split
      · exact h
      · split
        · exact h
        · split
          · exact h
          · exact ha _ _ _ _ _

theorem canon_sring (f : FmtA3) : OutCanon (execSring f s) := canon_ringOp h _ _ _ _ fun w m a r k => by
  dsimp only
  split
  · exact h
  · split <;> exact h

theorem canon_sawaitFree (f : FmtA3) : OutCanon (execSawaitFree f s) := canon_ringOp h _ _ _ _ fun w _ _ _ _ =>
  ite_cases (P := Act.Canon) (State.canon_gated s _ w _ _ _ h fun _ _ hs => hs) h

theorem canon_sawaitFull (f : FmtA3) : OutCanon (execSawaitFull f s) := canon_ringOp h _ _ _ _ fun w _ _ _ _ =>
  ite_cases (P := Act.Canon) (State.canon_gated s _ w _ _ _ h fun _ _ hs => hs) h

theorem canon_spub (f : FmtA3) : OutCanon (execSpub f s) := canon_ringOp h _ _ _ _ fun w _ _ _ _ => canon_ringMove w s _ _ _ _ h

theorem canon_srel (f : FmtA3) : OutCanon (execSrel f s) := canon_ringOp h _ _ _ _ fun w _ _ _ _ => canon_ringMove w s _ _ _ _ h

/-! Unfoldings -/

theorem canon_rchild (f : FmtX) : OutCanon (execRchild f s) := canon_issue h fun w m => by
  have hr := State.canon_rereadIn s s.cur (Mask.lanes m) h
  split <;> rename_i heq <;> rw [heq] at hr
  · exact hr.2
  next t u =>
    have ht := hr.1 t rfl
    split
    · exact State.wf_stopChild _ _ _ ht
    next hx => exact State.wf_updWave _ _ _ (State.wf_of_childrenIn hx ht)

theorem canon_rdone (f : FmtX) : OutCanon (execRdone f s) := canon_issue h fun w m => by
  split
  · exact h
  · split
    · exact h
    · split
      · exact h
      · exact State.canon_gated s _ w _ _ _ h fun _ s hs =>
          foldl_keeps (fun s : State => Memory.wf s.mem = true) _ _ s hs fun s l hs => State.wf_doneIn _ _ _ hs

theorem canon_rframe (f : FmtX) : OutCanon (execRframe f s) := canon_issue h fun w m => by split <;> exact h

theorem canon_rres (f : FmtX) : OutCanon (execRres f s) := canon_issue h fun w m => by
  split
  · exact h
  · split <;> exact h

/-! Traps and supervisor instructions -/

theorem canon_trap (f : FmtX) : OutCanon (execTrap f s) := canon_issue h fun w m => by
  split
  · exact h
  · split
    · exact h
    · split
      · exact h
      · split
        · exact h
        · exact State.canon_gated s _ w _ _ _ h fun _ s hs => by simpa [Act.Leaves] using hs

theorem canon_bkpt (f : FmtX) : OutCanon (execBkpt f s) := canon_issue h fun w m => by
  split
  · exact h
  · split
    · exact h
    · split
      · exact h
      · simpa [Act.Leaves] using h

theorem canon_svret (f : FmtX) : OutCanon (execSvret f s) := canon_issue h fun w m => by split <;> exact h

theorem canon_srdp (f : FmtX) : OutCanon (execSrdp f s) := canon_issue h fun w m => by split <;> exact h

theorem canon_swrpOp (i : Instr) (f : FmtX) : OutCanon (swrpOp i f s) := canon_issue h fun w m => by
  dsimp only
  have hw : Memory.wf ((s.svWrite s.cur w f.sel.toNat (BitVec.ofNat 64 (w.src f.a 2 0))).getD s).mem = true := by
    cases hq : s.svWrite s.cur w f.sel.toNat (BitVec.ofNat 64 (w.src f.a 2 0)) with
    | none => exact h
    | some t => exact State.wf_of_svWrite hq h
  split
  · exact h
  · split
    · exact h
    · split
      · exact State.wf_updWave _ _ _ hw
      · exact hw

theorem canon_tlbiOp (i : Instr) (f : FmtX) (hit : Wave → Tlb → Bool) (world : Wave → Nat → Bool) (more : State → State)
    (hm : ∀ s, Memory.wf s.mem = true → Memory.wf (more s).mem = true) : OutCanon (tlbiOp i f hit world more s) :=
  canon_issue h fun w m => by
    have hd : Memory.wf ((s.dropTlb (hit w)).dropWalks (world w)).mem = true := State.wf_dropWalks _ _ (by simpa using h)
    dsimp only
    split
    · exact h
    · split
      · exact h
      · split <;> exact hm _ hd

theorem canon_wsetRecordOp (i : Instr) (f : FmtX) (act : State → Nat → Wave → State)
    (ha : ∀ id w, Memory.wf (act s id w).mem = true) : OutCanon (wsetRecordOp i f act s) := canon_issue h fun w m => by
  split
  · exact h
  · split
    · exact h
    · split
      · exact State.wf_resumeWave _ _ (ha _ _)
      · exact h

theorem canon_tlbiWorld (f : FmtX) : OutCanon (execTlbiWorld f s) := canon_tlbiOp h _ f _ _ _ fun _ hs => hs

theorem canon_tlbiPage (f : FmtX) : OutCanon (execTlbiPage f s) := canon_tlbiOp h _ f _ _ _ fun _ hs => hs

theorem canon_tlbiAll (f : FmtX) : OutCanon (execTlbiAll f s) := canon_tlbiOp h _ f _ _ _ State.wf_loadImports

theorem canon_wsetResume (f : FmtX) : OutCanon (execWsetResume f s) := canon_wsetRecordOp h _ f _ fun _ _ => h

theorem canon_wsetRestart (f : FmtX) : OutCanon (execWsetRestart f s) := canon_wsetRecordOp h _ f _ fun id w => State.wf_restartOp s id w h

theorem canon_wsetCancel (f : FmtX) : OutCanon (execWsetCancel f s) := canon_wsetRecordOp h _ f _ fun id w => State.wf_cancelOp s id w h

theorem canon_wsetKill (f : FmtX) : OutCanon (execWsetKill f s) := canon_issue h fun w m => by
  split
  · exact h
  · split
    · exact h
    · exact State.wf_killWhere _ _ h

theorem canon_wsetPause (f : FmtX) : OutCanon (execWsetPause f s) := canon_issue h fun w m => by
  split
  · exact h
  · split
    · exact h
    · split <;> exact h

theorem canon_wsetUnpause (f : FmtX) : OutCanon (execWsetUnpause f s) := canon_issue h fun w m => by
  split
  · exact h
  · split
    · exact h
    · split <;> exact h

theorem canon_wsetReset (f : FmtX) : OutCanon (execWsetReset f s) := canon_issue h fun w m => by
  have hb := State.wf_resetBegin s w.selWorld h
  dsimp only
  split
  · exact h
  · split
    · exact h
    · split
      · exact State.wf_resetEnd _ _ hb
      · exact hb

theorem canon_haltOp (i : Instr) (f : FmtX) (mode : HaltMode) : OutCanon (haltOp i f mode s) := canon_issue h fun w m => by
  dsimp only
  split
  · exact h
  · split
    · exact h
    · split
      · exact h
      · split
        · exact State.wf_supWrite _ _ _ _ h
        · exact h

theorem canon_haltcResume (f : FmtX) : OutCanon (execHaltcResume f s) := canon_issue h fun w m => by
  dsimp only
  split
  · exact h
  · split
    · exact h
    · exact State.wf_reap _ h

theorem canon_haltcStep (f : FmtX) : OutCanon (execHaltcStep f s) := canon_issue h fun w m => by
  dsimp only
  split
  · exact h
  · split
    · exact h
    · split
      · exact h
      · split
        · split <;> exact h
        · split
          · exact h
          · split <;> exact h

end

end Sys2Proof.Machine

/-! PROOFS. Every event leaves memory canonical, and so every step does. -/

namespace Sys2Proof.Machine

/-! ### Events -/

section
variable {s : State} (h : Memory.wf s.mem = true)
include h

theorem canon_clauseFetch : OutCanon (execClauseFetch s) := by
  unfold execClauseFetch
  split
  · exact outCanon_next h
  · split
    · exact outCanon_next h
    · refine outCanon_next (ite_cases (P := fun s : State => Memory.wf s.mem = true) h ?_)
      split
      · exact State.wf_fetchClause _ _ _ _ h
      · split
        · exact h
        · exact State.wf_beginClause _ _ _ _ _ h

theorem canon_waveIssue : OutCanon (execWaveIssue s) := outCanon_next (by split <;> simp [h])

theorem canon_translationWalk : OutCanon (execTranslationWalk s) := outCanon_next (by
  have hw := XRes.canon_of_traffic
    (State.traffic_walkFlat s { cluster := s.arg.c, world := s.arg.a } s.arg.b s.arg.acc []) h
  split
  · exact h
  · split <;> rename_i heq <;> rw [heq] at hw
    · exact hw
    · exact hw
    · exact hw
    · exact State.wf_joinPending _ _ _ hw)

theorem canon_pageInstall : OutCanon (execPageInstall s) := outCanon_next (by split <;> simp [h])

theorem canon_pageDeny : OutCanon (execPageDeny s) := outCanon_next (by split <;> simp [h])

theorem canon_missingUnitAvailable : OutCanon (execMissingUnitAvailable s) := outCanon_next (by split <;> simp [h])

theorem canon_waveRequeue : OutCanon (execWaveRequeue s) := outCanon_next (by
  split
  · split <;> simp [h]
  · simp [h])

theorem canon_waveLower : OutCanon (execWaveLower s) := outCanon_next (by
  (repeat' split) <;> simp [h])

theorem canon_pageMigrate : OutCanon (execPageMigrate s) := outCanon_next (by split <;> simp [h])

theorem canon_pageDemote : OutCanon (execPageDemote s) := outCanon_next (by split <;> simp [h])

theorem canon_migrationComplete : OutCanon (execMigrationComplete s) := outCanon_next (by
  (repeat' split) <;> simp [h])

theorem canon_nameResolved : OutCanon (execNameResolved s) := outCanon_next (by split <;> simp [h])

theorem canon_objectDepart : OutCanon (execObjectDepart s) := outCanon_next (by
  split
  · exact h
  · extract_lets who t u
    have ht : Memory.wf t.mem = true :=
      foldl_keeps (fun s : State => Memory.wf s.mem = true) _ _ s h fun s f hs => State.wf_pageTraffic _ _ _ _ hs
    have hu : Memory.wf u.mem = true := by
      have hm := State.wf_unmapObject _ s.arg.a (s.rotAt s.arg.a) (State.wf_dropObjLines _ s.arg.a (s.rotAt s.arg.a)
        (State.wf_departImage t s.arg.a (s.rotAt s.arg.a) ht))
      simpa [u] using hm
    exact State.wf_settleDoomed _ hu)

theorem canon_objectArrive : OutCanon (execObjectArrive s) := outCanon_next (by
  split
  · exact h
  · refine State.wf_settleDoomed _ (foldl_keeps (fun s : State => Memory.wf s.mem = true) _ _ _ ?_ fun s p hs => State.wf_setMap _ _ _ _ hs)
    simpa using h)

theorem canon_objectDestroy : OutCanon (execObjectDestroy s) := outCanon_next (by split <;> simp [h])

theorem canon_epochSweep : OutCanon (execEpochSweep s) := outCanon_next (by split <;> simp [h])

theorem canon_engineOpProgress : OutCanon (execEngineOpProgress s) := outCanon_next (by simp [h])

theorem canon_engineOpFreeze : OutCanon (execEngineOpFreeze s) := outCanon_next (by
  dsimp only
  (repeat' split) <;> simp [h])

theorem canon_engineOpComplete : OutCanon (execEngineOpComplete s) := outCanon_next (by
  split
  · split <;> simp [h]
  · simp [h])

theorem canon_completionNoticeRetire : OutCanon (execCompletionNoticeRetire s) := outCanon_next (by simp [h])

theorem canon_frameDispatch : OutCanon (execFrameDispatch s) := outCanon_next (by
  (repeat' split) <;> simp [h])

theorem canon_unfoldingEnd : OutCanon (execUnfoldingEnd s) := outCanon_next (by
  (repeat' split) <;> simp [h])

theorem canon_multicastWriteArrive : OutCanon (execMulticastWriteArrive s) := outCanon_next (by
  dsimp only
  (repeat' split) <;> simp [h])

theorem canon_multicastTimeout : OutCanon (execMulticastTimeout s) := outCanon_next (by
  split
  · simp [h]
  · split <;> simp [h])

theorem canon_storeQueueDrain : OutCanon (execStoreQueueDrain s) := outCanon_next (by
  dsimp only
  (repeat' split) <;> simp [h])

theorem canon_dramRequestServe : OutCanon (execDramRequestServe s) := outCanon_next (by split <;> simp [h])

theorem canon_postedWriteAck : OutCanon (execPostedWriteAck s) := outCanon_next (by
  split
  · split <;> simp [h]
  · simp [h])

theorem canon_fabricRequest : OutCanon (execFabricRequest s) := outCanon_next (by
  (repeat' split) <;> simp [h])

theorem canon_remoteResponse : OutCanon (execRemoteResponse s) := outCanon_next (by
  (repeat' split) <;> simp [h])

theorem canon_remoteTimeout : OutCanon (execRemoteTimeout s) := outCanon_next (by
  split
  · split <;> simp [h]
  · simp [h])

theorem canon_flitReceive : OutCanon (execFlitReceive s) := outCanon_next (by
  (repeat' split) <;> simp [h])

theorem canon_laneSpare : OutCanon (execLaneSpare s) := outCanon_next (by split <;> simp [h])

theorem canon_portDown : OutCanon (execPortDown s) := outCanon_next (by split <;> simp [h])

theorem canon_hostHdmRead : OutCanon (execHostHdmRead s) := outCanon_next (by
  dsimp only
  (repeat' split) <;> simp [h])

theorem canon_hostHdmWrite : OutCanon (execHostHdmWrite s) := outCanon_next (by
  split
  · simp [h]
  · split <;> simp [h])

theorem canon_hdmDecoderCommit : OutCanon (execHdmDecoderCommit s) := outCanon_next (by
  split
  · simp [h]
  · split <;> simp [h])

theorem canon_notify : OutCanon (execNotify s) := outCanon_next (by
  (repeat' split) <;> simp [h])

theorem canon_ictl : OutCanon (execIctl s) := outCanon_next (by
  (repeat' split) <;> simp [h])

theorem canon_ndropClear : OutCanon (execNdropClear s) := outCanon_next (by
  (repeat' split) <;> simp [h])

theorem canon_windowGrant : OutCanon (execWindowGrant s) := outCanon_next (by
  split
  · simp [h]
  · split <;> simp [h])

theorem canon_windowReclaim : OutCanon (execWindowReclaim s) := outCanon_next (by split <;> simp [h])

theorem canon_recordStart : OutCanon (execRecordStart s) := outCanon_next (by
  have he := State.canon_examine s s.arg.a h
  split <;> rename_i heq <;> rw [heq] at he
  · exact h
  · exact State.wf_queueError _ _ h
  · exact State.wf_keepMiss _ _ _ h
  · exact he
  · split
    · exact State.wf_dropHead _ _ (State.wf_startRecord _ _ _ he)
    · split
      · exact State.wf_refill _ h
      · split
        · exact ite_cases (P := fun s : State => Memory.wf s.mem = true) (State.wf_startRecord _ _ _ he) h
        · exact h)

theorem canon_signalRetest : OutCanon (execSignalRetest s) := outCanon_next (by
  have he := State.canon_examine s s.arg.a h
  split <;> rename_i heq
  · exact State.wf_queueError _ _ h
  · exact State.wf_keepMiss _ _ _ h
  · rw [heq] at he
    exact he
  · exact h)

theorem canon_workgroupPlace : OutCanon (execWorkgroupPlace s) := outCanon_next (by
  dsimp only
  (repeat' split) <;> simp [h])

theorem canon_workgroupEnd : OutCanon (execWorkgroupEnd s) := outCanon_next (by
  dsimp only
  (repeat' split) <;> simp [h])

theorem canon_launchComplete : OutCanon (execLaunchComplete s) := outCanon_next (by
  split
  · exact h
  next l _ =>
    split
    · exact h
    · split
      · exact State.wf_dropLaunch _ _ h
      · have hd := State.canon_decrement s l h
        split <;> rename_i heq <;> rw [heq] at hd
        · exact ite_cases (P := fun s : State => Memory.wf s.mem = true) (State.wf_queueError _ _ (State.wf_dropLaunch _ _ h))
            (State.wf_dropLaunch _ _ h)
        next t => exact State.wf_keepMiss s t l.queue h
        · exact ite_cases (P := fun s : State => Memory.wf s.mem = true) (State.wf_interrupt _ _ _ (State.wf_dropLaunch _ _ hd))
            (State.wf_dropLaunch _ _ hd))

theorem canon_faultQueuePost : OutCanon (execFaultQueuePost s) := outCanon_next (by split <;> simp [h])

theorem canon_supervisorEntry : OutCanon (execSupervisorEntry s) := outCanon_next (by
  dsimp only
  (repeat' split) <;> simp [h])

theorem canon_sliceEnd : OutCanon (execSliceEnd s) := outCanon_next
  (foldl_keeps (fun s : State => Memory.wf s.mem = true) _ _ s h fun _ _ hs => State.wf_preempt _ _ _ hs)

theorem canon_preempt : OutCanon (execPreempt s) := outCanon_next (by simp [h])

theorem canon_workgroupSave : OutCanon (execWorkgroupSave s) := outCanon_next (by
  split
  · simp [h]
  · split <;> simp [h])

theorem canon_workgroupRestore : OutCanon (execWorkgroupRestore s) := outCanon_next (by
  (repeat' split) <;> simp [h])

theorem canon_coreRetire : OutCanon (execCoreRetire s) := outCanon_next (by
  (repeat' split) <;> simp [h])

theorem canon_layerRetire : OutCanon (execLayerRetire s) := outCanon_next (by split <;> simp [h])

theorem canon_layerRebuildDone : OutCanon (execLayerRebuildDone s) := outCanon_next (by split <;> simp [h])

theorem canon_secondLayerFailure : OutCanon (execSecondLayerFailure s) := outCanon_next (by split <;> simp [h])

theorem canon_scrubLine : OutCanon (execScrubLine s) := outCanon_next (by
  split
  · exact h
  · rw [State.putSide_mem]
    exact wf_czero _ _ _ h)

theorem canon_patrolScrub : OutCanon (execPatrolScrub s) := outCanon_next (by
  dsimp only
  (repeat' split) <;> simp [h])

theorem canon_thermalTrip : OutCanon (execThermalTrip s) := outCanon_next (by split <;> simp [h])

theorem canon_thermalRelease : OutCanon (execThermalRelease s) := outCanon_next (by split <;> simp [h])

theorem canon_coreClockGate : OutCanon (execCoreClockGate s) := outCanon_next (by simp [h])

theorem canon_corePowerGate : OutCanon (execCorePowerGate s) := outCanon_next (by simp [h])

theorem canon_coreWake : OutCanon (execCoreWake s) := outCanon_next (by
  (repeat' split) <;> simp [h])

theorem canon_stackSelfRefresh : OutCanon (execStackSelfRefresh s) := outCanon_next (by split <;> simp [h])

theorem canon_stackSelfRefreshExit : OutCanon (execStackSelfRefreshExit s) := outCanon_next (by split <;> simp [h])

theorem canon_powerOnReset : OutCanon (execPowerOnReset s) := outCanon_next (by
  dsimp only
  (repeat' split) <;> simp [h])

theorem canon_firmwareUpdate : OutCanon (execFirmwareUpdate s) := outCanon_next (by split <;> simp [h])

theorem canon_bringupParameters : OutCanon (execBringupParameters s) := outCanon_next (by
  split
  · exact h
  · split
    · exact h
    · extract_lets first t
      have ht : Memory.wf t.mem = true := foldl_keeps (fun s : State => Memory.wf s.mem = true) _ _ s h fun _ _ hs => hs
      clear_value t
      exact State.wf_maybeRun _ ht)

theorem canon_spdmRequest : OutCanon (execSpdmRequest s) := outCanon_next (by
  (repeat' split) <;> simp [h])

theorem canon_lockInterface : OutCanon (execLockInterface s) := outCanon_next (by
  split
  · simp [h]
  · split <;> simp [h])

theorem canon_setGroupKey : OutCanon (execSetGroupKey s) := outCanon_next (by split <;> simp [h])

theorem canon_switchGroupKey : OutCanon (execSwitchGroupKey s) := outCanon_next (by split <;> simp [h])

theorem canon_endSession : OutCanon (execEndSession s) := outCanon_next (by simp [h])

theorem canon_heartbeatExpiry : OutCanon (execHeartbeatExpiry s) := outCanon_next (by simp [h])

theorem canon_tdiLeaveRun : OutCanon (execTdiLeaveRun s) := outCanon_next (by
  (repeat' split) <;> simp [h])

theorem canon_loadValueReturn : OutCanon (execLoadValueReturn s) := outCanon_next (by
  (repeat' split) <;> simp [h])

theorem canon_lineConfirm : OutCanon (execLineConfirm s) := outCanon_next (by simp [h])

theorem canon_cxlCacheSnoop : OutCanon (execCxlCacheSnoop s) := outCanon_next (by
  split
  · exact h
  · split
    · exact ite_cases (P := fun m : Memory => Memory.wf m = true) (wf_cwrite _ _ _ h) h
    · exact h)

theorem canon_returnToConfigUnlocked : OutCanon (execReturnToConfigUnlocked s) := outCanon_next (by
  split
  · exact h
  · extract_lets t u v
    have hu : Memory.wf u.mem = true :=
      State.wf_resetBegin _ _ (ite_cases (P := fun s : State => Memory.wf s.mem = true) (State.wf_leaveRun _ _ h) h)
    have hv : Memory.wf v.mem = true := State.wf_resetEnd _ _ hu
    clear_value v u
    exact ite_cases (P := fun s : State => Memory.wf s.mem = true) hv hu)

theorem canon_tdiEnterRun : OutCanon (execTdiEnterRun s) := outCanon_next (by split <;> simp [h])

theorem canon_worldBind : OutCanon (execWorldBind s) := outCanon_next (by split <;> simp [h])

theorem canon_ldBindingChange : OutCanon (execLdBindingChange s) := outCanon_next (by split <;> simp [h])

theorem canon_msixVectorUnmask : OutCanon (execMsixVectorUnmask s) := outCanon_next (by
  split
  · simp [h]
  · split <;> simp [h])

theorem canon_nymnikPortTraining : OutCanon (execNymnikPortTraining s) := outCanon_next (by
  split
  · simp [h]
  · split <;> simp [h])

theorem canon_cxlPortTraining : OutCanon (execCxlPortTraining s) := outCanon_next (by
  split
  · simp [h]
  · split <;> simp [h])

theorem canon_powerLoss : OutCanon (execPowerLoss s) := outCanon_next h

end

/-! ### Steps -/

/-- An instruction or an event leaves memory canonical. -/
theorem canon_exec (i : Instr) (s : State) (h : Memory.wf s.mem = true) : OutCanon (exec i s) := by
  cases i with
  | iadd _ | isub _ | imul _ | imulh _ | imad _ | imadw _ | idiv _ | irem _ | imin _ | imax _ | iabs _ | ineg _ | iadds _
    | isubs _ | andOp _ | orOp _ | xorOp _ | andn _ | shl _ | shr _ | sar _ | shf _ | bfe _ | bfi _ | popc _ | clz _ | ctz _
    | brev _ | permb _ | isetp _ | sel _ | mov _ | nop _ | psetp _ | p2v _ | v2p _ | iaddImm _ | iaddImm64 _ | imulImm _
    | andImm _ | orImm _ | xorImm _ | movi _ | moviI64 _ | moviF64 _ | lea _ | vote _ | matchOp _ | fadd _ | fsub _ | fmul _
    | ffma _ | fabs _ | fneg _ | fdiv _ | fsqrt _ | frsq _ | fexp2 _ | flog2 _ | fscale _ | fgetexp _ | fcopysign _ | fmin _
    | fmax _ | fminm _ | fmaxm _ | fsetp _ | fclass _ | frnd _ | fcvt _ | fcvtSat _ | fcvti _ _ | icvtf _ | fpack _ | funpk _
    | fdot2 _ | fqblk _ | fnxenc _ | fnxdec _ | psub _ | peq _ | plt _ | ple _ | pext _ | mstat _ | xstat _ | lower _ =>
    exact canon_onWave h
  | shfl f => exact canon_shfl h f
  | syncw f => exact canon_syncw h f
  | srd f | rquery f => exact canon_issue h fun _ _ => h
  | clock f => exact canon_clock h f
  | bra f => exact canon_bra h f
  | brx f | ret f => exact canon_jumpOp h _ f
  | call f => exact canon_call h f
  | exitOp f => exact canon_exitOp h f
  | yield f => exact canon_yield h f
  | ldGlobal f | ldGlobalSigned f => exact canon_loadG h _ f _ _
  | ldScratch f | ldScratchSigned f | ldWeight f | ldActivation f | ldAccumulator f => exact canon_loadChip h _ f _ _
  | stGlobal f => exact canon_storeG h _ f
  | stScratch f | stWeight f | stActivation f | stAccumulator f => exact canon_storeChip h _ f _
  | ldn f => exact canon_ldn h f
  | stn f => exact canon_stn h f
  | padd f => exact canon_padd h f
  | pname f => exact canon_pname h f
  | atomAdd f | atomMin f | atomMinUnsigned f | atomMax f | atomMaxUnsigned f | atomAnd f | atomOr f | atomXor f | atomExch f
    | atomCas f | atomInc f | atomDec f | atomFadd f | atomFmin f | atomFmax f => exact canon_atomG h _ _ f
  | redAdd f | redMin f | redMinUnsigned f | redMax f | redMaxUnsigned f | redAnd f | redOr f | redXor f | redInc f
    | redDec f | redFadd f | redFmin f | redFmax f => exact canon_redG h _ _ f
  | ldg2l f => exact canon_ldg2l h f
  | prefetch f => exact canon_prefetch h f
  | cinv f | cclean f => exact canon_cleanOp h _ f _
  | fence f => exact canon_fence h f
  | fenceSc f => exact canon_fenceSc h f
  | qpush f => exact canon_qpush h f
  | qpop f => exact canon_qpop h f
  | qstat f => exact canon_qstat h f
  | cairn f => exact canon_cairn h f
  | cairnq f => exact canon_cairnq h f
  | cairnx f => exact canon_cairnx h f
  | mma f => exact canon_mma h f
  | mdrain f => exact canon_mdrain h f
  | dpload f => exact canon_dpload h f
  | xcopy f => exact canon_xcopy h f
  | xgather f => exact canon_xgather h f
  | xlevel f => exact canon_xlevel h f
  | rbegin f => exact canon_rbegin h f
  | mzero f => exact canon_mzero h f
  | tktake f => exact canon_tktake h f
  | tkpass f | tkpassEnd f => exact canon_tokenPass h _ f _
  | waitc f => exact canon_waitc h f
  | sring f => exact canon_sring h f
  | sawaitFree f => exact canon_sawaitFree h f
  | sawaitFull f => exact canon_sawaitFull h f
  | spub f => exact canon_spub h f
  | srel f => exact canon_srel h f
  | rchild f => exact canon_rchild h f
  | rdone f => exact canon_rdone h f
  | rframe f => exact canon_rframe h f
  | rres f => exact canon_rres h f
  | rarriveM f | rarriveK f | rsyncM f | rsyncK f => exact canon_arriveOp h _ f _ _ _
  | rwait f => exact canon_rwait h f
  | trap f => exact canon_trap h f
  | bkpt f => exact canon_bkpt h f
  | svret f => exact canon_svret h f
  | srdp f => exact canon_srdp h f
  | swrp f | queueBind f | queueStop f | queueReactivate f | queueUnbind f | svRangeStage f | svRangeApply f =>
    exact canon_swrpOp h _ f
  | tlbiWorld f => exact canon_tlbiWorld h f
  | tlbiPage f => exact canon_tlbiPage h f
  | tlbiAll f => exact canon_tlbiAll h f
  | wsetResume f => exact canon_wsetResume h f
  | wsetRestart f => exact canon_wsetRestart h f
  | wsetCancel f => exact canon_wsetCancel h f
  | wsetKill f => exact canon_wsetKill h f
  | wsetPause f => exact canon_wsetPause h f
  | wsetUnpause f => exact canon_wsetUnpause h f
  | wsetReset f => exact canon_wsetReset h f
  | haltcDrain f | haltcImm f => exact canon_haltOp h _ f _
  | haltcResume f => exact canon_haltcResume h f
  | haltcStep f => exact canon_haltcStep h f
  | clauseFetch => exact canon_clauseFetch h
  | waveIssue => exact canon_waveIssue h
  | translationWalk => exact canon_translationWalk h
  | pageInstall => exact canon_pageInstall h
  | pageDeny => exact canon_pageDeny h
  | missingUnitAvailable => exact canon_missingUnitAvailable h
  | waveRequeue => exact canon_waveRequeue h
  | waveLower => exact canon_waveLower h
  | pageMigrate => exact canon_pageMigrate h
  | pageDemote => exact canon_pageDemote h
  | migrationComplete => exact canon_migrationComplete h
  | nameResolved => exact canon_nameResolved h
  | objectDepart => exact canon_objectDepart h
  | objectArrive => exact canon_objectArrive h
  | objectDestroy => exact canon_objectDestroy h
  | epochSweep => exact canon_epochSweep h
  | engineOpProgress => exact canon_engineOpProgress h
  | engineOpFreeze => exact canon_engineOpFreeze h
  | engineOpComplete => exact canon_engineOpComplete h
  | completionNoticeRetire => exact canon_completionNoticeRetire h
  | frameDispatch => exact canon_frameDispatch h
  | unfoldingEnd => exact canon_unfoldingEnd h
  | multicastWriteArrive => exact canon_multicastWriteArrive h
  | multicastTimeout => exact canon_multicastTimeout h
  | storeQueueDrain => exact canon_storeQueueDrain h
  | dramRequestServe => exact canon_dramRequestServe h
  | postedWriteAck => exact canon_postedWriteAck h
  | fabricRequest => exact canon_fabricRequest h
  | remoteResponse => exact canon_remoteResponse h
  | remoteTimeout => exact canon_remoteTimeout h
  | flitReceive => exact canon_flitReceive h
  | laneSpare => exact canon_laneSpare h
  | portDown => exact canon_portDown h
  | hostHdmRead => exact canon_hostHdmRead h
  | hostHdmWrite => exact canon_hostHdmWrite h
  | hdmDecoderCommit => exact canon_hdmDecoderCommit h
  | notify => exact canon_notify h
  | ictl => exact canon_ictl h
  | ndropClear => exact canon_ndropClear h
  | windowGrant => exact canon_windowGrant h
  | windowReclaim => exact canon_windowReclaim h
  | recordStart => exact canon_recordStart h
  | signalRetest => exact canon_signalRetest h
  | workgroupPlace => exact canon_workgroupPlace h
  | workgroupEnd => exact canon_workgroupEnd h
  | launchComplete => exact canon_launchComplete h
  | faultQueuePost => exact canon_faultQueuePost h
  | supervisorEntry => exact canon_supervisorEntry h
  | sliceEnd => exact canon_sliceEnd h
  | preempt => exact canon_preempt h
  | workgroupSave => exact canon_workgroupSave h
  | workgroupRestore => exact canon_workgroupRestore h
  | coreRetire => exact canon_coreRetire h
  | layerRetire => exact canon_layerRetire h
  | layerRebuildDone => exact canon_layerRebuildDone h
  | secondLayerFailure => exact canon_secondLayerFailure h
  | scrubLine => exact canon_scrubLine h
  | patrolScrub => exact canon_patrolScrub h
  | thermalTrip => exact canon_thermalTrip h
  | thermalRelease => exact canon_thermalRelease h
  | coreClockGate => exact canon_coreClockGate h
  | corePowerGate => exact canon_corePowerGate h
  | coreWake => exact canon_coreWake h
  | stackSelfRefresh => exact canon_stackSelfRefresh h
  | stackSelfRefreshExit => exact canon_stackSelfRefreshExit h
  | powerOnReset => exact canon_powerOnReset h
  | firmwareUpdate => exact canon_firmwareUpdate h
  | bringupParameters => exact canon_bringupParameters h
  | spdmRequest => exact canon_spdmRequest h
  | lockInterface => exact canon_lockInterface h
  | setGroupKey => exact canon_setGroupKey h
  | switchGroupKey => exact canon_switchGroupKey h
  | endSession => exact canon_endSession h
  | heartbeatExpiry => exact canon_heartbeatExpiry h
  | tdiLeaveRun => exact canon_tdiLeaveRun h
  | loadValueReturn => exact canon_loadValueReturn h
  | lineConfirm => exact canon_lineConfirm h
  | cxlCacheSnoop => exact canon_cxlCacheSnoop h
  | returnToConfigUnlocked => exact canon_returnToConfigUnlocked h
  | tdiEnterRun => exact canon_tdiEnterRun h
  | worldBind => exact canon_worldBind h
  | ldBindingChange => exact canon_ldBindingChange h
  | msixVectorUnmask => exact canon_msixVectorUnmask h
  | nymnikPortTraining => exact canon_nymnikPortTraining h
  | cxlPortTraining => exact canon_cxlPortTraining h
  | powerLoss => exact canon_powerLoss h

theorem State.wf_retry (s : State) (h : Memory.wf s.mem = true) : Memory.wf s.retry.mem = true := h

theorem State.wf_afterIssue (s : State) (id : Nat) (issued : Bool) (h : Memory.wf s.mem = true) :
    Memory.wf (s.afterIssue id issued).mem = true := by
  unfold State.afterIssue
  split
  · exact h
  · extract_lets c
    refine ite_cases (P := fun s : State => Memory.wf s.mem = true) h ?_
    refine ite_cases (P := fun s : State => Memory.wf s.mem = true) h ?_
    exact ite_cases (P := fun s : State => Memory.wf s.mem = true) h h

theorem canon_stepEvent (i : Instr) (a : Arg) {s : State} (h : Memory.wf s.mem = true) : OutCanon (stepEvent i a s) := by
  have he := canon_exec i { s with arg := a } h
  unfold stepEvent
  split
  next t heq => exact outCanon_next (he t heq)
  · exact he

theorem canon_stepBackground {s : State} (h : Memory.wf s.mem = true) : OutCanon (stepBackground s) := by
  unfold stepBackground
  split
  · exact canon_stepEvent _ _ h
  · exact outCanon_next h

theorem canon_stepIssue {s : State} (id : Nat) (w : Wave) (h : Memory.wf s.mem = true) : OutCanon (stepIssue s id w) := by
  have hi : OutCanon (match w.word with
      | none => exec .clauseFetch { s with cur := id, bg := true, arg := { a := id } }
      | some x =>
        match decodeWord x with
        | .ok i => exec i { s with cur := id, bg := true }
        | .error e => .next ({ s with cur := id, bg := true }.refuseWord id w x e)) := by
    split
    · exact canon_exec _ _ h
    · split
      · exact canon_exec _ _ h
      · exact outCanon_next (by simpa [State.refuseWord] using h)
  unfold stepIssue
  split
  · exact outCanon_next (by simpa using h)
  · split
    next t heq => exact outCanon_next (State.wf_afterIssue _ _ _ (hi t heq))
    · exact hi

theorem canon_step {s : State} (h : Memory.wf s.mem = true) : OutCanon (step s) := by
  unfold step
  dsimp only
  split
  · exact canon_stepEvent _ _ h
  · split
    · rintro _ ⟨⟩
    · split
      · exact canon_stepBackground h
      · split
        · exact canon_stepIssue _ _ h
        · exact canon_stepBackground h

end Sys2Proof.Machine

namespace Sys2Proof.Proofs
open Sys2Proof Sys2Proof.Machine

/-- Settles O21: every instruction and every event leaves memory canonical (`canon_exec`), and what a step does around them
changes no memory. -/
theorem stepKeepsMemoryCanonical : Obligations.StepKeepsMemoryCanonical := fun _ _ h ht => canon_step h _ ht

end Sys2Proof.Proofs

/-! PROOFS. Channels and device-side queues (R285 to R289, R349). -/

namespace Sys2Proof.Machine

/-! ### Lanes -/

/-- Lanes that all pass are the lanes of the outcome. -/
theorem map_fst_of_formLanes {α : Type} {g : Nat → Except Cond α} {ls : List Nat} {l : List (Nat × α)}
    (h : formLanes g ls = .ok l) : l.map (fun x => x.1) = ls := by
  induction ls generalizing l with
  | nil =>
    cases h
    rfl
  | cons k ls ih =>
    unfold formLanes at h
    split at h
    · cases h
    · split at h
      · cases h
      next heq =>
        cases h
        rw [List.map_cons, ih heq]

/-! ### QPUSH -/

/-- Records that all enter at once end their QPUSH. -/
theorem State.pushOn_enters {s s2 : State} {id : Nat} {w : Wave} {f : FmtM} {p : Push} (hf : p.failed = false) (hp : p.places = [])
    (hq : (s.queue p.queue).state = 1#3) (hl : (s.world w.world).left = false)
    (hw : ∀ e ∈ s.waves, ∀ o, e.2.push = some o → o.queue = p.queue → o.stamp < p.stamp → o.failed = true) (hne : p.left ≠ [])
    (hs : State.pushSome p.queue p.left s = ([], s2, false)) :
    s.pushOn id w f p = .done ((s2.notePush p.queue (s.queue p.queue).wc).updWave id (fun w => { w with push := none })) := by
  have hany : (s.waves.any (fun e => match e.2.push with
      | some o => decide (o.queue = p.queue ∧ o.stamp < p.stamp) && !o.failed
      | none => false)) = false := List.any_eq_false.mpr fun e he => by
    split
    next o ho =>
      have := hw e he o ho
      simp only [Bool.and_eq_true, decide_eq_true_eq, Bool.not_eq_eq_eq_not, Bool.not_true, not_and, and_imp]
      intro h1 h2
      simp [this h1 h2]
    · exact Bool.false_ne_true
  unfold State.pushOn
  dsimp only
  rw [if_neg (by simp [hf, hq, hl]), if_neg (by simp [hq])]
  refine (if_neg (ne_of_eq_of_ne hany Bool.false_ne_true)).trans ?_
  rw [hs]
  dsimp only
  rw [if_neg Bool.false_ne_true, List.isEmpty_nil, if_pos rfl, if_pos ⟨hp, List.length_pos_iff.mpr hne⟩]

theorem mem_of_mem_tset {α : Type} {t : Tab α} {k : Nat} {a : α} {e : Nat × α} (h : e ∈ tset t k a) : e = (k, a) ∨ e ∈ t := by
  induction t with
  | nil => exact .inl (List.mem_singleton.mp h)
  | cons x t ih =>
    unfold tset at h
    split at h
    · exact List.mem_cons.mp h
    · split at h
      · exact (List.mem_cons.mp h).imp_right (List.mem_cons_of_mem x)
      · obtain h | h := List.mem_cons.mp h
        · exact .inr (h ▸ List.mem_cons_self)
        · exact (ih h).imp_right (List.mem_cons_of_mem x)

theorem State.mem_updWave {s : State} {id : Nat} {f : Wave → Wave} {e : Nat × Wave} (h : e ∈ (s.updWave id f).waves) :
    (∃ v, e = (id, f v)) ∨ e ∈ s.waves := by
  unfold State.updWave at h
  split at h
  next v _ => exact (mem_of_mem_tset h).imp_left fun h => ⟨v, h⟩
  · exact .inr h

/-- A field of a wave that a change leaves is as before in the wave read back. -/
theorem State.tgetD_updWave {β : Type} (g : Wave → β) {s : State} {id : Nat} {f : Wave → Wave} (hf : ∀ v, g (f v) = g v) (d : Wave) :
    g (tgetD (s.updWave id f).waves id d) = g (tgetD s.waves id d) := by
  unfold State.updWave
  split
  next v hv =>
    rw [State.putWave_waves, tgetD_tset_same, hf, tgetD, hv]
    rfl
  · rfl

/-- A QPUSH that has just passed its checks, where no other is under way in its queue. -/
theorem State.pushOn_begins {s s2 : State} {id : Nat} (hid : s.cur = id) {w : Wave} {f : FmtM} {p : Push} (hf : p.failed = false) (hp : p.places = [])
    (hq : (s.queue p.queue).state = 1#3) (hl : (s.world (tgetD s.waves id w).world).left = false)
    (hw : ∀ e ∈ s.waves, ∀ o, e.2.push = some o → o.queue ≠ p.queue ∨ o.failed = true) (hne : p.left ≠ [])
    (hs : State.pushSome p.queue p.left (s.updWave id (fun w => { w with push := some p })) = ([], s2, false)) :
    let u := s.updWave id (fun w => { w with push := some p })
    u.pushOn u.cur (tgetD u.waves u.cur w) f p =
      .done ((s2.notePush p.queue (s.queue p.queue).wc).updWave id (fun w => { w with push := none })) := by
  have hu := State.updWave_eq s id (fun w => { w with push := some p })
  have hqu : (s.updWave id (fun w => { w with push := some p })).queue p.queue = s.queue p.queue := by rw [hu]; rfl
  have hc : (s.updWave id (fun w => { w with push := some p })).cur = id := by rw [hu]; exact hid
  dsimp only
  rw [hc, State.pushOn_enters (s2 := s2) hf hp (hqu ▸ hq) ?_ (fun e he o ho hk hlt => ?_) hne hs, hqu]
  · rw [State.tgetD_updWave (fun v => v.world) (f := fun w => { w with push := some p }) (fun _ => rfl), hu]
    exact hl
  · obtain ⟨v, rfl⟩ | he := State.mem_updWave he
    · cases ho
      exact absurd hlt (Nat.lt_irrefl _)
    · exact (hw e he o ho).resolve_left (not_not_intro hk)

/-- Spending an allowance leaves queues, waves and worlds. -/
theorem State.spend_rest (s : State) (w : Wave) (n count : Nat) :
    (s.spend w n count).queues = s.queues ∧ (s.spend w n count).waves = s.waves ∧ (s.spend w n count).worlds = s.worlds ∧
      (s.spend w n count).cur = s.cur := by
  unfold State.spend
  split
  · dsimp only
    split <;> exact ⟨rfl, rfl, rfl, rfl⟩
  · exact ⟨rfl, rfl, rfl, rfl⟩

/-! ### A queue with room, and an empty queue -/

/-- Records enter a window that is in step and has room. -/
theorem State.pushSome_window (k : Nat) {q : Queue} (recs : List (List Byte)) (s : State) (hq : s.queue k = q) (hwin : q.win = true)
    (hwc : q.rc + q.window.length = q.wc) (h32 : q.window.length + recs.length ≤ 32) (hn : q.window.length + recs.length ≤ q.nrec) :
    ∃ t, State.pushSome k recs s = ([], t, false) ∧
      t.queue k = { q with window := q.window ++ recs, wc := q.wc + recs.length } ∧ t.mem = s.mem := by
  induction recs generalizing s q with
  | nil => exact ⟨s, rfl, by simp [hq], rfl⟩
  | cons r recs ih =>
    rw [List.length_cons] at h32 hn
    have hp : s.pushRecord k r = .ok () (s.putQueue k { q with window := q.window ++ [r], wc := q.wc + 1 }) := by
      unfold State.pushRecord
      dsimp only
      rw [hq, if_pos (by simp [hwin, hwc]; omega)]
    obtain ⟨t, ht, htq, htm⟩ := ih (q := { q with window := q.window ++ [r], wc := q.wc + 1 })
      (s.putQueue k { q with window := q.window ++ [r], wc := q.wc + 1 }) (by rw [State.queue_putQueue, if_pos rfl]) hwin
      (by simp; omega) (by simp; omega) (show _ ≤ q.nrec by simp; omega)
    refine ⟨t, ?_, ?_, htm⟩
    · unfold State.pushSome
      dsimp only
      rw [hq, if_neg (by omega), hp]
      exact ht
    · rw [htq]
      simp [Nat.add_assoc, Nat.add_comm]

/-- An empty queue gives zeros to every lane, and stays. -/
theorem State.popLanes_empty (k : Nat) (w : Wave) (l : List (Nat × Nat)) (s : State) (hwin : (s.queue k).window = [])
    (hwc : (s.queue k).wc ≤ (s.queue k).rc) (hg : (s.queue k).gone = []) :
    ∃ t, State.popLanes k w l s = .ok () t ∧ t.queue k = s.queue k ∧ t.mem = s.mem ∧ ∀ j, j ≠ w.core → t.core j = s.core j := by
  induction l generalizing s with
  | nil => exact ⟨s, rfl, rfl, rfl, fun _ _ => rfl⟩
  | cons x l ih =>
    have hh : s.head k = .ok none s := by
      unfold State.head
      dsimp only
      rw [hwin]
      exact if_neg (Nat.not_lt.mpr hwc)
    obtain ⟨t, ht, htq, htm, htc⟩ := ih
      (s.putCore w.core ((s.core w.core).lWrite (s.lBase w + x.2) (List.replicate 32 0#8))) hwin hwc hg
    refine ⟨t, ?_, htq, htm, fun j hj => (htc j hj).trans ?_⟩
    · unfold State.popLanes
      dsimp only
      rw [hg]
      change (match s.head k with
        | .bad => QMem.bad
        | .miss s => .miss s
        | .ok r s => _) = _
      rw [hh]
      exact ht
    · rw [State.core_putCore, if_neg hj]

end Sys2Proof.Machine

namespace Sys2Proof.Proofs

open Sys2Proof Sys2Proof.Machine

/-- Settles O43: QPUSH and QPOP pass their checks, their records enter and leave as the queue has room and records, and QSTAT reads
the queue. -/
theorem channels : Obligations.Channels := by
  refine ⟨fun f s w s1 s2 l => ⟨fun hi hp hb hm hl hv hbit ha hq hbad hrec hleft hold hs => ?_, fun hi hb hm hl hv hbit hq hs => ?_⟩,
    fun f s w hi hm hv hbit => issue_done hi ?_, fun s k recs hne hwin hwc h32 hn => ?_,
    fun s k w l => State.popLanes_empty k w l s⟩
  · replace hb : s.before s.cur w 3 scDevice = .go s1 := hb
    replace hbit : bit (s1.channel (tgetD s1.waves s.cur w) (chanNum f.data)).toNat 1 = true := hbit
    have hc := (State.waited_before hb).cur_eq
    refine (issue_done hi ?_)
    dsimp only
    rw [if_neg hm, hp]
    dsimp only
    rw [State.gated_of_before hb, hl]
    dsimp only
    rw [if_neg (by rw [hv, hbit]; decide), if_neg (by omega)]
    have hfs (bad : Nat → Bool) (record : Nat → List Byte) (hbad : ∀ x ∈ l, bad x.2 = false) (hrec : ∀ x ∈ l, (record x.2).getD 0 0#8 ≠ 0#8) :
        l.findSome? (pushCond (decide ((s1.queue (chanQueue (s1.channel (tgetD s1.waves s.cur w) (chanNum f.data)))).state ≠ 1#3)) bad record) = none :=
      List.findSome?_eq_none_iff.mpr fun x hx => by
        unfold pushCond
        dsimp only
        rw [if_neg (by simp [hq]), if_neg (by rw [hbad x hx]; exact Bool.false_ne_true), if_neg (hrec x hx)]
    rw [hfs _ _ hbad fun x hx => hrec _ (List.mem_map_of_mem hx)]
    dsimp only
    rw [hc]
    obtain ⟨hsq, hsw, hsx, hsc⟩ := State.spend_rest s1.bump (tgetD s1.waves s.cur w) (chanNum f.data)
      (Mask.count (actingLanes f (w.active (.qpush f))))
    have hq' (k : Nat) : (s1.bump.spend (tgetD s1.waves s.cur w) (chanNum f.data)
        (Mask.count (actingLanes f (w.active (.qpush f))))).queue k = s1.queue k := congrArg (fun t => tgetD t k Queue.init) hsq
    have hb := State.pushOn_begins (hsc.trans hc) (f := f) (w := tgetD s1.waves s.cur w)
      (p := { queue := chanQueue (s1.channel (tgetD s1.waves s.cur w) (chanNum f.data)), stamp := s1.nextId, left := _ })
      rfl rfl ((congrArg Queue.state (hq' _)).trans hq) ?_
      (fun e he => hold e (by rwa [hsw] at he)) ?_ hs
    · dsimp only at hb
      rw [hq'] at hb
      exact hb
    · rw [hsw, show s1.bump.waves = s1.waves from rfl, tgetD_tgetD]
      exact (congrArg (fun t => (tgetD t _ World.init).left) hsx).trans hleft
    · intro hnil
      have hlanes := map_fst_of_formLanes hl
      rw [List.map_eq_nil_iff.mp hnil] at hlanes
      exact hm (Mask.lanes_eq_nil.mp hlanes.symm)
  · replace hb : s.before s.cur w 2 scDevice = .go s1 := hb
    replace hbit : bit (s1.channel (tgetD s1.waves s.cur w) (chanNum f.data)).toNat 2 = true := hbit
    refine (issue_done hi (t := s2) ?_)
    dsimp only
    rw [if_neg hm, State.gated_of_before hb, hl]
    dsimp only
    rw [if_neg (by rw [hv, hbit]; decide), if_neg (by rw [hq]; decide), hs]
  · replace hbit : bit (s.channel w (chanNum f.a)).toNat 3 = true := hbit
    dsimp only
    rw [if_neg hm, if_neg (by rw [hv, hbit]; decide)]
    congr 4
    funext _
    split
    next h0 =>
      rw [h0]
      rfl
    next h0 =>
      split
      next h1 =>
        rw [h1]
        rfl
      next h1 =>
        split
        next h => exact absurd (BitVec.eq_of_toNat_eq h) h0
        next h => exact absurd (BitVec.eq_of_toNat_eq h) h1
        · exact Nat.mod_eq_of_lt (Nat.div_lt_of_lt_mul (s.channel w (chanNum f.a)).isLt)
  · exact State.pushSome_window k recs s rfl hwin hwc h32 hn

end Sys2Proof.Proofs

/-! PROOFS. Cairn records, the ownership token and the matrix samples (R73, R292 to R294, R304 to R307). -/

namespace Sys2Proof.Machine

/-! ### Fields of a number -/

/-- A field replaced, in three parts. -/
theorem setBits_eq (v lo len x : Nat) :
    setBits v lo len x = 2 ^ lo * (2 ^ len * (v / 2 ^ lo / 2 ^ len) + x % 2 ^ len) + v % 2 ^ lo := by
  have h : 2 ^ lo * (2 ^ len * (v / 2 ^ lo / 2 ^ len)) + v / 2 ^ lo % 2 ^ len * 2 ^ lo + v % 2 ^ lo = v := by
    rw [Nat.mul_comm (v / 2 ^ lo % 2 ^ len), ← Nat.mul_add, Nat.div_add_mod, Nat.div_add_mod]
  rw [setBits, bits, Nat.mul_add, Nat.mul_comm (2 ^ lo) (x % 2 ^ len)]
  omega

/-- The bits of a number with a field replaced. -/
theorem testBit_setBits (v lo len x i : Nat) :
    (setBits v lo len x).testBit i = if lo ≤ i ∧ i < lo + len then x.testBit (i - lo) else v.testBit i := by
  rw [setBits_eq, Nat.testBit_two_pow_mul_add _ (Nat.mod_lt _ (by positivity))]
  by_cases h : i < lo
  · rw [if_pos h, if_neg (by omega), Nat.testBit_mod_two_pow, decide_eq_true h, Bool.true_and]
  · rw [if_neg h, Nat.testBit_two_pow_mul_add _ (Nat.mod_lt _ (by positivity))]
    by_cases h' : i - lo < len
    · rw [if_pos h', if_pos (by omega), Nat.testBit_mod_two_pow, decide_eq_true h', Bool.true_and]
    · rw [if_neg h', if_neg (by omega), Nat.testBit_div_two_pow, Nat.testBit_div_two_pow]
      congr 1
      omega

theorem testBit_bits (v lo len i : Nat) : (bits v lo len).testBit i = (decide (i < len) && v.testBit (lo + i)) := by
  rw [bits, Nat.testBit_mod_two_pow, Nat.testBit_div_two_pow, Nat.add_comm]

/-- The field that was replaced. -/
theorem bits_setBits_same (v lo len x : Nat) : bits (setBits v lo len x) lo len = x % 2 ^ len :=
  Nat.eq_of_testBit_eq fun i => by
    rw [testBit_bits, testBit_setBits, Nat.testBit_mod_two_pow]
    by_cases h : i < len
    · rw [if_pos (by omega), Nat.add_sub_cancel_left]
    · simp [h]

/-- A field beside the one that was replaced. -/
theorem bits_setBits_other (v lo len x lo' len' : Nat) (h : lo' + len' ≤ lo ∨ lo + len ≤ lo') :
    bits (setBits v lo len x) lo' len' = bits v lo' len' :=
  Nat.eq_of_testBit_eq fun i => by
    rw [testBit_bits, testBit_bits, testBit_setBits]
    by_cases hi : i < len'
    · rw [if_neg (by omega)]
    · simp [hi]

/-- A field of a word below its width. -/
theorem bits_ofNat {n v lo len : Nat} (h : lo + len ≤ n) : bits (BitVec.ofNat n v).toNat lo len = bits v lo len :=
  Nat.eq_of_testBit_eq fun i => by
    rw [testBit_bits, testBit_bits, BitVec.toNat_ofNat, Nat.testBit_mod_two_pow]
    by_cases hi : i < len
    · rw [decide_eq_true (show lo + i < n by omega), Bool.true_and]
    · simp [hi]

/-- A record's field after a change of its state. -/
theorem cState_cSetState (r : BitVec 128) {k : Nat} (h : k < 8) : cState (cSetState r k) = k := by
  rw [cState, cairnField, cSetState, bits_ofNat (by decide), bits_setBits_same]
  exact Nat.mod_eq_of_lt h

/-- The record that CAIRN writes for a descriptor (R292). -/
def cairnHeld (d : BitVec 128) (slot : Nat) : BitVec 128 := BitVec.ofNat 128 (setBits (setBits d.toNat 2 3 1) 20 7 slot)

theorem cState_cairnHeld (d : BitVec 128) (slot : Nat) : cState (cairnHeld d slot) = 1 := by
  rw [cState, cairnField, cairnHeld, bits_ofNat (by decide), bits_setBits_other _ _ _ _ _ _ (by decide), bits_setBits_same]
  rfl

theorem cOwner_cairnHeld (d : BitVec 128) {slot : Nat} (h : slot < 128) : cOwner (cairnHeld d slot) = slot := by
  rw [cOwner, cairnField, cairnHeld, bits_ofNat (by decide), bits_setBits_same]
  exact Nat.mod_eq_of_lt h

/-- The other fields are those of the descriptor. -/
theorem cairnField_cairnHeld (d : BitVec 128) (slot lo len : Nat) (hn : lo + len ≤ 128) (h2 : lo + len ≤ 2 ∨ 5 ≤ lo)
    (h20 : lo + len ≤ 20 ∨ 27 ≤ lo) : cairnField (cairnHeld d slot) lo len = cairnField d lo len := by
  rw [cairnField, cairnField, cairnHeld, bits_ofNat hn, bits_setBits_other _ _ _ _ _ _ h20, bits_setBits_other _ _ _ _ _ _ h2]

/-! ### Records and tags of a core -/

/-- The lowest-numbered free record is free of all before it. -/
theorem CoreSt.freeCairn_some {c : CoreSt} {k : Nat} (h : c.freeCairn = some k) : ∀ j, j < k → cState (c.cairn j) ≠ 0 := by
  intro j hj
  unfold CoreSt.freeCairn firstBelow at h
  obtain ⟨_, i, hi, rfl, hbefore⟩ := List.find?_eq_some_iff_getElem.mp h
  rw [List.getElem_range] at hj
  have := hbefore j hj
  simpa using this

/-- Nothing stands at a number that every entry avoids. -/
theorem tget_eq_none {α : Type} {t : Tab α} {k : Nat} (h : ∀ e ∈ t, e.1 ≠ k) : tget t k = none := by
  induction t with
  | nil => rfl
  | cons e t ih =>
    unfold tget
    rw [if_neg (h e List.mem_cons_self)]
    exact ih fun x hx => h x (List.mem_cons_of_mem e hx)

@[simp] theorem CoreSt.cairns_setBuf (c : CoreSt) (b : Nat) (m : Memory) (t : Tab LineTag) : (c.setBuf b m t).cairns = c.cairns := by
  unfold CoreSt.setBuf
  split
  · rfl
  · split <;> rfl

/-- A record after a write of a record. -/
theorem tgetD_cairns_tset (c : CoreSt) (k j : Nat) (r : BitVec 128) :
    tgetD (tset c.cairns k r) j 0#128 = if j = k then r else c.cairn j := tgetD_tset _ _ _ _ _

/-- A core after CAIRN has taken record `k` (R292). -/
def CoreSt.takeCairn (c : CoreSt) (k slot : Nat) (d : BitVec 128) : CoreSt :=
  let lines := (List.range (cLines d)).map (· + cBase d / 512)
  let c := { c with cairns := tset c.cairns k (cairnHeld d slot) }
  c.setBuf (cBuf d) (c.buf (cBuf d)) ((c.tags (cBuf d)).filter (fun t => !lines.contains t.1))

theorem CoreSt.cairn_takeCairn (c : CoreSt) (k slot : Nat) (d : BitVec 128) (j : Nat) :
    (c.takeCairn k slot d).cairn j = if j = k then cairnHeld d slot else c.cairn j := by
  unfold CoreSt.takeCairn CoreSt.cairn
  dsimp only
  rw [CoreSt.cairns_setBuf]
  exact tgetD_cairns_tset c k j _

/-- The lines of the record have no tag. -/
theorem CoreSt.tags_takeCairn (c : CoreSt) (k slot : Nat) (d : BitVec 128) {n : Nat} (h1 : cBase d / 512 ≤ n)
    (h2 : n < cBase d / 512 + cLines d) : tget ((c.takeCairn k slot d).tags (cBuf d)) n = none := by
  unfold CoreSt.takeCairn
  dsimp only
  rw [CoreSt.tags_setBuf]
  refine tget_eq_none fun e he hn => ?_
  have hmem := (List.mem_filter.mp he).2
  simp only [List.contains_eq_mem, List.mem_map, List.mem_range, Bool.not_eq_eq_eq_not, Bool.not_true, decide_eq_false_iff_not,
    not_exists, not_and] at hmem
  exact hmem (n - cBase d / 512) (by omega) (by omega)

/-! ### The token -/

/-- The ridge that every lane of the operand names, and whose member the wave is. -/
theorem State.tokenRidge_ok {s : State} {w : Wave} {o : Operand} {m : Mask} {r : Nat} {e : Nat × Ridge}
    (hr : w.src o 1 (Mask.first m) = r) (hl : ∀ l ∈ Mask.lanes m, w.src o 1 l = r) (he : s.ridgeOf w r = some e)
    (hm : e.2.members.getLsbD w.num = true) : s.tokenRidge w o m = .ok r := by
  unfold State.tokenRidge
  dsimp only
  rw [hr, if_neg (by simpa using hl), he]
  exact if_pos hm

theorem State.otherRidge_of_same {s : State} {w : Wave} {o : Operand} {m : Mask}
    (h : ∀ t, (s.core w.core).token = some t → t.ridge = w.src o 1 (Mask.first m)) : s.otherRidge w o m = false := by
  unfold State.otherRidge
  split
  next t ht => exact decide_eq_false fun hne => hne.2 (h t ht)
  · rfl

/-- An acquire at CORE scope of a wave without gates takes note of what it sees. -/
theorem State.before_acquireCore {s : State} {id : Nat} {w : Wave} (hg : w.gates = []) : s.before id w 2 1 = .go (s.see id) := by
  simp [State.before, hg, State.acquire, scDomain]

/-- A pass of the token that has passed its checks. -/
theorem tokenPass_done {i : Instr} {f : FmtX} {free : Bool} {s t : State} {w : Wave} (hi : issues i s w = true)
    (hm : w.active i ≠ 0#32) {r : Nat} (hr : s.tokenRidge w f.a (w.active i) = .ok r)
    (ht : (s.core w.core).token = some { wg := w.wg, ridge := r, holder := w.num }) (hs : w.sup = false) (hg : w.gates = [])
    (hc : w.cleanDue = false) (hd : s.chipDue w.core = false)
    (h : (if free then s.setToken w.core none else s.passToken w { wg := w.wg, ridge := r, holder := w.num }) = t) :
    tokenPass i f free s = .next (t.advance s.cur) := by
  unfold tokenPass
  refine issue_done hi ?_
  have hh : s.holdsToken w = some { wg := w.wg, ridge := r, holder := w.num } := by
    unfold State.holdsToken
    rw [ht]
    exact if_pos ⟨rfl, rfl, hs⟩
  dsimp only
  rw [if_neg hm, hr, hh]
  dsimp only
  rw [if_neg (by simp), if_neg (by rw [hd]; exact Bool.false_ne_true), State.gated_coreRelease (tget_of_issues hi) hg hc, ← h]
  cases free <;> rfl

end Sys2Proof.Machine

namespace Sys2Proof.Proofs

open Sys2Proof Sys2Proof.Machine

/-- Settles O44: CAIRN, CAIRNQ and CAIRNX work on the records as the core has them, TKTAKE, TKPASS and TKPASS.END on its token, and
MSTAT samples. -/
theorem cairnsAndTokens : Obligations.CairnsAndTokens := by
  refine fun g f s w => ⟨fun k wg hi hm hcl hsc hwg hk hres hok hslot => ?_, fun hi hm => issue_done hi ?_,
    fun hi hm hk hst how => ?_, fun i hin hi hm r k e hr hl hridge hmem => ⟨fun hik hg hnone hturn => ?_,
      fun ht hsup hg hc hd => ⟨fun hik n hn => ?_, fun hik => ?_⟩⟩, ?_⟩
  · refine ⟨s.putCore w.core ((s.core w.core).takeCairn k (s.slotOf w) (BitVec.ofNat 128 (w.src g.a 4 0))), issue_done hi ?_,
      CoreSt.freeCairn_some hk, ?_, ?_, ?_, rfl, rfl, ?_⟩
    · dsimp only
      rw [if_neg hm, if_neg (by simp [hcl]), if_neg (by simp [hsc]), hwg, hk]
      dsimp only
      rw [if_neg (by simp [hok]; omega)]
      rfl
    · rw [State.core_putCore, if_pos rfl, CoreSt.cairn_takeCairn, if_pos rfl]
      refine ⟨cState_cairnHeld _ _, cOwner_cairnHeld _ hslot, ?_, ?_, ?_, ?_, ?_, ?_, ?_, ?_⟩
      · exact cairnField_cairnHeld _ _ 0 2 (by decide) (by decide) (by decide)
      · exact congrArg (· * 512) (cairnField_cairnHeld _ _ 32 14 (by decide) (by decide) (by decide))
      · exact congrArg (· + 1) (cairnField_cairnHeld _ _ 48 14 (by decide) (by decide) (by decide))
      · exact cairnField_cairnHeld _ _ 8 4 (by decide) (by decide) (by decide)
      · exact cairnField_cairnHeld _ _ 12 7 (by decide) (by decide) (by decide)
      · exact congrArg (BitVec.ofNat 3) (cairnField_cairnHeld _ _ 5 3 (by decide) (by decide) (by decide))
      · exact cairnField_cairnHeld _ _ 64 8 (by decide) (by decide) (by decide)
      · exact congrArg (· + 1) (cairnField_cairnHeld _ _ 72 13 (by decide) (by decide) (by decide))
    · intro j hj
      rw [State.core_putCore, if_pos rfl, CoreSt.cairn_takeCairn, if_neg hj]
    · intro n h1 h2
      rw [State.core_putCore, if_pos rfl, CoreSt.tags_takeCairn _ _ _ _ h1 h2]
    · exact fun j hj => by rw [State.core_putCore, if_neg hj]
  · dsimp only
    rw [if_neg hm]
    congr 4
    funext _
    refine if_congr ?_ rfl rfl
    simp [and_assoc]
  · let r := cSetState ((s.core w.core).cairn (w.src f.a 1 0)) (if s.named w.wg (w.src f.a 1 0) then 2 else 0)
    refine ⟨_, issue_done hi
      (t := s.putCore w.core { s.core w.core with cairns := tset (s.core w.core).cairns (w.src f.a 1 0) r }) ?_, rfl, ?_, ?_⟩
    · dsimp only
      rw [if_neg hm, if_neg (by simp [CoreSt.held, hst, how]; omega)]
    · rw [State.core_putCore, if_pos rfl]
      unfold CoreSt.cairn
      rw [tgetD_tset_same, cState_cSetState _ (by split <;> decide)]
    · intro j hj
      rw [State.core_putCore, if_pos rfl]
      exact (tgetD_cairns_tset _ _ _ _).trans (if_neg hj)
  · subst hik
    refine issue_done hi ?_
    dsimp only
    rw [if_neg hm, State.otherRidge_of_same (by simp [hnone]), if_neg Bool.false_ne_true, State.tokenRidge_ok hr hl hridge hmem]
    dsimp only
    rw [hnone]
    dsimp only
    have hturn' : (s.core w.core).tokenTurn s.cur = true := by
      unfold CoreSt.tokenTurn
      obtain h | h := hturn
      · rw [h]
      · split
        next k _ hks =>
          rw [hks] at h
          exact decide_eq_true (Option.some_inj.mp h)
        · rfl
    rw [if_pos hturn', State.gated_of_before (State.before_acquireCore hg)]
    have hv {β : Type} (g : Wave → β) (hf : ∀ v, g { v with seen := s.nextId } = g v) :
        g (tgetD (s.see s.cur).waves s.cur w) = g w := by
      rw [State.see, State.tgetD_updWave g (f := fun v => { v with seen := s.nextId }) hf, tgetD_of_issues hi]
    rw [hv (fun v => v.core) (fun _ => rfl), hv (fun v => v.wg) (fun _ => rfl), hv (fun v => v.num) (fun _ => rfl)]
  · subst hik
    refine tokenPass_done (free := false) hi hm (State.tokenRidge_ok hr hl hridge hmem) ht hsup hg hc hd ?_
    rw [if_neg Bool.false_ne_true, State.passToken]
    dsimp only
    rw [hridge]
    dsimp only
    rw [hn]
    rfl
  · subst hik
    exact tokenPass_done (free := true) hi hm (State.tokenRidge_ok hr hl hridge hmem) ht hsup hg hc hd (if_pos rfl)
  · intro s w hi
    refine issue_done hi ?_
    dsimp only [onWave]
    congr 4
    funext _
    by_cases h0 : f.sel = 0#16
    · rw [if_pos h0, h0]
      simp only [State.matrixDue, Bool.decide_and]
      rfl
    by_cases h1 : f.sel = 1#16
    · rw [if_neg h0, if_pos h1, h1]
      unfold State.tokenSample
      show _ = (match (s.core w.core).token with
        | some t =>
          if t.wg = w.wg then 1 + (if t.holder = w.num then 2 else 0) + t.ridge % 256 * 4 + t.holder % 64 * 2 ^ 10 else 0
        | none => 0)
      cases (s.core w.core).token with
      | none => rfl
      | some t => by_cases ht : t.holder = w.num <;> simp [b2n, ht]
    · rw [if_neg h0, if_neg h1]
      have h0' : f.sel.toNat ≠ 0 := fun h => h0 (BitVec.eq_of_toNat_eq h)
      have h1' : f.sel.toNat ≠ 1 := fun h => h1 (BitVec.eq_of_toNat_eq h)
      cases s.wgOf w <;> simp

end Sys2Proof.Proofs

/-! PROOFS. Counters and slot rings (R154, R155, R330 to R332). -/

namespace Sys2Proof.Machine

/-! ### Numbers -/

/-- The difference of two sequence numbers is that of their 32-bit values. -/
theorem sdiff32_eq_toInt (a b : Nat) : sdiff32 a b = (BitVec.ofNat 32 a - BitVec.ofNat 32 b).toInt := by
  rw [sdiff32, sextN_eq_toInt _ _ (by decide), wrapN_eq_toNat, BitVec.ofNat_toNat, BitVec.setWidth_eq, Int.sub_eq_add_neg,
    BitVec.ofInt_add, BitVec.ofInt_neg, BitVec.ofInt_natCast, BitVec.ofInt_natCast, BitVec.sub_eq_add_neg]

theorem sdiff32_self (a : Nat) : sdiff32 a a = 0 := by
  rw [sdiff32_eq_toInt, BitVec.sub_self]
  rfl

/-- The number of the bytes of a number that fits them. -/
theorem leNat_leBytes {n v : Nat} (h : v < 2 ^ (8 * n)) : leNat (leBytes n v) = v := by
  induction n generalizing v with
  | zero =>
    rw [Nat.mul_zero, Nat.pow_zero, Nat.lt_one_iff] at h
    rw [h]
    rfl
  | succ n ih =>
    rw [leBytes, leNat, BitVec.toNat_ofNat, ih]
    · exact Nat.mod_add_div v 256
    · rw [Nat.mul_succ, Nat.pow_add] at h
      exact Nat.div_lt_of_lt_mul (h.trans_eq (Nat.mul_comm _ _))

/-! ### The ring instructions -/

/-- A ring instruction in no lane does nothing. -/
theorem ringOp_idle {i : Instr} {f : FmtA3} {fresh : Bool} {act : Wave → Mask → State → Nat → Ring → Nat → Act} {s : State} {w : Wave}
    (hi : issues i s w = true) (hm : w.active i = 0#32) : ringOp i f fresh act s = .next (s.advance s.cur) := by
  unfold ringOp
  refine issue_done hi ?_
  dsimp only
  rw [if_pos hm]

/-- A ring instruction whose descriptor passes the checks does its act. -/
theorem ringOp_done {i : Instr} {f : FmtA3} {fresh : Bool} {act : Wave → Mask → State → Nat → Ring → Nat → Act} {s t : State} {w : Wave}
    (hi : issues i s w = true) (hm : w.active i ≠ 0#32) (ha : w.src f.a 1 0 % 32 = 0) (hl : w.src f.a 1 0 + 32 ≤ s.lSize w)
    (hb : fresh = false → (s.core w.core).badAt 3 (s.lBase w + w.src f.a 1 0) 32 = false ∧
      (ringOf ((s.core w.core).lRead (s.lBase w + w.src f.a 1 0) 32)).bad = false)
    (h : act w (w.active i) s (w.src f.a 1 0) (ringOf ((s.core w.core).lRead (s.lBase w + w.src f.a 1 0) 32)) (w.src f.b 1 0) = .done t) :
    ringOp i f fresh act s = .next (t.advance s.cur) := by
  unfold ringOp
  refine issue_done hi ?_
  dsimp only
  rw [if_neg hm, if_neg (by simp [ha]), if_neg (by omega)]
  cases fresh with
  | true => exact h
  | false =>
    obtain ⟨hb, hr⟩ := hb rfl
    rw [hb, hr]
    exact h

/-- A wave without gates that acquires at CORE scope takes note of what it sees. -/
theorem State.gated_acquireCore {s : State} {id : Nat} {w : Wave} (hg : w.gates = []) (k : Wave → State → Act) :
    s.gated id w 2 1 k = k (tgetD (s.see id).waves id w) (s.see id) :=
  State.gated_of_before (State.before_acquireCore hg) k

/-- The two ways in which SPUB and SREL go on. -/
theorem ringMove_done {s : State} {w : Wave} (hw : tget s.waves s.cur = some w) (hg : w.gates = []) (hc : w.cleanDue = false)
    (hd : s.chipDue w.core = false) (a off ptr k : Nat) :
    (0 < sdiff32 ptr k → ringMove w s a off ptr k = .done s) ∧
    (ptr = k → ringMove w s a off ptr k = .done (s.lPut w (a + off) (leBytes 4 (k + 1)))) := by
  unfold ringMove
  rw [if_neg (by rw [hd]; exact Bool.false_ne_true), State.gated_coreRelease hw hg hc]
  refine ⟨fun h => if_pos h, fun h => ?_⟩
  subst h
  rw [if_neg (by rw [sdiff32_self]; decide), if_pos rfl]

/-- The fields of a new descriptor. -/
theorem ringOf_leBytes {d : Nat} (h : d < 2 ^ 64) : (ringOf (leBytes 16 d)).base = d % 2 ^ 32 ∧
    (ringOf (leBytes 16 d)).slotsz = d / 2 ^ 32 % 2 ^ 16 ∧ (ringOf (leBytes 16 d)).logn = d / 2 ^ 48 % 2 ^ 4 ∧
    (d / 2 ^ 52 % 2 ^ 12 = 0 → (ringOf (leBytes 16 d)).bad = false) := by
  have hx : leNat (leBytes 16 d) = d := leNat_leBytes (h.trans_le (Nat.pow_le_pow_right (by decide) (by decide)))
  unfold ringOf
  dsimp only
  rw [hx]
  refine ⟨?_, rfl, rfl, fun h52 => ?_⟩
  · rw [bits, Nat.pow_zero, Nat.div_one]
  · have h128 : bits d 128 128 = 0 := by
      rw [bits, Nat.div_eq_of_lt (h.trans_le (Nat.pow_le_pow_right (by decide) (by decide))), Nat.zero_mod]
    rw [h128, bits, h52]
    rfl

/-- Waits whose counters are low enough pass. -/
theorem State.cntWait_of_le {s : State} {id : Nat} {w : Wave} {c n : Nat} (h : w.cntOf c ≤ n) : s.cntWait id w [(c, n)] = .pass := by
  rw [State.cntWait, State.firstFrozen, if_neg (Nat.not_lt.mpr h)]
  simp [State.firstFrozen, h]

end Sys2Proof.Machine

namespace Sys2Proof.Proofs

open Sys2Proof Sys2Proof.Machine

/-- The instructions of a slot ring. -/
theorem exec_ring (f : FmtA3) (s : State) {w : Wave} {i : Instr} (hi : i ∈ ([.sring f, .sawaitFree f, .sawaitFull f, .spub f, .srel f] : List Instr))
    (h : issues i s w = true) (hm : w.active i = 0#32) : exec i s = .next (s.advance s.cur) := by
  simp only [List.mem_cons, List.not_mem_nil, or_false] at hi
  obtain rfl | rfl | rfl | rfl | rfl := hi
  · exact (ringOp_idle h hm : execSring f s = _)
  · exact (ringOp_idle h hm : execSawaitFree f s = _)
  · exact (ringOp_idle h hm : execSawaitFull f s = _)
  · exact (ringOp_idle h hm : execSpub f s = _)
  · exact (ringOp_idle h hm : execSrel f s = _)

/-- Settles O46: XSTAT and WAITC by the wave's counters, the slot-ring instructions by the checks of their descriptor. -/
theorem ringsAndWaits : Obligations.RingsAndWaits := by
  refine fun e x f => ⟨?_, fun s w hi hm hle => issue_done hi ?_, fun s w => ⟨fun i hin hi hm => exec_ring f s hin hi hm,
    fun ⟨hi, hm, ha, hl⟩ hfit hlogn hbase hslot h16 hres => ?_, fun hbad hword hg => ⟨fun ⟨hi, hm, ha, hl⟩ hfree => ?_,
      fun ⟨hi, hm, ha, hl⟩ hahead => ?_, fun ⟨hi, hm, ha, hl⟩ hc hd => ?_, fun ⟨hi, hm, ha, hl⟩ hc hd => ?_⟩⟩⟩
  · exact gives_of_onWave (fun _ => rfl) (fun _ _ _ => rfl)
  · dsimp only
    rw [if_neg hm, State.cntWait_of_le hle]
  · obtain ⟨h1, h2, h3, h4⟩ := ringOf_leBytes (w.src_lt f.b (n := 2) (by decide) 0)
    refine (ringOp_done (i := .sring f) (fresh := true) (t := s.lPut w (w.src f.a 1 0) (leBytes 32 (w.src f.b 2 0 % 2 ^ 52))) hi hm ha hl
      (fun h => absurd h (by decide)) ?_ : execSring f s = _)
    dsimp only
    rw [if_neg (by rw [h1, h2, h3]; omega), if_neg]
    · rw [bits, Nat.pow_zero, Nat.div_one]
    · have : (ringOf (leBytes 16 (w.src f.b 2 0))).fieldsOk = true := by
        unfold Ring.fieldsOk
        rw [h1, h2, h3, h4 hres]
        rw [decide_eq_true hlogn, decide_eq_true hbase, decide_eq_true hslot, decide_eq_true h16]
        rfl
      rw [this]
      decide
  · refine (ringOp_done (i := .sawaitFree f) (fresh := false) (t := s.see s.cur) hi hm ha hl (fun _ => ⟨hword, hbad⟩) ?_ :
      execSawaitFree f s = _)
    rw [if_pos, State.gated_acquireCore hg]
    exact decide_eq_true (by rw [sdiff32_eq_toInt]; exact_mod_cast hfree)
  · refine (ringOp_done (i := .sawaitFull f) (fresh := false) (t := s.see s.cur) hi hm ha hl (fun _ => ⟨hword, hbad⟩) ?_ :
      execSawaitFull f s = _)
    rw [if_pos (by rw [sdiff32_eq_toInt]; exact hahead), State.gated_acquireCore hg]
  · have hmove := ringMove_done (tget_of_issues hi) hg hc hd (w.src f.a 1 0) 8
      (ringOf ((s.core w.core).lRead (s.lBase w + w.src f.a 1 0) 32)).wptr (w.src f.b 1 0)
    refine ⟨fun h => (ringOp_done (i := .spub f) (fresh := false) hi hm ha hl (fun _ => ⟨hword, hbad⟩)
      (hmove.1 (by rw [sdiff32_eq_toInt]; exact h)) : execSpub f s = _), fun h => ?_⟩
    refine (ringOp_done (i := .spub f) (fresh := false) hi hm ha hl (fun _ => ⟨hword, hbad⟩) (hmove.2 h) : execSpub f s = _).trans ?_
    rw [State.lPut, Nat.add_assoc]
  · have hmove := ringMove_done (tget_of_issues hi) hg hc hd (w.src f.a 1 0) 12
      (ringOf ((s.core w.core).lRead (s.lBase w + w.src f.a 1 0) 32)).rptr (w.src f.b 1 0)
    refine ⟨fun h => (ringOp_done (i := .srel f) (fresh := false) hi hm ha hl (fun _ => ⟨hword, hbad⟩)
      (hmove.1 (by rw [sdiff32_eq_toInt]; exact h)) : execSrel f s = _), fun h => ?_⟩
    refine (ringOp_done (i := .srel f) (fresh := false) hi hm ha hl (fun _ => ⟨hword, hbad⟩) (hmove.2 h) : execSrel f s = _).trans ?_
    rw [State.lPut, Nat.add_assoc]

end Sys2Proof.Proofs

/-! PROOFS. The instructions of an unfolding's routines (R197 to R199, R336). -/

namespace Sys2Proof.Machine

/-! ### Lanes and lists -/

/-- The one lane of a single-lane mask. -/
theorem Mask.lanes_single {l : Nat} (hl : l < 32) : Mask.lanes (Mask.single l) = [l] := by
  have h : ∀ k < 32, Mask.lanes (Mask.single k) = [k] := by decide
  exact h l hl

theorem length_lset {α : Type} (t : List α) (n : Nat) (x : α) : (lset t n x).length = t.length := by
  induction t generalizing n with
  | nil => rfl
  | cons a t ih =>
    cases n with
    | zero => rfl
    | succ n => exact congrArg (· + 1) (ih n)

theorem getElem?_lset_ne {α : Type} (t : List α) {n k : Nat} (x : α) (h : k ≠ n) : (lset t n x)[k]? = t[k]? := by
  induction t generalizing n k with
  | nil => rfl
  | cons a t ih =>
    cases n with
    | zero =>
      cases k with
      | zero => exact absurd rfl h
      | succ k => rfl
    | succ n =>
      cases k with
      | zero => rfl
      | succ k => exact ih fun hk => h (congrArg (· + 1) hk)

/-- A lane that is listed with its value. -/
theorem tgetD_map_lane {val : Nat → Nat} {ls : List Nat} {k d : Nat} (h : k ∈ ls) : tgetD (ls.map fun l => (l, val l)) k d = val k := by
  induction ls with
  | nil => cases h
  | cons l ls ih =>
    unfold tgetD tget
    rw [List.map_cons]
    dsimp only
    split
    next hl =>
      rw [hl]
      rfl
    next hl =>
      obtain rfl | h := List.mem_cons.mp h
      · exact absurd rfl hl
      · exact ih h

/-! ### Lanes that run a routine -/

theorem State.idleLane_none {s : State} {id : Nat} {m : Mask} (h : ∀ l ∈ Mask.lanes m, ∃ x, s.runningAt id l = some x) :
    s.idleLane id m = none := by
  refine List.find?_eq_none.mpr fun l hl => ?_
  obtain ⟨x, hx⟩ := h l hl
  simp [hx]

/-- A routine that runs in a lane belongs to an operation's unfolding. -/
theorem State.runningAt_some {s : State} {id lane key : Nat} {o : EngOp} {u : Unfold} {r : Running}
    (h : s.runningAt id lane = some (key, o, u, r)) : (key, o) ∈ s.ops ∧ o.unfold = some u := by
  obtain ⟨e, he, h⟩ := List.exists_of_findSome?_eq_some h
  split at h
  next v hv =>
    split at h
    · cases h
      exact ⟨he, hv⟩
    · cases h
  · cases h

/-! ### RCHILD -/

/-- `t` is `s` after an engine's stores: a wave may have more of them in its queue, and no operation has changed. -/
structure State.Stored (s t : State) : Prop where
  ops : t.ops = s.ops
  waves : ∀ id w, tget s.waves id = some w → ∃ q, tget t.waves id = some { w with storeQ := q }

theorem State.Stored.refl (s : State) : s.Stored s := ⟨rfl, fun _ w h => ⟨w.storeQ, h⟩⟩

theorem State.Stored.trans {s t u : State} (h : s.Stored t) (k : t.Stored u) : s.Stored u where
  ops := k.ops.trans h.ops
  waves id w hw := by
    obtain ⟨q, hq⟩ := h.waves id w hw
    obtain ⟨q', hq'⟩ := k.waves id _ hq
    exact ⟨q', hq'⟩

/-- A change of neither waves nor operations. -/
theorem State.Stored.of_eq {s t : State} (ho : t.ops = s.ops) (hw : t.waves = s.waves) : s.Stored t :=
  ⟨ho, fun _ w h => ⟨w.storeQ, hw ▸ h⟩⟩

/-- An entry more in a wave's store queue. -/
theorem State.stored_queue (s : State) (id : Nat) (q : QEntry) : s.Stored (s.updWave id fun w => { w with storeQ := w.storeQ ++ [q] }) := by
  refine ⟨by rw [State.updWave_eq], fun k w hw => ?_⟩
  unfold State.updWave
  split
  next v hv =>
    rw [State.putWave_waves, tget_tset]
    split
    next hk =>
      subst hk
      cases hw.symm.trans hv
      exact ⟨_, rfl⟩
    · exact ⟨w.storeQ, hw⟩
  · exact ⟨w.storeQ, hw⟩

theorem State.traffic_of_opXlate_ok {s t : State} {o : EngOp} {acc : Access} {g : GAddr} {ps : List (Nat × Nat)}
    {out l : List (Nat × Nat × Nat)} (h : s.opXlate o acc g ps out = .ok l t) : s.Traffic t := by
  induction ps generalizing s out with
  | nil =>
    cases h
    exact .refl _
  | cons x ps ih =>
    unfold State.opXlate at h
    dsimp only at h
    split at h
    next hx => exact (State.traffic_of_xlate_ok hx).trans (ih h)
    · cases h
    · cases h
    · cases h

theorem State.stored_of_opWrite_ok {s t : State} {key : Nat} {o p : EngOp} {base : Nat} {sum : Int} {bs : List Byte}
    (h : s.opWrite key o base sum bs = .ok p t) : s.Stored t := by
  unfold State.opWrite at h
  split at h
  · cases h
  · split at h
    · cases h
    · cases h
    · cases h
    next u hx =>
      have hu := State.traffic_of_opXlate_ok hx
      dsimp only at h
      cases h
      have hq := State.stored_queue u o.wave
      exact ((State.Stored.of_eq hu.ops_eq hu.waves_eq).trans (hq _)).trans (.of_eq rfl rfl)

/-- Undefined bytes of an operation are stores of its wave. -/
theorem State.stored_freeRun (s : State) (key : Nat) (o : EngOp) (base : Nat) (sum : Int) (n : Nat) :
    s.Stored (s.freeRun key o base sum n) := by
  unfold State.freeRun
  refine foldl_keeps (fun t => s.Stored t) _ _ s (.refl s) fun t p ht => ?_
  dsimp only
  split
  next hw =>
    have hd := (ht.trans (.of_eq (t := t.draw p.2) rfl rfl)).trans (State.stored_of_opWrite_ok hw)
    split
    · exact hd
    · exact ht.trans (.of_eq rfl rfl)
  · exact ht

/-- The frame of a child that has been appended, and the number of frames. -/
theorem Unfold.append_frames (u : Unfold) (r : Running) (hr : r.frame < u.frames.length) :
    (u.append r).frames.length = u.frames.length + 1 ∧
    ((u.append r).frame u.frames.length).depth = (u.frame r.frame).depth + 1 ∧
    ((u.append r).frame u.frames.length).parent = some r.frame ∧
    ((u.append r).frame u.frames.length).cidx = (u.frame r.frame).children.length := by
  unfold Unfold.append Unfold.setFrame
  dsimp only
  refine ⟨by simp [length_lset], ?_⟩
  unfold Unfold.frame
  simp only [List.getD_eq_getElem?_getD]
  rw [getElem?_lset_ne _ _ (by omega), List.getElem?_append_right (Nat.le_refl _), Nat.sub_self]
  exact ⟨rfl, rfl, rfl⟩

/-- Nothing is read again where no RCHILD has stopped the unfolding. -/
theorem State.rereadIn_single {s : State} {id l key : Nat} {o : EngOp} {u : Unfold} {r : Running}
    (h : s.runningAt id l = some (key, o, u, r)) (hs : u.stoppers = []) : s.rereadIn id [l] = (some s, s) := by
  unfold State.rereadIn
  rw [h]
  dsimp only
  rw [hs]
  rfl

/-! ### RDONE -/

@[simp] theorem State.pastRoutines_mem (s : State) (w : Wave) (back : Mask) : (s.pastRoutines w back).1.mem = s.mem := by
  unfold State.pastRoutines
  split <;> rfl

@[simp] theorem State.releaseWave_mem (s : State) (id : Nat) (w : Wave) (r : Nat) (ph : Bool) : (s.releaseWave id w r ph).mem = s.mem := by
  unfold State.releaseWave
  dsimp only
  (repeat' split) <;> simp

@[simp] theorem State.completePhase_mem (s : State) (wg core k : Nat) (e : Ridge) : (s.completePhase wg core k e).mem = s.mem := by
  unfold State.completePhase
  exact foldl_keeps (fun t : State => t.mem = s.mem) _ _ _ rfl fun t x ht => by simp [ht]

@[simp] theorem State.lowerWave_mem (s : State) (id : Nat) (w : Wave) : (s.lowerWave id w).mem = s.mem := by
  unfold State.lowerWave State.toCarry
  dsimp only
  split
  · simp
  · rw [State.finishLeave_mem]
    exact State.endStep_mem s id w

@[simp] theorem State.clearHold_mem (s : State) (o : EngOp) : (s.clearHold o).mem = s.mem := by
  unfold State.clearHold
  split
  · rfl
  · split
    · rfl
    · refine foldl_keeps (fun t : State => t.mem = s.mem) _ _ _ ?_ fun t y ht => ?_
      · exact ite_cases (P := fun t : State => t.mem = s.mem) (State.completePhase_mem ..) rfl
      · exact ite_cases (P := fun t : State => t.mem = s.mem) ((State.lowerWave_mem ..).trans ht) ht

@[simp] theorem State.sweep_mem (s : State) (key : Nat) : (s.sweep key).mem = s.mem := by
  unfold State.sweep
  split
  · exact ite_cases (P := fun t : State => t.mem = s.mem) (State.clearHold_mem ..) rfl
  · rfl

@[simp] theorem State.doneIn_mem (s : State) (id lane : Nat) : (s.doneIn id lane).mem = s.mem := by
  unfold State.doneIn
  split
  · rfl
  · dsimp only
    rw [State.sweep_mem, State.updWave_mem]
    rfl

/-- An unfolding that has not been cancelled stays. -/
theorem State.sweep_of_live {s : State} {key : Nat} {o : EngOp} (h : tget s.ops key = some o) (hc : o.cls ≠ 7) : s.sweep key = s := by
  unfold State.sweep
  rw [h]
  dsimp only
  rw [EngOp.ghost, decide_eq_false hc, Bool.false_and, if_neg Bool.false_ne_true]

/-- What RDONE leaves in a lane. -/
theorem State.doneIn_live {s : State} {id lane key : Nat} {w : Wave} {o : EngOp} {u : Unfold} {r : Running}
    (hw : tget s.waves id = some w) (h : s.runningAt id lane = some (key, o, u, r)) (hc : o.cls ≠ 7) :
    tget (s.doneIn id lane).ops key = some { o with unfold := some (u.finish r) } ∧
      ∃ w', tget (s.doneIn id lane).waves id = some w' ∧ w'.regs = w.regs ∧ w'.bundle = w.bundle.map (fun b =>
        { b with mask := b.mask &&& ~~~(Mask.single lane) }) := by
  unfold State.doneIn
  rw [h]
  dsimp only
  rw [State.sweep_of_live (o := { o with unfold := some (u.finish r) }) _ hc]
  · refine ⟨by rw [State.updWave_eq]; exact tget_tset_same .., ?_⟩
    rw [State.updWave, State.putOp_waves, hw]
    exact ⟨_, tget_tset_same .., rfl, rfl⟩
  · rw [State.updWave_eq]
    exact tget_tset_same ..

end Sys2Proof.Machine

namespace Sys2Proof.Proofs

open Sys2Proof Sys2Proof.Machine

/-- Settles O47: RFRAME and RRES read the frame that each lane runs, RCHILD appends one below it, and RDONE ends the routine of its
lane. -/
theorem unfoldingInstructions : Obligations.UnfoldingInstructions := by
  refine fun f s w => ⟨fun ⟨hi, hrun⟩ => issue_done hi ?_, fun child ⟨hi, hrun⟩ hchild => issue_done hi ?_,
    fun l key o u r ⟨hi, hrun⟩ hm hl hat hr hstop hstoppers hframe hcheck => ?_, fun ⟨hi, hrun⟩ hg hc hd => ?_⟩
  · rw [State.idleLane_none hrun]
    dsimp only
    congr 4
    funext l
    cases s.runningAt s.cur l with
    | none => rfl
    | some x =>
      obtain ⟨key, o, u, r⟩ := x
      dsimp only
      by_cases h0 : f.sel = 0#16
      · rw [if_pos h0, h0]
        rfl
      by_cases h1 : f.sel = 1#16
      · rw [if_neg h0, if_pos h1, h1]
        rfl
      · rw [if_neg h0, if_neg h1]
        split
        next h => exact absurd (BitVec.eq_of_toNat_eq h) h0
        next h => exact absurd (BitVec.eq_of_toNat_eq h) h1
        · rfl
  · have hok : ∀ l ∈ Mask.lanes (w.active (.rres f)), s.childRes w f l = .ok (match s.runningAt s.cur l with
        | some (_, _, u, _) => u.resAddr (child l)
        | none => 0) := fun l hl => by
      obtain ⟨⟨key, o, u, r⟩, hx⟩ := hrun l hl
      unfold State.childRes
      rw [hx]
      dsimp only
      rw [hchild l hl key o u r hx]
    rw [formLanes_of_forall_ok hok, State.idleLane_none hrun]
    dsimp only
    exact congrArg (fun v => Act.done (s.putWave s.cur v)) (Wave.put_congr w f.dst 2 fun k hk => tgetD_map_lane hk)
  · obtain ⟨h1, h2, h3, h4⟩ := u.append_frames r hframe
    have hst := State.stored_freeRun s key o (u.append r).heap.toNat
      ((((u.append r).frame ((u.append r).frames.length - 1)).off + 16 : Nat) : Int) (u.append r).frameSz
    obtain ⟨q, hq⟩ := hst.waves s.cur w (tget_of_issues hi)
    obtain ⟨val, hval⟩ : ∃ val : Nat → Nat, val = fun k => tgetD [(l, (u.append r).dataAddr ((u.append r).frames.length - 1))] k 0 :=
      ⟨_, rfl⟩
    refine ⟨u.append r, ((s.freeRun key o (u.append r).heap.toNat ((((u.append r).frame ((u.append r).frames.length - 1)).off + 16 : Nat) : Int)
      (u.append r).frameSz).putOp key { o with unfold := some (u.append r) }).updWave s.cur (fun w => w.put f.dst 2 (Mask.single l) val),
      ({ w with storeQ := q } : Wave).put f.dst 2 (Mask.single l) val, issue_done hi ?_, ?_, ?_, ?_, h1, h2, h3, h4⟩
    · rw [hm, Mask.lanes_single hl, State.rereadIn_single hat hstoppers]
      dsimp only [State.childrenIn]
      unfold State.childIn
      rw [hat]
      dsimp only
      rw [if_neg (by simp [hr]), hcheck, hval]
    · rw [State.updWave_eq]
      exact tget_tset_same ..
    · rw [State.updWave, State.putOp_waves, hq]
      exact tget_tset_same ..
    · have hput := Wave.put_congr w f.dst 2 (m := Mask.single l) (f := val) (g := fun _ => (u.append r).dataAddr u.frames.length) fun k hk => by
          rw [Mask.lanes_single hl, List.mem_singleton] at hk
          rw [hk, hval, h1, Nat.add_sub_cancel]
          simp [tgetD, tget]
      show (w.put f.dst 2 (Mask.single l) val).regs = _
      rw [hput]
  · have hw := tget_of_issues hi
    by_cases hm : w.active (.rdone f) = 0#32
    · refine ⟨s, issue_done hi ?_, rfl, fun _ => rfl, fun l _ _ _ _ hl hlt _ _ => ?_⟩
      · rw [State.idleLane_none hrun]
        exact if_pos hm
      · have := congrArg Mask.lanes (hm.symm.trans hl)
        rw [Mask.lanes_single hlt] at this
        exact absurd (this.symm.trans (Mask.lanes_eq_nil.mpr rfl)) (List.cons_ne_nil _ _)
    · refine ⟨_, issue_done hi (t := (Mask.lanes (w.active (.rdone f))).foldl (fun (s : State) l => s.doneIn s.cur l) s) ?_, ?_,
        fun h => absurd h hm, fun l key o u r hl hlt hat hcls => ?_⟩
      · rw [State.idleLane_none hrun]
        dsimp only
        rw [if_neg hm, if_neg (by rw [hd]; exact Bool.false_ne_true), State.gated_coreRelease hw hg hc]
      · exact foldl_keeps (fun t : State => t.mem = s.mem) _ _ _ rfl fun t l ht => (State.doneIn_mem ..).trans ht
      · rw [hl, Mask.lanes_single hlt]
        exact State.doneIn_live hw hat hcls

end Sys2Proof.Proofs

/-! PROOFS. TRAP, BKPT and SVRET (R225, R340, R341). -/

namespace Sys2Proof.Machine

/-- Lanes that join an entry leave no bundle to wait for. -/
theorem joinEntry_waits (prio : BitVec 16) (pc : Word) (m : Mask) (yld : Bool) (l : List Entry) :
    (joinEntry prio pc m yld l).any (fun e => !e.wait.isEmpty) = l.any (fun e => !e.wait.isEmpty) := by
  induction l with
  | nil =>
    unfold joinEntry
    split <;> rfl
  | cons e l ih =>
    unfold joinEntry
    split
    · rfl
    · rw [List.any_cons, List.any_cons, ih]

/-- What a wave keeps that goes past its instruction. -/
theorem State.pastInstr_keeps (s : State) (w : Wave) (b : Entry) :
    (s.pastInstr w b).asideDue = w.asideDue ∧ (s.pastInstr w b).fillsDue = w.fillsDue ∧ (s.pastInstr w b).regs = w.regs ∧
      (s.pastInstr w b).world = w.world ∧ (s.pastInstr w b).core = w.core ∧ (s.pastInstr w b).sup = w.sup := by
  have haside : (s.pastInstr w b).asideDue = w.asideDue := by
    unfold State.pastInstr Wave.asideDue
    dsimp only
    split
    · rfl
    · split
      · rfl
      · exact joinEntry_waits ..
  refine ⟨haside, ?_, ?_, ?_, ?_, ?_⟩
  · unfold Wave.fillsDue
    rw [haside]
    unfold State.pastInstr
    dsimp only
    split
    · rfl
    · split <;> rfl
  all_goals
    unfold State.pastInstr
    dsimp only
    split
    · rfl
    · split <;> rfl

/-- A wave that waits for nothing and traps is lowered with an entry for its world. -/
theorem State.leave_trap (s : State) (id : Nat) {w : Wave} (r : FaultRec) (hf : w.fillsDue = false) :
    let q := (s.endStep id w).quit w.core id
    s.leave id w (.trap r) = (q.putWave id (q.spill w (q.fullKind w.world) (some r) .faulted)).post w.world (q.mkPost w r 1) := by
  have ha : w.asideDue = false := by
    simp only [Wave.fillsDue, Bool.or_eq_false_iff] at hf
    exact hf.1.2
  rw [State.leave, if_neg (by rw [ha]; exact Bool.false_ne_true), if_neg (by rw [hf]; exact Bool.false_ne_true)]
  rfl

/-- The end of a debugger's step leaves what is to be posted. -/
theorem State.endStep_toPost (s : State) (id : Nat) (w : Wave) (core k : Nat) :
    (((s.endStep id w).quit core id).world k).toPost = (s.world k).toPost := by
  rw [State.endStep]
  split <;> rfl

/-- A release that is ready at DEVICE scope, of a wave without gates, passes at once. -/
theorem State.before_release {s : State} {id : Nat} {w : Wave} {scope : Nat} (hg : w.gates = []) (hr : s.release id w scope = .ready) :
    s.before id w 3 scope = .go s := by
  unfold State.before
  rw [if_pos hg]
  dsimp only
  rw [if_pos (.inl rfl), hr]
  rfl

end Sys2Proof.Machine

namespace Sys2Proof.Proofs

open Sys2Proof Sys2Proof.Machine

/-- Settles O48: TRAP leaves its slot by `State.leave_trap`, BKPT is delivered after the instruction, SVRET puts the entry of
SV_EPC. -/
theorem trapsAndReturn : Obligations.TrapsAndReturn := by
  refine fun f s w b hb => ⟨fun i hin hi hm hsup => ?_, fun hi hsup => ?_, fun hi hm hsup hg hr hf => ?_,
    fun hi hm haside => ?_, fun hi hm => ?_⟩
  · simp only [List.mem_cons, List.not_mem_nil, or_false] at hin
    obtain rfl | rfl | rfl := hin
    · refine issue_done hi ?_
      dsimp only
      rw [if_neg (by rw [hsup.resolve_left fun h => h rfl]; exact Bool.false_ne_true), if_pos hm]
    · exact issue_done hi (if_pos hm)
    · exact issue_done hi (if_pos hm)
  · refine (issue_raise hi (t := s) (r := w.mkRec cReserved stDecode (Mask.first w.bundleMask)) ?_ : execTrap f s = _).trans ?_
    · exact if_pos hsup
    · rw [tgetD_of_issues hi]
      rfl
  · have ha : w.asideDue = false := by
      have := hf
      simp only [Wave.fillsDue, Bool.or_eq_false_iff] at this
      exact this.1.2
    have hw := tget_of_issues hi
    obtain ⟨-, hpf, hpr, hpw, -, -⟩ := s.pastInstr_keeps w b
    have hbefore : s.before s.cur w 3 scDevice = .go s := State.before_release hg hr
    obtain ⟨r, hrec⟩ : ∃ r : FaultRec, r = { w.mkRec 0 7 0 with
      info := f.sel, pc := (s.afterInstr w b).1, ridx := BitVec.ofNat 4 (s.afterInstr w b).2 } := ⟨_, rfl⟩
    have hleave := s.leave_trap s.cur r (hpf.trans hf)
    have hpost := s.endStep_toPost s.cur (s.pastInstr w b) (s.pastInstr w b).core w.world
    have hmem := State.leave_mem s s.cur (s.pastInstr w b) (.trap r)
    dsimp only at hleave
    rw [hleave] at hmem
    generalize (s.endStep s.cur (s.pastInstr w b)).quit (s.pastInstr w b).core s.cur = q at *
    refine ⟨_, q.spill (s.pastInstr w b) (q.fullKind (s.pastInstr w b).world) (some r) .faulted, q.mkPost (s.pastInstr w b) r 1,
      (issue_jump hi ?_ : execTrap f s = _), tget_tset_same .., rfl, rfl, ?_, State.fullKind_ne_zero _ _, ?_, rfl, ?_, ?_, ?_, ?_, hmem⟩
    · dsimp only
      rw [if_neg (by rw [hsup]; exact Bool.false_ne_true), if_neg hm, hb]
      dsimp only
      rw [if_neg (by rw [ha]; exact Bool.false_ne_true), State.gated_of_before hbefore, tgetD_of_issues hi, ← hleave, hrec]
    · rw [← hpr]
      rfl
    · rw [hpw, State.post, State.world_putWorld, if_pos rfl]
      exact congrArg (· ++ [_]) hpost
    · rw [State.mkPost, hrec]
    · rw [State.mkPost, hrec]
      rfl
    · rw [State.mkPost, hrec, Wave.mkRec, hb]
      rfl
    · rw [State.mkPost, hrec]
      dsimp only
      rw [BitVec.toNat_ofNat]
      unfold State.afterInstr
      dsimp only
      split <;> rfl
  · refine (issue_jump hi ?_ : execBkpt f s = _)
    dsimp only
    rw [if_neg hm, hb]
    dsimp only
    rw [if_neg (by obtain h | h := haside <;> simp [h])]
    rfl
  · refine ⟨_, _, (issue_jump hi (if_neg hm) : execSvret f s = _), rfl, rfl, rfl, rfl, rfl, rfl, rfl, rfl, rfl⟩

end Sys2Proof.Proofs

/-! PROOFS. Supervisor registers and the states of queues (R225, R341, R345, R347, R348). -/

namespace Sys2Proof.Machine

/-! ### Queues -/

/-- Pushes that fail take records of the queue back, and change nothing else of it. -/
theorem State.queue_failPushes (s : State) (k : Nat) : ∃ g, (s.failPushes k).queue k = { s.queue k with gone := g } := by
  unfold State.failPushes
  dsimp only
  split
  · exact ⟨(s.queue k).gone, rfl⟩
  · exact ⟨_, tgetD_tset_same ..⟩

theorem State.queue_interrupt (s : State) (world vec k : Nat) : (s.interrupt world vec).queue k = s.queue k := by
  unfold State.interrupt
  split
  · rfl
  · split
    · rfl
    · split <;> rfl

/-- A queue that enters ERROR (R348). -/
theorem State.queue_queueError {s : State} {k : Nat} (h : (s.queue k).state = 1#3 ∨ (s.queue k).state = 2#3) :
    ∃ g, (s.queueError k).queue k = { s.queue k with gone := g, state := 3#3 } := by
  obtain ⟨g, hg⟩ := (s.dropScheduler (s.queue k).world).queue_failPushes k
  unfold State.queueError
  dsimp only
  rw [if_neg (by obtain h | h := h <;> rw [h] <;> decide)]
  refine ⟨g, ?_⟩
  split
  · rw [State.queue_interrupt]
    refine (tgetD_tset_same ..).trans ?_
    rw [hg]
    rfl
  · refine (tgetD_tset_same ..).trans ?_
    rw [hg]
    rfl

/-- A launch that goes leaves a queue but for its list of started records. -/
theorem State.queue_dropLaunch (s : State) (h k : Nat) : ∃ l, (s.dropLaunch h).queue k = { s.queue k with started := l } := by
  unfold State.dropLaunch
  split
  · exact ⟨(s.queue k).started, rfl⟩
  next l _ =>
    dsimp only
    have hq : ((({ s.putQueue l.queue { s.queue l.queue with
        started := (s.queue l.queue).started.filter (fun x => decide (x.2 ≠ h)) } with
        launches := tdel s.launches h } : State).dropInvariant l.seq).settleDoomed).queue k =
        (s.putQueue l.queue { s.queue l.queue with
          started := (s.queue l.queue).started.filter (fun x => decide (x.2 ≠ h)) }).queue k := by
      unfold State.dropInvariant
      split <;> rfl
    refine (exists_congr fun _ => by rw [hq]).mpr ?_
    rw [State.queue_putQueue]
    split
    next hk => exact ⟨_, by rw [hk]⟩
    · exact ⟨(s.queue k).started, rfl⟩

/-- What an unbound queue has left (R348). -/
theorem State.queue_unbind (s : State) (k : Nat) (q : Queue) : ∃ l, (s.unbind k q).queue k = { q.emptied 0#3 with started := l } := by
  unfold State.unbind State.discardUnplaced
  refine foldl_keeps (fun t : State => ∃ l, t.queue k = { q.emptied 0#3 with started := l }) _ _ _
    ⟨_, tgetD_tset_same ..⟩ fun t e ht => ?_
  obtain ⟨l, hl⟩ := ht
  split
  · split
    · obtain ⟨l', hl'⟩ := t.queue_dropLaunch e.1 k
      exact ⟨l', by rw [hl', hl]⟩
    · exact ⟨l, hl⟩
  · exact ⟨l, hl⟩

/-- A queue is bound as it is written, or enters ERROR where its binding is bad (R348). -/
theorem State.queue_bind (s : State) (k : Nat) (q : Queue) : (s.bind k q).queue k = q.emptied 1#3 ∨
    ((q.first % 32 ≠ 0 ∨ q.nrec = 0 ∨ q.weight = 0#8) ∧ ∃ g, (s.bind k q).queue k = { q.emptied 1#3 with gone := g, state := 3#3 }) := by
  have hq : (s.putQueue k (q.emptied 1#3)).queue k = q.emptied 1#3 := by rw [State.queue_putQueue, if_pos rfl]
  unfold State.bind
  dsimp only
  split
  next h =>
    refine .inr ⟨h.imp_left fun h => ?_, ?_⟩
    · have : q.first % 32 = bits q.base.toNat 0 5 := by
        rw [Queue.first, bits, bits, Nat.pow_zero, Nat.div_one, Nat.mod_mod_of_dvd _ (by decide)]
        rfl
      rwa [this]
    · obtain ⟨g, hg⟩ := State.queue_queueError (s := s.putQueue k (q.emptied 1#3)) (k := k) (.inl (by rw [hq]; rfl))
      exact ⟨g, by rw [hg, hq]⟩
  · exact .inl hq

/-- A 3-bit state by its number. -/
theorem state_eq_iff (x : BitVec 3) {n : Nat} (hn : n < 8) : x = BitVec.ofNat 3 n ↔ x.toNat = n := by
  rw [← BitVec.toNat_inj, BitVec.toNat_ofNat]
  show x.toNat = n % 8 ↔ _
  rw [Nat.mod_eq_of_lt hn]

/-- The queue with the fields that a write of SV_QUEUESTATE puts into it (R347). -/
def Queue.rewritten (q : Queue) (v : Nat) : Queue :=
  { q with world := bits v 3 6, waves := bit v 9, weight := BitVec.ofNat 8 (bits v 11 8), sigbase := BitVec.ofNat 45 (bits v 19 45) }

theorem Queue.rewritten_weight (q : Queue) (v : Nat) : (q.rewritten v).weight = BitVec.ofNat 8 (v / 2 ^ 11) := by
  refine BitVec.eq_of_toNat_eq ?_
  show (BitVec.ofNat 8 (bits v 11 8)).toNat = _
  rw [BitVec.toNat_ofNat, BitVec.toNat_ofNat, bits, Nat.mod_mod]

/-- A write of SV_QUEUESTATE by the state of the queue. -/
theorem State.queueStateWrite_eq (s : State) (k v : Nat) : s.queueStateWrite k v =
    if v % 8 = (s.queue k).state.toNat then some (s.putQueue k ((s.queue k).rewritten v))
    else if (s.queue k).state.toNat = 0 ∧ v % 8 = 1 then some (s.bind k ((s.queue k).rewritten v))
    else if (s.queue k).state.toNat = 1 ∧ v % 8 = 2 then some (s.putQueue k { (s.queue k).rewritten v with state := 2#3 })
    else if (s.queue k).state.toNat = 2 ∧ v % 8 = 1 then some (s.putQueue k { (s.queue k).rewritten v with state := 1#3 })
    else if ((s.queue k).state.toNat = 2 ∨ (s.queue k).state.toNat = 3) ∧ v % 8 = 0 then some (s.unbind k ((s.queue k).rewritten v))
    else none := by
  have hv : bits v 0 3 = v % 8 := by
    rw [bits, Nat.pow_zero, Nat.div_one]
    rfl
  simp only [← state_eq_iff _ (show 0 < 8 by decide), ← state_eq_iff _ (show 1 < 8 by decide), ← state_eq_iff _ (show 2 < 8 by decide),
    ← state_eq_iff _ (show 3 < 8 by decide), ← hv]
  rfl

/-! ### Registers -/

/-- A write of a supervisor wave's own registers. -/
theorem State.tget_updSv {s : State} {id : Nat} {w : Wave} (hw : tget s.waves id = some w) (g : SupRegs → SupRegs) :
    tget (s.updSv id g).waves id = some { w with sv := g w.sv } := by
  unfold State.updSv State.updWave
  rw [hw]
  exact tget_tset_same ..

/-- The selectors from 0x1A0 on are the channels of the selected queue (R225). -/
theorem State.svWrite_channel (s : State) (id : Nat) (w : Wave) {sel : Nat} (h : 0x1A0 ≤ sel) (v : DWord) :
    s.svWrite id w sel v = some (s.putQueue s.selQueue { s.queue s.selQueue with
      chans := tset (s.queue s.selQueue).chans (sel - 0x1A0) v }) := by
  unfold State.svWrite
  dsimp only
  iterate 15 rw [if_neg (by omega)]

theorem State.svRead_channel (s : State) (w : Wave) {sel : Nat} (h : 0x1A0 ≤ sel) :
    s.svRead w sel = (tgetD (s.queue s.selQueue).chans (sel - 0x1A0) 0#64).toNat := by
  unfold State.svRead
  dsimp only
  iterate 18 rw [if_neg (by omega)]

/-- A write with a condition is taken where the condition holds. -/
theorem some_of_when {b : Bool} {s t : State} (h : (if b = true then some s else none) = some t) : t = s := by
  split at h
  · exact (Option.some_inj.mp h).symm
  · cases h

end Sys2Proof.Machine

namespace Sys2Proof.Proofs

open Sys2Proof Sys2Proof.Machine

/-- What a write has put into a register that reads back whole (R225). -/
theorem svRead_of_svWrite {s t : State} {id sel : Nat} {w : Wave} {v : DWord} (hw : tget s.waves id = some w)
    (h : s.svWrite id w sel v = some t)
    (hsel : sel ∈ [0x100, 0x102, 0x104, 0x105, 0x106, 0x107, 0x180, 0x181, 0x182, 0x184, 0x190] ∨ (0x1A0 ≤ sel ∧ sel < 0x1B0)) :
    ∃ w', tget t.waves id = some w' ∧ t.svRead w' sel = v.toNat := by
  obtain hsel | ⟨hlo, hhi⟩ := hsel
  · simp only [List.mem_cons, List.not_mem_nil, or_false] at hsel
    obtain rfl | rfl | rfl | rfl | rfl | rfl | rfl | rfl | rfl | rfl | rfl := hsel
    all_goals simp only [State.svWrite, Nat.reduceEqDiff, Nat.reduceLT, if_true, if_false] at h
    · cases some_of_when h
      exact ⟨_, State.tget_updSv hw _, rfl⟩
    · cases h
      exact ⟨_, State.tget_updSv hw _, rfl⟩
    · cases some_of_when h
      exact ⟨_, State.tget_updSv hw _, rfl⟩
    · cases some_of_when h
      exact ⟨_, State.tget_updSv hw _, rfl⟩
    · cases some_of_when h
      exact ⟨w, hw, congrArg (fun x => x.s1root.toNat) ((State.world_putWorld ..).trans (if_pos rfl))⟩
    · cases h
      exact ⟨w, hw, congrArg (fun x => x.budget.toNat) ((State.world_putWorld ..).trans (if_pos rfl))⟩
    · cases some_of_when h
      exact ⟨w, hw, rfl⟩
    · cases some_of_when h
      exact ⟨w, hw, congrArg (fun x => x.base.toNat) ((State.queue_putQueue ..).trans (if_pos rfl))⟩
    · cases some_of_when h
      exact ⟨w, hw, congrArg (fun x => x.size.toNat) ((State.queue_putQueue ..).trans (if_pos rfl))⟩
    · cases some_of_when h
      exact ⟨w, hw, congrArg (fun x => x.svcmin.toNat) ((State.queue_putQueue ..).trans (if_pos rfl))⟩
    · cases some_of_when h
      exact ⟨w, hw, rfl⟩
  · rw [State.svWrite_channel s id w hlo v] at h
    cases h
    refine ⟨w, hw, ?_⟩
    rw [State.svRead_channel _ w hlo]
    refine (congrArg (fun q : Queue => (tgetD q.chans (sel - 0x1A0) 0#64).toNat) ((State.queue_putQueue ..).trans (if_pos rfl))).trans ?_
    dsimp only
    rw [tgetD_tset_same]

/-- The writes of a supervisor register under their names. -/
theorem swrpOp_writes {i : Instr} {f : FmtX} {s : State} {w : Wave} (hi : issues i s w = true) :
    (w.active i = 0#32 → swrpOp i f s = .next (s.advance s.cur)) ∧
    (w.active i ≠ 0#32 → s.regHeld w f.sel.toNat = false →
      let r := s.svWrite s.cur w f.sel.toNat (BitVec.ofNat 64 (w.src f.a 2 0))
      swrpOp i f s = .next ((match f.dst with
        | .p _ => (r.getD s).updWave s.cur (fun v => v.put f.dst 1 (w.active i) (fun _ => b2n r.isSome))
        | _ => r.getD s).advance s.cur)) := by
  refine ⟨fun hm => issue_done hi (if_pos hm), fun hm hh => issue_done hi ?_⟩
  dsimp only
  rw [if_neg hm, if_neg (by rw [hh]; exact Bool.false_ne_true)]
  generalize f.dst = o
  cases o <;> rfl

/-- Settles O49: the registers by their selectors, the queue's states by `State.queueStateWrite_eq`. -/
theorem supervisorRegisters : Obligations.SupervisorRegisters := by
  refine fun f s w => ⟨fun hi hh => issue_done hi ?_, fun i hin hi => ?_, fun id sel v t hw h hsel => svRead_of_svWrite hw h hsel,
    fun k v => ⟨?_, fun t ht => ?_⟩⟩
  · rw [hh]
    exact if_neg Bool.false_ne_true
  · have he : exec i s = swrpOp i f s := by
      simp only [svWrites, List.mem_cons, List.not_mem_nil, or_false] at hin
      obtain rfl | rfl | rfl | rfl | rfl | rfl | rfl := hin <;> rfl
    obtain ⟨h0, h1⟩ := swrpOp_writes (f := f) hi
    refine ⟨fun hm => he.trans (h0 hm), fun hm hh v hv => ?_⟩
    have h1 := h1 hm hh
    rw [hv, BitVec.ofNat_toNat, BitVec.setWidth_eq] at h1
    refine ⟨fun t ht => ?_, fun ht => ?_⟩
    · rw [he, h1, ht]
      generalize f.dst = o
      cases o <;> rfl
    · rw [he, h1, ht]
      generalize f.dst = o
      cases o <;> rfl
  · rw [State.queueStateWrite_eq]
    have := (s.queue k).state.isLt
    split_ifs <;> simp <;> omega
  · rw [State.queueStateWrite_eq] at ht
    have hlt := (s.queue k).state.isLt
    have hput (q : Queue) : (s.putQueue k q).queue k = q := (State.queue_putQueue ..).trans (if_pos rfl)
    have hw : bits v 3 6 = v / 2 ^ 3 % 64 := rfl
    split_ifs at ht with h1 h2 h3 h4 h5
    · cases ht
      rw [hput]
      exact ⟨Queue.rewritten_weight (s.queue k) v, hw, .inl h1.symm, fun h => absurd (h1.symm.trans h.1) h.2⟩
    · cases ht
      obtain hb | ⟨hbad, g, hb⟩ := s.queue_bind k ((s.queue k).rewritten v)
      · rw [hb]
        exact ⟨Queue.rewritten_weight (s.queue k) v, hw, .inl h2.2.symm, fun h => absurd h2.1 h.2⟩
      · rw [hb]
        refine ⟨Queue.rewritten_weight (s.queue k) v, hw, .inr ⟨h2.1, h2.2, rfl, ?_⟩, fun h => absurd h2.1 h.2⟩
        rw [← Queue.rewritten_weight (s.queue k)]
        exact hbad
    · cases ht
      rw [hput]
      exact ⟨Queue.rewritten_weight (s.queue k) v, hw, .inl h3.2.symm, fun h => absurd (h3.2.symm.trans h.1) (by decide)⟩
    · cases ht
      rw [hput]
      exact ⟨Queue.rewritten_weight (s.queue k) v, hw, .inl h4.2.symm, fun h => absurd (h4.2.symm.trans h.1) (by decide)⟩
    · cases ht
      obtain ⟨l, hl⟩ := s.queue_unbind k ((s.queue k).rewritten v)
      rw [hl]
      exact ⟨Queue.rewritten_weight (s.queue k) v, hw, .inl h5.2.symm, fun _ => ⟨rfl, rfl, rfl, rfl⟩⟩

end Sys2Proof.Proofs

/-! PROOFS. What the end of launches, waves and queues leaves of the worlds (R343, R348, R361): entries are handed to them, and
nothing else of them changes. -/

namespace Sys2Proof.Machine

/-- Of the worlds of `s`, at most the entries that are to be posted have changed. -/
structure State.Posts (s t : State) : Prop where
  world : ∀ j, t.world j = { s.world j with toPost := (t.world j).toPost }

namespace State.Posts

theorem refl (s : State) : s.Posts s := ⟨fun _ => rfl⟩

theorem trans {s t u : State} (h : s.Posts t) (k : t.Posts u) : s.Posts u := ⟨fun j => by rw [k.world j, h.world j]⟩

theorem of_worlds {s t : State} (h : t.worlds = s.worlds) : s.Posts t := ⟨fun j => by
  rw [show t.world j = s.world j from congrArg (fun x => tgetD x j World.init) h]⟩

theorem after {s t u : State} (k : t.Posts u) (h : t.worlds = s.worlds) : s.Posts u := (of_worlds h).trans k

theorem foldl {β : Type} {f : State → β → State} (h : ∀ (s : State) b, s.Posts (f s b)) (l : List β) (s : State) :
    s.Posts (l.foldl f s) :=
  foldl_keeps (fun t => s.Posts t) f l s (.refl s) fun _ b ha => ha.trans (h _ b)

end State.Posts

theorem State.Traffic.posts {s t : State} (h : s.Traffic t) : s.Posts t := .of_worlds h.worlds_eq

theorem State.Frame.posts {s t : State} (h : s.Frame t) : s.Posts t := ⟨h.world⟩

/-! ### Queues -/

theorem State.failPushes_worlds (s : State) (k : Nat) : (s.failPushes k).worlds = s.worlds := by
  unfold State.failPushes
  dsimp only
  split <;> rfl

theorem State.interrupt_worlds (s : State) (world vec : Nat) : (s.interrupt world vec).worlds = s.worlds := by
  unfold State.interrupt
  split
  · rfl
  · split
    · rfl
    · split <;> rfl

theorem State.posts_post (s : State) (world : Nat) (p : Post) : s.Posts (s.post world p) := (State.Frame.post s world p).posts

theorem State.posts_queueError (s : State) (k : Nat) : s.Posts (s.queueError k) := by
  unfold State.queueError
  dsimp only
  split
  · exact .refl s
  · have hf : s.Posts ((s.dropScheduler (s.queue k).world).failPushes k) := .of_worlds (State.failPushes_worlds ..)
    have hq := hf.trans (.of_worlds (t := ((s.dropScheduler (s.queue k).world).failPushes k).putQueue k
      { ((s.dropScheduler (s.queue k).world).failPushes k).queue k with state := 3#3 }) rfl)
    split
    · exact (hq.trans (State.posts_post _ _ _)).trans (.of_worlds (State.interrupt_worlds ..))
    · exact hq.trans (State.posts_post _ _ _)

theorem State.dropLaunch_worlds (s : State) (h : Nat) : (s.dropLaunch h).worlds = s.worlds := by
  unfold State.dropLaunch
  split
  · rfl
  next l _ =>
    dsimp only
    unfold State.dropInvariant
    split <;> rfl

theorem State.posts_unbind (s : State) (k : Nat) (q : Queue) : s.Posts (s.unbind k q) := by
  unfold State.unbind State.discardUnplaced
  refine State.Posts.trans (.of_worlds ?_) (.foldl (fun s e => ?_) _ _)
  · exact State.failPushes_worlds ..
  · split
    · split
      · exact .of_worlds (State.dropLaunch_worlds ..)
      · exact .of_worlds rfl
    · exact .refl s

/-- What an access of the scheduler leaves of the worlds. -/
def QMem.Posts {α : Type} (s : State) : QMem α → Prop
  | .ok _ t | .miss t => s.Posts t
  | .bad => True

theorem QMem.Posts.after {α : Type} {s t : State} (h : s.Posts t) {r : QMem α} (hr : r.Posts t) : r.Posts s := by
  cases r with
  | ok a u => exact State.Posts.trans h hr
  | bad => trivial
  | miss u => exact State.Posts.trans h hr

theorem State.posts_qAddrFor (s : State) (world k va : Nat) (acc : Access) : (s.qAddrFor world k va acc).Posts s := by
  unfold State.qAddrFor
  dsimp only
  split
  · trivial
  · have hx := State.traffic_xlateFlat s { cluster := ioCluster, world := world, who := s.ioStamp } va acc (s.queue k).denied
    split
    next heq =>
      rw [heq] at hx
      refine State.Posts.trans hx.posts (.of_worlds ?_)
      unfold State.clearMissed
      dsimp only
      split <;> rfl
    · trivial
    next heq =>
      rw [heq] at hx
      exact hx.posts
    next heq =>
      rw [heq] at hx
      exact (State.Posts.trans hx.posts (State.traffic_joinPending ..).posts).trans (.of_worlds rfl)

theorem State.posts_qRemote (s : State) (world pa n : Nat) (bytes : List Byte) (atomic : Option AtomOp) :
    (s.qRemote world pa n bytes atomic).Posts s := by
  unfold State.qRemote
  split
  · split
    · exact (State.traffic_send ..).posts
    · trivial
  · split
    · exact State.Posts.refl s
    · exact State.Posts.of_worlds rfl
    · trivial

theorem State.posts_qRead (s : State) (k va n : Nat) : (s.qRead k va n).Posts s := by
  have ha := s.posts_qAddrFor (s.queue k).world k va .load
  unfold State.qRead State.qAddr
  split
  · trivial
  next heq =>
    rw [heq] at ha
    exact ha
  next u heq =>
    rw [heq] at ha
    dsimp only
    split
    · exact QMem.Posts.after ha (State.posts_qRemote ..)
    · split
      · trivial
      · exact (State.Posts.trans ha (State.traffic_checkRead ..).posts).trans (.foldl (fun s l => (State.traffic_probe ..).posts) _ _)

theorem State.posts_qWrite (s : State) (k va : Nat) (bs : List Byte) : (s.qWrite k va bs).Posts s := by
  have ha := s.posts_qAddrFor (s.queue k).world k va .store
  unfold State.qWrite State.qAddr
  split
  · trivial
  next heq =>
    rw [heq] at ha
    exact ha
  next pa u heq =>
    rw [heq] at ha
    split
    · have hr := QMem.Posts.after ha (u.posts_qRemote (u.queue k).world pa bs.length bs none)
      split
      next heq' =>
        rw [heq'] at hr
        exact hr
      next heq' =>
        rw [heq'] at hr
        exact hr
      · trivial
    · split
      · exact ha
      · exact State.Posts.trans ha (State.traffic_storeCells ..).posts

theorem State.posts_fillWindow (k n : Nat) (s : State) : s.Posts (State.fillWindow k n s) := by
  induction n generalizing s with
  | zero => exact .refl s
  | succ n ih =>
    have hr := s.posts_qRead k ((s.queue k).ringAt ((s.queue k).rc + (s.queue k).window.length)) 32
    unfold State.fillWindow
    dsimp only
    split
    · exact .refl s
    · split
      · exact State.posts_queueError s k
      · exact .of_worlds rfl
      next heq =>
        rw [heq] at hr
        exact State.Posts.trans hr ((ih _).after rfl)

theorem State.posts_dropHead (s : State) (k : Nat) : s.Posts (s.dropHead k) := by
  unfold State.dropHead
  extract_lets q u
  have hu : s.Posts u := .of_worlds rfl
  clear_value u
  have hw : (u.writeRc k).Posts u := State.posts_qWrite ..
  refine hu.trans ?_
  split
  next heq =>
    rw [heq] at hw
    exact State.Posts.trans hw (State.posts_fillWindow ..)
  · exact (State.posts_fillWindow ..).after rfl
  · exact State.posts_queueError u k

/-! ### Waves -/

theorem State.posts_openGate (s : State) (id stamp : Nat) : s.Posts (s.openGate id stamp) := by
  unfold State.openGate
  split
  · exact .refl s
  · split
    · unfold State.acquire
      split <;> exact .of_worlds rfl
    · exact .refl s

theorem State.updWave_worlds (s : State) (id : Nat) (f : Wave → Wave) : (s.updWave id f).worlds = s.worlds := by
  rw [State.updWave_eq]

theorem State.posts_homeAtom (s : State) (id : Nat) : s.Posts (s.homeAtom id) := by
  unfold State.homeAtom
  split
  · exact .refl s
  · split
    · exact .refl s
    next q _ =>
      dsimp only
      have hu (u : State) : u.Posts (u.seeAt id q.stamp) := by
        refine .of_worlds ?_
        rw [State.seeAt, State.updWave_worlds, State.see, State.updWave_worlds]
      split
      · exact (State.Posts.trans (.of_worlds (State.updWave_worlds ..)) (hu _)).trans (State.posts_openGate ..)
      · exact State.Posts.trans (.of_worlds (State.updWave_worlds ..)) (hu _)

theorem State.endHold_worlds (s : State) (id : Nat) : (s.endHold id).worlds = s.worlds := by
  unfold State.endHold
  split <;> rfl

theorem State.posts_endWave (s : State) (id : Nat) (w : Wave) : s.Posts (s.endWave id w) := by
  have hf := ((State.Frame.endStep s id w).trans (.quit _ w.core id)).posts
  unfold State.endWave
  dsimp only
  refine State.Posts.trans hf ?_
  split
  · unfold State.passToken
    split
    · exact .of_worlds rfl
    · split <;> exact .of_worlds rfl
  · exact .of_worlds rfl

/-! ### Launches -/

theorem State.posts_killWave (s : State) (id : Nat) : s.Posts (s.killWave id) := by
  have hh : s.Posts ((s.endHold id).homeAtom id) := (State.Posts.of_worlds (State.endHold_worlds ..)).trans (State.posts_homeAtom ..)
  unfold State.killWave
  dsimp only
  split
  · exact hh
  next w _ =>
    have hops : s.Posts (((((s.endHold id).homeAtom id).ops.filter (fun e => decide (e.2.wave = id))).map (fun e => e.1)).foldl
        (fun (s : State) k => { s.opClear k with ops := tdel s.ops k }) ((s.endHold id).homeAtom id)) :=
      hh.trans (.foldl (f := fun s k => { s.opClear k with ops := tdel s.ops k }) (fun s k => .of_worlds rfl) _ _)
    split
    · exact hops
    · exact hops.trans (State.posts_endWave ..)

theorem State.posts_reap (s : State) : s.Posts s.reap :=
  .foldl (f := fun s (e : Nat × Wave) => s.killWave e.1) (fun s e => State.posts_killWave s e.1) _ _

theorem State.posts_killLaunch (s : State) (h : Nat) : s.Posts (s.killLaunch h) := by
  unfold State.killLaunch
  split
  · exact .refl s
  next l _ =>
    dsimp only
    have hd : s.Posts (if l.next < l.total ∧ !l.dropped then (s.putLaunch h { l with dropped := true, killed := true }).dropHead l.queue
        else s.putLaunch h { l with dropped := true, killed := true }) :=
      ite_cases (P := fun t : State => s.Posts t) ((State.posts_dropHead ..).after rfl) (.of_worlds rfl)
    have hr := hd.trans (State.posts_reap _)
    split
    · exact hr.trans (.of_worlds (State.dropLaunch_worlds ..))
    · exact hr

theorem State.posts_killWhere (s : State) (p : Launch → Bool) : s.Posts (s.killWhere p) :=
  .foldl (f := fun s (e : Nat × Launch) => s.killLaunch e.1) (fun s e => State.posts_killLaunch s e.1) _ _

end Sys2Proof.Machine

/-! PROOFS. What a supervisor wave does to translations, waves, worlds and cores (R342 to R345, R369, R393). -/

namespace Sys2Proof.Machine

/-! ### TLBI -/

/-- What a TLBI drops: translations by one test, and by another the table entries of worlds, with walks that are under way. -/
def State.dropped (s : State) (hit : Tlb → Bool) (q : Nat → Bool) : State :=
  let t := (s.dropTlb hit).dropWalks q
  { t with xl := { t.xl with tables := t.xl.tables.filter (fun t => !q t.world) } }

theorem State.dropped_eq (s : State) {hit p : Tlb → Bool} (q : Nat → Bool) (h : ∀ t, p t = !hit t) : s.dropped hit q =
    { s with
      xl := { s.xl with tlb := s.xl.tlb.filter p, tables := s.xl.tables.filter (fun t => !q t.world) }
      fab := (s.dropped hit q).fab } := by
  rw [show p = fun t => !hit t from funext h]
  rfl

theorem State.loadImports_dropped (s : State) {hit p : Tlb → Bool} (q : Nat → Bool) (h : ∀ t, p t = !hit t) :
    (s.dropped hit q).loadImports =
    { s with
      xl := { s.xl with tlb := s.xl.tlb.filter p, tables := s.xl.tables.filter (fun t => !q t.world) }
      fab := (s.dropped hit q).loadImports.fab } := by
  rw [show p = fun t => !hit t from funext h]
  rfl

/-- A TLBI that its worlds do not hold up. -/
theorem tlbiOp_done {i : Instr} {f : FmtX} {hit : Wave → Tlb → Bool} {world : Wave → Nat → Bool} {more : State → State} {s u : State}
    {w : Wave} (hi : issues i s w = true) (hm : w.active i ≠ 0#32) (hfree : ∀ e ∈ s.worlds, world w e.1 = true → s.resetting e.1 = false)
    (hu : u = more (s.dropped (hit w) (world w)))
    (hsync : f.sel.getLsbD 2 = true → u.idle (fun x => world w x.world) = true) :
    tlbiOp i f hit world more s = .next (u.advance s.cur) := by
  unfold tlbiOp
  refine issue_done hi ?_
  have hany : (s.worlds.any fun e => world w e.1 && s.resetting e.1) = false := List.any_eq_false.mpr fun e he => by
    cases hw : world w e.1 with
    | false => simp
    | true => simp [hfree e he hw]
  dsimp only
  rw [if_neg hm, if_neg (by rw [hany]; exact Bool.false_ne_true)]
  refine (if_neg ?_).trans (congrArg Act.done hu.symm)
  rw [Bool.and_eq_true, Bool.not_eq_true']
  rintro ⟨h1, h2⟩
  have := hsync h1
  rw [hu] at this
  exact Bool.false_ne_true (h2.symm.trans this)

/-! ### WSET on a record -/

/-- `t` keeps what a register read of a wave gives: each wave is still there with its registers. -/
structure State.KeepsRegs (s t : State) : Prop where
  wave : ∀ id w, tget s.waves id = some w → ∃ v, tget t.waves id = some v ∧ v.regs = w.regs

theorem State.KeepsRegs.refl (s : State) : s.KeepsRegs s := ⟨fun _ w h => ⟨w, h, rfl⟩⟩

theorem State.KeepsRegs.trans {s t u : State} (h : s.KeepsRegs t) (k : t.KeepsRegs u) : s.KeepsRegs u := ⟨fun id w hw => by
  obtain ⟨v, hv, hr⟩ := h.wave id w hw
  obtain ⟨x, hx, hr'⟩ := k.wave id v hv
  exact ⟨x, hx, hr'.trans hr⟩⟩

theorem State.KeepsRegs.of_waves {s t : State} (h : t.waves = s.waves) : s.KeepsRegs t := ⟨fun _ w hw => ⟨w, h ▸ hw, rfl⟩⟩

theorem State.Stored.keepsRegs {s t : State} (h : s.Stored t) : s.KeepsRegs t := ⟨fun id w hw => by
  obtain ⟨q, hq⟩ := h.waves id w hw
  exact ⟨_, hq, rfl⟩⟩

theorem State.keepsRegs_updWave (s : State) (id : Nat) {f : Wave → Wave} (hf : ∀ w, (f w).regs = w.regs) : s.KeepsRegs (s.updWave id f) :=
  ⟨fun k w hw => by
    unfold State.updWave
    split
    next v hv =>
      rw [State.putWave_waves, tget_tset]
      split
      next hk =>
        subst hk
        cases hw.symm.trans hv
        exact ⟨_, rfl, hf _⟩
      · exact ⟨w, hw, rfl⟩
    · exact ⟨w, hw, rfl⟩⟩

theorem State.KeepsRegs.putOp {s t : State} (h : s.KeepsRegs t) (k : Nat) (o : EngOp) : s.KeepsRegs (t.putOp k o) := h.trans (.of_waves rfl)

theorem State.stored_freeHeap (s : State) (key : Nat) : s.Stored (s.freeHeap key) := by
  unfold State.freeHeap
  split
  · split
    · exact foldl_keeps (fun t => s.Stored t) _ _ s (.refl s) fun t g ht => ht.trans (State.stored_freeRun ..)
    · exact .refl s
  · exact .refl s

theorem State.keepsRegs_cancelLanes (s : State) (id : Nat) (m : Mask) : s.KeepsRegs (s.cancelLanes id m) := by
  unfold State.cancelLanes
  refine foldl_keeps (fun t => s.KeepsRegs t) _ _ s (.refl s) fun t lane ht => ?_
  split
  · split
    · refine State.KeepsRegs.putOp (.trans (ht.trans ?_) (State.stored_freeHeap _ _).keepsRegs) _ _
      exact t.keepsRegs_updWave id fun w => rfl
    · exact ht
  · exact ht

theorem State.keepsRegs_cancelOp (s : State) (id : Nat) (w : Wave) : s.KeepsRegs (s.cancelOp id w) := by
  unfold State.cancelOp
  split
  · split
    · exact (State.stored_freeHeap _ _).keepsRegs.trans (.of_waves rfl)
    · exact .of_waves rfl
  · split
    · exact ite_cases (P := fun t => s.KeepsRegs t) (State.keepsRegs_cancelLanes ..) (.refl s)
    · exact .refl s

/-- A wave that is to be requeued. -/
theorem State.resumeWave_cleared {s : State} {id : Nat} {w : Wave} (hw : tget s.waves id = some w) :
    ∃ v, tget (s.resumeWave id).waves id = some v ∧ v.status = .cleared ∧ v.regs = w.regs := by
  unfold State.resumeWave State.updWave
  rw [hw]
  exact ⟨_, tget_tset_same .., rfl, rfl⟩

theorem State.resumeWave_rest (s : State) (id : Nat) : (s.resumeWave id).mem = s.mem ∧ (s.resumeWave id).ops = s.ops := by
  rw [State.resumeWave, State.updWave_eq]
  exact ⟨rfl, rfl⟩

/-- WSET on a record that the world can act on. -/
theorem wsetRecordOp_done {i : Instr} {f : FmtX} {act : State → Nat → Wave → State} {s : State} {w x : Wave} {id : Nat}
    (hi : issues i s w = true) (hm : w.active i ≠ 0#32) (hfree : s.resetting w.selWorld = false)
    (hr : s.wsetRecord w.selWorld (w.src f.a 2 0) = some (id, x)) :
    wsetRecordOp i f act s = .next (((act s id x).resumeWave id).advance s.cur) := by
  unfold wsetRecordOp
  refine issue_done hi ?_
  rw [if_neg hm, if_neg (by rw [hfree]; exact Bool.false_ne_true), hr]

theorem State.restartOp_rest (s : State) (id : Nat) (w : Wave) : (s.restartOp id w).mem = s.mem ∧ (s.restartOp id w).waves = s.waves := by
  unfold State.restartOp
  split
  · split <;> exact ⟨rfl, rfl⟩
  · exact ⟨rfl, rfl⟩

/-! ### WSET.RESET -/

theorem State.posts_resetBegin (s : State) (k : Nat) : ((s.resetBegin k).world k).faultQ = [] ∧ ((s.resetBegin k).world k).reqRing = [] ∧
    ((s.resetBegin k).world k).keyGen = (s.world k).keyGen := by
  unfold State.resetBegin
  extract_lets u v x y
  have hu : s.Posts u := .foldl (f := fun s (e : Nat × Queue) => s.unbind e.1 (s.queue e.1)) (fun s e => State.posts_unbind s e.1 _) _ _
  have hy : y.world k = { x with faultQ := [], reqRing := [], toPost := [] } := by rw [State.world_putWorld, if_pos rfl]
  have hk : x = u.world k := rfl
  rw [(State.posts_killWhere y _).world k, hy]
  refine ⟨rfl, rfl, ?_⟩
  show x.keyGen = _
  rw [hk, hu.world k]

/-- What the end of a reset leaves of the world (R343, R393). -/
theorem State.resetEnd_world (s : State) (k : Nat) : (s.resetEnd k).world k =
    { s.world k with s1root := 0#64, ranges := [], keyGen := (s.world k).keyGen + 1, groupKeys := [], sendSlot := none, resetBy := none } := by
  unfold State.resetEnd
  dsimp only
  rw [State.world_putWorld, if_pos rfl]
  rfl

theorem State.resetEnd_caches (s : State) (k : Nat) : (∀ x ∈ (s.resetEnd k).cache, x.world ≠ k) ∧
    (∀ x ∈ (s.resetEnd k).xl.tlb, x.world ≠ k) ∧ ∀ l ∈ (s.resetEnd k).host.lds, ∀ h ∈ l.2.hdm, h.world ≠ k := by
  refine ⟨fun x hx => ?_, fun x hx => ?_, fun l hl h hh => ?_⟩
  · exact of_decide_eq_true (List.mem_filter.mp hx).2
  · have := (List.mem_filter.mp hx).2
    simpa using this
  · obtain ⟨e, _, rfl⟩ := List.mem_map.mp hl
    exact of_decide_eq_true (List.mem_filter.mp hh).2

/-! ### Halt reports -/

theorem State.KeepsPrivate.privBase_eq {s t : State} (h : s.KeepsPrivate t) : t.privBase = s.privBase := by
  unfold State.privBase State.dramBytes
  rw [h.1, h.2]

theorem State.recordAt_congr {s t : State} (hp : s.KeepsPrivate t) (hw : t.waves = s.waves) (a : Nat) : t.recordAt a = s.recordAt a := by
  have hr : t.recAddr 0 = s.recAddr 0 := by
    unfold State.recAddr
    rw [hp.privBase_eq]
  unfold State.recordAt
  rw [hr, hw]

theorem State.tierByte_congr {s t : State} (hx : t.worlds = s.worlds) (o : Nat) : t.tierByte o = s.tierByte o := by
  unfold State.tierByte
  rw [hx]

/-- The windows of the device's own region lie as the platform, the records of waves and the ranges of worlds say. -/
theorem State.windowAt_congr {s t : State} (hp : t.plat = s.plat) (hw : t.waves = s.waves) (hx : t.worlds = s.worlds) (a : Nat) :
    t.windowAt a = s.windowAt a := by
  have hk : s.KeepsPrivate t := ⟨by rw [hp], by rw [hp]⟩
  have ht : t.tierByte = s.tierByte := funext (State.tierByte_congr hx)
  unfold State.windowAt
  rw [hk.inPrivate_eq, State.recordAt_congr hk hw, hk.privBase_eq, ht]

theorem State.plainCells_congr {s t : State} (hp : t.plat = s.plat) (hw : t.waves = s.waves) (hx : t.worlds = s.worlds)
    (hr : t.rot = s.rot) (hm : t.mem = s.mem) (cells : List (Nat × Byte)) : t.plainCells cells = s.plainCells cells := by
  unfold State.plainCells State.mapCell
  simp only [State.windowAt_congr hp hw hx, hr, hm]

/-- Cells that all go to plain memory touch no window. -/
theorem State.windowsWrite_plain {s : State} {cells : List (Nat × Byte)} (h : s.plainCells cells = cells) : s.windowsWrite cells = s := by
  have hlen := congrArg List.length h
  rw [State.plainCells, List.length_map] at hlen
  have hall := List.filter_eq_self.mp (List.filter_sublist.eq_of_length hlen)
  have hnil : cells.filterMap (fun c => (s.windowAt c.1).map (fun w => (w, c.2))) = [] :=
    List.filterMap_eq_nil_iff.mpr fun c hc => by
      rw [Option.isNone_iff_eq_none.mp (hall c hc)]
      rfl
  unfold State.windowsWrite
  dsimp only
  rw [hnil]
  rfl

/-- The bytes that cells have put into the list of memory. -/
theorem State.cget_pokeCells (s : State) (world : Nat) (a : Nat) (bs : List Byte) (h : s.memOk = true) {i : Nat} (hi : i < bs.length) :
    cget (s.pokeCells world (cellsOf a bs)).mem (a + i) = bs[i] := by
  unfold State.pokeCells
  extract_lets u v
  have hu : u.memOk = true := by
    unfold State.memOk
    rw [(State.markFrames_same _ _).1]
    exact h
  have hv : v.memOk = true := foldl_keeps (fun s : State => s.memOk = true) _ _ _ hu fun t line ht => State.memOk_prepLine _ _ _ _ ht
  exact (cget_cells _ _ hv _).trans (laidOver_cellsOf _ _ _ _ hi)

theorem State.cget_storeCells (s : State) (die : Option Nat) (world : Nat) (who : Stamp) (a : Nat) (bs : List Byte)
    (h : s.memOk = true) {i : Nat} (hi : i < bs.length) : cget (s.storeCells die world who (cellsOf a bs)).mem (a + i) = bs[i] := by
  unfold State.storeCells
  extract_lets t
  exact State.cget_pokeCells _ _ _ _ (State.memOk_grants s die world who _ _ h) hi

/-- Bytes that a coherent write has laid down read back. -/
theorem State.peek_storeCells {s : State} (hs : s.memOk = true) (die : Option Nat) (world : Nat) (who : Stamp) {a : Nat} {bs : List Byte}
    (hk : paKind a = 0 → a + bs.length ≤ 2 ^ 50) : (s.storeCells die world who (cellsOf a bs)).peek a bs.length = bs := by
  unfold State.peek
  refine map_range_eq bs _ fun i hi => ?_
  by_cases h0 : paKind a = 0
  · have hki : paKind (a + i) = 0 := by
      have := hk h0
      unfold paKind at *
      omega
    have hb := State.byteAt_storeCells s die world who (cellsOf a bs) hs (a + i)
    rw [laidOver_cellsOf _ _ _ _ hi, State.byteAt, hki] at hb
    rw [h0]
    exact hb
  · rw [if_neg (fun h => h0 h.1), State.cget_storeCells _ _ _ _ _ _ hs hi]

/-- A supervisor's bytes that go to plain memory read back. -/
theorem State.peek_supWrite {s : State} (hs : s.memOk = true) (w : Wave) {a : Nat} {bs : List Byte}
    (hp : s.plainCells (cellsOf a bs) = cellsOf a bs) (hk : paKind a = 0 → a + bs.length ≤ 2 ^ 50) :
    (s.supWrite w a bs).peek a bs.length = bs ∧ (s.supWrite w a bs).waves = s.waves ∧ (s.supWrite w a bs).cores = s.cores := by
  obtain ⟨u, hu⟩ : ∃ u, u = s.dropTlb (s.mapStored (cellsOf a bs)) := ⟨_, rfl⟩
  have hpu : u.plainCells (cellsOf a bs) = cellsOf a bs := by
    rw [hu]
    exact (State.plainCells_congr (s := s) (t := s.dropTlb (s.mapStored (cellsOf a bs))) rfl rfl rfl rfl rfl _).trans hp
  have hms : u.memOk = true := by rw [hu]; exact hs
  have hsup : s.supWrite w a bs = u.storeCells (some (dieOf w.core)) w.world (s.stampOf w) (cellsOf a bs) := by
    unfold State.supWrite State.supCells
    rw [← hu, State.windowsWrite_plain hpu, hp]
  have ht := State.traffic_storeCells u (some (dieOf w.core)) w.world (s.stampOf w) (cellsOf a bs)
  rw [hsup]
  exact ⟨State.peek_storeCells hms _ _ _ hk, ht.waves_eq.trans (by rw [hu]; rfl), ht.cores_eq.trans (by rw [hu]; rfl)⟩

end Sys2Proof.Machine

namespace Sys2Proof.Machine

/-- HALTC.DRAIN and HALTC.IMM once the core is at rest. -/
theorem haltOp_done {i : Instr} {f : FmtX} {mode : HaltMode} {s : State} {w : Wave} (hi : issues i s w = true) (hm : w.active i ≠ 0#32)
    (ha : w.src f.a 2 0 % 64 = 0) (hc : s.coreHeld w.selCore = false) {u : State}
    (hu : u = s.putCore w.selCore { s.core w.selCore with halt := some mode, report := some (s.cur, w.src f.a 2 0), stepping := none })
    (hd : mode = .immediate ∨ u.drained w.selCore = true) :
    haltOp i f mode s = .next (((u.putCore w.selCore { u.core w.selCore with report := none }).supWrite w (w.src f.a 2 0)
      (u.haltReport w.selCore mode)).advance s.cur) := by
  unfold haltOp
  refine issue_done hi ?_
  dsimp only
  rw [if_neg hm, if_neg (by simp [ha]), if_neg (by rw [hc]; exact Bool.false_ne_true), ← hu, if_pos hd]

/-- An instruction that stays leaves its wave stalled. -/
theorem issue_stay {i : Instr} {s t : State} {w : Wave} {act : Wave → Mask → State → Act} (h : issues i s w = true)
    (ha : act w (w.active i) s = .stay t) : issue i s act = .next (t.stall s.cur) := by
  rw [issue_perform h, ha]
  rfl

theorem State.stepTarget_eq (s : State) (core a : Nat) : s.stepTarget core a = s.waves.find? (fun e =>
    decide (e.2.core = core) && !e.2.sup && decide (s.slotOf e.2 = a % 128) && decide (e.2.num = a / 128 % 64)) := by
  unfold State.stepTarget bits
  rw [Nat.pow_zero, Nat.div_one]
  rfl

end Sys2Proof.Machine

namespace Sys2Proof.Proofs

open Sys2Proof Sys2Proof.Machine

/-- A halted core with its report written. -/
theorem haltOp_reports {i : Instr} {f : FmtX} {mode : HaltMode} {s : State} {w : Wave} (hi : issues i s w = true) (hm : w.active i ≠ 0#32)
    (ha : w.src f.a 2 0 % 64 = 0) (hs : s.memOk = true) (hc : s.coreHeld w.selCore = false) {u : State} {r : List Byte}
    (hu : u = s.putCore w.selCore { s.core w.selCore with halt := some mode, report := some (s.cur, w.src f.a 2 0), stepping := none })
    (hr : r = u.haltReport w.selCore mode) (hd : mode = .drain → u.drained w.selCore = true)
    (hp : u.plainCells (cellsOf (w.src f.a 2 0) r) = cellsOf (w.src f.a 2 0) r)
    (hk : paKind (w.src f.a 2 0) = 0 → w.src f.a 2 0 + r.length ≤ 2 ^ 50) :
    ∃ t : State, haltOp i f mode s = .next (t.advance s.cur) ∧
      t.core w.selCore = { s.core w.selCore with halt := some mode, report := none, stepping := none } ∧
      t.waves = s.waves ∧ t.peek (w.src f.a 2 0) r.length = r := by
  obtain ⟨v, hv⟩ : ∃ v, v = u.putCore w.selCore { u.core w.selCore with report := none } := ⟨_, rfl⟩
  have hmode : mode = .immediate ∨ u.drained w.selCore = true := by
    cases mode with
    | drain => exact .inr (hd rfl)
    | immediate => exact .inl rfl
  have hpv : v.plainCells (cellsOf (w.src f.a 2 0) r) = cellsOf (w.src f.a 2 0) r := by
    rw [hv]
    exact (State.plainCells_congr (s := u) (t := u.putCore w.selCore { u.core w.selCore with report := none }) rfl rfl rfl rfl rfl _).trans hp
  obtain ⟨h1, h2, h3⟩ := State.peek_supWrite (s := v) (by rw [hv, hu]; exact hs) w hpv hk
  refine ⟨v.supWrite w (w.src f.a 2 0) r, ?_, ?_, ?_, h1⟩
  · rw [haltOp_done hi hm ha hc hu hmode, hv, hr]
  · refine (congrArg (fun x => tgetD x w.selCore CoreSt.init) h3).trans ?_
    rw [hv, State.putCore_cores, tgetD_tset_same, hu, State.core_putCore, if_pos rfl]
  · rw [h2, hv, hu]
    rfl

/-- Settles O50: each operation by the lemma of its family. -/
theorem supervisorOperations : Obligations.SupervisorOperations := by
  refine fun f s w => ⟨fun ⟨hi, hm⟩ hfree => ?_, fun ⟨hi, hm⟩ hfree => ?_, fun ⟨hi, hm⟩ hfree => ?_,
    fun i hin ⟨hi, hm⟩ hfree id x hr hne hx => ?_, fun ⟨hi, hm⟩ hfree => issue_done hi ?_, fun ⟨hi, hm⟩ hfree ht => ?_,
    fun ⟨hi, hm⟩ hfree ht => ?_, fun i hin ⟨hi, hm⟩ hfree ht => ?_, fun ⟨hi, hm⟩ hfree hempty => ?_,
    fun x hx ⟨hi, hm⟩ ha hs hc hd hp hk => ?_, fun ⟨hi, hm⟩ hc => issue_done hi ?_, fun ⟨hi, hm⟩ hc hh => ⟨fun hby hst hdr => ?_, fun hby id x hx => ?_⟩⟩
  · have hu := s.dropped_eq (hit := fun t => decide (t.world = w.selWorld)) (p := fun t => decide (t.world ≠ w.selWorld))
      (fun k => decide (k = w.selWorld)) fun t => decide_not
    refine ⟨_, hu, fun hsync => tlbiOp_done (world := fun w k => decide (k = w.selWorld)) (more := id) hi hm
      (fun e _ hw => of_decide_eq_true hw ▸ hfree) rfl hsync⟩
  · have hu := s.dropped_eq (hit := fun t => decide (t.world = w.selWorld) && decide (t.base ≤ w.src f.a 2 0) &&
        decide (w.src f.a 2 0 < t.base + t.size))
      (p := fun t => decide ¬(t.world = w.selWorld ∧ t.base ≤ w.src f.a 2 0 ∧ w.src f.a 2 0 < t.base + t.size))
      (fun k => decide (k = w.selWorld)) fun t => by simp only [decide_not, Bool.decide_and, Bool.and_assoc]
    refine ⟨_, hu, fun hsync => tlbiOp_done (world := fun w k => decide (k = w.selWorld)) (more := id) hi hm
      (fun e _ hw => of_decide_eq_true hw ▸ hfree) rfl hsync⟩
  · have hu := s.loadImports_dropped (hit := fun _ => true) (p := fun _ => false) (fun _ => true) fun _ => rfl
    exact ⟨_, hu, fun hsync => tlbiOp_done (world := fun _ _ => true) (more := State.loadImports) hi hm
      (fun e he _ => hfree e he) rfl hsync⟩
  · simp only [List.mem_cons, List.not_mem_nil, or_false] at hin
    obtain rfl | rfl | rfl := hin
    · obtain ⟨hmem, hops⟩ := s.resumeWave_rest id
      exact ⟨_, wsetRecordOp_done hi hm hfree hr, fun _ => hmem, State.resumeWave_cleared hx, fun _ => hops,
        fun key o r hfz => ⟨fun h => (by cases h), fun h => (by cases h)⟩⟩
    · obtain ⟨hmem, hops⟩ := (s.restartOp id x).resumeWave_rest id
      obtain ⟨hmem', hwaves⟩ := s.restartOp_rest id x
      refine ⟨_, wsetRecordOp_done hi hm hfree hr, fun _ => hmem.trans hmem', State.resumeWave_cleared (by rw [hwaves]; exact hx),
        fun h => (by cases h), fun key o r hfz => ⟨fun _ hrst => ?_, fun h => (by cases h)⟩⟩
      rw [hops, State.restartOp, hfz]
      dsimp only
      rw [if_pos hrst]
      exact tget_tset_same ..
    · obtain ⟨-, hops⟩ := (s.cancelOp id x).resumeWave_rest id
      obtain ⟨v, hv, hregs⟩ := (s.keepsRegs_cancelOp id x).wave id x hx
      obtain ⟨x', hx', hst, hregs'⟩ := State.resumeWave_cleared hv
      refine ⟨_, wsetRecordOp_done hi hm hfree hr, fun h => absurd rfl h, ⟨x', hx', hst, hregs'.trans hregs⟩,
        fun h => (by cases h), fun key o r hfz => ⟨fun h => (by cases h), fun _ => ?_⟩⟩
      rw [hops, State.cancelOp, hfz]
      exact tget_tset_same ..
  · dsimp only
    rw [if_neg hm, if_neg (by rw [hfree]; exact Bool.false_ne_true)]
    simp only [Bool.decide_and]
  · refine ⟨_, issue_done hi (t := s.putWorld w.selWorld { s.world w.selWorld with paused := true }) ?_, ⟨rfl, fun j hj => ?_⟩, ?_⟩
    · dsimp only
      rw [if_neg hm, if_neg (by rw [hfree]; exact Bool.false_ne_true), if_neg ht]
    · rw [State.world_putWorld, if_neg hj]
    · rw [State.world_putWorld, if_pos rfl]
  · refine ⟨_, issue_done hi (t := s.putWorld w.selWorld { s.world w.selWorld with paused := false }) ?_, ⟨rfl, fun j hj => ?_⟩, ?_⟩
    · dsimp only
      rw [if_neg hm, if_neg (by rw [hfree]; exact Bool.false_ne_true), if_neg ht]
    · rw [State.world_putWorld, if_neg hj]
    · rw [State.world_putWorld, if_pos rfl]
  · simp only [List.mem_cons, List.not_mem_nil, or_false] at hin
    obtain rfl | rfl := hin
    · refine (issue_raise hi (t := s) (r := w.mkRec cReserved stData (Mask.first (w.active (.wsetPause f)))) ?_ :
        execWsetPause f s = _).trans (by rw [tgetD_of_issues hi]; rfl)
      dsimp only
      rw [if_neg hm, if_neg (by rw [hfree]; exact Bool.false_ne_true), if_pos ht]
    · refine (issue_raise hi (t := s) (r := w.mkRec cReserved stData (Mask.first (w.active (.wsetUnpause f)))) ?_ :
        execWsetUnpause f s = _).trans (by rw [tgetD_of_issues hi]; rfl)
      dsimp only
      rw [if_neg hm, if_neg (by rw [hfree]; exact Bool.false_ne_true), if_pos ht]
  · obtain ⟨h1, h2, h3⟩ := s.posts_resetBegin w.selWorld
    obtain ⟨h4, h5, h6⟩ := (s.resetBegin w.selWorld).resetEnd_caches w.selWorld
    refine ⟨(s.resetBegin w.selWorld).resetEnd w.selWorld, issue_done hi ?_, ?_, ?_, ?_, ?_, ?_, h4, h5, h6⟩
    · dsimp only
      rw [if_neg hm, if_neg (by rw [hfree]; exact Bool.false_ne_true), if_pos hempty]
    · rw [State.resetEnd_world]
    · rw [State.resetEnd_world]
    · rw [State.resetEnd_world, h1]
    · rw [State.resetEnd_world, h2]
    · rw [State.resetEnd_world, h3]
  · simp only [List.mem_cons, List.not_mem_nil, or_false] at hx
    obtain rfl | rfl := hx
    · exact haltOp_reports hi hm ha hs hc rfl rfl hd hp hk
    · exact haltOp_reports hi hm ha hs hc rfl rfl hd hp hk
  · dsimp only
    rw [if_neg hm, if_neg (by rw [hc]; exact Bool.false_ne_true)]
  · refine issue_done hi ?_
    dsimp only
    rw [if_neg hm, if_neg (by rw [hc]; exact Bool.false_ne_true), if_neg (by rw [Option.isNone_eq_false_iff.mpr hh]; exact Bool.false_ne_true),
      if_pos hby, if_neg]
    rw [hst]
    by_cases hdrain : (s.core w.selCore).halt = some .drain
    · simp [hdr hdrain]
    · simp [hdrain]
  · have hwait : (s.core w.selCore).halt.isNone = false := Option.isNone_eq_false_iff.mpr hh
    refine ⟨fun hready => issue_stay hi ?_, fun hready => issue_done hi ?_⟩
    all_goals
      dsimp only
      rw [if_neg hm, if_neg (by rw [hc]; exact Bool.false_ne_true), if_neg (by rw [hwait]; exact Bool.false_ne_true),
        if_neg (by rw [hby]; exact nofun), State.stepTarget_eq, hx]
      dsimp only
    · exact if_pos hready
    · exact if_neg (by rw [hready]; exact Bool.false_ne_true)

end Sys2Proof.Proofs

/-! PROOFS. The engine commands (R146, R147, R291, R295, R302, R303, R316). -/

namespace Sys2Proof.Machine

/-! ### Counters -/

theorem getElem?_lset_same {α : Type} (t : List α) {n : Nat} (x : α) (h : n < t.length) : (lset t n x)[n]? = some x := by
  induction t generalizing n with
  | nil => cases h
  | cons a t ih =>
    cases n with
    | zero => rfl
    | succ n => exact ih (Nat.lt_of_succ_lt_succ h)

theorem getD_lset {t : List Nat} {c k x : Nat} (h : c < t.length) : (lset t c x).getD k 0 = if k = c then x else t.getD k 0 := by
  rw [List.getD_eq_getElem?_getD, List.getD_eq_getElem?_getD]
  split
  next hk => rw [hk, getElem?_lset_same t x h, Option.getD_some]
  next hk => rw [getElem?_lset_ne t x hk]

/-- A counter and a sequence number after operations have been counted. -/
theorem Wave.cntOf_count {w : Wave} {c : Nat} (k n : Nat) (h : c < w.cnt.length) :
    (w.count c n).cntOf k = if k = c then w.cntOf c + n else w.cntOf k := getD_lset h

theorem Wave.seqOf_count {w : Wave} {c : Nat} (k n : Nat) (h : c < w.seq.length) :
    (w.count c n).seqOf k = if k = c then (w.seqOf c + n) % 65536 else w.seqOf k := getD_lset h

/-! ### Issue -/

/-- One operation is issued: its place in the table, the count of its wave, and what stays. -/
theorem State.issueOp_some {s : State} {id : Nat} {w : Wave} (hw : tget s.waves id = some w) (o : EngOp) :
    let t := s.issueOp id o
    t.mem = s.mem ∧ t.nextId = s.nextId + 1 ∧ t.cur = s.cur ∧ t.waves = tset s.waves id (w.count o.cls 1) ∧
      t.ops = tset s.ops s.nextId { o with seq := w.seqOf o.cls } := by
  unfold State.issueOp
  rw [hw]
  dsimp only
  unfold State.holdRidge
  split
  · split <;> exact ⟨rfl, rfl, rfl, rfl, rfl⟩
  · exact ⟨rfl, rfl, rfl, rfl, rfl⟩

/-- Operations that are issued one after the other, of one class: `P` says of each what its number in sequence does not change. -/
theorem State.issueOps {α : Type} {id cls : Nat} {mk : State → α → EngOp} {P : α → EngOp → Prop}
    (hmk : ∀ (u : State) x, u.cur = id → (mk u x).cls = cls ∧ P x (mk u x)) (hP : ∀ x o n, P x o → P x { o with seq := n })
    (l : List α) (s : State) (w : Wave) (hid : s.cur = id) (hw : tget s.waves id = some w) (hc : cls < w.cnt.length)
    (hs : cls < w.seq.length) (hseq : w.seqOf cls < 65536) :
    let t := l.foldl (fun s x => s.issueOp s.cur (mk s x)) s
    t.mem = s.mem ∧ t.nextId = s.nextId + l.length ∧
      (∃ w', tget t.waves id = some w' ∧ w' = { w with cnt := w'.cnt, seq := w'.seq } ∧ w'.cntOf cls = w.cntOf cls + l.length ∧
        w'.seqOf cls = (w.seqOf cls + l.length) % 65536 ∧ ∀ c, c ≠ cls → w'.cntOf c = w.cntOf c ∧ w'.seqOf c = w.seqOf c) ∧
      (∀ k, k ≠ id → tget t.waves k = tget s.waves k) ∧ (∀ k, k < s.nextId → tget t.ops k = tget s.ops k) ∧
      ∀ j x, l[j]? = some x → ∃ o, tget t.ops (s.nextId + j) = some o ∧ o.cls = cls ∧ o.seq = (w.seqOf cls + j) % 65536 ∧ P x o := by
  induction l generalizing s w with
  | nil =>
    exact ⟨rfl, rfl, ⟨w, hw, rfl, rfl, (Nat.mod_eq_of_lt hseq).symm, fun _ _ => ⟨rfl, rfl⟩⟩, fun _ _ => rfl, fun _ _ => rfl,
      fun j x h => by cases h⟩
  | cons x l ih =>
    obtain ⟨hcls, hp⟩ := hmk s x hid
    obtain ⟨h1, h2, h3, h4, h5⟩ := State.issueOp_some hw (mk s x)
    dsimp only
    rw [List.foldl_cons, hid]
    rw [hcls] at h4
    rw [show w.seqOf (mk s x).cls = w.seqOf cls from by rw [hcls]] at h5
    have hw' : tget (s.issueOp id (mk s x)).waves id = some (w.count cls 1) := by rw [h4, tget_tset_same]
    have hlen (t : List Nat) (y : Nat) : cls < t.length → cls < (lset t cls y).length := fun h => by rwa [length_lset]
    have hseq' : (w.count cls 1).seqOf cls = (w.seqOf cls + 1) % 65536 := by rw [Wave.seqOf_count _ _ hs, if_pos rfl]
    obtain ⟨g1, g2, ⟨w', gw, grest, gcnt, gseq, gother⟩, g4, g5, g6⟩ := ih (s.issueOp id (mk s x)) (w.count cls 1) (h3.trans hid) hw'
      (hlen _ _ hc) (hlen _ _ hs) (by rw [hseq']; exact Nat.mod_lt _ (by decide))
    refine ⟨g1.trans h1, ?_, ⟨w', gw, ?_, ?_, ?_, fun c hne => ?_⟩, fun k hk => ?_, fun k hk => ?_, fun j y hj => ?_⟩
    · rw [g2, h2, List.length_cons]
      omega
    · rw [grest]
      rfl
    · rw [gcnt, Wave.cntOf_count _ _ hc, if_pos rfl, List.length_cons]
      omega
    · rw [gseq, hseq', List.length_cons, Nat.mod_add_mod]
      congr 1
      omega
    · rw [(gother c hne).1, (gother c hne).2, Wave.cntOf_count _ _ hc, if_neg hne, Wave.seqOf_count _ _ hs, if_neg hne]
      exact ⟨rfl, rfl⟩
    · rw [g4 k hk, h4, tget_tset_other _ _ _ _ hk]
    · rw [g5 k (by rw [h2]; omega), h5, tget_tset_other _ _ _ _ (Nat.ne_of_lt hk)]
    · cases j with
      | zero =>
        cases hj
        refine ⟨{ mk s x with seq := w.seqOf cls }, ?_, hcls, (Nat.mod_eq_of_lt hseq).symm, hP _ _ _ hp⟩
        rw [Nat.add_zero, g5 _ (by rw [h2]; omega), h5, tget_tset_same]
      | succ j =>
        obtain ⟨o, ho, hoc, hos, hop⟩ := g6 j y hj
        refine ⟨o, ?_, hoc, ?_, hop⟩
        · rw [← ho, h2, Nat.add_assoc, Nat.add_comm 1]
        · rw [hos, hseq', Nat.mod_add_mod]
          congr 1
          omega

/-- Naming an operation's records changes nothing else of it. -/
theorem State.nameAll_eq (s : State) (names : State → EngOp → List Byte → List Nat) (o : EngOp) :
    s.nameAll names o = { o with cairns := (s.nameAll names o).cairns } := by
  unfold State.nameAll
  split <;> rfl

end Sys2Proof.Machine

namespace Sys2Proof.Machine

/-! ### Blocks -/

/-- Lanes that all pass give a list. -/
theorem formLanes_of_exists {α : Type} {g : Nat → Except Cond α} {ls : List Nat} (h : ∀ l ∈ ls, ∃ b, g l = .ok b) :
    ∃ r, formLanes g ls = .ok r := by
  induction ls with
  | nil => exact ⟨[], rfl⟩
  | cons l ls ih =>
    obtain ⟨b, hb⟩ := h l List.mem_cons_self
    obtain ⟨r, hr⟩ := ih fun k hk => h k (List.mem_cons_of_mem l hk)
    exact ⟨(l, b) :: r, by rw [formLanes, hb, hr]⟩

/-- Each listed value is that of its lane. -/
theorem formLanes_value {α : Type} {g : Nat → Except Cond α} {ls : List Nat} {r : List (Nat × α)} (h : formLanes g ls = .ok r) :
    ∀ x ∈ r, g x.1 = .ok x.2 := by
  induction ls generalizing r with
  | nil =>
    cases h
    exact fun x hx => by cases hx
  | cons l ls ih =>
    unfold formLanes at h
    split at h
    · cases h
    next b hb =>
      split at h
      · cases h
      next r' hr' =>
        cases h
        intro x hx
        obtain rfl | hx := List.mem_cons.mp hx
        · exact hb
        · exact ih hr' x hx

/-- An operation as an E-format command begins it in a lane. -/
def engineBegin (w : Wave) (f : FmtE) (kind : OpKind) (cls len : Nat) (names : State → EngOp → List Byte → List Nat)
    (mk : Wave → State → EngOp → EngOp) (s : State) (x : Nat × DWord × List Byte) : EngOp :=
  mk w s (s.nameAll names { s.newOp s.cur w kind x.1 cls with
    blockAddr := x.2.1, blockLen := len, block := x.2.2
    state := if f.mode = 2#3 then .fetch else .check })

/-- An E-format command whose checks and waits are over. -/
theorem engineOp_done {i : Instr} {f : FmtE} {kind : OpKind} {cls len : Nat} {reads : Bool} {pre : Wave → Mask → State → Option FaultRec}
    {names : State → EngOp → List Byte → List Nat} {mk : Wave → State → EngOp → EngOp} {s s1 : State} {w w1 : Wave}
    (hi : issues i s w = true) (hm : w.active i ≠ 0#32) (hb : s.before s.cur w 0 0 = .go s1) (hw : tgetD s1.waves s.cur w = w1)
    {l : List (Nat × DWord × List Byte)} (hl : formLanes (s1.blockAt w1 f len) (Mask.lanes (w.active i)) = .ok l)
    (hpre : pre w1 (w.active i) s1 = none) (hbad : s1.blockBad w1 f l = none) (hroom : w1.room cls (Mask.count (w.active i)) = true)
    (hout : reads = true ∨ f.mode = 2#3 → w1.storesOut = true) (hd : s1.chipDue w1.core = false) :
    engineOp i f kind cls len reads pre names mk s =
      .next ((l.foldl (fun s x => s.issueOp s.cur (engineBegin w1 f kind cls len names mk s x)) s1).advance s.cur) := by
  unfold engineOp
  refine issue_done hi ?_
  dsimp only
  rw [if_neg hm, State.gated_of_before hb, hw, hl]
  dsimp only
  rw [hpre, hbad]
  dsimp only
  refine if_neg ?_
  rw [hroom, hd]
  have hwait : ((reads || decide (f.mode = 2#3)) && !w1.storesOut) = false := by
    cases hr : reads || decide (f.mode = 2#3) with
    | false => rfl
    | true =>
      rw [hout (by simpa using hr)]
      rfl
  rw [hwait]
  decide

/-- No store that a release orders is queued. -/
theorem Wave.storesOut_of_drained {w : Wave} (h : ∀ q ∈ w.storeQ, q.engine = true ∧ q.covered = false) : w.storesOut = true :=
  List.all_eq_true.mpr fun q hq => by
    obtain ⟨h1, h2⟩ := h q hq
    simp [QEntry.ordered, h1, h2]

/-- No block in `l:` holds a bad word. -/
theorem State.blockBad_none {s : State} {w : Wave} {f : FmtE} {l : List (Nat × DWord × List Byte)}
    (h : f.mode = 1#3 → ∀ x ∈ l, (s.core w.core).badAt 3 (s.lBase w + x.2.1.toNat) x.2.2.length = false) : s.blockBad w f l = none := by
  unfold State.blockBad
  split
  next hm =>
    rw [List.find?_eq_none.mpr fun x hx => by rw [h hm x hx]; exact Bool.false_ne_true]
    rfl
  · rfl

end Sys2Proof.Machine

namespace Sys2Proof.Proofs

open Sys2Proof Sys2Proof.Machine

/-- The instruction issues one operation for each active lane, in lane order, under the next sequence numbers of its class, and changes
nothing else of the waves and of memory. -/
def IssuesOps (i : Instr) (s s1 : State) (w w1 : Wave) (kind : OpKind) (cls : Nat) (op : Nat → EngOp → Prop) : Prop :=
  ∃ t : State, exec i s = .next (t.advance s.cur) ∧ t.mem = s1.mem ∧ t.nextId = s1.nextId + (Mask.lanes (w.active i)).length ∧
    (∃ w', tget t.waves s.cur = some w' ∧ w'.cntOf cls = w1.cntOf cls + (Mask.lanes (w.active i)).length ∧
      w'.seqOf cls = (w1.seqOf cls + (Mask.lanes (w.active i)).length) % 65536 ∧
      (∀ c, c ≠ cls → w'.cntOf c = w1.cntOf c ∧ w'.seqOf c = w1.seqOf c) ∧
      w'.regs = w1.regs ∧ w'.storeQ = w1.storeQ ∧ w'.loads = w1.loads) ∧
    (∀ k, k ≠ s.cur → tget t.waves k = tget s1.waves k) ∧
    ∀ j l, (Mask.lanes (w.active i))[j]? = some l → ∃ o : EngOp, tget t.ops (s1.nextId + j) = some o ∧ o.kind = kind ∧ o.wave = s.cur ∧
      o.wg = w1.wg ∧ o.core = w1.core ∧ o.world = w1.world ∧ o.cls = cls ∧ o.lane = l ∧ o.progress = 0 ∧
      o.seq = (w1.seqOf cls + j) % 65536 ∧ op l o

/-- An operation begun for a lane of a wave. -/
structure Begun (id : Nat) (w : Wave) (kind : OpKind) (cls lane : Nat) (o : EngOp) : Prop where
  kind : o.kind = kind
  wave : o.wave = id
  wg : o.wg = w.wg
  core : o.core = w.core
  world : o.world = w.world
  cls : o.cls = cls
  lane : o.lane = lane
  progress : o.progress = 0

/-- A fold of issues over the active lanes is what `IssuesOps` says. -/
theorem issuesOps_of_fold {i : Instr} {s s1 : State} {w w1 : Wave} {kind : OpKind} {cls : Nat} {op : Nat → EngOp → Prop} {α : Type}
    {mk : State → α → EngOp} {l : List α} {lane : α → Nat} (hx : exec i s = .next ((l.foldl (fun s x => s.issueOp s.cur (mk s x)) s1).advance s.cur))
    (hl : l.map lane = Mask.lanes (w.active i)) (hcur : s1.cur = s.cur) (hw : tget s1.waves s.cur = some w1) (hseq : w1.seq.length = 5)
    (hcnt : w1.cnt.length = 5) (hcls : cls < 5) (hlt : w1.seqOf cls < 65536)
    (hmk : ∀ (u : State) x, u.cur = s.cur → Begun s.cur w1 kind cls (lane x) (mk u x) ∧ (x ∈ l → op (lane x) (mk u x)))
    (hop : ∀ k o n, op k o → op k { o with seq := n }) : IssuesOps i s s1 w w1 kind cls op := by
  have hlen : (Mask.lanes (w.active i)).length = l.length := by rw [← hl, List.length_map]
  obtain ⟨h1, h2, ⟨w', gw, grest, gcnt, gseq, gother⟩, h4, -, h6⟩ := State.issueOps (id := s.cur) (cls := cls) (mk := mk)
    (P := fun x o => Begun s.cur w1 kind cls (lane x) o ∧ (x ∈ l → op (lane x) o)) (fun u x hu => ⟨(hmk u x hu).1.cls, hmk u x hu⟩)
    (fun x o n ⟨hb, ho⟩ => ⟨⟨hb.kind, hb.wave, hb.wg, hb.core, hb.world, hb.cls, hb.lane, hb.progress⟩, fun hm => hop _ _ _ (ho hm)⟩)
    l s1 w1 hcur hw (by omega) (by omega) hlt
  refine ⟨_, hx, h1, by rw [h2, hlen], ⟨w', gw, by rw [gcnt, hlen], by rw [gseq, hlen], gother, ?_, ?_, ?_⟩, h4, fun j k hj => ?_⟩
  · rw [grest]
  · rw [grest]
  · rw [grest]
  · rw [← hl, List.getElem?_map] at hj
    obtain ⟨x, hxj, rfl⟩ := Option.map_eq_some_iff.mp hj
    obtain ⟨o, ho, -, hs, hb, hp⟩ := h6 j x hxj
    exact ⟨o, ho, hb.kind, hb.wave, hb.wg, hb.core, hb.world, hb.cls, hb.lane, hb.progress, hs, hp (List.mem_of_getElem? hxj)⟩

/-- The block of an operation is that of its lane. -/
def HeldBlock (s : State) (w : Wave) (f : FmtE) (n l : Nat) (o : EngOp) : Prop :=
  s.blockAt w f n l = .ok (o.blockAddr, o.block) ∧ o.blockLen = n ∧ o.state = (if f.mode = 2#3 then .fetch else .check)

/-- A command that may go ahead: its wave issues it, and its counter has room. -/
structure Ahead (i : Instr) (cls : Nat) (s s1 : State) (w w1 : Wave) : Prop where
  issue : issues i s w = true
  active : w.active i ≠ 0#32
  before : s.before s.cur w 0 0 = .go s1
  wave : tget s1.waves s.cur = some w1
  waveD : tgetD s1.waves s.cur w = w1
  seqs : w1.seq.length = 5
  cnts : w1.cnt.length = 5
  small : ∀ c, w1.seqOf c < 65536
  room : w1.cntOf cls + (Mask.lanes (w.active i)).length ≤ 63
  chip : s1.chipDue w1.core = false

/-- An E-format command that may go ahead issues its operations. -/
theorem engineOp_issues {i : Instr} {f : FmtE} {kind : OpKind} {cls len : Nat} {reads : Bool} {pre : Wave → Mask → State → Option FaultRec}
    {names : State → EngOp → List Byte → List Nat} {mk : Wave → State → EngOp → EngOp} {s s1 : State} {w w1 : Wave}
    (he : exec i s = engineOp i f kind cls len reads pre names mk s) (ha : Ahead i cls s s1 w w1) (hcls : cls < 5)
    (hblock : ∀ l ∈ Mask.lanes (w.active i), ∃ b, s1.blockAt w1 f len l = .ok b ∧
      (f.mode = 1#3 → (s1.core w1.core).badAt 3 (s1.lBase w1 + b.1.toNat) b.2.length = false))
    (hpre : pre w1 (w.active i) s1 = none) (hdr : reads = true ∨ f.mode = 2#3 → ∀ q ∈ w1.storeQ, q.engine = true ∧ q.covered = false)
    (hmk : ∀ u o, mk w1 u o = { o with args := (mk w1 u o).args, dests := (mk w1 u o).dests }) :
    IssuesOps i s s1 w w1 kind cls (HeldBlock s1 w1 f len) := by
  obtain ⟨l, hl⟩ := formLanes_of_exists fun k hk => (hblock k hk).imp fun _ h => h.1
  have hval := formLanes_value hl
  have hlanes := map_fst_of_formLanes hl
  have hbad : s1.blockBad w1 f l = none := State.blockBad_none fun hm x hx => by
    obtain ⟨b, hb, hbad⟩ := hblock x.1 (hlanes ▸ List.mem_map_of_mem hx)
    cases hb.symm.trans (hval x hx)
    exact hbad hm
  refine issuesOps_of_fold (he.trans (engineOp_done ha.issue ha.active ha.before ha.waveD hl hpre hbad (decide_eq_true ha.room)
    (fun h => Wave.storesOut_of_drained (hdr h)) ha.chip)) hlanes (State.waited_before ha.before).cur_eq ha.wave ha.seqs ha.cnts hcls
    (ha.small cls) (fun u x hu => ?_) fun k o n h => h
  unfold engineBegin
  rw [hmk, State.nameAll_eq]
  exact ⟨⟨rfl, hu, rfl, rfl, rfl, rfl, rfl, rfl⟩, fun hx => ⟨hval x hx, rfl, rfl⟩⟩

/-- The operation that MZERO begins in a lane (R303). -/
def mzeroBegin (w : Wave) (g : FmtA3) (s : State) (l : Nat) : EngOp :=
  { s.newOp s.cur w .mzero l 1 with
    args := [w.src g.a 1 l, w.src g.b 1 l, w.src g.c 1 l]
    cairns := [w.src g.a 1 l].filter ((s.core w.core).held (s.slotOf w)) }

/-- Settles O45: each E-format command by `engineOp_issues`, MZERO by the same fold over its lanes. -/
theorem engineCommands : Obligations.EngineCommands := by
  intro f g s w s1
  have ahead {i : Instr} {cls : Nat} (h : issues i s w = true ∧ w.active i ≠ 0#32 ∧ s.before s.cur w 0 0 = .go s1 ∧
      (∃ w', tget s1.waves s.cur = some w') ∧ (tgetD s1.waves s.cur w).seq.length = 5 ∧ (tgetD s1.waves s.cur w).cnt.length = 5 ∧
      (∀ c, (tgetD s1.waves s.cur w).seqOf c < 65536) ∧ (tgetD s1.waves s.cur w).cntOf cls + (Mask.lanes (w.active i)).length ≤ 63 ∧
      s1.chipDue (tgetD s1.waves s.cur w).core = false) : Ahead i cls s s1 w (tgetD s1.waves s.cur w) := by
    obtain ⟨hi, hm, hb, ⟨w', hw'⟩, hs, hc, hlt, hr, hd⟩ := h
    exact ⟨hi, hm, hb, by rw [tgetD, hw']; rfl, rfl, hs, hc, hlt, hr, hd⟩
  refine ⟨fun h hb hdr htok => ?_, fun h => ?_, fun h hb hdr => ?_, fun h hb hdr => ?_, fun h hb hdr => ?_, fun h hb hdr => ?_,
    fun h hb hdr => ?_, fun h hb hdr hr => ?_, fun n l r hm hp => ?_⟩
  · refine engineOp_issues (rfl : _ = execMma f s) (ahead h) (by decide) hb ?_ (fun hr => hdr (hr.resolve_left (by decide))) fun _ _ => rfl
    unfold tokenCheck
    split
    next t ht => exact if_neg fun ⟨h1, h2, h3⟩ => h3 (htok t ht h1 h2)
    · rfl
  · have ha := ahead h
    refine issuesOps_of_fold (mk := mzeroBegin (tgetD s1.waves s.cur w) g) (l := Mask.lanes (w.active (.mzero g))) (lane := id) ?_ (List.map_id _)
      (State.waited_before ha.before).cur_eq ha.wave ha.seqs ha.cnts (by decide) (ha.small 1)
      (fun u x hu => ⟨⟨rfl, hu, rfl, rfl, rfl, rfl, rfl, rfl⟩, fun _ => ⟨rfl, rfl⟩⟩) fun k o n h => h
    refine issue_done ha.issue ?_
    dsimp only
    have hroom : (tgetD s1.waves s.cur w).room 1 (Mask.count (w.active (.mzero g))) = true := decide_eq_true ha.room
    rw [if_neg ha.active, State.gated_of_before ha.before, ha.chip, hroom]
    rfl
  · exact engineOp_issues (rfl : _ = execMdrain f s) (ahead h) (by decide) hb rfl (fun hr => hdr (hr.resolve_left (by decide))) fun _ _ => rfl
  · exact engineOp_issues (rfl : _ = execDpload f s) (ahead h) (by decide) hb rfl (fun hr => hdr (hr.resolve_left (by decide))) fun _ _ => rfl
  · refine engineOp_issues (rfl : _ = execXcopy f s) (ahead h) (by decide) hb rfl (fun _ => hdr) fun u o => ?_
    unfold State.takeDests
    split <;> rfl
  · exact engineOp_issues (rfl : _ = execXgather f s) (ahead h) (by decide) hb rfl (fun _ => hdr) fun _ _ => rfl
  · exact engineOp_issues (rfl : _ = execXlevel f s) (ahead h) (by decide) hb rfl (fun _ => hdr) fun _ _ => rfl
  · obtain ⟨r, hr⟩ := hr
    refine engineOp_issues (rfl : _ = execRbegin f s) (ahead h) (by decide) hb ?_ (fun _ => hdr) fun _ _ => rfl
    rw [hr]
  · unfold State.blockAt
    rw [if_pos hm, hp]

end Sys2Proof.Proofs

/-! PROOFS. The care of DRAM and of power (R107, R108, R110, R390, R397 to R399, R401, R402). -/

namespace Sys2Proof.Machine

/-! ### RAS records -/

/-- A RAS record changes nothing of the platform but the log. -/
theorem State.ras_plat (s : State) (type unit loc addr : Nat) : (s.ras type unit loc addr).plat =
    { s.plat with ras := (s.ras type unit loc addr).plat.ras, rasNext := (s.ras type unit loc addr).plat.rasNext } := by
  unfold State.ras
  extract_lets
  split <;> rfl

theorem State.stackAt_ras (s : State) (type unit loc addr k : Nat) : (s.ras type unit loc addr).stackAt k = s.stackAt k := by
  unfold State.stackAt
  rw [State.ras_plat]

theorem State.side_ras (s : State) (type unit loc addr : Nat) : (s.ras type unit loc addr).side = s.side := by
  rw [State.ras_eq]

theorem State.core_ras (s : State) (type unit loc addr k : Nat) : (s.ras type unit loc addr).core k = s.core k := by
  rw [State.ras_eq]
  rfl

theorem State.worlds_ras (s : State) (type unit loc addr : Nat) : (s.ras type unit loc addr).worlds = s.worlds := by
  rw [State.ras_eq]

theorem State.throttled_ras (s : State) (type unit loc addr : Nat) :
    (s.ras type unit loc addr).plat.throttled = s.plat.throttled := by
  rw [State.ras_plat]

/-- A record of the type, unit and place stands in the log afterwards, one of its own or one that it has joined. -/
theorem State.ras_logged (s : State) (type unit loc addr : Nat) :
    ∃ n r, tget (s.ras type unit loc addr).plat.ras n = some r ∧ r.type = type ∧ r.unit = unit ∧ r.loc = loc := by
  unfold State.ras
  extract_lets n same
  split
  · rename_i e he
    have hsame : same e.2 = true := by
      split at he
      · have hfound := List.find?_some he
        exact hfound
      · cases he
    simp only [same, Bool.and_eq_true, decide_eq_true_eq] at hsame
    obtain ⟨⟨⟨htype, hunit⟩, hloc⟩, _⟩ := hsame
    exact ⟨e.1, _, tget_tset_same .., htype, hunit, hloc⟩
  · exact ⟨_, _, tget_tset_same .., rfl, rfl, rfl⟩

/-! ### Layers and scrubbing -/

theorem State.stackAt_putStack (s : State) (k : Nat) (x : Stack) : (s.putStack k x).stackAt k = x := tgetD_tset_same ..

/-- Every entry of a table that meets a test is rewritten. -/
theorem State.side_rebuilt (s : State) (stack layer n : Nat) (x : Side) (h : tget s.side n = some x)
    (hin : s.inLayer stack layer n = true) :
    tget (s.side.map fun (e : Nat × Side) =>
      if s.inLayer stack layer e.1 then (e.1, { e.2 with errs := 0, pz := e.2.pz || decide (e.2.errs = 2) }) else e) n =
      some { x with errs := 0, pz := x.pz || decide (x.errs = 2) } := by
  rw [tget_map_ite (fun e : Nat × Side => s.inLayer stack layer e.1)
    (fun x => { x with errs := 0, pz := x.pz || decide (x.errs = 2) }), h]
  simp [hin]

theorem State.request_side (s : State) (pa : Nat) (who : Stamp) (write : Bool) : (s.request pa who write).side = s.side := by
  unfold State.request
  split <;> rfl

theorem State.request_arg (s : State) (pa : Nat) (who : Stamp) (write : Bool) : (s.request pa who write).arg = s.arg := by
  unfold State.request
  split <;> rfl

/-- A corrected error leaves no error class on its line. -/
theorem State.corrected_errs (s : State) (line : Nat) (h : (s.sideAt line).errs ≤ 1) (hsp : (s.sideAt line).sp = false) :
    ((s.corrected line).sideAt line).errs = 0 := by
  unfold State.corrected
  dsimp only
  by_cases he : (s.sideAt line).errs = 1
  · rw [if_pos ⟨he, hsp⟩]
    simp
  · rw [if_neg fun hh => he hh.1]
    omega

/-- Spoiled words stand in the list that a hard error makes. -/
theorem mem_spoiled (place y : Nat) (ys : List Nat) (l : List (Nat × Nat)) (h : y ∈ ys ∨ (place, y) ∈ l) :
    (place, y) ∈ ys.foldl (fun l y => if l.contains (place, y) then l else (place, y) :: l) l := by
  induction ys generalizing l with
  | nil => exact h.resolve_left (List.not_mem_nil)
  | cons z ys ih =>
    refine ih _ ?_
    obtain h | h := h
    · obtain rfl | h := List.mem_cons.1 h
      · right
        dsimp only
        split
        · rename_i hmem; simpa using hmem
        · exact List.mem_cons_self
      · exact .inl h
    · right
      dsimp only
      split
      · exact h
      · exact List.mem_cons_of_mem _ h

end Sys2Proof.Machine

namespace Sys2Proof.Proofs
open Sys2Proof Sys2Proof.Machine

/-! ### O59 -/

/-- A condemned layer of a whole stack retires, and its rebuild on the spare begins. -/
theorem layerRetire_retires (s : State) (hk : s.arg.a < 8) (hb : s.arg.b < 16) (hout : (s.stackAt s.arg.a).out = false)
    (hret : (s.stackAt s.arg.a).retired = []) (hbad : s.condemned s.arg.a s.arg.b = true) :
    ∃ t, exec .layerRetire s = .next t ∧ t.mem = s.mem ∧
      t.stackAt s.arg.a = { s.stackAt s.arg.a with retired := [s.arg.b], rebuild := some s.arg.b } ∧
      ∃ n r, tget t.plat.ras n = some r ∧ r.type = 3 ∧ r.unit = s.arg.a ∧ r.loc = s.arg.b := by
  refine ⟨_, congrArg Host.Outcome.next (if_neg ?_), ?_, ?_, State.ras_logged ..⟩
  · rintro (h | h | h | h | h)
    · omega
    · omega
    · rw [hout] at h; cases h
    · exact h hret
    · rw [hbad] at h; cases h
  · rw [State.ras_mem]; rfl
  · rw [State.stackAt_ras, State.stackAt_putStack]

/-- The rebuilt layer is in service, and the sectors that ECC could not correct are poisoned on it. -/
theorem layerRebuildDone_switches (s : State) (l : Nat) (hl : (s.stackAt s.arg.a).rebuild = some l) :
    ∃ t, exec .layerRebuildDone s = .next t ∧ t.mem = s.mem ∧ t.stackAt s.arg.a = { s.stackAt s.arg.a with rebuild := none } ∧
      ∀ n x, tget s.side n = some x → s.inLayer s.arg.a l n = true →
        tget t.side n = some { x with errs := 0, pz := x.pz || decide (x.errs = 2) } := by
  have hrun : ∃ t, execLayerRebuildDone s = .next t ∧ t = (({ s with side := s.side.map (fun (e : Nat × Side) =>
      if s.inLayer s.arg.a l e.1 then (e.1, { e.2 with errs := 0, pz := e.2.pz || decide (e.2.errs = 2) }) else e) }.handled
        s.arg.a l).putStack s.arg.a { s.stackAt s.arg.a with rebuild := none }).ras 4 s.arg.a l 0 := by
    unfold execLayerRebuildDone
    dsimp only
    rw [hl]
    exact ⟨_, rfl, rfl⟩
  obtain ⟨t, hrun, rfl⟩ := hrun
  refine ⟨_, hrun, ?_, ?_, fun n x hx hin => ?_⟩
  · rw [State.ras_mem]; rfl
  · rw [State.stackAt_ras, State.stackAt_putStack]
  · rw [State.side_ras]
    exact State.side_rebuilt s _ l n x hx hin

/-- A second layer that is condemned stays in service, and is on record. -/
theorem secondLayerFailure_stays (s : State) (hret : (s.stackAt s.arg.a).retired ≠ [])
    (hreb : (s.stackAt s.arg.a).rebuild ≠ some s.arg.b) (hb : s.arg.b < 16) (hbad : s.condemned s.arg.a s.arg.b = true) :
    ∃ t, exec .secondLayerFailure s = .next t ∧ t.mem = s.mem ∧ s.arg.b ∈ (t.stackAt s.arg.a).retired ∧
      (t.stackAt s.arg.a).rebuild = (s.stackAt s.arg.a).rebuild := by
  refine ⟨_, congrArg Host.Outcome.next (if_neg ?_), ?_, ?_, ?_⟩
  · rintro (h | h | h | h)
    · exact hret h
    · exact hreb h
    · omega
    · rw [hbad] at h; cases h
  · rw [State.ras_mem]; rfl
  · rw [State.stackAt_ras, State.stackAt_putStack]
    exact mem_dedupN.mpr (by simp)
  · rw [State.stackAt_ras, State.stackAt_putStack]

/-- A scrub-pending line becomes zeros. -/
theorem scrubLine_zeros (s : State) (hsp : (s.sideAt s.arg.a).sp = true) :
    ∃ t, exec .scrubLine s = .next t ∧ (t.sideAt s.arg.a).sp = false ∧ (t.sideAt s.arg.a).pz = false ∧
      (∀ i, i < 64 → cget t.mem (s.arg.a * 64 + i) = 0#8) ∧ ∀ x, x / 64 ≠ s.arg.a → cget t.mem x = cget s.mem x := by
  refine ⟨_, congrArg Host.Outcome.next (if_neg (by rw [hsp]; decide)), ?_, ?_, fun i hi => ?_, fun x hx => ?_⟩
  · rw [State.sideAt_putSide, if_pos rfl]; rfl
  · rw [State.sideAt_putSide, if_pos rfl]; rfl
  · exact (cget_czero ..).trans (if_pos (by omega))
  · exact (cget_czero ..).trans (if_neg (by omega))

/-- The line after the patrol scrubber's read, as the ECC class that it has shown leaves it. -/
def patrolled (s : State) : State :=
  let x := s.sideAt s.arg.a
  (s.request (s.arg.a * 64) { cls := 3, core := Config.cores, index := 9, deadline := none } false).putSide s.arg.a
    { x with errs := max x.errs (min s.arg.b 2), macBad := x.macBad || s.arg.flag }

theorem patrolled_mem (s : State) : (patrolled s).mem = s.mem := by
  unfold patrolled
  dsimp only
  rw [State.putSide_mem, State.request_mem]

theorem patrolled_arg (s : State) : (patrolled s).arg = s.arg := by
  unfold patrolled
  dsimp only
  rw [State.putSide_arg, State.request_arg]

theorem patrolled_sideAt (s : State) : (patrolled s).sideAt s.arg.a = { s.sideAt s.arg.a with
    errs := max (s.sideAt s.arg.a).errs (min s.arg.b 2), macBad := (s.sideAt s.arg.a).macBad || s.arg.flag } := by
  unfold patrolled
  dsimp only
  rw [State.sideAt_putSide, if_pos rfl]

theorem patrolScrub_line (s : State) (hsp : (s.sideAt s.arg.a).sp = false) (hk : s.arg.a < 8 * 2 ^ 30) (hn : s.arg.nums = []) :
    exec .patrolScrub s = .next (if ((patrolled s).sideAt s.arg.a).errs = 2
      then ((patrolled s).rasLine 2 s.arg.a).condemn ((patrolled s).lineLayer s.arg.a)
      else if (s.sideAt s.arg.a).pz then patrolled s else (patrolled s).corrected s.arg.a) := by
  show execPatrolScrub s = _
  unfold execPatrolScrub
  rw [hn]
  refine congrArg Host.Outcome.next ((if_neg ?_).trans ?_)
  · rintro (h | h)
    · rw [hsp] at h; cases h
    · omega
  · show (if ((patrolled s).sideAt (patrolled s).arg.a).errs = 2
        then ((patrolled s).rasLine 2 (patrolled s).arg.a).condemn ((patrolled s).lineLayer (patrolled s).arg.a)
        else if (s.sideAt s.arg.a).pz then patrolled s else (patrolled s).corrected (patrolled s).arg.a) = _
    rw [patrolled_arg]

/-- The patrol scrubber corrects what ECC can correct of a line, and leaves a poisoned line as it is. -/
theorem patrolScrub_reads (s : State) (hsp : (s.sideAt s.arg.a).sp = false) (hk : s.arg.a < 8 * 2 ^ 30) (hn : s.arg.nums = []) :
    ∃ t, exec .patrolScrub s = .next t ∧ t.mem = s.mem ∧
      (s.arg.b = 2 → (s.sideAt s.arg.a).errs ≤ 2 → (t.sideAt s.arg.a).errs = 2) ∧
      (s.arg.b ≤ 1 → (s.sideAt s.arg.a).errs ≤ 1 → (s.sideAt s.arg.a).pz = false → (t.sideAt s.arg.a).errs = 0) ∧
      (s.arg.b ≤ 1 → (s.sideAt s.arg.a).errs ≤ 1 → (s.sideAt s.arg.a).pz = true →
        (t.sideAt s.arg.a).pz = true ∧ (t.sideAt s.arg.a).errs = max (s.sideAt s.arg.a).errs s.arg.b) := by
  have hside := patrolled_sideAt s
  have herrs : ((patrolled s).sideAt s.arg.a).errs = max (s.sideAt s.arg.a).errs (min s.arg.b 2) := by rw [hside]
  have hspt : ((patrolled s).sideAt s.arg.a).sp = false := by rw [hside]; exact hsp
  refine ⟨_, patrolScrub_line s hsp hk hn, ?_, fun hb he => ?_, fun hb he hp => ?_, fun hb he hp => ?_⟩
  · split
    · rw [State.condemn_mem, State.rasLine_mem, patrolled_mem]
    · split
      · exact patrolled_mem s
      · rw [State.corrected_mem, patrolled_mem]
  · rw [if_pos (by omega), State.sideAt_condemn, State.sideAt_rasLine]
    omega
  · rw [if_neg (by omega), if_neg (by rw [hp]; exact Bool.false_ne_true)]
    exact State.corrected_errs _ _ (by omega) hspt
  · rw [if_neg (by omega), if_pos hp]
    exact ⟨by rw [hside]; exact hp, by omega⟩

/-- An error in the SRAM of a core spoils the words that ECC cannot correct, and is on record. -/
theorem patrolScrub_sram (s : State) (place n : Nat) (ys : List Nat) (hn : s.arg.nums = place :: n :: ys) (hp : place < 4)
    (hc : n < 320) (hb : s.arg.b = 1 ∨ s.arg.b = 2) :
    ∃ t, exec .patrolScrub s = .next t ∧ t.mem = s.mem ∧ (s.arg.b = 2 → ∀ y ∈ ys, (place, y) ∈ (t.core n).badWords) ∧
      (s.arg.b = 1 → (t.core n).badWords = (s.core n).badWords) ∧
      ∃ m r, tget t.plat.ras m = some r ∧ r.type = (if s.arg.b = 2 then 7 else 6) ∧ r.unit = dieOf n ∧ r.loc = n := by
  have hrun : exec .patrolScrub s = .next (s.sramError place n ys (decide (2 ≤ s.arg.b))) := by
    show execPatrolScrub s = _
    unfold execPatrolScrub
    rw [hn]
    exact congrArg Host.Outcome.next (if_neg (by omega))
  have hcore : ¬ Config.cores ≤ n := by rw [show Config.cores = 320 from rfl]; omega
  refine ⟨_, hrun, ?_⟩
  unfold State.sramError
  simp only [if_pos hp, if_neg hcore, State.ras_mem, State.core_ras]
  refine ⟨rfl, fun h2 y hy => ?_, fun h1 => ?_, ?_⟩
  · rw [State.core_putCore, if_pos rfl, if_pos (by rw [h2]; rfl)]
    exact mem_spoiled place y ys _ (.inl hy)
  · rw [State.core_putCore, if_pos rfl, if_neg (by rw [h1]; decide)]
  · rw [show (if s.arg.b = 2 then 7 else 6) = if decide (2 ≤ s.arg.b) = true then 7 else 6 by
      obtain h | h := hb <;> rw [h] <;> rfl]
    exact State.ras_logged ..

/-- A quiet stack enters self-refresh. -/
theorem stackSelfRefresh_enters (s : State) (hk : s.arg.a < 8) (hout : (s.stackAt s.arg.a).out = false)
    (hself : (s.stackAt s.arg.a).selfRefresh = false)
    (hquiet : ∀ i ch, i < 96 → tget s.plat.chans (96 * s.arg.a + i) = some ch → ch.pending = [])
    (hlast : (s.stackAt s.arg.a).lastReq + 1100000 ≤ s.clock.toNat) :
    exec .stackSelfRefresh s = .next (s.putStack s.arg.a { s.stackAt s.arg.a with selfRefresh := true }) := by
  refine congrArg Host.Outcome.next (if_neg ?_)
  rintro (h | h | h | h | h)
  · omega
  · rw [hout] at h; cases h
  · rw [hself] at h; cases h
  · rw [Bool.not_eq_true', ← Bool.not_eq_true] at h
    refine h (List.all_eq_true.mpr fun i hi => ?_)
    split
    · rename_i c hc
      rw [hquiet i c (List.mem_range.mp hi) hc]; rfl
    · rfl
  · omega

/-! ### Temperature and power -/

/-- A die that has reached its limits is throttled, and so is every protected world with work on it. -/
theorem thermalTrip_trips (s : State) (h : s.plat.ttrip ≤ s.arg.b ∨ 2600 ≤ s.arg.c) :
    ∃ t, exec .thermalTrip s = .next t ∧ s.arg.a ∈ t.plat.throttled ∧ t.mem = s.mem ∧
      ∀ n x, tget s.worlds n = some x → ∃ x', tget t.worlds n = some x' ∧
        (x.protected = true → s.worksOn n s.arg.a = true → s.arg.a ∈ x'.tripped) ∧ (x.protected = false → x' = x) := by
  refine ⟨_, congrArg Host.Outcome.next (if_neg ?_), ?_, ?_, fun n x hx => ?_⟩
  · rintro ⟨hb, hc⟩
    obtain h | h := h
    · exact absurd h (Nat.not_le.mpr hb)
    · exact absurd h (Nat.not_le.mpr hc)
  · rw [State.throttled_ras]
    exact mem_dedupN.mpr (by simp)
  · rw [State.ras_mem]; rfl
  · rw [State.worlds_ras]
    refine ⟨_, (tget_map_ite (fun e : Nat × World => e.2.protected && s.worksOn e.1 s.arg.a)
      (fun x => { x with tripped := dedupN (x.tripped ++ [s.arg.a]) }) s.worlds n).trans (by rw [hx]; rfl), fun hp hw => ?_, fun hp => ?_⟩
    · dsimp only
      rw [hp, hw, Bool.and_self, if_pos rfl]
      exact mem_dedupN.mpr (by simp)
    · dsimp only
      rw [hp, Bool.false_and, if_neg Bool.false_ne_true]

/-- A die that has cooled down is released. -/
theorem thermalRelease_releases (s : State) (hb : s.arg.b ≤ s.plat.trel) (hc : s.arg.c < 2500) :
    ∃ t, exec .thermalRelease s = .next t ∧ s.arg.a ∉ t.plat.throttled ∧ t.mem = s.mem ∧
      ∀ e ∈ t.worlds, s.arg.a ∉ e.2.tripped := by
  refine ⟨_, congrArg Host.Outcome.next (if_neg ?_), ?_, rfl, fun e he => ?_⟩
  · rintro (h | h)
    · exact absurd hb (Nat.not_le.mpr h)
    · exact absurd hc (Nat.not_lt.mpr h)
  · simp
  · obtain ⟨e0, _, rfl⟩ := List.mem_map.mp he
    simp

/-- Sensors that show neither change no more than what they show. -/
theorem thermal_keeps (s : State) : ∀ i ∈ ([.thermalTrip, .thermalRelease] : List Instr),
    (if i = .thermalTrip then s.arg.b < s.plat.ttrip ∧ s.arg.c < 2600 else s.plat.trel < s.arg.b ∨ 2500 ≤ s.arg.c) →
    ∃ t, exec i s = .next t ∧ t.worlds = s.worlds ∧ t.plat.throttled = s.plat.throttled ∧ t.mem = s.mem := by
  intro i hi h
  obtain rfl | hi := List.mem_cons.mp hi
  · rw [if_pos rfl] at h
    exact ⟨_, congrArg Host.Outcome.next (if_pos h), rfl, rfl, rfl⟩
  · obtain rfl := List.mem_singleton.mp hi
    rw [if_neg (by intro h; cases h)] at h
    exact ⟨_, congrArg Host.Outcome.next (if_pos h), rfl, rfl, rfl⟩

/-- A core that has been idle long enough takes the deeper state. -/
theorem gate_deepens (s : State) (core n : Nat) (p : CorePower) (hk : core < 320) (hidle : s.coreIdle core = true)
    (hon : (s.core core).power ≠ .powerGated) (hlast : (s.core core).lastWork + n ≤ s.clock.toNat) :
    s.gate core n p = s.putCore core { s.core core with power := p, waking := none } :=
  if_pos ⟨hk, hidle, hlast, hon⟩

/-- A power-gated core begins to wake, and is on 2,048 clk later. -/
theorem coreWake_wakes (s : State) (hp : (s.core s.arg.a).power = .powerGated) :
    ((s.core s.arg.a).waking = none →
      exec .coreWake s = .next (s.putCore s.arg.a { s.core s.arg.a with waking := some s.clock.toNat })) ∧
    (∀ t0, (s.core s.arg.a).waking = some t0 → exec .coreWake s = .next (if s.clock.toNat < t0 + 2048 then s
      else s.putCore s.arg.a { s.core s.arg.a with power := .on, waking := none, lastWork := s.clock.toNat })) := by
  refine ⟨fun h => ?_, fun t0 h => ?_⟩
  · show execCoreWake s = _
    unfold execCoreWake
    dsimp only
    rw [if_neg (not_not.mpr hp), h]
  · show execCoreWake s = _
    unfold execCoreWake
    dsimp only
    rw [if_neg (not_not.mpr hp), h]

/-- Settles O59. Each clause is the branch of its event that the premises choose. -/
theorem careEvents : Obligations.CareEvents := by
  unfold Obligations.CareEvents
  intro s
  exact ⟨layerRetire_retires s, layerRebuildDone_switches s, secondLayerFailure_stays s, scrubLine_zeros s,
    patrolScrub_reads s, patrolScrub_sram s, stackSelfRefresh_enters s, fun h => congrArg Host.Outcome.next (if_pos h),
    thermalTrip_trips s, fun h => thermalRelease_releases s h, thermal_keeps s,
    fun hk hidle hon => ⟨fun h => congrArg Host.Outcome.next (gate_deepens s _ _ _ hk hidle hon h),
      fun h => congrArg Host.Outcome.next (gate_deepens s _ _ _ hk hidle hon h)⟩,
    coreWake_wakes s⟩

end Sys2Proof.Proofs

/-! PROOFS. Boot, bring-up parameters and the life of a protected world (R385, R388, R389, R391, R393 to R397). -/

namespace Sys2Proof.Machine

/-! ### Fuses -/

/-- A pair lies below the anti-rollback counter where it, or a pair above it, has a blown bit. -/
theorem lt_counterOf (p : Platform) (i : Nat) :
    i < counterOf p ↔ ∃ j, i ≤ j ∧ j < 64 ∧ (p.fuseBit ||| p.fuseConfirm).getLsbD j = true := by
  have hmem (j : Nat) : j ∈ (List.range 64).filter (fun i => p.fuseBit.getLsbD i || p.fuseConfirm.getLsbD i) ↔
      j < 64 ∧ (p.fuseBit ||| p.fuseConfirm).getLsbD j = true := by
    rw [List.mem_filter, List.mem_range, BitVec.getLsbD_or]
  have hsorted : ((List.range 64).filter (fun i => p.fuseBit.getLsbD i || p.fuseConfirm.getLsbD i)).Pairwise (· < ·) :=
    List.Pairwise.sublist List.filter_sublist List.pairwise_lt_range
  unfold counterOf
  split
  · rename_i m hm
    obtain ⟨ys, hys⟩ := List.getLast?_eq_some_iff.mp hm
    have hlast := (hmem m).mp (by rw [hys]; simp)
    constructor
    · exact fun hi => ⟨m, by omega, hlast⟩
    · rintro ⟨j, hij, hj⟩
      have hin := (hmem j).mpr hj
      rw [hys] at hin hsorted
      obtain hin | hin := List.mem_append.mp hin
      · have := (List.pairwise_append.mp hsorted).2.2 j hin m (by simp)
        omega
      · have := List.mem_singleton.mp hin
        omega
  · rename_i hm
    rw [List.getLast?_eq_none_iff] at hm
    refine ⟨fun h => absurd h (Nat.not_lt_zero i), fun ⟨j, _, hj⟩ => ?_⟩
    have hin := (hmem j).mpr hj
    rw [hm] at hin
    cases hin

theorem counterOf_le (p : Platform) (v : Nat) :
    counterOf p ≤ v ↔ ∀ i, i < 64 → (p.fuseBit ||| p.fuseConfirm).getLsbD i = true → i < v := by
  rw [← Nat.not_lt, lt_counterOf]
  constructor
  · exact fun h i hi hb => Nat.lt_of_not_le fun hle => h ⟨i, hle, hi, hb⟩
  · rintro h ⟨j, hle, hj, hb⟩
    have := h j hj hb
    omega

/-- What the boot ROM asks of an image before it starts it (R394 to R396). -/
structure ImageGood (p : Platform) (i : Image) : Prop where
  signed : Config.pssValid Config.fusedKeyHash (leBytes 8 (i.header.toNat % 2 ^ 64) ++ i.body)
    (BitVec.ofNat 4096 (i.header.toNat / 2 ^ 64)) = true
  reserved : i.header.toNat / 2 ^ 8 % 2 ^ 24 = 0
  length : i.header.toNat / 2 ^ 32 % 2 ^ 32 = i.body.length
  fits : i.body.length ≤ 64 * 2 ^ 20
  version : i.header.toNat % 2 ^ 7 ≤ 64
  fresh : ∀ k, k < 64 → (p.fuseBit ||| p.fuseConfirm).getLsbD k = true → k < i.header.toNat % 2 ^ 7

theorem imageVersion_eq (i : Image) : imageVersion i = i.header.toNat % 2 ^ 7 := by
  unfold imageVersion bits
  omega

theorem imageOk_iff (p : Platform) (i : Image) : imageOk i (counterOf p) = true ↔ ImageGood p i := by
  unfold imageOk
  simp only [Bool.and_eq_true, decide_eq_true_eq]
  rw [counterOf_le, imageVersion_eq]
  constructor
  · rintro ⟨⟨⟨⟨⟨h1, h2⟩, h3⟩, h4⟩, h5⟩, h6⟩
    exact ⟨h1, h2, h4.symm, h4 ▸ h3, h5, h6⟩
  · rintro ⟨h1, h2, h3, h4, h5, h6⟩
    exact ⟨⟨⟨⟨⟨h1, h2⟩, h3.le.trans h4⟩, h3.symm⟩, h5⟩, h6⟩

theorem mem_unblown (p : Platform) (k i : Nat) :
    (2 * i ∈ unblown p k ↔ i = k ∧ p.fuseBit.getLsbD k = false) ∧
    (2 * i + 1 ∈ unblown p k ↔ i = k ∧ p.fuseConfirm.getLsbD k = false) := by
  unfold unblown
  constructor <;> rw [List.mem_append]
  · constructor
    · rintro (h | h)
      · split at h
        · cases h
        · exact ⟨by have := List.mem_singleton.mp h; omega, Bool.eq_false_iff.mpr ‹_›⟩
      · split at h
        · cases h
        · have := List.mem_singleton.mp h
          omega
    · rintro ⟨rfl, hb⟩
      exact .inl (by rw [hb]; simp)
  · constructor
    · rintro (h | h)
      · split at h
        · cases h
        · have := List.mem_singleton.mp h
          omega
      · split at h
        · cases h
        · exact ⟨by have := List.mem_singleton.mp h; omega, Bool.eq_false_iff.mpr ‹_›⟩
    · rintro ⟨rfl, hb⟩
      exact .inr (by rw [hb]; simp)

/-- A boot programs what is missing of every pair that it means to have blown. -/
theorem mem_fuseList (p : Platform) (img : Image) (i : Nat)
    (h : i < counterOf p ∨ (ImageGood p img ∧ img.header.toNat.testBit 7 = true ∧ i < img.header.toNat % 2 ^ 7)) :
    (2 * i ∈ fuseList p img ↔ p.fuseBit.getLsbD i = false) ∧ (2 * i + 1 ∈ fuseList p img ↔ p.fuseConfirm.getLsbD i = false) := by
  have hi : i < if imageOk img (counterOf p) && imageCommit img then max (counterOf p) (imageVersion img) else counterOf p := by
    obtain h | ⟨hgood, hcommit, hi⟩ := h
    · split <;> omega
    · rw [if_pos (by rw [(imageOk_iff p img).mpr hgood]; exact hcommit), imageVersion_eq]
      omega
  unfold fuseList
  simp only [List.mem_flatMap, List.mem_range]
  constructor
  · constructor
    · rintro ⟨k, -, hk⟩
      obtain ⟨rfl, hb⟩ := (mem_unblown p k i).1.mp hk
      exact hb
    · exact fun hb => ⟨i, hi, (mem_unblown p i i).1.mpr ⟨rfl, hb⟩⟩
  · constructor
    · rintro ⟨k, -, hk⟩
      obtain ⟨rfl, hb⟩ := (mem_unblown p k i).2.mp hk
      exact hb
    · exact fun hb => ⟨i, hi, (mem_unblown p i i).2.mpr ⟨rfl, hb⟩⟩

/-! ### The boot ROM -/

/-- What training and its records leave of the machine that a reset has made. -/
structure State.Booted (s t : State) : Prop where
  launches : t.launches = s.launches
  clock : t.clock = s.clock
  waves : t.waves = s.waves
  boot : t.plat.boot = s.plat.boot

theorem State.booted_trainStacks (s : State) (failed : List Nat) : s.Booted (s.trainStacks failed) := by
  unfold State.trainStacks
  refine foldl_keeps s.Booted _ _ s ⟨rfl, rfl, rfl, rfl⟩ fun t k h => ?_
  obtain ⟨hl, hc, hw, hb⟩ := h
  refine ⟨?_, ?_, ?_, ?_⟩
  · rw [State.ras_eq]; exact hl
  · rw [State.ras_eq]; exact hc
  · rw [State.ras_eq]; exact hw
  · rw [State.ras_plat]; exact hb

theorem tset_ne_nil {α : Type} (t : Tab α) (k : Nat) (a : α) : tset t k a ≠ [] := by
  intro h
  have hget := tget_tset_same t k a
  rw [h] at hget
  cases hget

/-- A firmware wave on one more service core. -/
def State.firmwareStep (length : Nat) (s : State) (i : Nat) : State :=
  ((s.putWave s.nextId (firmwareWave (Config.cores + i) s.free length)).bump).draw regFree

/-- What the start of the firmware leaves of the machine that a reset has made, and adds to it. -/
structure State.Started (s t : State) : Prop where
  launches : t.launches = s.launches
  clock : t.clock = s.clock
  plat : t.plat = s.plat
  sup : ∀ e ∈ t.waves, e.2.sup = true

theorem State.started_firmwareStep {s t : State} (length i : Nat) (h : s.Started t) : s.Started (t.firmwareStep length i) := by
  refine ⟨h.launches, h.clock, h.plat, fun e he => ?_⟩
  obtain rfl | he := mem_of_mem_tset (t := t.waves) he
  · rfl
  · exact h.sup e he

theorem State.firmwareStep_waves (length : Nat) (s : State) (i : Nat) : (s.firmwareStep length i).waves ≠ [] := tset_ne_nil _ _ _

theorem State.startFirmware_eq (s : State) (length : Nat) (body : List Byte) : s.startFirmware length body =
    { (List.range Config.serviceCores).foldl (State.firmwareStep length) s with
      mem := cwrite ((List.range Config.serviceCores).foldl (State.firmwareStep length) s).mem Config.firmwareBase body, cur := 0 } := rfl

theorem State.started_startFirmware (s : State) (length : Nat) (body : List Byte) (h : s.waves = []) :
    s.Started (s.startFirmware length body) ∧ (s.startFirmware length body).waves ≠ [] := by
  have hkeep : s.Started ((List.range Config.serviceCores).foldl (State.firmwareStep length) s) :=
    foldl_keeps s.Started _ _ s ⟨rfl, rfl, rfl, by rw [h]; exact fun _ he => nomatch he⟩
      fun t i => State.started_firmwareStep length i
  have hlast : ((List.range Config.serviceCores).foldl (State.firmwareStep length) s).waves ≠ [] := by
    rw [show Config.serviceCores = 31 + 1 from rfl, List.range_succ, List.foldl_append, List.foldl_cons, List.foldl_nil]
    exact State.firmwareStep_waves _ _ _
  rw [State.startFirmware_eq]
  generalize (List.range Config.serviceCores).foldl (State.firmwareStep length) s = u at hkeep hlast
  exact ⟨⟨hkeep.launches, hkeep.clock, hkeep.plat, hkeep.sup⟩, hlast⟩

/-- The boot ROM's end: the firmware runs where the image is good, else the device is in recovery. -/
theorem State.romDone_ends (s : State) (img : Image) (failed : List Nat) (h : s.waves = []) :
    (s.romDone img failed).launches = s.launches ∧ (s.romDone img failed).clock = s.clock ∧
    (ImageGood s.plat img → (s.romDone img failed).plat.boot = .firmware ∧ (s.romDone img failed).waves ≠ [] ∧
      ∀ e ∈ (s.romDone img failed).waves, e.2.sup = true) ∧
    (¬ImageGood s.plat img → (s.romDone img failed).plat.boot = .recovery ∧ (s.romDone img failed).waves = []) := by
  unfold State.romDone
  dsimp only
  by_cases hgood : ImageGood s.plat img
  · rw [if_neg (by rw [(imageOk_iff _ _).mpr hgood]; decide)]
    generalize hu : ({ s with plat := _ } : State) = u
    obtain ⟨hl, hc, hw, hb⟩ := u.booted_trainStacks failed
    obtain ⟨⟨hl', hc', hp', hsup⟩, hne⟩ :=
      (u.trainStacks failed).started_startFirmware (imageLength img) img.body (by rw [hw, ← hu]; exact h)
    refine ⟨?_, ?_, fun _ => ⟨?_, hne, hsup⟩, fun hbad => absurd hgood hbad⟩
    · rw [hl', hl, ← hu]
    · rw [hc', hc, ← hu]
    · rw [hp', hb, ← hu]
  · rw [if_pos (by rw [Bool.not_eq_true', ← Bool.not_eq_true]; exact fun hok => hgood ((imageOk_iff _ _).mp hok))]
    exact ⟨rfl, rfl, fun hg => absurd hg hgood, fun _ => ⟨rfl, h⟩⟩

/-- The compute dies leave reset, and no more. -/
theorem State.maybeRun_eq (s : State) : s.maybeRun.mem = s.mem ∧ s.maybeRun.plat = { s.plat with
    boot := if s.plat.boot = .firmware ∧ s.plat.paramsSet ∧ (List.range 20).all s.plat.portsTried.contains then .running
      else s.plat.boot } := by
  unfold State.maybeRun
  split <;> exact ⟨rfl, rfl⟩

/-! ### Leaving RUN -/

/-- The same change of some entries of a table, for a test that is a proposition. -/
theorem tget_map_if {α : Type} (p : Nat × α → Prop) [DecidablePred p] (g : α → α) (t : Tab α) (k : Nat) :
    tget (t.map fun e => if p e then (e.1, g e.2) else e) k = (tget t k).map fun a => if p (k, a) then g a else a := by
  have h := tget_map_ite (fun e => decide (p e)) g t k
  simpa only [decide_eq_true_eq] using h

/-- Failing the QPUSHes of one queue changes no more of a queue than the records it has taken back. -/
theorem State.tget_failPushes (s : State) (k j : Nat) (q : Queue) (h : tget s.queues j = some q) :
    ∃ g, tget (s.failPushes k).queues j = some { q with gone := g } := by
  unfold State.failPushes
  dsimp only
  split
  · exact ⟨q.gone, h⟩
  · rw [State.putQueue_queues, tget_tset]
    split
    · rename_i hj
      subst hj
      exact ⟨_, by rw [State.queue, tgetD, h]; rfl⟩
    · exact ⟨q.gone, h⟩

/-- What failing QPUSHes leaves as it is. -/
structure State.Refuses (s t : State) : Prop where
  mem : t.mem = s.mem
  worlds : t.worlds = s.worlds
  wgs : t.wgs = s.wgs
  launches : t.launches = s.launches
  plat : t.plat = s.plat
  queues : ∀ j q, tget s.queues j = some q → ∃ g, tget t.queues j = some { q with gone := g }

theorem State.refuses_refl (s : State) : s.Refuses s := ⟨rfl, rfl, rfl, rfl, rfl, fun _ q h => ⟨q.gone, h⟩⟩

theorem State.Refuses.failPushes {s t : State} (h : s.Refuses t) (k : Nat) : s.Refuses (t.failPushes k) := by
  obtain ⟨hm, hw, hg, hl, hp, hq⟩ := h
  have hsame : (t.failPushes k).mem = t.mem ∧ (t.failPushes k).wgs = t.wgs ∧ (t.failPushes k).launches = t.launches ∧
      (t.failPushes k).plat = t.plat := by
    unfold State.failPushes
    dsimp only
    split <;> exact ⟨rfl, rfl, rfl, rfl⟩
  refine ⟨hsame.1.trans hm, (State.failPushes_worlds ..).trans hw, hsame.2.1.trans hg, hsame.2.2.1.trans hl, hsame.2.2.2.trans hp,
    fun j q h => ?_⟩
  obtain ⟨g, hg⟩ := hq j q h
  obtain ⟨g', hg'⟩ := t.tget_failPushes k j _ hg
  exact ⟨g', hg'⟩

/-- The queues of a world stop, its records change, and the world is leaving. -/
theorem State.leaveRun_leaves (s : State) (k : Nat) : (s.leaveRun k).mem = s.mem ∧ (s.leaveRun k).wgs = s.wgs ∧
    (s.leaveRun k).launches = s.launches ∧ (s.leaveRun k).plat = s.plat ∧
    (s.leaveRun k).world k = { s.world k with leaving := true } ∧
    ∀ j q, tget s.queues j = some q → q.world = k → q.state = 1#3 → ∃ q', tget (s.leaveRun k).queues j = some q' ∧
      q'.state = 2#3 ∧ q'.wc = q.wc ∧ q'.rc = q.rc := by
  have hu := foldl_keeps s.Refuses (fun (s : State) (e : Nat × Queue) => s.failPushes e.1)
    (s.queues.filter fun e => decide (e.2.world = k)) s s.refuses_refl fun t e h => h.failPushes e.1
  obtain ⟨hm, hw, hg, hl, hp, hq⟩ := hu
  have hworld : (List.foldl (fun (s : State) (e : Nat × Queue) => s.failPushes e.1) s
      (s.queues.filter fun e => decide (e.2.world = k))).world k = s.world k := by
    unfold State.world
    rw [hw]
  unfold State.leaveRun
  dsimp only
  refine ⟨hm, hg, hl, hp, ?_, fun j q h hk h1 => ?_⟩
  · rw [State.world_putWorld, if_pos rfl]
    exact congrArg (fun x : World => { x with leaving := true }) hworld
  · obtain ⟨g, hq'⟩ := hq j q h
    refine ⟨_, (tget_map_if (fun e : Nat × Queue => e.2.world = k ∧ e.2.state = 1#3)
      (fun q => { q with state := 2#3 }) _ j).trans (by rw [hq']; rfl), ?_⟩
    dsimp only
    rw [if_pos ⟨hk, h1⟩]
    exact ⟨rfl, rfl, rfl⟩

/-! ### The reset of a world without workgroups and launches -/

/-- A world has neither workgroups nor launches. -/
structure State.NoWork (k : Nat) (s : State) : Prop where
  wgs : ∀ e ∈ s.wgs, e.2.world ≠ k
  launches : ∀ e ∈ s.launches, e.2.world ≠ k

theorem State.NoWork.worldEmpty {k : Nat} {s : State} (h : s.NoWork k) : s.worldEmpty k = true := by
  unfold State.worldEmpty
  rw [Bool.and_eq_true]
  exact ⟨List.all_eq_true.mpr fun e he => decide_eq_true (h.wgs e he),
    List.all_eq_true.mpr fun e he => decide_eq_true (h.launches e he)⟩

theorem State.NoWork.dropLaunch {k : Nat} {s : State} (h : s.NoWork k) (n : Nat) : (s.dropLaunch n).NoWork k := by
  unfold State.dropLaunch
  split
  · exact h
  · refine ⟨fun e he => h.wgs e ?_, fun e he => h.launches e ?_⟩ <;>
      revert he <;> dsimp only <;> unfold State.settleDoomed State.dropInvariant <;> split
    · exact id
    · exact id
    · exact fun he => (List.mem_filter.mp he).1
    · exact fun he => (List.mem_filter.mp he).1

theorem State.NoWork.unbind {k : Nat} {s : State} (h : s.NoWork k) (n : Nat) (q : Queue) : (s.unbind n q).NoWork k := by
  unfold State.unbind
  have hf := ((s.dropScheduler q.world).refuses_refl).failPushes n
  generalize (s.dropScheduler q.world).failPushes n = u at hf
  have hu : (u.putQueue n (q.emptied 0#3)).NoWork k :=
    ⟨fun e he => h.wgs e (hf.wgs ▸ he), fun e he => h.launches e (hf.launches ▸ he)⟩
  generalize u.putQueue n (q.emptied 0#3) = v at hu
  unfold State.discardUnplaced
  have hlist (l : List (Nat × Launch)) (hl : ∀ e ∈ l, e.2.world ≠ k) (t : State) (ht : t.NoWork k) :
      (l.foldl (fun (s : State) e =>
        if e.2.queue = n ∧ e.2.next < e.2.total ∧ !e.2.dropped then
          if e.2.live = 0 then s.dropLaunch e.1 else s.putLaunch e.1 { e.2 with dropped := true }
        else s) t).NoWork k := by
    induction l generalizing t with
    | nil => exact ht
    | cons e l ih =>
      refine ih (fun e he => hl e (List.mem_cons_of_mem _ he)) _ ?_
      dsimp only
      split
      · split
        · exact ht.dropLaunch _
        · refine ⟨ht.wgs, fun x hx => ?_⟩
          obtain rfl | hx := mem_of_mem_tset (t := t.launches) hx
          · exact hl e List.mem_cons_self
          · exact ht.launches x hx
      · exact ht
  exact hlist v.launches hu.launches v hu

theorem State.NoWork.resetBegin {k : Nat} {s : State} (h : s.NoWork k) : (s.resetBegin k).NoWork k := by
  unfold State.resetBegin
  have hu := foldl_keeps (State.NoWork k) (fun (s : State) (e : Nat × Queue) => s.unbind e.1 (s.queue e.1))
    (s.queues.filter fun e => decide (e.2.world = k) && decide (e.2.state ≠ 0#3)) s h fun t e ht => ht.unbind _ _
  dsimp only
  generalize List.foldl (fun (s : State) (e : Nat × Queue) => s.unbind e.1 (s.queue e.1)) s _ = u at hu
  unfold State.killWhere
  have hnone : u.launches.filter (fun e => decide (e.2.world = k)) = [] :=
    List.filter_eq_nil_iff.mpr fun e he => by simp [hu.launches e he]
  exact (congrArg (State.NoWork k) (congrArg (List.foldl _ _) hnone)).mpr ⟨hu.wgs, hu.launches⟩

end Sys2Proof.Machine

namespace Sys2Proof.Proofs
open Sys2Proof Sys2Proof.Machine

/-! ### O60 -/

/-- The statement's condition on an image is the one of the boot ROM. -/
theorem good_iff (p : Platform) (img : Image) :
    (Config.pssValid Config.fusedKeyHash (leBytes 8 (img.header.toNat % 2 ^ 64) ++ img.body)
        (BitVec.ofNat 4096 (img.header.toNat / 2 ^ 64)) = true ∧
      img.header.toNat / 2 ^ 8 % 2 ^ 24 = 0 ∧ img.header.toNat / 2 ^ 32 % 2 ^ 32 = img.body.length ∧
      img.body.length ≤ 64 * 2 ^ 20 ∧ img.header.toNat % 2 ^ 7 ≤ 64 ∧
      ∀ i, i < 64 → (p.fuseBit ||| p.fuseConfirm).getLsbD i = true → i < img.header.toNat % 2 ^ 7) ↔ ImageGood p img :=
  ⟨fun ⟨h1, h2, h3, h4, h5, h6⟩ => ⟨h1, h2, h3, h4, h5, h6⟩, fun ⟨h1, h2, h3, h4, h5, h6⟩ => ⟨h1, h2, h3, h4, h5, h6⟩⟩

/-- The machine as the boot ROM begins its work on an image. -/
def romStart (s : State) : State :=
  { s.afterReset with plat := { s.afterReset.plat with
    boot := .rom, blowing := fuseList s.plat (s.plat.flash.getD s.arg.img)
    booting := some (s.plat.flash.getD s.arg.img, s.arg.nums) } }

theorem powerOnReset_eq (s : State) (hf : s.arg.flag = false) : exec .powerOnReset s = .next
    (if fuseList s.plat (s.plat.flash.getD s.arg.img) = [] then (romStart s).romDone (s.plat.flash.getD s.arg.img) s.arg.nums
     else romStart s) :=
  congrArg Host.Outcome.next (if_neg (by rw [hf]; exact fun h => absurd h.1 Bool.false_ne_true))

/-- A power-on starts the firmware or the recovery, or programs fuses first. -/
theorem powerOnReset_boots (s : State) (hf : s.arg.flag = false) : ∃ t, exec .powerOnReset s = .next t ∧ t.launches = [] ∧
    t.clock = 0#64 ∧
    (fuseList s.plat (s.plat.flash.getD s.arg.img) = [] →
      (ImageGood s.plat (s.plat.flash.getD s.arg.img) → t.plat.boot = .firmware ∧ t.waves ≠ [] ∧ ∀ e ∈ t.waves, e.2.sup = true) ∧
      (¬ImageGood s.plat (s.plat.flash.getD s.arg.img) → t.plat.boot = .recovery ∧ t.waves = [])) ∧
    (fuseList s.plat (s.plat.flash.getD s.arg.img) ≠ [] →
      t.plat.boot = .rom ∧ t.plat.blowing = fuseList s.plat (s.plat.flash.getD s.arg.img) ∧ t.waves = []) := by
  refine ⟨_, powerOnReset_eq s hf, ?_⟩
  obtain ⟨hl, hc, hgood, hbad⟩ := (romStart s).romDone_ends (s.plat.flash.getD s.arg.img) s.arg.nums rfl
  have hiff : ImageGood (romStart s).plat (s.plat.flash.getD s.arg.img) ↔ ImageGood s.plat (s.plat.flash.getD s.arg.img) :=
    ⟨fun ⟨h1, h2, h3, h4, h5, h6⟩ => ⟨h1, h2, h3, h4, h5, h6⟩, fun ⟨h1, h2, h3, h4, h5, h6⟩ => ⟨h1, h2, h3, h4, h5, h6⟩⟩
  by_cases hnil : fuseList s.plat (s.plat.flash.getD s.arg.img) = []
  · rw [if_pos hnil]
    exact ⟨hl, hc, fun _ => ⟨fun h => hgood (hiff.mpr h), fun h => hbad fun hg => h (hiff.mp hg)⟩, fun h => absurd hnil h⟩
  · rw [if_neg hnil]
    exact ⟨rfl, rfl, fun h => absurd h hnil, fun _ => ⟨rfl, rfl, rfl⟩⟩

/-- The boot ROM programs the next of several fuse bits. -/
theorem powerOnReset_blows (s : State) (n j : Nat) (l : List Nat) (hf : s.arg.flag = true) (hrom : s.plat.boot = .rom)
    (hboot : s.plat.booting.isSome = true) (hblow : s.plat.blowing = n :: j :: l) :
    exec .powerOnReset s = .next { s with plat := { s.plat with
      fuseBit := if n % 2 = 0 then s.plat.fuseBit ||| BitVec.ofNat 64 (2 ^ (n / 2)) else s.plat.fuseBit
      fuseConfirm := if n % 2 = 0 then s.plat.fuseConfirm else s.plat.fuseConfirm ||| BitVec.ofNat 64 (2 ^ (n / 2))
      blowing := j :: l } } := by
  obtain ⟨⟨img, failed⟩, hb⟩ := Option.isSome_iff_exists.mp hboot
  refine congrArg Host.Outcome.next ((if_pos ⟨hf, hrom⟩).trans ?_)
  unfold State.romStep
  rw [hb, hblow]
  refine (if_neg (List.cons_ne_nil j l)).trans ?_
  unfold blowBit
  dsimp only
  by_cases hn : n % 2 = 0 <;> simp only [hn, if_true, if_false]

/-- The serving waves of world `k`, as the parameters give them. -/
def serveWorld (p : BringUp) (first : List Nat) (s : State) (k : Nat) : State :=
  let serving := match p.serving.find? (fun e => decide (e.1 = k)) with
    | some e => e.2
    | none => first.take 1
  s.putWorld k { s.world k with serving := serving }

theorem serveWorld_keeps (p : BringUp) (first l : List Nat) (s : State) :
    (l.foldl (serveWorld p first) s).mem = s.mem ∧ (l.foldl (serveWorld p first) s).plat = s.plat :=
  foldl_keeps (fun t : State => t.mem = s.mem ∧ t.plat = s.plat) _ l s ⟨rfl, rfl⟩ fun _ _ h => h

/-- The machine with the parameters set, before the compute dies leave reset. -/
def paramsOf (s : State) : State :=
  let p := s.arg.bring
  let u := (List.range 64).foldl (serveWorld p ((s.waves.filter fun e => e.2.sup).map fun e => e.1)) s
  { u with plat := { u.plat with
    paramsSet := true, node := p.node.getD 0, privateGiB := p.privateGiB.getD 2, protBlock := p.protBlock
    cethr := p.cethr.getD 256, ttrip := p.ttrip.getD 105, trel := p.trel.getD 95 } }

theorem paramsOf_keeps (s : State) : (paramsOf s).mem = s.mem ∧ (paramsOf s).plat = { s.plat with
    paramsSet := true, node := s.arg.bring.node.getD 0, privateGiB := s.arg.bring.privateGiB.getD 2
    protBlock := s.arg.bring.protBlock, cethr := s.arg.bring.cethr.getD 256, ttrip := s.arg.bring.ttrip.getD 105
    trel := s.arg.bring.trel.getD 95 } := by
  unfold paramsOf
  dsimp only
  obtain ⟨hm, hp⟩ := serveWorld_keeps s.arg.bring ((s.waves.filter fun e => e.2.sup).map fun e => e.1) (List.range 64) s
  rw [hm, hp]
  exact ⟨rfl, rfl⟩

/-- The parameters are set, and the compute dies leave reset once every port has been tried. -/
theorem bringupParameters_sets (s : State) (hboot : s.plat.boot = .firmware) :
    ∃ t, exec .bringupParameters s = .next t ∧ t.mem = s.mem ∧
    t.plat.boot = (if s.bringOk s.arg.bring = false then .recovery
      else if (List.range 20).all (fun n => s.plat.portsTried.contains n) = true then .running else .firmware) ∧
    (s.bringOk s.arg.bring = true → t.plat.paramsSet = true ∧ t.plat.node = s.arg.bring.node.getD 0 ∧
      t.plat.privateGiB = s.arg.bring.privateGiB.getD 2 ∧ t.plat.cethr = s.arg.bring.cethr.getD 256) := by
  cases hok : s.bringOk s.arg.bring with
  | false =>
    refine ⟨_, congrArg Host.Outcome.next ((if_neg (not_not.mpr hboot)).trans (if_pos (by rw [hok]; rfl))), rfl, rfl, fun h => nomatch h⟩
  | true =>
    have hrun : exec .bringupParameters s = .next (paramsOf s).maybeRun := by
      show execBringupParameters s = _
      unfold execBringupParameters paramsOf
      dsimp only
      rw [if_neg (not_not.mpr hboot), if_neg (by rw [hok]; exact Bool.false_ne_true)]
      generalize List.range 64 = l
      exact congrArg Host.Outcome.next rfl
    obtain ⟨hmem, hplat⟩ := (paramsOf s).maybeRun_eq
    obtain ⟨hm, hp⟩ := paramsOf_keeps s
    refine ⟨_, hrun, hmem.trans hm, ?_, fun _ => ?_⟩
    · rw [hplat, if_neg (fun h => nomatch h : ¬true = false)]
      rw [hp]
      dsimp only
      rw [hboot]
      by_cases hall : (List.range 20).all (fun n => s.plat.portsTried.contains n) = true
      · exact (if_pos ⟨rfl, rfl, hall⟩).trans (if_pos hall).symm
      · exact (if_neg fun h => hall h.2.2).trans (if_neg hall).symm
    · rw [hplat, hp]
      exact ⟨rfl, rfl, rfl, rfl⟩

/-- A world is bound to a function of a logical device. -/
theorem worldBind_binds (s : State) (h0 : 0 < s.arg.a) (h64 : s.arg.a < 64) (hb : (s.world s.arg.a).bound = false)
    (hld : (tget s.host.lds s.arg.c).isSome = true) (hfn : tget s.host.fns s.arg.b = none) :
    ∃ t f, exec .worldBind s = .next t ∧ t.mem = s.mem ∧
      t.world s.arg.a = { s.world s.arg.a with
        bound := true, fn := some s.arg.b, ld := some s.arg.c, keyGen := (s.world s.arg.a).keyGen + 1 } ∧
      tget t.host.fns s.arg.b = some f ∧ f.world = s.arg.a ∧ f.ld = s.arg.c ∧ f.ndrop = 0#64 := by
  refine ⟨_, _, congrArg Host.Outcome.next (if_neg ?_), rfl, tgetD_tset_same .., tget_tset_same .., rfl, rfl, rfl⟩
  rintro (h | h | h | h | h)
  · omega
  · omega
  · rw [hb] at h; cases h
  · rw [← Option.not_isSome, hld] at h; cases h
  · rw [hfn] at h; cases h

/-- The responder answers where it runs. -/
theorem spdmRequest_answers (s : State) (hboot : s.plat.boot = .firmware ∨ s.plat.boot = .running ∨ s.plat.boot = .recovery) :
    (s.arg.spdm = .certificate 0 → ∃ t, exec .spdmRequest s = .next t ∧ t.plat.spdmChain = some (Config.certChain Config.identityKey)) ∧
    (∀ i, s.arg.spdm = .measure i → 1 ≤ i → i ≤ 3 → ∃ t, exec .spdmRequest s = .next t ∧ t.plat.spdmAnswer = tget s.plat.meas i ∧
      t = { s with plat := t.plat }) ∧
    (∀ v a h e d hb, s.arg.spdm = .session v a h e d hb → spdmOk v a h e d hb = true → ∃ t, exec .spdmRequest s = .next t ∧
      tget t.plat.spdmSessions s.nextId = some hb) := by
  have hrun : ¬(s.plat.boot ≠ .firmware ∧ s.plat.boot ≠ .running ∧ s.plat.boot ≠ .recovery) := by
    rintro ⟨h1, h2, h3⟩
    obtain h | h | h := hboot
    · exact h1 h
    · exact h2 h
    · exact h3 h
  refine ⟨fun hq => ?_, fun i hq h1 h3 => ?_, fun v a h e d hb hq hok => ?_⟩
  · refine ⟨_, congrArg Host.Outcome.next ((if_neg hrun).trans (by rw [hq])), rfl⟩
  · refine ⟨s.spdmSays (tget s.plat.meas i), congrArg Host.Outcome.next ((if_neg hrun).trans ?_), rfl, rfl⟩
    rw [hq]
    dsimp only
    rw [if_pos ⟨h1, by omega⟩, if_pos (by omega)]
  · refine ⟨({ s with plat := { s.plat with spdmSessions := tset s.plat.spdmSessions s.nextId hb } }.spdmSays
      (some (BitVec.ofNat 512 s.nextId))).bump, congrArg Host.Outcome.next ((if_neg hrun).trans ?_), tget_tset_same ..⟩
    rw [hq]
    exact if_pos hok

/-- The machine after a lock: the world's TDI is locked, and its measurements are taken. -/
def lockedState (s : State) (slice : Nat) (cores : List Nat) : State :=
  let k := s.arg.a
  let x := s.world k
  let block := s.peek (s.plat.protBlock.getD 0) (64 + 64 * 64)
  let ld := x.ld.getD 0
  let meas := tset (tset s.plat.meas (64 * 4 + k) (Config.sha512 block)) (64 * 5 + k) (Config.measure (k :: ld :: s.linkOf ld))
  ({ s.putWorld k { x with tdisp := .configLocked, session := some s.arg.b, slice := slice, cores := cores } with
    plat := { s.plat with meas := meas } }).tdispSays k false

/-- A world is locked in a session. -/
theorem lockInterface_locks (s : State) (slice : Nat) (cores : List Nat) (hb : (s.world s.arg.a).bound = true)
    (hu : (s.world s.arg.a).tdisp = .configUnlocked) (hlive : ∀ e ∈ s.launches, e.2.world ≠ s.arg.a)
    (htaken : ∀ e ∈ s.worlds, e.1 ≠ s.arg.a → e.2.session ≠ some s.arg.b)
    (hs : (tget s.plat.spdmSessions s.arg.b).isSome = true) (hp : s.protConfig s.arg.a = some (slice, cores)) :
    ∃ t, exec .lockInterface s = .next t ∧ t.mem = s.mem ∧
      t.world s.arg.a = { s.world s.arg.a with tdisp := .configLocked, session := some s.arg.b, slice := slice, cores := cores } ∧
      t.plat.tdispAnswer = some (s.arg.a, false) := by
  refine ⟨lockedState s slice cores, congrArg Host.Outcome.next ((if_neg ?_).trans (by rw [hp]; rfl)), rfl, tgetD_tset_same .., rfl⟩
  rintro (h | h | h | h | h)
  · rw [hb] at h; cases h
  · exact h hu
  · obtain ⟨e, he, hw⟩ := List.any_eq_true.mp h
    exact hlive e he (of_decide_eq_true hw)
  · obtain ⟨e, he, hw⟩ := List.any_eq_true.mp h
    rw [Bool.and_eq_true] at hw
    exact htaken e he (of_decide_eq_true hw.1) (of_decide_eq_true hw.2)
  · rw [← Option.not_isSome, hs] at h; cases h

/-- A lock without what it needs is refused. -/
theorem lockInterface_refuses (s : State) (h : (s.world s.arg.a).bound = false ∨ (s.world s.arg.a).tdisp ≠ .configUnlocked ∨
    s.protConfig s.arg.a = none ∨ (tget s.plat.spdmSessions s.arg.b).isNone = true) :
    exec .lockInterface s = .next { s with plat := { s.plat with tdispAnswer := some (s.arg.a, true) } } := by
  obtain h | h | h | h := h
  · exact congrArg Host.Outcome.next (if_pos (.inl (by rw [h]; rfl)))
  · exact congrArg Host.Outcome.next (if_pos (.inr (.inl h)))
  · show execLockInterface s = _
    unfold execLockInterface
    dsimp only
    rw [h]
    exact congrArg Host.Outcome.next (ite_self _)
  · exact congrArg Host.Outcome.next (if_pos (.inr (.inr (.inr (.inr h)))))

/-- Only one world of the machine has changed. -/
theorem putWorld_only (s : State) (k : Nat) (x : World) :
    s.putWorld k x = { s with worlds := (s.putWorld k x).worlds } ∧ ∀ j, j ≠ k → (s.putWorld k x).world j = s.world j :=
  ⟨rfl, fun j hj => by rw [State.world_putWorld, if_neg hj]⟩

/-- A locked world enters RUN. -/
theorem tdiEnterRun_runs (s : State) (h : (s.world s.arg.a).tdisp = .configLocked) (hl : (s.world s.arg.a).leaving = false) :
    ∃ t, exec .tdiEnterRun s = .next t ∧ (t = { s with worlds := t.worlds } ∧ ∀ j, j ≠ s.arg.a → t.world j = s.world j) ∧
      t.world s.arg.a = { s.world s.arg.a with tdisp := .run } :=
  ⟨_, congrArg Host.Outcome.next (if_pos ⟨h, by rw [hl]; rfl⟩), putWorld_only .., tgetD_tset_same ..⟩

/-- A group-key message of the world's own session sets a key, or the slot that the world sends with. -/
theorem groupKey_set (s : State) (hp : (s.world s.arg.a).protected = true) (hl : (s.world s.arg.a).leaving = false)
    (hb : s.arg.b < 2) (hs : (s.world s.arg.a).session = some s.arg.c) :
    (∃ t, exec .setGroupKey s = .next t ∧ (t = { s with worlds := t.worlds } ∧ ∀ j, j ≠ s.arg.a → t.world j = s.world j) ∧
      t.world s.arg.a = { s.world s.arg.a with
        groupKeys := tset (s.world s.arg.a).groupKeys s.arg.b (BitVec.ofNat 32 s.arg.val.toNat, s.arg.key) }) ∧
    (∃ t, exec .switchGroupKey s = .next t ∧ (t = { s with worlds := t.worlds } ∧ ∀ j, j ≠ s.arg.a → t.world j = s.world j) ∧
      t.world s.arg.a = { s.world s.arg.a with sendSlot := some s.arg.b }) := by
  have hadmit : (s.world s.arg.a).admitsKey s.arg.b s.arg.c = true := by
    unfold World.admitsKey
    rw [hp, hl, decide_eq_true hb, decide_eq_true hs]
    rfl
  exact ⟨⟨_, congrArg Host.Outcome.next (if_pos hadmit), putWorld_only .., tgetD_tset_same ..⟩,
    ⟨_, congrArg Host.Outcome.next (if_pos hadmit), putWorld_only .., tgetD_tset_same ..⟩⟩

/-- A running world begins to leave RUN, and its queues stop. -/
theorem tdiLeaveRun_leaves (s : State) (h : (s.world s.arg.a).tdisp = .run) (hl : (s.world s.arg.a).leaving = false) :
    ∃ t, exec .tdiLeaveRun s = .next t ∧ t.mem = s.mem ∧ (t.world s.arg.a).leaving = true ∧ (t.world s.arg.a).tdisp = .run ∧
    ∀ j q, tget s.queues j = some q → q.world = s.arg.a → q.state = 1#3 → ∃ q', tget t.queues j = some q' ∧
      q'.state = 2#3 ∧ q'.wc = q.wc ∧ q'.rc = q.rc := by
  obtain ⟨hm, -, -, -, hw, hq⟩ := s.leaveRun_leaves s.arg.a
  refine ⟨_, congrArg Host.Outcome.next ((if_neg (by rw [hl]; exact Bool.false_ne_true)).trans (if_pos h)), hm, ?_, ?_, hq⟩
  · rw [hw]
  · rw [hw]
    exact h

/-- The end of the session that a world is locked in. -/
theorem endSession_ends (s : State) (n : Nat) (h : (s.world s.arg.a).session = some n) :
    (s.endSession s.arg.a).mem = s.mem ∧ ((s.endSession s.arg.a).world s.arg.a).session = none ∧
    ((s.world s.arg.a).protected = true → ((s.endSession s.arg.a).world s.arg.a).leaving = true) ∧
    ∀ e ∈ (s.endSession s.arg.a).plat.spdmSessions, e.1 = n → False := by
  obtain ⟨hm, -, -, -, hw, -⟩ := s.leaveRun_leaves s.arg.a
  unfold State.endSession
  rw [h]
  dsimp only
  have hworld (u : State) (x : World) (p : Platform) : ({ u.putWorld s.arg.a x with plat := p } : State).world s.arg.a = x :=
    tgetD_tset_same ..
  refine ⟨?_, by rw [hworld], fun hp => ?_, fun e he hn => ?_⟩
  · split
    · exact hm
    · rfl
  · rw [hworld, if_pos hp, hw]
  · exact absurd hn (of_decide_eq_true (List.mem_filter.mp he).2)

/-- The TDI of a world is free for configuration once the world's reset is over. -/
theorem returnToConfigUnlocked_resets (s : State) (h : (s.world s.arg.a).tdisp ≠ .configUnlocked) :
    ∃ t, exec .returnToConfigUnlocked s = .next t ∧
    ((∀ e ∈ s.wgs, e.2.world ≠ s.arg.a) → (∀ e ∈ s.launches, e.2.world ≠ s.arg.a) →
      (t.world s.arg.a).tdisp = .configUnlocked ∧ (t.world s.arg.a).leaving = false ∧ (t.world s.arg.a).session = none ∧
      (t.world s.arg.a).ranges = [] ∧ (t.world s.arg.a).keyGen = (s.world s.arg.a).keyGen + 1) := by
  refine ⟨_, congrArg Host.Outcome.next (if_neg h), fun hg hl => ?_⟩
  obtain ⟨-, hwgs, hlaunches, -, hw, -⟩ := s.leaveRun_leaves s.arg.a
  dsimp only
  generalize hu : (if (s.world s.arg.a).protected = true then s.leaveRun s.arg.a else s) = u
  have hwork : u.NoWork s.arg.a := by
    subst hu
    split
    · exact ⟨hwgs ▸ hg, hlaunches ▸ hl⟩
    · exact ⟨hg, hl⟩
  have hkey : (u.world s.arg.a).keyGen = (s.world s.arg.a).keyGen := by
    subst hu
    split
    · rw [hw]
    · rfl
  obtain ⟨-, -, hbegin⟩ := u.posts_resetBegin s.arg.a
  rw [if_pos hwork.resetBegin.worldEmpty, State.world_putWorld, if_pos rfl, State.resetEnd_world]
  exact ⟨rfl, rfl, rfl, rfl, congrArg (· + 1) (hbegin.trans hkey)⟩

/-- Settles O60. Each clause is the branch of its event that the premises choose; the counter of the fuses is read as the
pairs that have a blown bit at or above them. -/
theorem bootAndTrust : Obligations.BootAndTrust := by
  unfold Obligations.BootAndTrust
  intro s
  refine ⟨fun hf => ?_, fun i hi h => ?_, powerOnReset_blows s, fun h => congrArg Host.Outcome.next (if_pos h),
    bringupParameters_sets s, ⟨_, rfl, rfl, rfl, rfl⟩, worldBind_binds s, spdmRequest_answers s, lockInterface_locks s,
    lockInterface_refuses s, tdiEnterRun_runs s, groupKey_set s, tdiLeaveRun_leaves s,
    fun h => congrArg Host.Outcome.next (if_pos h), fun n i hi h => ?_, returnToConfigUnlocked_resets s⟩
  · rw [good_iff]
    exact powerOnReset_boots s hf
  · rw [good_iff] at h
    refine mem_fuseList s.plat (s.plat.flash.getD s.arg.img) i (h.imp_left fun h => ?_)
    exact (lt_counterOf s.plat i).mpr h
  · obtain rfl | hi := List.mem_cons.mp hi
    · exact ⟨_, rfl, endSession_ends s n h⟩
    · obtain rfl := List.mem_singleton.mp hi
      exact ⟨_, rfl, endSession_ends s n h⟩

end Sys2Proof.Proofs

/-! PROOFS. The fabric (R378 to R382): a write of another node over two sectors of a line. -/

namespace Sys2Proof.Proofs
open Sys2Proof Sys2Proof.Machine

/-! ### O58 -/

/-- An import table entry: node 2 may read, write and do atomics in the first 2 MiB of world 0. -/
def wholeImport : BitVec 128 := BitVec.ofNat 128 (0xF + 2 * 2 ^ 16 + 2 * 2 ^ 27 + 1 * 2 ^ 96)

/-- A running device that lets in node 2's write of two bytes at 0x103F, the last byte of one sector and the first of the next;
a host may hold their line. -/
def twoSectors : State := { State.reset with
  arg := { a := 2, req := .write 0x103F [1#8, 2#8] }
  worlds := [(0, { World.init with ranges := [(0, BitVec.ofNat 128 (0xF + 2 ^ 64))] })]
  plat := { Platform.init with boot := .running }
  fab := { State.reset.fab with ports := [(1, { up := true, failed := 0, nodes := [2] })], imports := [(0, wholeImport)] }
  host := { State.reset.host with
    lds := [(0, { host := some 1, capacity := 2 ^ 20, hdm := [{ base := 0, size := 128, pa := 0x1000, world := 0 }] })] } }

theorem twoSectors_admitted : twoSectors.importFor 2 0 0x103F 2 = some wholeImport.toNat := by decide

theorem twoSectors_snoops : twoSectors.outerParties (0x103F / 128) ≠ [] := by decide

/-- The answer that is owed names the line once for each of the sectors that were written. -/
theorem twoSectors_owes : (twoSectors.serve 0 (.write 0x103F [1#8, 2#8])).fab.owed = [([32, 32], .value [])] := by decide

theorem twoSectors_serves : exec .fabricRequest twoSectors = .next (twoSectors.serve 0 (.write 0x103F [1#8, 2#8])) := by
  show execFabricRequest twoSectors = _
  unfold execFabricRequest
  dsimp only
  rw [if_neg (by decide), show twoSectors.importFor twoSectors.arg.a twoSectors.arg.b (reqRun twoSectors.arg.req).1
    (reqRun twoSectors.arg.req).2 = some wholeImport.toNat from twoSectors_admitted]
  dsimp only
  rw [if_neg (by decide), if_neg (by decide)]
  rfl

/-- Refutes O58: another node's write over both sectors of a line that a host may hold. Its answer is owed for the line of each
sector, so that the list names the line twice, and is not the list of the one line that the statement gives. -/
theorem not_fabricEvents : ¬ Obligations.FabricEvents := by
  unfold Obligations.FabricEvents
  intro h
  obtain ⟨-, hrequest, -⟩ := h twoSectors
  obtain ⟨-, hadmitted⟩ := hrequest rfl (by decide)
  obtain ⟨-, hallowed⟩ := hadmitted wholeImport.toNat twoSectors_admitted
  obtain ⟨-, hwrite, -⟩ := hallowed (by decide) (by decide)
  obtain ⟨t, hrun, hanswer, -⟩ := hwrite 0x103F [1#8, 2#8] rfl (by decide) (by decide) (by decide)
  rw [if_neg twoSectors_snoops] at hanswer
  obtain ⟨-, howed, -⟩ := hanswer
  obtain rfl : twoSectors.serve 0 (.write 0x103F [1#8, 2#8]) = t := Host.Outcome.next.inj (twoSectors_serves.symm.trans hrun)
  rw [twoSectors_owes] at howed
  revert howed
  decide

end Sys2Proof.Proofs

/-! PROOFS. Queues and launches (R349 to R352, R355 to R357, R375, R377). -/

namespace Sys2Proof.Machine

/-! ### Launches that have ended -/

/-- A launch that is over leaves memory, the waves and the cores as they are. -/
theorem State.dropLaunch_keeps (s : State) (h : Nat) : (s.dropLaunch h).mem = s.mem ∧ (s.dropLaunch h).waves = s.waves ∧
    (s.dropLaunch h).cores = s.cores := by
  unfold State.dropLaunch
  split
  · exact ⟨rfl, rfl, rfl⟩
  · unfold State.settleDoomed State.dropInvariant
    split <;> exact ⟨rfl, rfl, rfl⟩

theorem State.dropLaunch_gone (s : State) (h : Nat) : tget (s.dropLaunch h).launches h = none := by
  unfold State.dropLaunch
  split
  · assumption
  · unfold State.settleDoomed State.dropInvariant
    split <;> exact tget_tdel_same ..

theorem State.interrupt_keeps (s : State) (world vec : Nat) : (s.interrupt world vec).mem = s.mem ∧
    (s.interrupt world vec).launches = s.launches := by
  unfold State.interrupt
  split
  · exact ⟨rfl, rfl⟩
  · split
    · exact ⟨rfl, rfl⟩
    · split <;> exact ⟨rfl, rfl⟩

/-! ### The end of a workgroup -/

/-- What a workgroup has released on its core. -/
structure CoreSt.Released (c : CoreSt) (id : Nat) (g : Wg) : Prop where
  ridges : ∀ e ∈ c.ridges, ∀ r ∈ g.ridgeMap, g.saved = none → r.2 ≠ e.1
  token : ∀ x, c.token = some x → x.wg ≠ id

theorem State.releaseWg_released (s : State) (id : Nat) (g : Wg) : (s.releaseWg id g).mem = s.mem ∧
    (s.releaseWg id g).waves = s.waves ∧ ((s.releaseWg id g).core g.core).Released id g := by
  refine ⟨rfl, rfl, ?_⟩
  unfold State.releaseWg State.touch
  dsimp only
  rw [State.core_putCore, if_pos rfl, State.core_putCore, if_pos rfl]
  refine ⟨fun e he r hr hs heq => ?_, fun x hx => ?_⟩
  · dsimp only at he
    rw [if_neg (by rw [hs]; exact Bool.false_ne_true)] at he
    obtain ⟨-, hkeep⟩ := List.mem_filter.mp he
    rw [Bool.not_eq_true', ← Bool.not_eq_true] at hkeep
    exact hkeep (List.any_eq_true.mpr ⟨r, hr, decide_eq_true heq⟩)
  · dsimp only at hx
    split at hx
    · split at hx
      · cases hx
      · obtain rfl := Option.some.inj hx
        assumption
    · cases hx

/-! ### Refills -/

/-- A world of the table after a refill. -/
theorem State.refill_world (s : State) (w : Nat) (x : World) (h : tget s.worlds w = some x) :
    tget s.refill.worlds w = some { x with
      deficit := (if s.busyWorlds.contains w then min (x.deficit + 65536 * s.weightOf w) (65536 * s.weightOf w) else min x.deficit 0) } := by
  unfold State.refill
  dsimp only
  generalize s.worlds = t at h
  induction t with
  | nil => cases h
  | cons e t ih =>
    obtain ⟨j, y⟩ := e
    rw [List.map_cons]
    by_cases hj : j = w
    · subst hj
      simp only [tget, if_true] at h ⊢
      obtain rfl := Option.some.inj h
      rfl
    · simp only [tget, hj, if_false] at h ⊢
      exact ih h

end Sys2Proof.Machine

namespace Sys2Proof.Proofs
open Sys2Proof Sys2Proof.Machine

/-! ### O57: windows, records and placement -/

/-- The clauses of a head's examination. -/
theorem examined (s : State) : (∀ l t, s.examine s.arg.a = .start l t → exec .signalRetest s = .next s) ∧
    (s.examine s.arg.a = .bad → exec .signalRetest s = .next (s.queueError s.arg.a) ∧
      exec .recordStart s = .next (s.queueError s.arg.a)) ∧
    (∀ l t, s.examine s.arg.a = .start l t →
      (l.marker = true → exec .recordStart s = .next ((t.startRecord s.arg.a l).dropHead s.arg.a)) ∧
      (∀ w l', l.marker = false → s.refillDue = false → s.turn = some (w, s.arg.a, none, l') →
        exec .recordStart s = .next (t.startRecord s.arg.a l))) := by
  have hretest : exec .signalRetest s = execSignalRetest s := rfl
  have hstart : exec .recordStart s = execRecordStart s := rfl
  rw [hretest, hstart]
  unfold execSignalRetest execRecordStart
  dsimp only
  refine ⟨fun l t h => ?_, fun h => ?_, fun l t h => ?_⟩
  · rw [h]
  · rw [h]
    exact ⟨rfl, rfl⟩
  · rw [h]
    dsimp only
    refine ⟨fun hm => ?_, fun w l' hm hr ht => ?_⟩
    · rw [if_pos hm]
    · rw [if_neg (by rw [hm]; exact Bool.false_ne_true), if_neg (by rw [hr]; exact Bool.false_ne_true), ht]
      exact congrArg Host.Outcome.next (if_pos rfl)

theorem windowGrant_grants (s : State) (j : Nat) (h : s.nextWindow = some j)
    (hn : (s.queues.filter (fun e => e.2.win)).length < Config.windows) : exec .windowGrant s =
    .next ((s.putQueue j { s.queue j with win := true, emptySince := s.clock.toNat }).fillWindow j 32) := by
  show execWindowGrant s = _
  unfold execWindowGrant
  rw [h]
  exact congrArg Host.Outcome.next (if_neg (Nat.not_le.mpr hn))

/-- A scheduler turn on which a refill is due. -/
theorem workgroupPlace_refills (s : State) (h : s.refillDue = true) : ∃ t, exec .workgroupPlace s = .next t ∧
    t = { s with worlds := t.worlds } ∧
    ∀ w x, tget s.worlds w = some x → ∃ x', tget t.worlds w = some x' ∧ x' = { x with deficit := x'.deficit } ∧
      x'.deficit = if w ∈ s.busyWorlds then min (x.deficit + 65536 * s.weightOf w) (65536 * s.weightOf w) else min x.deficit 0 := by
  refine ⟨s.refill, congrArg Host.Outcome.next (if_pos h), rfl, fun w x hx => ⟨_, s.refill_world w x hx, rfl, ?_⟩⟩
  simp only [List.contains_iff_mem]

/-- A scheduler turn that places a workgroup of a started launch. -/
theorem workgroupPlace_places (s : State) (w j h : Nat) (l l' : Launch) (core slot base : Nat) (hr : s.refillDue = false)
    (ht : s.turn = some (w, j, some h, l')) (hl : tget s.launches h = some l) (l1 : Launch)
    (h1 : tget (s.numberLaunch h l).launches h = some l1) (hc : (s.numberLaunch h l).coreFor l1 = some core)
    (hs : (s.numberLaunch h l).freeSlot core = some slot) (hb : (s.numberLaunch h l).freeSpan core l1.lmem = some base) :
    exec .workgroupPlace s = .next { (s.numberLaunch h l).placeWg h core slot base l1 with
      plat := { ((s.numberLaunch h l).placeWg h core slot base l1).plat with
        turn := w, qturn := tset ((s.numberLaunch h l).placeWg h core slot base l1).plat.qturn w j } } := by
  show execWorkgroupPlace s = _
  unfold execWorkgroupPlace
  rw [if_neg (by rw [hr]; exact Bool.false_ne_true), ht]
  dsimp only
  rw [hl]
  dsimp only
  rw [h1]
  dsimp only
  rw [hc]
  dsimp only
  rw [hs, hb]

/-! ### O57: the end of workgroups and launches -/

/-- A workgroup that is over leaves nothing of it behind. -/
theorem workgroupEnd_ends (s : State) (id : Nat) (g : Wg)
    (h : s.wgs.find? (fun e => decide (e.2.core = s.arg.a ∧ e.2.slot = s.arg.b)) = some (id, g)) (hover : s.wgOver id = true) :
    ∃ t, exec .workgroupEnd s = .next t ∧ t.mem = s.mem ∧ (∀ e ∈ t.waves, e.2.sup = true ∨ e.2.wg ≠ id) ∧
      (∀ e ∈ (t.core g.core).ridges, ∀ r ∈ g.ridgeMap, g.saved = none → r.2 ≠ e.1) ∧
      ∀ x, (t.core g.core).token = some x → x.wg ≠ id := by
  obtain ⟨hmem, hwaves, hridges, htoken⟩ := s.releaseWg_released id g
  have hover' (u : State) (hm : u.mem = (s.releaseWg id g).mem)
      (hw : u.waves = (s.releaseWg id g).waves.filter (fun e => e.2.sup || decide (e.2.wg ≠ id)))
      (hc : u.cores = (s.releaseWg id g).cores) : u.mem = s.mem ∧ (∀ e ∈ u.waves, e.2.sup = true ∨ e.2.wg ≠ id) ∧
      (∀ e ∈ (u.core g.core).ridges, ∀ r ∈ g.ridgeMap, g.saved = none → r.2 ≠ e.1) ∧
      ∀ x, (u.core g.core).token = some x → x.wg ≠ id := by
    have hcore : u.core g.core = (s.releaseWg id g).core g.core := congrArg (fun t => tgetD t g.core CoreSt.init) hc
    rw [hcore]
    refine ⟨hm.trans hmem, fun e he => ?_, hridges, htoken⟩
    rw [hw] at he
    obtain ⟨-, he⟩ := List.mem_filter.mp he
    exact (Bool.or_eq_true_iff.mp he).imp_right of_decide_eq_true
  show ∃ t, execWorkgroupEnd s = .next t ∧ _
  unfold execWorkgroupEnd
  rw [h]
  dsimp only
  rw [if_neg (by rw [hover]; decide)]
  refine ⟨_, rfl, ?_⟩
  split
  · exact hover' _ rfl rfl rfl
  · split
    · obtain ⟨hm, hw, hc⟩ := State.dropLaunch_keeps (State.putLaunch _ _ _) g.launch
      exact hover' _ hm hw hc
    · exact hover' _ rfl rfl rfl

/-- A started record that is done, with every line confirmed, completes. -/
theorem launchComplete_completes (s : State) (l : Launch) (h : tget s.launches s.arg.a = some l) (hdone : s.launchDone l = true)
    (hconf : s.unconf = []) :
    (l.donesig = 0xFFFF → exec .launchComplete s = .next (s.dropLaunch s.arg.a)) ∧
    (∀ v t, l.donesig ≠ 0xFFFF → s.decrement l = .ok v t → ∃ u, exec .launchComplete s = .next u ∧ u.mem = t.mem ∧
      tget u.launches s.arg.a = none) := by
  have hready : ¬((!s.launchDone l || !s.unconf.isEmpty) = true) := by rw [hdone, hconf]; decide
  show (_ → execLaunchComplete s = _) ∧ ∀ v t, _ → _ → ∃ u, execLaunchComplete s = .next u ∧ _
  unfold execLaunchComplete
  dsimp only
  rw [h]
  dsimp only
  rw [if_neg hready]
  refine ⟨fun hd => congrArg Host.Outcome.next (if_pos hd), fun v t hd hdec => ?_⟩
  rw [if_neg hd, hdec]
  refine ⟨_, rfl, ?_⟩
  dsimp only
  obtain ⟨hm, -, -⟩ := t.dropLaunch_keeps s.arg.a
  split
  · obtain ⟨hm', hl'⟩ := (t.dropLaunch s.arg.a).interrupt_keeps l.world (t.queue l.queue).vec.toNat
    exact ⟨hm'.trans hm, by rw [hl']; exact State.dropLaunch_gone ..⟩
  · exact ⟨hm, State.dropLaunch_gone ..⟩

/-! ### O57: the registers of a host -/

/-- Without a link no access of a host reaches the device. -/
theorem unlinked_ignored (s : State) (h : s.linked = false) :
    ∀ i ∈ ([.notify, .ictl, .ndropClear, .msixVectorUnmask] : List Instr), exec i s = .next s := by
  have hno : (!s.linked) = true := by rw [h]; rfl
  intro i hi
  simp only [List.mem_cons, List.not_mem_nil, or_false] at hi
  obtain rfl | rfl | rfl | rfl := hi
  · exact congrArg Host.Outcome.next (if_pos hno)
  · exact congrArg Host.Outcome.next (if_pos hno)
  · exact congrArg Host.Outcome.next (if_pos hno)
  · exact congrArg Host.Outcome.next (if_pos hno)

section
variable (s : State) (hlink : s.linked = true)
include hlink

theorem linked_passes : ¬((!s.linked) = true) := by rw [hlink]; decide

/-- A write to the notify register, as far as its checks. -/
theorem notify_write (hf : s.arg.flag = false) : exec .notify s = .next
    (if !s.reaches s.arg.a s.arg.b ∨ !s.whole8 ∨ (s.queue s.arg.b).state ≠ 1#3 then s.countDropped s.arg.a
    else if s.arg.val.toNat = (s.queue s.arg.b).wc then s
    else if s.arg.val.toNat < (s.queue s.arg.b).wc ∨ (s.queue s.arg.b).rc + (s.queue s.arg.b).nrec < s.arg.val.toNat then
      s.queueError s.arg.b
    else ((s.putQueue s.arg.b { s.queue s.arg.b with wc := s.arg.val.toNat }).notePush s.arg.b (s.queue s.arg.b).wc).fillWindow s.arg.b 32) :=
  congrArg Host.Outcome.next ((if_neg (linked_passes s hlink)).trans (if_neg (by rw [hf]; exact Bool.false_ne_true)))

/-- A write to the interrupt register, as far as its checks. -/
theorem ictl_write (hf : s.arg.flag = false) : exec .ictl s = .next
    (if !s.reaches s.arg.a s.arg.b ∨ !s.whole8 ∨ bits s.arg.val.toNat 13 51 ≠ 0 then s.countDropped s.arg.a
    else s.putQueue s.arg.b { s.queue s.arg.b with
      vec := BitVec.ofNat 11 s.arg.val.toNat, ce := bit s.arg.val.toNat 11, ee := bit s.arg.val.toNat 12 }) :=
  congrArg Host.Outcome.next ((if_neg (linked_passes s hlink)).trans (if_neg (by rw [hf]; exact Bool.false_ne_true)))

omit hlink in
/-- The upper bits of a 64-bit value are clear exactly below 2^13. -/
theorem ictl_fits : bits s.arg.val.toNat 13 51 ≠ 0 ↔ 2 ^ 13 ≤ s.arg.val.toNat := by
  have := s.arg.val.isLt
  unfold bits
  omega

omit hlink in
theorem not_dropped {p q : Bool} {r : Prop} (hp : p = true) (hq : q = true) (hr : ¬r) : ¬(((!p) = true) ∨ ((!q) = true) ∨ r) := by
  rw [hp, hq]
  simp [hr]

omit hlink in
theorem dropped_of {p q : Bool} {r : Prop} (h : p = false ∨ q = false ∨ r) : ((!p) = true) ∨ ((!q) = true) ∨ r := by
  obtain h | h | h := h
  · exact .inl (by rw [h]; rfl)
  · exact .inr (.inl (by rw [h]; rfl))
  · exact .inr (.inr h)

/-- The writes of a host to the registers of a queue. -/
theorem queueRegisters_write (hf : s.arg.flag = false) :
    (s.reaches s.arg.a s.arg.b = true → s.whole8 = true →
     ((s.queue s.arg.b).state = 1#3 → (s.queue s.arg.b).wc < s.arg.val.toNat →
        s.arg.val.toNat ≤ (s.queue s.arg.b).rc + (s.queue s.arg.b).nrec → exec .notify s = .next
          (((s.putQueue s.arg.b { s.queue s.arg.b with wc := s.arg.val.toNat }).notePush s.arg.b (s.queue s.arg.b).wc).fillWindow s.arg.b 32)) ∧
     ((s.queue s.arg.b).state = 1#3 → s.arg.val.toNat = (s.queue s.arg.b).wc → exec .notify s = .next s) ∧
     ((s.queue s.arg.b).state = 1#3 → s.arg.val.toNat ≠ (s.queue s.arg.b).wc →
        (s.arg.val.toNat < (s.queue s.arg.b).wc ∨ (s.queue s.arg.b).rc + (s.queue s.arg.b).nrec < s.arg.val.toNat) →
        exec .notify s = .next (s.queueError s.arg.b)) ∧
     (s.arg.val.toNat < 2 ^ 13 → exec .ictl s = .next (s.putQueue s.arg.b { s.queue s.arg.b with
       vec := BitVec.ofNat 11 s.arg.val.toNat, ce := s.arg.val.toNat.testBit 11, ee := s.arg.val.toNat.testBit 12 }))) ∧
    (s.reaches s.arg.a s.arg.b = false ∨ s.whole8 = false ∨ (s.queue s.arg.b).state ≠ 1#3 →
      exec .notify s = .next (s.countDropped s.arg.a)) ∧
    (s.reaches s.arg.a s.arg.b = false ∨ s.whole8 = false ∨ 2 ^ 13 ≤ s.arg.val.toNat →
      exec .ictl s = .next (s.countDropped s.arg.a)) ∧
    (∀ f, tget s.host.fns s.arg.a = some f → s.arg.val.toNat = 0 → ∃ t, exec .ndropClear s = .next t ∧
      tget t.host.fns s.arg.a = some { f with ndrop := 0#64 } ∧ t.mem = s.mem) := by
  rw [notify_write s hlink hf, ictl_write s hlink hf]
  refine ⟨fun hr h8 => ⟨fun h1 hlt hle => ?_, fun h1 heq => ?_, fun h1 hne hbad => ?_, fun hlt => ?_⟩, fun h => ?_, fun h => ?_,
    fun f hfn hz => ?_⟩
  · rw [if_neg (not_dropped hr h8 (not_not.mpr h1)), if_neg (Nat.ne_of_gt hlt), if_neg (by omega)]
  · rw [if_neg (not_dropped hr h8 (not_not.mpr h1)), if_pos heq]
  · rw [if_neg (not_dropped hr h8 (not_not.mpr h1)), if_neg hne, if_pos hbad]
  · rw [if_neg (not_dropped hr h8 (by rw [ictl_fits]; exact Nat.not_le.mpr hlt))]
    rfl
  · rw [if_pos (dropped_of h)]
  · rw [if_pos (dropped_of (by rw [ictl_fits]; exact h))]
  · have hval : s.arg.val = 0#64 := BitVec.eq_of_toNat_eq hz
    refine ⟨{ s with host := { s.host with fns := tset s.host.fns s.arg.a { f with ndrop := 0#64 } } },
      congrArg Host.Outcome.next ((if_neg (linked_passes s hlink)).trans ?_), tget_tset_same .., rfl⟩
    rw [hfn]
    exact (if_neg (by rw [hf]; exact Bool.false_ne_true)).trans (if_neg (not_not.mpr hval))

omit hlink in
/-- A whole register is read. -/
theorem hostReads_whole (v : Nat) (hn : s.arg.nums = []) (hc : s.arg.c = 8) :
    s.hostReads v = { s with host := (s.hostReads v).host } ∧ (s.hostReads v).host.lastRead = some (leBytes 8 v, false) := by
  refine ⟨rfl, ?_⟩
  unfold State.hostReads State.hostGets
  rw [hn, hc]
  exact congrArg (fun l => some (l, false)) (List.take_of_length_le (Nat.le_of_eq (length_leBytes 8 v)))

/-- The reads of a host of the registers of a queue and of a function. -/
theorem queueRegisters_read (hf : s.arg.flag = true) (hn : s.arg.nums = []) (hc : s.arg.c = 8) :
    (s.reaches s.arg.a s.arg.b = true → ∃ t, exec .notify s = .next t ∧ t = { s with host := t.host } ∧
      t.host.lastRead = some (leBytes 8 (s.queue s.arg.b).wc, false)) ∧
    (∀ f, tget s.host.fns s.arg.a = some f → ∃ t, exec .ndropClear s = .next t ∧ t = { s with host := t.host } ∧
      t.host.lastRead = some (leBytes 8 f.ndrop.toNat, false)) := by
  refine ⟨fun hr => ⟨s.hostReads (s.queue s.arg.b).wc, congrArg Host.Outcome.next ((if_neg (linked_passes s hlink)).trans
    ((if_pos hf).trans (if_pos hr))), hostReads_whole s _ hn hc⟩, fun f hfn => ⟨s.hostReads f.ndrop.toNat,
      congrArg Host.Outcome.next ((if_neg (linked_passes s hlink)).trans ?_), hostReads_whole s _ hn hc⟩⟩
  rw [hfn]
  exact if_pos hf

/-- A host unmasks a vector, and the message that is pending there is sent. -/
theorem msixVectorUnmask_sends (f : Fn) (hfn : tget s.host.fns s.arg.a = some f) (hf : s.arg.flag = false) :
    ∃ t f', exec .msixVectorUnmask s = .next t ∧ t.mem = s.mem ∧ tget t.host.fns s.arg.a = some f' ∧ s.arg.b ∉ f'.masked ∧
    s.arg.b ∉ f'.pending ∧ f'.sent = f.sent ++ (if s.arg.b ∈ f.pending ∧ s.arg.b ∈ f.masked then [s.arg.b] else []) := by
  refine ⟨{ s with host := { s.host with fns := tset s.host.fns s.arg.a { f with
      masked := f.masked.filter (fun k => decide (k ≠ s.arg.b)), pending := f.pending.filter (fun k => decide (k ≠ s.arg.b))
      sent := if f.pending.contains s.arg.b ∧ f.masked.contains s.arg.b then f.sent ++ [s.arg.b] else f.sent } } }, _,
    congrArg Host.Outcome.next ((if_neg (linked_passes s hlink)).trans ?_), rfl, tget_tset_same .., by simp, by simp, ?_⟩
  · rw [hfn]
    dsimp only
    rw [if_neg (by rw [hf]; exact Bool.false_ne_true)]
  · simp only [List.contains_iff_mem]
    split <;> simp

end

/-- Settles O57. Each clause is the branch of its event that the premises choose. -/
theorem queueEvents : Obligations.QueueEvents := by
  unfold Obligations.QueueEvents
  intro s
  obtain ⟨hretest, hbad, hstart⟩ := examined s
  exact ⟨windowGrant_grants s, fun h1 h2 h3 => congrArg Host.Outcome.next (if_pos ⟨h1, h2, h3⟩), hretest, hbad, hstart,
    workgroupPlace_refills s, fun w j h l l' core slot base hr ht hl l1 => workgroupPlace_places s w j h l l' core slot base hr ht hl l1,
    workgroupEnd_ends s, launchComplete_completes s,
    ⟨unlinked_ignored s, fun hlink => ⟨queueRegisters_write s hlink, queueRegisters_read s hlink⟩⟩,
    fun f hlink hfn hf => msixVectorUnmask_sends s hlink f hfn hf⟩

end Sys2Proof.Proofs

/-! PROOFS. Lines and hosts (R104, R125, R129, R371 to R373). -/

namespace Sys2Proof.Machine

/-! ### Traffic within the device takes no numbers and sends nothing -/

/-- The counter of handles and stamps, and the fabric, are as before. -/
structure State.Still (s t : State) : Prop where
  nextId : t.nextId = s.nextId
  fab : t.fab = s.fab

theorem State.Still.refl (s : State) : s.Still s := ⟨rfl, rfl⟩

theorem State.Still.trans {s t u : State} (h : s.Still t) (k : t.Still u) : s.Still u :=
  ⟨k.nextId.trans h.nextId, k.fab.trans h.fab⟩

theorem State.Still.foldl {β : Type} {f : State → β → State} (h : ∀ (s : State) b, s.Still (f s b)) (l : List β) (s : State) :
    s.Still (l.foldl f s) :=
  foldl_keeps s.Still f l s (.refl s) fun _ b ha => ha.trans (h _ b)

/-- A change of the platform alone. -/
theorem State.still_ras (s : State) (type unit loc addr : Nat) : s.Still (s.ras type unit loc addr) := by
  rw [State.ras_eq]
  exact ⟨rfl, rfl⟩

theorem State.still_condemn (s : State) (k : Nat) : s.Still (s.condemn k) := by
  unfold State.condemn
  split <;> exact ⟨rfl, rfl⟩

theorem State.still_corrected (s : State) (line : Nat) : s.Still (s.corrected line) := by
  have hcount (t : State) : t.Still (t.countCorrected line) := by
    unfold State.countCorrected
    extract_lets k now c c' _ u
    have hu : t.Still u := ⟨rfl, rfl⟩
    split
    · exact hu.trans (State.still_condemn ..)
    · exact hu
  unfold State.corrected
  dsimp only
  split
  · exact ((⟨rfl, rfl⟩ : s.Still (s.putSide _ _)).trans (State.still_ras ..)).trans (hcount _)
  · exact .refl s

theorem State.still_request (s : State) (pa : Nat) (who : Stamp) (write : Bool) : s.Still (s.request pa who write) := by
  unfold State.request
  split <;> exact ⟨rfl, rfl⟩

theorem State.still_countLink (s : State) (world line : Nat) : s.Still (s.countLink world line) := by
  unfold State.countLink
  dsimp only
  split
  · exact .refl s
  · split <;> exact ⟨rfl, rfl⟩

theorem State.still_writeBack (s : State) (c : DieLine) (who : Stamp) : s.Still (s.writeBack c who) := by
  unfold State.writeBack
  split
  · exact .refl s
  · refine .foldl (fun t i => ?_) _ _
    split
    · exact State.still_request ..
    · exact .refl t

theorem State.still_install (s : State) (who : Stamp) (c : DieLine) : s.Still (s.install who c) := by
  unfold State.install
  extract_lets
  split
  · exact ⟨rfl, rfl⟩
  · split
    · exact ⟨rfl, rfl⟩
    · split
      · refine State.Still.trans (t := State.draw _ 1) ?_ (State.still_writeBack ..)
        exact ⟨rfl, rfl⟩
      · exact ⟨rfl, rfl⟩

theorem State.still_grant (s : State) (die : Option Nat) (world : Nat) (who : Stamp) (line : Nat) (bits : BitVec 2) :
    s.Still (s.grant die world who line bits) := by
  unfold State.grant
  extract_lets other old waiting s1 s2 prev _ users _
  have h1 : s.Still s1 := by
    simp only [s1]
    exact ⟨rfl, rfl⟩
  have h2 : s1.Still s2 := by
    cases die with
    | none => exact .refl _
    | some d =>
      refine State.Still.trans ?_ (State.still_install ..)
      split
      · exact State.still_countLink ..
      · exact .refl _
  have h := h1.trans h2
  split <;> exact h.trans ⟨rfl, rfl⟩

theorem State.still_prepLine (s : State) (world : Nat) (cells : List (Nat × Byte)) (line : Nat) :
    s.Still (s.prepLine world cells line) := by
  have hput (t : State) (x : Side) : t.Still (t.putSide line x) := ⟨rfl, rfl⟩
  unfold State.prepLine
  split
  · unfold State.sideWrite
    extract_lets x whole own y
    split
    · exact ⟨rfl, rfl⟩
    · split
      · exact ⟨rfl, rfl⟩
      · split
        · exact hput ..
        · split
          · exact (hput ..).trans (State.still_ras ..)
          · exact ((hput ..).trans (State.still_ras ..)).trans (State.still_condemn ..)
          · exact (State.still_corrected ..).trans (hput ..)
  · split
    · exact ⟨rfl, rfl⟩
    · exact .refl s

theorem State.still_markFrames (s : State) (pas : List Nat) : s.Still (s.markFrames pas) := by
  refine .foldl (fun t f => ?_) _ _
  dsimp only
  split
  · split
    · exact ⟨rfl, rfl⟩
    · exact .refl t
  · exact .refl t

theorem State.still_pokeCells (s : State) (world : Nat) (cells : List (Nat × Byte)) : s.Still (s.pokeCells world cells) := by
  unfold State.pokeCells
  exact ((State.still_markFrames ..).trans (.foldl (fun _ _ => State.still_prepLine ..) _ _)).trans ⟨rfl, rfl⟩

theorem State.still_storeCells (s : State) (die : Option Nat) (world : Nat) (who : Stamp) (cells : List (Nat × Byte)) :
    s.Still (s.storeCells die world who cells) := by
  unfold State.storeCells
  exact State.Still.trans (.foldl (fun _ _ => State.still_grant ..) _ _) (State.still_pokeCells ..)

/-! ### Confirmation -/

/-- Sending completions changes the host's and the fabric's side alone. -/
theorem State.sendDone_eq (s : State) : s.sendDone = { s with host := s.sendDone.host, fab := s.sendDone.fab } := by
  unfold State.sendDone
  dsimp only
  split <;> rfl

/-- A party's acknowledgement, where the line waits for it. -/
theorem State.confirm_eq (s : State) (line die : Nat) (u : Unconf) (h : s.unconf.find? (fun u => decide (u.line = line)) = some u)
    (hw : die ∈ u.waiting) : s.confirm line die = { s with
      cache := s.cache.filter (fun c => !(decide (c.die = die ∧ c.line = line) && !c.remote && c.inv.isNone && c.data.isSome))
      unconf := if (u.waiting.filter (fun d => decide (d ≠ die))).isEmpty then s.unconf.filter (fun x => decide (x.line ≠ line))
        else { u with waiting := u.waiting.filter (fun d => decide (d ≠ die)) } :: s.unconf.filter (fun x => decide (x.line ≠ line)) } := by
  unfold State.confirm
  rw [h]
  exact if_neg (by rw [List.contains_iff_mem.mpr hw]; decide)

/-- Bytes that have been written outside the device's DRAM are read back. -/
theorem State.peek_cwrite {s t : State} {a n : Nat} {bs : List Byte} (hm : s.memOk = true) (hk : paKind a ≠ 0)
    (hn : n = bs.length) (ht : t.mem = cwrite s.mem a bs) : t.peek a n = bs := by
  subst hn
  unfold State.peek
  refine map_range_eq _ _ fun i hi => ?_
  rw [if_neg fun h => hk h.1, ht]
  have hread := cread_getElem? (cwrite s.mem a bs) a bs.length i hi
  rw [cread_cwrite _ _ _ hm, List.getElem?_eq_getElem hi] at hread
  exact (Option.some.inj hread).symm

/-! ### DRAM slots -/

/-- Counting a missed deadline leaves memory and the pseudo-channels as they are. -/
theorem State.countMiss_keeps (s : State) (r : DramReq) : (s.countMiss r).mem = s.mem ∧
    (s.countMiss r).plat.chans = s.plat.chans := by
  unfold State.countMiss
  split
  · exact ⟨rfl, rfl⟩
  · split
    · exact ⟨rfl, rfl⟩
    · dsimp only
      split <;> exact ⟨rfl, rfl⟩

/-- A column slot serves the one request that is pending. -/
theorem State.dramSlot_serves (s : State) (k : Nat) (ch : Chan) (r : DramReq) (hp : ch.pending = [r])
    (hr : (s.stackAt (k / 96)).rebuild = none) : ∃ ch', s.dramSlot k ch =
      ({ s with plat := { s.plat with chans := tset s.plat.chans k ch' } } : State).countMiss r ∧
      ch'.pending = [] ∧ ch'.slot = ch.slot + 1 := by
  have hpick (isGuard : Bool) (cls : Nat) : (match (if isGuard then bestReq false (([(0, r)] : List (Nat × DramReq)).filter
      (fun x => decide (x.2.who.cls = cls))) else none) with
      | some x => some x
      | none => bestReq true [(0, r)]) = some (0, r) := by
    cases isGuard with
    | false => rfl
    | true =>
      by_cases hc : r.who.cls = cls
      · simp [hc, bestReq]
      · simp [hc, bestReq]
  unfold State.dramSlot
  rw [hr, hp]
  extract_lets put rebuild n ready cand isGuard cls pick ch'
  have hready : cand = [(0, r)] := by
    simp only [cand, ready]
    rfl
  have hsome : pick = some (0, r) := by
    simp only [pick, hready]
    exact hpick isGuard cls
  rw [if_neg (by exact Bool.false_ne_true), hsome]
  exact ⟨_, rfl, rfl, rfl⟩

end Sys2Proof.Machine

namespace Sys2Proof.Proofs
open Sys2Proof Sys2Proof.Machine

/-! ### O53 -/

/-- A party acknowledges a line. -/
theorem lineConfirm_confirms (s : State) (u : Unconf) (h : s.unconf.find? (fun u => decide (u.line = s.arg.a)) = some u)
    (hw : s.arg.b ∈ u.waiting) : ∃ t, exec .lineConfirm s = .next t ∧
    t = { s with cache := t.cache, unconf := t.unconf, host := t.host, fab := t.fab } ∧
    (∀ c ∈ t.cache, c.die = s.arg.b → c.line = s.arg.a → c.remote = false → c.inv = none → c.data = none) ∧
    t.unconf.find? (fun u => decide (u.line = s.arg.a)) = (if u.waiting.filter (fun d => decide (d ≠ s.arg.b)) = [] then none
      else some { u with waiting := u.waiting.filter (fun d => decide (d ≠ s.arg.b)) }) := by
  have hline : u.line = s.arg.a := by simpa using List.find?_some h
  have hother : (s.unconf.filter (fun x => decide (x.line ≠ s.arg.a))).find? (fun u => decide (u.line = s.arg.a)) = none :=
    List.find?_eq_none.mpr fun x hx => by simpa using (List.mem_filter.mp hx).2
  refine ⟨_, rfl, ?_, ?_, ?_⟩
  · rw [State.sendDone_eq, State.confirm_eq s _ _ u h hw]
  · rw [State.sendDone_eq, State.confirm_eq s _ _ u h hw]
    intro c hc hdie hl hrem hinv
    have hkeep := (List.mem_filter.mp hc).2
    rw [hrem, hinv, decide_eq_true ⟨hdie, hl⟩] at hkeep
    simpa using hkeep
  · rw [State.sendDone_eq, State.confirm_eq s _ _ u h hw]
    dsimp only
    by_cases hnil : u.waiting.filter (fun d => decide (d ≠ s.arg.b)) = []
    · rw [if_pos hnil, if_pos (by rw [hnil]; rfl)]
      exact hother
    · rw [if_neg hnil, if_neg (by rwa [List.isEmpty_iff])]
      exact List.find?_cons_of_pos (decide_eq_true hline)

/-- The home of a line takes back what the die caches hold. -/
theorem cxlCacheSnoop_takes (s : State) (hk : paKind (s.arg.a * 128) = 1 ∨ paKind (s.arg.a * 128) = 2) :
    ∃ t, exec .cxlCacheSnoop s = .next t ∧ t.waves = s.waves ∧
    (s.arg.flag = false → t.mem = s.mem ∧
      ∀ c ∈ t.cache, c.line = s.arg.a → c.remote = false → c.inv = none → c.dirty = 0#2) ∧
    (s.arg.flag = true → s.memOk = true → (∀ c ∈ t.cache, c.line = s.arg.a → c.remote = true ∨ c.inv ≠ none) ∧
      (∀ x, (x < s.arg.a * 128 ∨ s.arg.a * 128 + 128 ≤ x) → cget t.mem x = cget s.mem x) ∧
      (s.arg.bytes.length = 128 → t.peek (s.arg.a * 128) 128 = s.arg.bytes)) := by
  have hrun : ¬(paKind (s.arg.a * 128) ≠ 1 ∧ paKind (s.arg.a * 128) ≠ 2) := by
    rintro ⟨h1, h2⟩
    exact hk.elim h1 h2
  cases hf : s.arg.flag with
  | false =>
    refine ⟨_, congrArg Host.Outcome.next ((if_neg hrun).trans (if_neg (by rw [hf]; exact Bool.false_ne_true))), rfl, fun _ => ⟨rfl, ?_⟩,
      fun h => nomatch h⟩
    intro c hc hl hrem hinv
    obtain ⟨d, -, rfl⟩ := List.mem_map.mp hc
    by_cases hd : (decide (d.line = s.arg.a) && !d.remote && d.inv.isNone) = true
    · rw [if_pos hd]
    · rw [if_neg hd] at hl hrem hinv
      exact absurd (by rw [hl, hrem, hinv]; simp) hd
  | true =>
    refine ⟨_, congrArg Host.Outcome.next ((if_neg hrun).trans (if_pos hf)), rfl, (fun h => nomatch h), fun _ hm => ⟨?_, ?_, ?_⟩⟩
    · intro c hc hl
      have hkeep := (List.mem_filter.mp hc).2
      dsimp only at hkeep
      rw [hl] at hkeep
      cases hrem : c.remote with
      | true => exact .inl rfl
      | false =>
        right
        intro hinv
        rw [hrem, hinv] at hkeep
        simp at hkeep
    · intro x hx
      dsimp only
      by_cases hb : s.arg.bytes.length = 128
      · rw [if_pos hb]
        exact cget_cwrite_other _ _ _ _ hm (by rw [hb]; exact hx)
      · rw [if_neg hb]
    · intro hb
      refine State.peek_cwrite hm ?_ hb.symm (if_pos hb)
      rintro h
      rw [h] at hk
      exact hk.elim (fun h => nomatch h) (fun h => nomatch h)

/-- A pseudo-channel of a stack in service takes its request. -/
theorem dramRequestServe_serves (s : State) (ch : Chan) (r : DramReq) (ha : s.arg.a < 768) (hout : (s.stackAt (s.arg.a / 96)).out = false)
    (hself : (s.stackAt (s.arg.a / 96)).selfRefresh = false) (hreb : (s.stackAt (s.arg.a / 96)).rebuild = none)
    (hch : tget s.plat.chans s.arg.a = some ch) (hp : ch.pending = [r]) : ∃ t, exec .dramRequestServe s = .next t ∧ t.mem = s.mem ∧
    ∃ ch', tget t.plat.chans s.arg.a = some ch' ∧ ch'.pending = [] ∧ ch'.slot = ch.slot + 1 := by
  obtain ⟨ch', hslot, hnil, hnext⟩ := s.dramSlot_serves s.arg.a ch r hp hreb
  have hrun : exec .dramRequestServe s = .next (s.dramSlot s.arg.a ch) := by
    refine congrArg Host.Outcome.next ((if_neg ?_).trans ?_)
    · rintro (h | h | h)
      · omega
      · rw [hout] at h; cases h
      · rw [hself] at h; cases h
    · rw [tgetD, hch]; rfl
  rw [hslot] at hrun
  obtain ⟨hm, hc⟩ := State.countMiss_keeps { s with plat := { s.plat with chans := tset s.plat.chans s.arg.a ch' } } r
  exact ⟨_, hrun, hm, ch', by rw [hc]; exact tget_tset_same .., hnil, hnext⟩

/-- A logical device is bound to a host, or to none. -/
theorem ldBindingChange_binds (s : State) (ha : s.arg.a < s.ldLimit) (hw : ∀ e ∈ s.worlds, e.2.ld ≠ some s.arg.a) :
    exec .ldBindingChange s = .next (s.putLd s.arg.a
      { host := if s.arg.flag then some s.arg.b else none, hdm := [], capacity := if s.arg.flag then s.arg.c else 0
        port := s.arg.nums.headD 0 }) := by
  refine congrArg Host.Outcome.next (if_neg ?_)
  rintro (h | h)
  · omega
  · obtain ⟨e, he, hld⟩ := List.any_eq_true.mp h
    exact hw e he (of_decide_eq_true hld)

/-- A decoder over a world's memory is committed. -/
theorem hdmDecoderCommit_commits (s : State) (e : Nat × World) (hc : s.arg.c ≠ 0) (hlink : s.linked = true)
    (h : s.worlds.find? (fun e => decide (e.2.ld = some s.arg.a) && e.2.holds (s.arg.nums.headD 0) s.arg.c) = some e) :
    exec .hdmDecoderCommit s = .next (s.putLd s.arg.a { s.ldAt s.arg.a with
      hdm := (s.ldAt s.arg.a).hdm ++ [{ base := s.arg.b, size := s.arg.c, pa := s.arg.nums.headD 0, world := e.1 }] }) := by
  show execHdmDecoderCommit s = _
  unfold execHdmDecoderCommit
  dsimp only
  rw [if_neg (by rw [hlink]; simp [hc]), h]

/-- A host reads through a decoder. -/
theorem hostHdmRead_reads (s : State) (world pa : Nat) (u : State) (hlink : s.linked = true)
    (hd : s.decoder s.arg.a s.arg.b s.arg.c = some (world, pa)) (hu : s.runUnconfirmed pa s.arg.c = false)
    (hc : s.checkRead (some world) pa s.arg.c = (u, false)) :
    exec .hostHdmRead s = .next { u with host := { u.host with lastRead := some (u.peek pa s.arg.c, false) } } := by
  show execHostHdmRead s = _
  unfold execHostHdmRead
  rw [if_neg (by rw [hlink]; decide), hd]
  dsimp only
  rw [if_neg (by rw [hu]; exact Bool.false_ne_true), hc]
  rfl

/-- The lines of bytes within one line. -/
theorem linesOf_one (pa n : Nat) (hn : 0 < n) (h : pa % 128 + n ≤ 128) : dedupN ((linesOf pa n).map (fun l => l / 2)) = [pa / 128] := by
  have hall : ∀ x ∈ (linesOf pa n).map (fun l => l / 2), x = pa / 128 := by
    intro x hx
    obtain ⟨l, hl, rfl⟩ := List.mem_map.mp hx
    unfold linesOf at hl
    rw [if_neg (by omega)] at hl
    obtain ⟨i, hi, rfl⟩ := List.mem_map.mp hl
    have := List.mem_range.mp hi
    omega
  have hne : (linesOf pa n).map (fun l => l / 2) ≠ [] := by
    unfold linesOf
    rw [if_neg (by omega), List.range_succ]
    simp
  have hkeep (l : List Nat) (hl : ∀ x ∈ l, x = pa / 128) :
      l.foldl (fun acc x => if acc.contains x then acc else acc ++ [x]) [pa / 128] = [pa / 128] := by
    induction l with
    | nil => rfl
    | cons x l ih =>
      obtain rfl := hl x List.mem_cons_self
      rw [List.foldl_cons, if_pos (by simp)]
      exact ih fun y hy => hl y (List.mem_cons_of_mem _ hy)
  revert hall hne
  generalize (linesOf pa n).map (fun l => l / 2) = l
  intro hall hne
  obtain ⟨x, l, rfl⟩ := List.exists_cons_of_ne_nil hne
  obtain rfl := hall x List.mem_cons_self
  exact hkeep l fun y hy => hall y (List.mem_cons_of_mem _ hy)

/-- The machine once a host has written, before completions go out. -/
def hostWritten (s : State) (world pa : Nat) : State :=
  let u := s.storeCells none world s.ioStamp (cellsOf pa s.arg.bytes)
  { u with host := { u.host with
    writes := tset u.host.writes u.nextId (dedupN ((linesOf pa s.arg.bytes.length).map (fun l => l / 2))) } }.bump

/-- A host writes through a decoder; its completion waits for the line. -/
theorem hostHdmWrite_writes (s : State) (world pa : Nat) (hlink : s.linked = true)
    (hd : s.decoder s.arg.a s.arg.b s.arg.bytes.length = some (world, pa)) (hpa : pa % 128 + s.arg.bytes.length ≤ 128)
    (hm : s.memOk = true) :
    ∃ t, exec .hostHdmWrite s = .next t ∧ t.peek pa s.arg.bytes.length = s.arg.bytes ∧ t.waves = s.waves ∧
      (∀ x, x < pa ∨ pa + s.arg.bytes.length ≤ x → t.peek x 1 = s.peek x 1) ∧
      (0 < s.arg.bytes.length → s.host.writes = [] → (∀ u ∈ t.unconf, u.line ≠ pa / 128) →
        t.host.completed = s.host.completed ++ [s.nextId]) ∧
      (0 < s.arg.bytes.length → s.host.writes = [] → (∃ u ∈ t.unconf, u.line = pa / 128) → t.host.completed = s.host.completed ∧
        tget t.host.writes s.nextId = some [pa / 128]) := by
  have hrun : exec .hostHdmWrite s = .next (hostWritten s world pa).sendDone := by
    show execHostHdmWrite s = _
    unfold execHostHdmWrite
    rw [if_neg (by rw [hlink]; decide), hd]
    rfl
  have hbytes : ∀ x, (hostWritten s world pa).byteAt x = laidOver s.byteAt (cellsOf pa s.arg.bytes) x := fun x =>
    (State.byteAt_congr (s := s.storeCells none world s.ioStamp (cellsOf pa s.arg.bytes)) rfl rfl rfl x).trans
      (State.byteAt_storeCells s none world s.ioStamp _ hm x)
  have hbytes' : ∀ x, (hostWritten s world pa).sendDone.byteAt x = laidOver s.byteAt (cellsOf pa s.arg.bytes) x := fun x => by
    rw [State.sendDone_eq]
    exact hbytes x
  have htraffic := s.traffic_storeCells none world s.ioStamp (cellsOf pa s.arg.bytes)
  have hwaves : (hostWritten s world pa).waves = s.waves := htraffic.waves_eq
  have hnext : (s.storeCells none world s.ioStamp (cellsOf pa s.arg.bytes)).nextId = s.nextId :=
    (State.still_storeCells ..).nextId
  have hhost : (s.storeCells none world s.ioStamp (cellsOf pa s.arg.bytes)).host = s.host := by
    rw [htraffic.rest]
  have hdone (hn : 0 < s.arg.bytes.length) (hw : s.host.writes = []) :
      (hostWritten s world pa).host.completed = s.host.completed ∧
      (hostWritten s world pa).host.writes = [(s.nextId, [pa / 128])] := by
    unfold hostWritten
    dsimp only [State.bump]
    rw [hhost, hnext, hw, linesOf_one pa _ hn hpa]
    exact ⟨rfl, rfl⟩
  have hunconf : (hostWritten s world pa).sendDone.unconf = (hostWritten s world pa).unconf := by rw [State.sendDone_eq]
  refine ⟨_, hrun, State.peek_of_laid hpa hbytes', by rw [State.sendDone_eq]; exact hwaves, State.peek_of_laid_other hbytes',
    fun hn hw hnone => ?_, fun hn hw hsome => ?_⟩
  · obtain ⟨hc, hl⟩ := hdone hn hw
    rw [hunconf] at hnone
    have hopen : ((hostWritten s world pa).unconf.any fun u => ([pa / 128] : List Nat).contains u.line) = false :=
      List.any_eq_false.mpr fun u hu => by simpa using hnone u hu
    unfold State.sendDone
    dsimp only
    rw [hl, if_neg (by simp)]
    dsimp only
    rw [List.filter_cons_of_pos (by rw [hopen]; rfl), hc]
    rfl
  · obtain ⟨hc, hl⟩ := hdone hn hw
    rw [hunconf] at hsome
    obtain ⟨u, hu, hline⟩ := hsome
    have hopen : ((hostWritten s world pa).unconf.any fun u => ([pa / 128] : List Nat).contains u.line) = true :=
      List.any_eq_true.mpr ⟨u, hu, by simp [hline]⟩
    unfold State.sendDone
    dsimp only
    rw [hl, if_neg (by simp)]
    dsimp only
    rw [List.filter_cons_of_neg (by rw [hopen]; decide), hc]
    refine ⟨List.append_nil _, ?_⟩
    rw [List.filter_cons_of_pos (by exact hopen)]
    exact if_pos rfl

/-- Settles O53. Each clause is the branch of its event that the premises choose; a host's write is one line, so that its
completion goes out with the confirmation of that line. -/
theorem linesAndHosts : Obligations.LinesAndHosts := by
  unfold Obligations.LinesAndHosts
  intro s
  exact ⟨lineConfirm_confirms s, cxlCacheSnoop_takes s, dramRequestServe_serves s, ldBindingChange_binds s,
    hdmDecoderCommit_commits s, hostHdmRead_reads s, hostHdmWrite_writes s⟩

end Sys2Proof.Proofs

/-! PROOFS. Fills that name a register of the frontier (R186): loads and returning atomics. -/

namespace Sys2Proof.Proofs
open Sys2Proof Sys2Proof.Machine

/-- The number of a register's lane that wave 1 reads once an event is over. -/
def readsAfter (r : BitVec 8) (lane : Nat) : Out → Option Nat
  | .next t => (tget t.waves 1).map fun w => w.src (.v r) 1 lane
  | _ => none

theorem readsAfter_next {r : BitVec 8} {lane : Nat} {o : Out} {t : State} {w : Wave} (ho : o = .next t) (hw : tget t.waves 1 = some w) :
    readsAfter r lane o = some (w.src (.v r) 1 lane) := by
  subst ho
  exact congrArg (Option.map _) hw

/-! ### O51 -/

/-- A load of 4 bytes whose value, 1, is there already. Its destination is the one register that holds the frontier. -/
def frontierLoad : LoadOp :=
  { stamp := 1, dst := .v 255#8, width := 4, signed := false, inv := false, lanes := [(0, .known [1#8, 0#8, 0#8, 0#8])]
    who := { cls := 0, core := 0, index := 0, deadline := none } }

/-- A machine of one wave, whose oldest load is that one. -/
def frontierLoader : State :=
  { State.reset with cur := 1, arg := { a := 1 }, waves := [(1, { placedWave 0#64 with loads := [frontierLoad] })] }

/-- The register shows the PC of the frontier's first entry, and not the value. -/
theorem frontierLoader_reads : readsAfter 255#8 0 (exec .loadValueReturn frontierLoader) = some 0 := by decide

/-- Refutes O51: the premises bound the destination by the 256 registers and not by the wave's frontier registers, which show the
frontier whatever a load has written there. -/
theorem not_loadsTakeValues : ¬ Obligations.LoadsTakeValues := by
  unfold Obligations.LoadsTakeValues
  intro h
  obtain ⟨-, hwhole⟩ := h frontierLoader { placedWave 0#64 with loads := [frontierLoad] } frontierLoad [] 255#8 rfl rfl rfl rfl rfl
    (by decide) (by decide) (by decide) (by
      intro x hx
      obtain rfl := List.mem_singleton.mp hx
      exact ⟨by decide, .inl ⟨_, rfl, rfl⟩⟩) (by
      intro j v hv _
      obtain rfl := congrArg Prod.snd (List.mem_singleton.mp hv)
      exact ⟨rfl, by decide⟩) (by intro c hc; cases hc)
  obtain ⟨t, w, hrun, hw, -, -, hvalue, -⟩ := hwhole rfl
  have hread := (readsAfter_next hrun hw).symm.trans frontierLoader_reads
  have hone := hvalue _ List.mem_cons_self
  exact absurd ((Option.some.inj hread).symm.trans hone) (by decide)

/-! ### O52 -/

/-- The operands of one lane. -/
def addLane : QLane := { lane := 2, pa := 0, bytes := [], b := 1#64, cmp := 0#64, posted := false, va := 0 }

/-- Lane 2 of an atomic addition of 1 to the 4 bytes at address 0, which returns the old value, 0, to the register that holds the
frontier. -/
def frontierAtomic : QEntry :=
  { stamp := 1, kind := .atomic .add 4 (some (.v 255#8)), lanes := [addLane]
    remoteOp := none, engine := false, whole := [] }

/-- A machine of one wave, whose store queue holds that atomic. -/
def frontierAdder : State :=
  { State.reset with cur := 1, arg := { a := 1 }, waves := [(1, { placedWave 0#64 with storeQ := [frontierAtomic] })] }

/-- Lane 2 of the register shows the lanes of the frontier's first entry, and not the old value. -/
theorem frontierAdder_reads : readsAfter 255#8 2 (exec .storeQueueDrain frontierAdder) = some 0xFFFFFFFF := by decide

/-- Refutes O52: the premises bound the destination of a returning atomic by the 256 registers and not by the wave's frontier
registers, which show the frontier whatever an atomic has returned there. -/
theorem not_storesDrain : ¬ Obligations.StoresDrain := by
  unfold Obligations.StoresDrain
  intro h
  obtain ⟨t, w, hrun, hw, -, -, -, hatomic, -⟩ := h frontierAdder { placedWave 0#64 with storeQ := [frontierAtomic] } frontierAtomic
    rfl rfl rfl rfl rfl (by decide) rfl (by decide) (by
      intro j v hv _
      obtain rfl := congrArg Prod.snd (List.mem_singleton.mp hv)
      exact ⟨rfl, by decide⟩) (by decide) (by intro line hl; cases hl)
  obtain ⟨-, -, -, hold⟩ := hatomic .add 4 (some (.v 255#8)) addLane rfl rfl (.inl rfl) (by decide)
  have hread := (readsAfter_next hrun hw).symm.trans frontierAdder_reads
  exact absurd ((Option.some.inj hread).symm.trans (hold 255#8 rfl (by decide))) (by decide)

end Sys2Proof.Proofs

/-! PROOFS. Names and pointers (R27 to R30, R38, R41). -/

namespace Sys2Proof.Machine

/-! ### The issuing wave through the waits before an access -/

/-- What changes of the issuing wave and acquires keep, the waits before an access keep. -/
theorem State.before_keeps {id : Nat} (P : State → Prop) (hu : ∀ s f, P s → P (State.updWave s id f))
    (ha : ∀ s w scope, P s → P (State.acquire s w scope)) {s t : State} {w : Wave} {order scope : Nat} (hs : P s)
    (h : s.before id w order scope = .go t) : P t := by
  have hfence {s t : State} {scope : Nat} (hs : P s) (h : s.fenceSc id w scope = .go t) : P t := by
    unfold State.fenceSc at h
    split at h
    · cases h
    · split at h
      · cases h
        exact hu _ _ (ha _ _ _ hs)
      · cases h
      · cases h
  have hgates (l : List Gate) : ∀ {s t : State}, P s → s.passGates id w l = .go t → P t := by
    induction l with
    | nil =>
      intro s t hs h
      cases h
      exact hu _ _ hs
    | cons g l ih =>
      intro s t hs h
      cases g with
      | acquire _ _ => cases h
      | fence scope =>
        rw [State.passGates] at h
        split at h
        next s' hf => exact ih (hfence hs hf) h
        · next hn => exact absurd h (hn t)
  unfold State.before at h
  split at h
  next s1 h1 =>
    have h1 : P s1 := by
      split at h1
      · cases h1
        exact hs
      · exact hgates _ hs h1
    split at h
    · split at h
      · cases h
        split
        · exact ha _ _ _ h1
        · exact h1
      · cases h
      · cases h
    · split at h
      · exact hfence h1 h
      · split at h
        · cases h
          exact hu _ _ (ha _ _ _ h1)
        · cases h
          exact h1
  · next hn => exact absurd h (hn t)

/-- A wave of the table stays in it when it is changed. -/
theorem State.isSome_updWave (s : State) (id : Nat) (f : Wave → Wave) (h : (tget s.waves id).isSome = true) :
    (tget (s.updWave id f).waves id).isSome = true := by
  obtain ⟨w, hw⟩ := Option.isSome_iff_exists.mp h
  unfold State.updWave
  rw [hw]
  dsimp only
  rw [State.putWave_waves, tget_tset_same]
  rfl

theorem State.isSome_before {s t : State} {id : Nat} {w : Wave} {order scope : Nat} (hs : (tget s.waves id).isSome = true)
    (h : s.before id w order scope = .go t) : (tget t.waves id).isSome = true :=
  State.before_keeps (fun s => (tget s.waves id).isSome = true) (fun s f hs => s.isSome_updWave id f hs)
    (fun s w scope hs => by
      unfold State.acquire
      split <;> exact hs) hs h

/-! ### The die caches -/

theorem State.writeBack_cache (s : State) (c : DieLine) (who : Stamp) : (s.writeBack c who).cache = s.cache := by
  unfold State.writeBack
  split
  · rfl
  · refine foldl_keeps (fun t : State => t.cache = s.cache) _ _ _ rfl fun t i ht => ?_
    split
    · unfold State.request
      split <;> exact ht
    · exact ht

/-- A copy that is there after an installation is the new one or was there before. -/
theorem State.mem_install {s : State} {who : Stamp} {c d : DieLine} (h : d ∈ (s.install who c).cache) : d = c ∨ d ∈ s.cache := by
  have hkeep (l : List DieLine) (p : DieLine → Bool) (hl : ∀ x ∈ l, x ∈ s.cache) (hd : d ∈ c :: l.filter p) : d = c ∨ d ∈ s.cache :=
    (List.mem_cons.mp hd).imp_right fun h => hl d (List.mem_filter.mp h).1
  unfold State.install at h
  extract_lets rest own mates at h
  have hrest : ∀ x ∈ rest, x ∈ s.cache := fun x hx => (List.mem_filter.mp hx).1
  split at h
  · exact (List.mem_cons.mp h).imp_right (hrest d)
  · split at h
    · exact (List.mem_cons.mp h).imp_right (hrest d)
    · split at h
      · rw [State.writeBack_cache] at h
        exact hkeep rest _ hrest h
      · exact (List.mem_cons.mp h).imp_right (hrest d)

theorem State.countLink_cache (s : State) (world line : Nat) : (s.countLink world line).cache = s.cache := by
  unfold State.countLink
  dsimp only
  split
  · rfl
  · split <;> rfl

/-- No copy in a die cache has bytes of its own: every copy is coherent. -/
def State.Coherent (s : State) : Prop := ∀ c ∈ s.cache, c.data = none

/-- A read of a die in coherent caches takes the newest bytes, and leaves the caches coherent. -/
theorem State.cacheRead_coherent {s : State} (h : s.Coherent) (die world pa n : Nat) (who : Stamp) :
    (s.cacheRead die world pa n none who).2 = s.peek pa n ∧ (s.cacheRead die world pa n none who).1.Coherent := by
  have hcopy {c : DieLine} (hc : s.copyOf die world (pa / 128) none = some c) : c.data = none := h c (List.mem_of_find?_eq_some hc)
  have hnew {c : DieLine} (hc : c.data = none) :
      (((s.countLink world (pa / 128)).useLine who (pa / 128)).install who c).Coherent := fun d hd => by
    obtain rfl | hd := State.mem_install hd
    · exact hc
    · exact h d ((State.countLink_cache s world (pa / 128)) ▸ hd)
  unfold State.cacheRead
  extract_lets line need
  split
  next c hc =>
    rw [hcopy hc]
    split
    · exact ⟨rfl, h⟩
    · exact ⟨rfl, hnew rfl⟩
  · exact ⟨rfl, hnew rfl⟩

theorem State.cacheRead_same (s : State) (die world pa n : Nat) (inv : Option Word) (who : Stamp) :
    s.SameBytes (s.cacheRead die world pa n inv who).1 := by
  have key (c : DieLine) : s.SameBytes (((s.countLink world (pa / 128)).useLine who (pa / 128)).install who c) :=
    ((State.countLink_same ..).trans (⟨rfl, rfl, rfl⟩ : State.SameBytes _ (State.useLine _ who (pa / 128)))).trans (State.install_same ..)
  unfold State.cacheRead
  extract_lets line need
  split
  · split
    · split <;> exact ⟨rfl, rfl, rfl⟩
    · exact key _
  · exact key _

theorem State.still_useLine (s : State) (who : Stamp) (line : Nat) : s.Still (s.useLine who line) := ⟨rfl, rfl⟩

theorem State.still_cacheRead (s : State) (die world pa n : Nat) (inv : Option Word) (who : Stamp) :
    s.Still (s.cacheRead die world pa n inv who).1 := by
  have key (c : DieLine) : s.Still (((s.countLink world (pa / 128)).useLine who (pa / 128)).install who c) :=
    ((State.still_countLink ..).trans (State.still_useLine ..)).trans (State.still_install ..)
  unfold State.cacheRead
  extract_lets line need
  split
  · split
    · split <;> exact ⟨rfl, rfl⟩
    · exact key _
  · exact key _

/-- `t` is `s` after reads and fills of coherent die caches: every byte is as before, no number is taken and the copies stay
coherent. -/
structure State.Reads (s t : State) : Prop where
  traffic : s.Traffic t
  same : s.SameBytes t
  still : s.Still t
  coherent : t.Coherent

theorem State.Reads.peek_eq {s t : State} (h : s.Reads t) (pa n : Nat) : t.peek pa n = s.peek pa n := by
  obtain ⟨hm, hs, hc⟩ := h.same
  unfold State.peek
  simp only [hm, State.sideAt_congr hs hc]

theorem State.Reads.queueByte_eq {s t : State} (h : s.Reads t) (core stamp a : Nat) : t.queueByte core stamp a = s.queueByte core stamp a := by
  unfold State.queueByte State.newest State.wavesOn
  rw [h.traffic.waves_eq]

theorem State.reads_fillRequests {s : State} (h : s.Coherent) (w : Wave) (l : List (Nat × Nat)) : s.Reads (s.fillRequests w l) := by
  have hreq (t : State) (pa : Nat) (who : Stamp) : (t.request pa who false).cache = t.cache := by
    unfold State.request
    split <;> rfl
  refine foldl_keeps s.Reads _ _ s ⟨.refl s, ⟨rfl, rfl, rfl⟩, .refl s, h⟩ fun t sec ⟨ht, hb, hs, hc⟩ => ?_
  have hstep (pa : Nat) (who : Stamp) : s.Reads (t.request pa who false) :=
    ⟨ht.trans (State.traffic_request ..), hb.trans (State.request_same ..), hs.trans (State.still_request ..), fun c h => hc c (hreq t pa who ▸ h)⟩
  unfold State.fill
  split
  · split
    · exact hstep ..
    · exact ⟨ht, hb, hs, hc⟩
  · exact hstep ..

/-- A slot read after other reads gives the bytes that it gave before them. -/
theorem State.Reads.slotBytes {s t : State} (h : s.Reads t) (hs : s.Coherent) (w : Wave) (pa : Nat) :
    (t.slotBytes w pa).2 = (s.slotBytes w pa).2 ∧ s.Reads (t.slotBytes w pa).1 := by
  obtain ⟨hb, hc⟩ := State.cacheRead_coherent h.coherent (dieOf w.core) w.world pa 16 (t.stampOf w)
  obtain ⟨hb', -⟩ := State.cacheRead_coherent hs (dieOf w.core) w.world pa 16 (s.stampOf w)
  refine ⟨?_, h.traffic.trans (State.traffic_cacheRead ..), h.same.trans (State.cacheRead_same ..),
    h.still.trans (State.still_cacheRead ..), hc⟩
  unfold State.slotBytes
  dsimp only
  rw [hb, hb', h.peek_eq, h.still.nextId]
  simp only [h.queueByte_eq]

/-! ### Slots that resolve -/

theorem State.slotVal_congr {s t : State} (h : t.rot = s.rot) (world slot addr : Nat) : t.slotVal world slot addr = s.slotVal world slot addr := by
  unfold State.slotVal State.rotFind
  rw [h]

/-- Slots that all give a value, none of it a pointer to a departed object, are resolved and change nothing. -/
theorem State.resolveLanes_values {s : State} {w : Wave} {val : Nat → Nat} {l : List (Nat × Nat × Nat)}
    (h : ∀ x ∈ l, s.slotVal w.world x.2.1 x.2.2 = .value (val x.1) ∧
      ((val x.1).testBit 63 = false ∨ (s.rotAt (val x.1 / 2 ^ 40 % 2 ^ 20)).state ≠ .departed)) :
    s.resolveLanes w l = .ok (l.map fun x => (x.1, val x.1)) s := by
  induction l with
  | nil => rfl
  | cons x l ih =>
    obtain ⟨lane, slot, addr⟩ := x
    obtain ⟨hv, hdep⟩ := h _ List.mem_cons_self
    have hstep : s.resolveSlot w slot addr = .value (val lane) s := by
      unfold State.resolveSlot
      rw [hv]
      dsimp only
      refine if_neg ?_
      rintro ⟨hbit, hstate⟩
      obtain hdep | hdep := hdep
      · exact Bool.false_ne_true (hdep.symm.trans hbit)
      · exact hdep hstate
    rw [State.resolveLanes, hstep]
    dsimp only
    rw [ih fun x hx => h x (List.mem_cons_of_mem _ hx)]
    rfl

/-- The slots of an LDN with the addresses of its lanes, and the state after the reads. -/
def State.readSlots (w : Wave) (fa : Nat → Nat) (pas : List (Nat × Nat)) (acc : State × List (Nat × Nat × Nat)) :
    State × List (Nat × Nat × Nat) :=
  pas.foldl (fun (acc : State × List (Nat × Nat × Nat)) x =>
    let q := acc.1.slotBytes w x.2
    (q.1, acc.2 ++ [(x.1, leNat q.2, fa x.1)])) acc

theorem State.readSlots_coherent {s : State} (hs : s.Coherent) (w : Wave) (fa : Nat → Nat) (pas : List (Nat × Nat))
    (acc : State × List (Nat × Nat × Nat)) (h : s.Reads acc.1) : s.Reads (State.readSlots w fa pas acc).1 ∧
    (State.readSlots w fa pas acc).2 = acc.2 ++ pas.map fun x => (x.1, leNat (s.slotBytes w x.2).2, fa x.1) := by
  induction pas generalizing acc with
  | nil => exact ⟨h, (List.append_nil _).symm⟩
  | cons x pas ih =>
    obtain ⟨hb, hr⟩ := h.slotBytes hs w x.2
    obtain ⟨hr', hl⟩ := ih ((acc.1.slotBytes w x.2).1, acc.2 ++ [(x.1, leNat (acc.1.slotBytes w x.2).2, fa x.1)]) hr
    refine ⟨hr', hl.trans ?_⟩
    rw [hb, List.append_assoc]
    rfl

/-- The end of an LDN: its wave holds no bundle, and its destination is full. -/
theorem State.stopLdn_wave {s : State} {id : Nat} {w : Wave} (h : tget s.waves id = some w) (f : FmtM) (m : Mask) :
    tget (s.stopLdn id f m).waves id =
      some { w with hold := [], ldn := none, regs := (Mask.lanes m).foldl (fun g k => g.setFull f.data 2 k) w.regs } ∧
    (s.stopLdn id f m).mem = s.mem ∧ (s.stopLdn id f m).cur = s.cur := by
  have hend : tget (s.endHold id).waves id = some { w with hold := [] } ∧ (s.endHold id).mem = s.mem ∧ (s.endHold id).cur = s.cur := by
    unfold State.endHold
    rw [h]
    exact ⟨tget_tset_same .., rfl, rfl⟩
  obtain ⟨hend, hm, hc⟩ := hend
  have hupd (t : State) (g : Wave → Wave) {v : Wave} (hv : tget t.waves id = some v) : tget (t.updWave id g).waves id = some (g v) ∧
      (t.updWave id g).mem = t.mem ∧ (t.updWave id g).cur = t.cur := by
    unfold State.updWave
    rw [hv]
    exact ⟨tget_tset_same .., rfl, rfl⟩
  obtain ⟨h1, hm1, hc1⟩ := hupd (s.endHold id) (fun w => { w with ldn := none }) hend
  obtain ⟨h2, hm2, hc2⟩ := hupd _ (fun w => { w with regs := (Mask.lanes m).foldl (fun g l => g.setFull f.data 2 l) w.regs }) h1
  exact ⟨h2, hm2.trans (hm1.trans hm), hc2.trans (hc1.trans hc)⟩

end Sys2Proof.Machine

namespace Sys2Proof.Proofs
open Sys2Proof Sys2Proof.Machine

/-! ### O42 -/

/-- The table of waves still has the issuing wave once an access has reached memory. -/
theorem isSome_of_reaches {i : Instr} {f : FmtM} {useIndex : Bool} {n : Nat} {acc : Access} {s s1 s2 : State} {w : Wave}
    {l : List (Nat × GAddr)} {pas : List (Nat × Nat)} (hg : goesOn i f f.order.toNat s w s1)
    (h : reaches i f useIndex n acc s w s1 l pas s2) : (tget s2.waves s.cur).isSome = true := by
  obtain ⟨hi, -, hbef⟩ := hg
  obtain ⟨-, ⟨s', hx, rfl⟩, -⟩ := h
  refine State.isSome_updWave _ _ _ ?_
  rw [(State.traffic_of_xlateAll_ok hx).waves_eq]
  exact State.isSome_before (by rw [tget_of_issues hi]; rfl) hbef

/-- The end of an LDN whose lanes have the values `l`: it writes them, and acts as an acquire where it is one. -/
def ldnWritten (u : State) (id : Nat) (w : Wave) (f : FmtM) (m : Mask) (l : List (Nat × Nat)) : State :=
  let v := u.stopLdn id f m
  let x := tgetD v.waves id w
  ((v.putWave id (x.put f.data 2 m (foundAt l))).acquire x (if f.order = 2#3 then f.scope.toNat else 0)).see id

theorem foundAt_map (pas : List (Nat × Nat)) (val : Nat → Nat) {k : Nat} (h : k ∈ pas.map fun x => x.1) :
    foundAt (pas.map fun x => (x.1, val x.1)) k = val k := by
  unfold foundAt
  cases hf : (pas.map fun x => (x.1, val x.1)).find? fun y => decide (y.1 = k) with
  | none =>
    obtain ⟨x, hx, rfl⟩ := List.mem_map.mp h
    have := List.find?_eq_none.mp hf _ (List.mem_map.mpr ⟨x, hx, rfl⟩)
    simp at this
  | some y =>
    obtain ⟨x, -, rfl⟩ := List.mem_map.mp (List.mem_of_find?_eq_some hf)
    have hk : x.1 = k := by simpa using List.find?_some hf
    rw [← hk]

/-- An acquire leaves the waves as they are. -/
theorem acquired_wave {s : State} {id scope : Nat} {w v : Wave} (h : tget s.waves id = some v) :
    tget (s.acquire w scope).waves id = some v := by
  unfold State.acquire
  split <;> exact h

theorem acquire_mem (s : State) (w : Wave) (scope : Nat) : (s.acquire w scope).mem = s.mem := by
  unfold State.acquire
  split <;> rfl

/-- A wave that has taken a value has seen what came before. -/
theorem seen_of_see {s : State} {id : Nat} {v : Wave} (h : tget s.waves id = some v) :
    tget (s.see id).waves id = some { v with seen := (s.see id).nextId } := by
  unfold State.see State.updWave
  rw [h]
  exact tget_tset_same ..

/-! ### Fields of slots and pointers -/

theorem crcStep_lt (r : Nat) (b : Bool) : crcStep r b < 2 ^ 7 := by
  unfold crcStep
  dsimp only
  split
  · exact Nat.xor_lt_two_pow (Nat.mod_lt _ (by decide)) (by decide)
  · exact Nat.mod_lt _ (by decide)

theorem crc7_lt (body : Nat) : crc7 body < 2 ^ 7 :=
  foldl_keeps (fun r : Nat => r < 2 ^ 7) _ _ _ (by decide) fun _ _ _ => crcStep_lt _ _

/-- A slot without a name holds a flat address. -/
theorem slotVal_flat (s : State) (world slot addr : Nat) (h : slot < 2 ^ 57) : s.slotVal world slot addr = .value slot := by
  have hbit : bit slot 127 = false := Nat.testBit_lt_two_pow (Nat.lt_trans h (by norm_num))
  unfold State.slotVal
  dsimp only
  rw [hbit, if_pos (by decide), if_neg]
  · unfold bits
    rw [Nat.pow_zero, Nat.div_one, Nat.mod_eq_of_lt h]
  · unfold bits
    rw [Nat.div_eq_of_lt h]
    simp

/-- The fields of a far name. -/
theorem farName_fields (realm serial off : Nat) (hr : realm < 2 ^ 16) (hs : serial < 2 ^ 64) (ho : off < 2 ^ 40) :
    bit (farName realm serial off) 127 = true ∧ bits (farName realm serial off) 120 7 = crc7 (bits (farName realm serial off) 40 80) ∧
    bits (farName realm serial off) 104 16 = realm ∧ bits (farName realm serial off) 40 64 = serial ∧
    bits (farName realm serial off) 0 40 = off := by
  have hcrc := crc7_lt (realm % 2 ^ 16 * 2 ^ 64 + serial % 2 ^ 64)
  have hname : farName realm serial off = 2 ^ 127 + crc7 (realm % 2 ^ 16 * 2 ^ 64 + serial % 2 ^ 64) * 2 ^ 120 +
    (realm % 2 ^ 16 * 2 ^ 64 + serial % 2 ^ 64) * 2 ^ 40 + off % 2 ^ 40 := rfl
  have hbody : bits (farName realm serial off) 40 80 = realm % 2 ^ 16 * 2 ^ 64 + serial % 2 ^ 64 := by
    rw [hname]
    generalize crc7 (realm % 2 ^ 16 * 2 ^ 64 + serial % 2 ^ 64) = c at hcrc
    unfold bits
    omega
  rw [hbody, hname]
  generalize crc7 (realm % 2 ^ 16 * 2 ^ 64 + serial % 2 ^ 64) = c at hcrc
  refine ⟨?_, ?_, ?_, ?_, ?_⟩
  · unfold bit
    rw [Nat.testBit_eq_decide_div_mod_eq, decide_eq_true_eq]
    omega
  · unfold bits
    omega
  · unfold bits
    omega
  · unfold bits
    omega
  · unfold bits
    omega

/-- A slot that names an object of the table gives its near pointer. -/
theorem slotVal_farName (s : State) (world addr h off : Nat) (e : RotEnt) (hf : s.rotFind e.realm e.serial = some (h, e))
    (hw : e.world = world) (hd : e.doomed = false) (hg : e.state ≠ .gone) (ho : off < 2 ^ 40) :
    s.slotVal world (farName e.realm.toNat e.serial.toNat off) addr = .value (2 ^ 63 + e.gen.toNat * 2 ^ 60 + h * 2 ^ 40 + off) := by
  obtain ⟨hbit, hcrc, hrealm, hserial, hoff⟩ := farName_fields e.realm.toNat e.serial.toNat off e.realm.isLt e.serial.isLt ho
  unfold State.slotVal
  dsimp only
  rw [hbit, hrealm, hserial, hoff, if_neg (by decide), if_neg (not_not.mpr hcrc), BitVec.ofNat_toNat, BitVec.ofNat_toNat,
    BitVec.setWidth_eq, BitVec.setWidth_eq, hf]
  dsimp only
  rw [if_neg (not_not.mpr hw), if_neg (by rw [hd]; simp [hg]), nearPtr, Nat.mod_eq_of_lt ho]

/-- A near pointer gives the name of its object back. -/
theorem nameSlot_near (s : State) (world addr h off : Nat) (hh : h < 2 ^ 20) (ho : off < 2 ^ 40) (ha : (s.rotAt h).state ≠ .absent)
    (hg : (s.rotAt h).state ≠ .gone) (hw : (s.rotAt h).world = world) :
    s.nameSlot world (2 ^ 63 + (s.rotAt h).gen.toNat * 2 ^ 60 + h * 2 ^ 40 + off) addr =
      .ok (farName (s.rotAt h).realm.toNat (s.rotAt h).serial.toNat off) := by
  have hgen := (s.rotAt h).gen.isLt
  generalize hgn : (s.rotAt h).gen.toNat = gen at hgen
  have hbit : bit (2 ^ 63 + gen * 2 ^ 60 + h * 2 ^ 40 + off) 63 = true := by
    unfold bit
    rw [Nat.testBit_eq_decide_div_mod_eq, decide_eq_true_eq]
    omega
  have hhandle : bits (2 ^ 63 + gen * 2 ^ 60 + h * 2 ^ 40 + off) 40 20 = h := by
    unfold bits
    omega
  have hgen' : bits (2 ^ 63 + gen * 2 ^ 60 + h * 2 ^ 40 + off) 60 3 = gen := by
    unfold bits
    omega
  have hoff : bits (2 ^ 63 + gen * 2 ^ 60 + h * 2 ^ 40 + off) 0 40 = off := by
    unfold bits
    omega
  unfold State.nameSlot
  dsimp only
  rw [if_pos hbit, hhandle, hgen', hoff, if_neg (by simp [ha, hgn]), if_neg (not_not.mpr hw), if_neg hg]

/-- An LDN all of whose slots give values. -/
theorem ldn_resolves {f : FmtM} {s s1 s2 s3 : State} {w : Wave} {l : List (Nat × GAddr)} {pas : List (Nat × Nat)} {val : Nat → Nat}
    (hg : goesOn (.ldn f) f f.order.toNat s w s1) (hloads : w.loads = [])
    (hr : reaches (.ldn f) f true 16 .load s w s1 l pas s2)
    (hfree : ∀ x ∈ pas, s2.atomicOn (tgetD s1.waves s.cur w).core x.2 16 = false ∧ s2.loadsOn (tgetD s1.waves s.cur w).core x.2 16 = false ∧
      (tgetD s1.waves s.cur w).cinvDue s2.nextId (x.2 / 128) = false)
    (hd : s2.dataCheck (tgetD s1.waves s.cur w) 16 pas = .ok s3) (hcoh : s3.Coherent)
    (hhold3 : (tgetD s3.waves s.cur (tgetD s1.waves s.cur w)).hold = [])
    (hpas : pas.map (fun x => x.1) = Mask.lanes (actingLanes f (w.active (.ldn f))))
    (hval : ∀ x ∈ pas, s3.slotVal (tgetD s3.waves s.cur (tgetD s1.waves s.cur w)).world
        (leNat (s3.slotBytes (tgetD s3.waves s.cur (tgetD s1.waves s.cur w)) x.2).2) (s1.laneAddr l x.1) = .value (val x.1) ∧
      ((val x.1).testBit 63 = false ∨ (s3.rotAt (val x.1 / 2 ^ 40 % 2 ^ 20)).state ≠ .departed)) :
    ∃ t : State, execLdn f s = .next (t.advance s.cur) ∧ t.mem = s3.mem ∧ tget t.waves s.cur = some
      { ({ tgetD s3.waves s.cur (tgetD s1.waves s.cur w) with
          hold := [], ldn := none
          regs := (Mask.lanes (actingLanes f (w.active (.ldn f)))).foldl (fun g k => g.setFull f.data 2 k)
            (tgetD s3.waves s.cur (tgetD s1.waves s.cur w)).regs } : Wave).put f.data 2 (actingLanes f (w.active (.ldn f))) val with
        seen := t.nextId } := by
  have hsome := isSome_of_reaches hg hr
  obtain ⟨hi, hm, hbef⟩ := hg
  have hc1 := (State.waited_before hbef).cur_eq
  have hc2 := State.cur_of_reaches hr hc1
  have ht := State.traffic_of_dataCheck_ok hd
  have hloc := filter_local hr.2.2
  rw [← ht.waves_eq] at hsome
  obtain ⟨w3, hw3⟩ := Option.isSome_iff_exists.mp hsome
  have hw3D (d : Wave) : tgetD s3.waves s.cur d = w3 := by rw [tgetD, hw3]; rfl
  rw [hw3D] at hhold3
  simp only [hw3D] at hval ⊢
  obtain ⟨hread, hslots⟩ := State.readSlots_coherent hcoh w3 (s1.laneAddr l) pas (s3.fillRequests w3 pas, [])
    (State.reads_fillRequests hcoh w3 pas)
  generalize hu : State.readSlots w3 (s1.laneAddr l) pas (s3.fillRequests w3 pas, []) = r at hread hslots
  obtain ⟨u, slots⟩ := r
  dsimp only at hread hslots
  rw [List.nil_append] at hslots
  have huw : tget u.waves s.cur = some w3 := by rw [hread.traffic.waves_eq]; exact hw3
  obtain ⟨hstop, hstopm, hstopc⟩ := State.stopLdn_wave huw f (actingLanes f (w.active (.ldn f)))
  have hres : u.resolveLanes w3 slots = .ok (slots.map fun x => (x.1, val x.1)) u := by
    refine State.resolveLanes_values fun x hx => ?_
    rw [hslots] at hx
    obtain ⟨y, hy, rfl⟩ := List.mem_map.mp hx
    obtain ⟨h1, h2⟩ := hval y hy
    refine ⟨(State.slotVal_congr hread.traffic.rot_eq ..).trans h1, h2.imp_right fun h => ?_⟩
    unfold State.rotAt at h ⊢
    rw [hread.traffic.rot_eq]
    exact h
  have hrun : execLdn f s = .next ((ldnWritten u s.cur w3 f (actingLanes f (w.active (.ldn f))) (slots.map fun x => (x.1, val x.1))).advance s.cur) := by
    refine issue_done hi ?_
    dsimp only
    rw [if_neg hm, if_neg (by rw [hloads]; simp)]
    refine congrArg (Act.onRaise _) (a₂ := .done _) ?_
    rw [State.gated_of_before hbef]
    refine (State.access_of_reaches hr hc1 _).trans ?_
    have hnone : (pas.any fun x => s2.atomicOn (tgetD s1.waves s.cur w).core x.2 16 || s2.loadsOn (tgetD s1.waves s.cur w).core x.2 16 ||
        (tgetD s1.waves s.cur w).cinvDue s2.nextId (x.2 / 128)) = false := List.any_eq_false.mpr fun x hx => by
      obtain ⟨h1, h2, h3⟩ := hfree x hx
      rw [h1, h2, h3]
      decide
    have hlocal : s3.remoteLoad s.cur w3 16 (s1.laneAddr l) [] = .have [] s3 := by
      unfold State.remoteLoad
      simp [hhold3]
    have hread' := hu
    unfold State.readSlots at hread'
    dsimp only at hread'
    rw [hloc.1, hloc.2, hnone, if_neg Bool.false_ne_true, hd]
    dsimp only
    rw [ht.cur_eq, hc2, hw3D, hlocal]
    dsimp only
    rw [ht.cur_eq, hc2, hw3D]
    simp only [List.find?_nil]
    rw [hread']
    dsimp only
    rw [hres]
    dsimp only
    rw [hread.traffic.cur_eq, ht.cur_eq, hc2, hstopc, hread.traffic.cur_eq, ht.cur_eq, hc2]
    rfl
  refine ⟨_, hrun, ?_, ?_⟩
  · unfold ldnWritten State.see
    dsimp only
    rw [State.updWave_mem]
    exact (acquire_mem ..).trans (hstopm.trans hread.same.1)
  · have hput : (({ w3 with hold := [], ldn := none,
                             regs := (Mask.lanes (actingLanes f (w.active (.ldn f)))).foldl (fun g k => g.setFull f.data 2 k) w3.regs } : Wave).put
        f.data 2 (actingLanes f (w.active (.ldn f))) (foundAt (slots.map fun x => (x.1, val x.1)))) =
        ({ w3 with hold := [], ldn := none,
                   regs := (Mask.lanes (actingLanes f (w.active (.ldn f)))).foldl (fun g k => g.setFull f.data 2 k) w3.regs } : Wave).put
        f.data 2 (actingLanes f (w.active (.ldn f))) val := by
      refine Wave.put_congr _ _ _ fun k hk => ?_
      rw [hslots, List.map_map]
      exact foundAt_map pas val (hpas ▸ hk)
    unfold ldnWritten
    dsimp only
    rw [tgetD, hstop, Option.getD_some, hput]
    exact seen_of_see (acquired_wave (tget_tset_same ..))

/-- Settles O42. LDN reads coherent caches, so that the slots are what they were after the data step; the rest are the fields of
slots, pointers and names. -/
theorem namesResolve : Obligations.NamesResolve := by
  unfold Obligations.NamesResolve
  exact ⟨fun f s w s1 s2 s3 l pas val hg _ _ hl hr hfree hd hc hh3 hpas hval =>
      ldn_resolves hg hl hr hfree hd hc hh3 hpas hval,
    fun s world slot addr => slotVal_flat s world slot addr, fun s world addr h off e => slotVal_farName s world addr h off e,
    fun s world addr h off => nameSlot_near s world addr h off⟩

end Sys2Proof.Proofs

/-! PROOFS. Translation and objects (R83, R102). -/

namespace Sys2Proof.Proofs
open Sys2Proof Sys2Proof.Machine

/-! ### O54 -/

/-- A machine in which a page request of world 0 is outstanding, and the supervisor replies to it. -/
def replied : State := { State.reset with xl := { State.reset.xl with requests := [(0, 0)] } }

/-- The pseudo-channels that have had a request after an outcome. -/
def channelsAfter : Out → Nat
  | .next t => t.plat.chans.length
  | _ => 0

/-- The fault unit's read of its record is a request to a pseudo-channel. -/
theorem replied_requests : channelsAfter (exec .pageInstall replied) = 1 := by decide

/-- Refutes O54: the reply to a page request is read from device memory, and that traffic is counted at a pseudo-channel, so that
more than the translation state changes. -/
theorem not_translationAndObjects : ¬ Obligations.TranslationAndObjects := by
  unfold Obligations.TranslationAndObjects
  intro h
  obtain ⟨-, ⟨t, hrun, hframe, -⟩, -⟩ := h replied
  have hchans : channelsAfter (exec .pageInstall replied) = t.plat.chans.length := congrArg channelsAfter hrun
  have hnone : t.plat.chans = [] := by rw [hframe]; rfl
  rw [replied_requests, hnone] at hchans
  exact absurd hchans (by decide)

end Sys2Proof.Proofs

/-! PROOFS. Lowering at a barrier (R194, R390). -/

namespace Sys2Proof.Proofs
open Sys2Proof Sys2Proof.Machine

/-! ### O56 -/

/-- The entry of a whole wave that waits at the barrier of ridge 0. -/
def barrierEntry : Entry :=
  { pc := 0#32, prio := 0#16, ridx := 0, yld := false, hld := false, bwt := some (0, false), passed := false, mask := 0xFFFFFFFF#32 }

/-- A wave that waits there, and has a lower request. -/
def barrierWave : Wave :=
  { placedWave 0#64 with bundle := none, clause := none, others := [barrierEntry], snap := [barrierEntry], lowerReq := true }

/-- A machine with that wave, of a world that has left RUN. -/
def leftAtBarrier : State :=
  { State.reset with arg := { a := 1 }, waves := [(1, barrierWave)], worlds := [(0, { World.init with leaving := true })] }

/-- The kind of a wave's record after an outcome. -/
def recKindAfter (id : Nat) : Out → Option (BitVec 2)
  | .next t => (tget t.waves id).map Wave.recKind
  | _ => none

/-- The wave's record is a full one. -/
theorem leftAtBarrier_full : recKindAfter 1 (exec .waveLower leftAtBarrier) = some 2#2 := by decide

/-- Refutes O56: a wave that waits at a barrier is lowered to a full record where its world has left RUN, and not to a carry
record. -/
theorem not_schedulingEvents : ¬ Obligations.SchedulingEvents := by
  unfold Obligations.SchedulingEvents
  intro h
  obtain ⟨-, -, -, -, hlower, -⟩ := h leftAtBarrier barrierWave
  obtain ⟨t, w, hrun, -, hw, -, -, hkind, -⟩ := hlower rfl rfl rfl (by decide) (by decide) (by decide) (by decide)
  have hrec : recKindAfter 1 (exec .waveLower leftAtBarrier) = some w.recKind :=
    (congrArg (recKindAfter 1) hrun).trans (congrArg (Option.map Wave.recKind) hw)
  rw [leftAtBarrier_full, hkind] at hrec
  exact absurd hrec (by decide)

end Sys2Proof.Proofs

/-! PROOFS. Engine operations and multicast writes (R63, R148, R156, R157, R197, R198, R299, R308). -/

namespace Sys2Proof.Machine

/-! ### What a frozen operation keeps -/

/-- `p` is `o` further on: the sequence number and the block are the same. -/
structure EngOp.Alike (o p : EngOp) : Prop where
  seq : p.seq = o.seq
  block : p.block = o.block

theorem EngOp.Alike.refl (o : EngOp) : o.Alike o := ⟨rfl, rfl⟩

theorem EngOp.Alike.trans {o p q : EngOp} (h : o.Alike p) (k : p.Alike q) : o.Alike q :=
  ⟨k.seq.trans h.seq, k.block.trans h.block⟩

/-- `t` is `s` with the same operations and choices. -/
structure State.SameOps (s t : State) : Prop where
  ops : t.ops = s.ops
  arg : t.arg = s.arg

theorem State.SameOps.refl (s : State) : s.SameOps s := ⟨rfl, rfl⟩

theorem State.SameOps.trans {s t u : State} (h : s.SameOps t) (k : t.SameOps u) : s.SameOps u :=
  ⟨k.ops.trans h.ops, k.arg.trans h.arg⟩

theorem State.Traffic.sameOps {s t : State} (h : s.Traffic t) : s.SameOps t := ⟨h.ops_eq, by rw [h.rest]⟩

theorem State.sameOps_updWave (s : State) (id : Nat) (f : Wave → Wave) : s.SameOps (s.updWave id f) := by
  unfold State.updWave
  split <;> exact ⟨rfl, rfl⟩

theorem State.sameOps_of_opXlate_ok {o : EngOp} {acc : Access} {g : GAddr} {l : List (Nat × Nat)} {out r : List (Nat × Nat × Nat)}
    {s s' : State} (h : s.opXlate o acc g l out = .ok r s') : s.SameOps s' := by
  induction l generalizing s out with
  | nil =>
    cases h
    exact ⟨rfl, rfl⟩
  | cons x l ih =>
    rw [State.opXlate] at h
    split at h
    next heq => exact (State.traffic_of_xlate_ok heq).sameOps.trans (ih h)
    all_goals cases h

/-- An engine's write goes on with the operation, and puts nothing in the table of operations. -/
theorem State.opWrite_ok {s s' : State} {key base : Nat} {o o' : EngOp} {sum : Int} {bs : List Byte}
    (h : s.opWrite key o base sum bs = .ok o' s') : o.Alike o' ∧ s.SameOps s' := by
  unfold State.opWrite at h
  split at h
  · cases h
  · split at h
    · cases h
    · cases h
    · cases h
    next heq =>
      cases h
      obtain ⟨hops, harg⟩ := (State.sameOps_of_opXlate_ok heq).trans (State.sameOps_updWave ..)
      exact ⟨⟨rfl, rfl⟩, hops, harg⟩

theorem State.sameOps_freeRun (s : State) (key : Nat) (o : EngOp) (base : Nat) (sum : Int) (n : Nat) :
    s.SameOps (s.freeRun key o base sum n) :=
  foldl_keeps s.SameOps _ _ s (.refl s) fun t p ht => by
    dsimp only
    split
    next heq =>
      obtain ⟨-, hops, harg⟩ := State.opWrite_ok heq
      split
      · exact ht.trans ⟨hops, harg⟩
      · exact ⟨ht.ops, ht.arg⟩
    · exact ht

theorem State.sameOps_spoilLevel (s : State) (key : Nat) (o : EngOp) : s.SameOps (s.spoilLevel key o) := by
  unfold State.spoilLevel
  extract_lets t
  split
  · exact .refl s
  · refine foldl_keeps s.SameOps _ _ s (.refl s) fun u k hu => ?_
    dsimp only
    split
    · exact hu.trans (State.sameOps_freeRun ..)
    · exact ⟨hu.ops, hu.arg⟩

theorem State.overlay_keeps (s : State) (o : EngOp) (t : Trav) (dbase doff : Nat) (reads : Nat → Bool) (bs : List Byte) :
    s.SameOps (s.overlay o t dbase doff reads bs).1 ∧ o.Alike (s.overlay o t dbase doff reads bs).2.1 := by
  unfold State.overlay
  dsimp only
  split <;> exact ⟨⟨rfl, rfl⟩, rfl, rfl⟩

theorem State.travWrite_ok {s s' : State} {key base off : Nat} {o o' : EngOp} {t : Trav} {bs : List Byte}
    (h : s.travWrite key o t base off bs = .ok o' s') : o.Alike o' ∧ s.SameOps s' := by
  unfold State.travWrite at h
  split at h
  · exact State.opWrite_ok h
  · split at h <;>
    · cases h
      exact ⟨.refl o, rfl, rfl⟩

theorem State.sameOps_mcLand (s : State) (d : McDest) (off : Nat) (bs : List Byte) : s.SameOps (s.mcLand d off bs) :=
  foldl_keeps s.SameOps _ _ s (.refl s) fun _ _ hu => ite_cases (P := s.SameOps) ⟨hu.ops, hu.arg⟩ hu

/-- A copy whose rest is spoilt stays in the table, with its number and block. -/
theorem State.spoil_op {s : State} {key : Nat} {o : EngOp} (h : tget s.ops key = some o) :
    (∃ p, tget (s.spoil key o).ops key = some p ∧ o.Alike p) ∧ (s.spoil key o).arg = s.arg := by
  unfold State.spoil
  extract_lets t gather
  split
  · exact ⟨⟨o, h, .refl o⟩, rfl⟩
  · have hfold (f : State × EngOp → Nat → State × EngOp) (l : List Nat)
        (hf : ∀ a k, s.SameOps a.1 ∧ o.Alike a.2 → s.SameOps (f a k).1 ∧ o.Alike (f a k).2) :
        (∃ p, tget ((l.foldl f (s, o)).1.putOp key (l.foldl f (s, o)).2).ops key = some p ∧ o.Alike p) ∧
          ((l.foldl f (s, o)).1.putOp key (l.foldl f (s, o)).2).arg = s.arg := by
      obtain ⟨hs, ho⟩ := foldl_keeps (fun a : State × EngOp => s.SameOps a.1 ∧ o.Alike a.2) f l (s, o) ⟨.refl s, .refl o⟩ hf
      exact ⟨⟨_, tget_tset_same .., ho⟩, hs.arg⟩
    refine hfold _ _ fun a k ha => ?_
    obtain ⟨hs, ho⟩ := ha
    extract_lets row bs u reads x y
    have hu : s.SameOps u := ⟨hs.ops, hs.arg⟩
    split
    · have hx : s.SameOps x.1 ∧ o.Alike x.2.1 := by
        unfold x
        split
        · obtain ⟨hs', ho'⟩ := State.overlay_keeps u a.2 t t.dst row.1 reads bs
          exact ⟨hu.trans hs', ho.trans ho'⟩
        · exact ⟨hu, ho⟩
      exact ⟨foldl_keeps s.SameOps _ _ x.1 hx.1 fun v d hv => hv.trans (State.sameOps_mcLand ..), hx.2⟩
    · obtain ⟨hs', ho'⟩ := State.overlay_keeps u a.2 t (a.2.dstBase t) row.1 reads bs
      have hy : s.SameOps y.1 ∧ o.Alike y.2.1 := ⟨hu.trans hs', ho.trans ho'⟩
      split
      · exact ⟨hy.1.trans (State.sameOps_freeRun ..), hy.2⟩
      · split
        next heq =>
          obtain ⟨ho'', hs''⟩ := State.travWrite_ok heq
          exact ⟨hy.1.trans hs'', hy.2.trans ho''⟩
        · exact ⟨hs, ho⟩

/-! ### Notices -/

/-- The table without an operation whose notice has retired, and the wave that has taken it. -/
def State.noticed (s : State) (id key : Nat) (o : EngOp) (w : Wave) : State :=
  let t := ((s.putWave id w).opClear key).touch o.core
  ({ t with ops := tdel t.ops key }).settleCairns o.core o.wg (t.opSlot o)

/-! ### Multicast writes -/

theorem State.countDrop_core (s : State) (k : Nat) : (s.countDrop k).core k = { s.core k with
    lmdrop := if (s.core k).lmdrop = 0xFFFFFFFF#32 then 0xFFFFFFFF#32 else (s.core k).lmdrop + 1#32 } := by
  have hdrop : (if (s.core k).lmdrop = 0xFFFFFFFF#32 then (s.core k).lmdrop else (s.core k).lmdrop + 1#32) =
      if (s.core k).lmdrop = 0xFFFFFFFF#32 then 0xFFFFFFFF#32 else (s.core k).lmdrop + 1#32 := ite_congr rfl id fun _ => rfl
  unfold State.countDrop
  dsimp only
  rw [State.core_putCore, if_pos rfl, hdrop]

/-- A multicast write whose operation is gone only leaves the table. -/
theorem State.mcOver_gone {s : State} {id : Nat} {m : McWrite} (h : tget s.ops m.op = none) :
    s.mcOver id m = { s with fab := { s.fab with multicasts := tdel s.fab.multicasts id } } := by
  unfold State.mcOver
  dsimp only
  rw [h]

/-- A multicast write reaches its core in time, and the tag is still that of its allocation (R63). -/
def State.mcHit (s : State) (m : McWrite) : Bool :=
  decide (s.clock.toNat ≤ m.sent + 65536 ∧ (tget (s.core m.core).gran (m.addr / 128)).map (fun g => g.tag) = some m.tag)

/-- What the arrival of a multicast write does, where its tag is right or not. -/
def State.mcLanded (s : State) (m : McWrite) (hit : Bool) : State :=
  if !hit then (s.countDrop m.core).mcOver s.arg.a m
  else if (s.core m.core).still then s
  else (s.putCore m.core ((s.core m.core).lWrite m.addr m.bytes)).mcOver s.arg.a m

theorem State.mcHit_eq (s : State) (m : McWrite) : (decide (s.clock.toNat ≤ m.sent + 65536) &&
    (match tget (s.core m.core).gran (m.addr / 128) with
      | some g => decide (g.tag = m.tag)
      | none => false)) = s.mcHit m := by
  unfold State.mcHit
  cases tget (s.core m.core).gran (m.addr / 128) with
  | none => simp
  | some g => simp

/-! ### Units -/

/-- A unit that takes an operation out of its checks. -/
theorem State.opProgress_checked {s : State} {k : Nat} {o p : EngOp} (ho : tget s.ops k = some o) (hcls : o.cls ≠ 7)
    (hstill : (s.core o.core).still = false) (hstop : s.stopsOp o = false) (hunit : s.opUnit k o = s.putOp k p) (hne : p.state ≠ o.state) :
    s.opProgress k = ((s.putOp k p).opClear k).putOp k { p with noPages := [] } := by
  have hghost : o.ghost = false := decide_eq_false hcls
  have hp : tget (s.putOp k p).ops k = some p := tget_tset_same ..
  unfold State.opProgress
  rw [ho]
  dsimp only
  rw [hghost, hstill, hstop, hunit, hp]
  dsimp only
  rw [if_neg (by decide), if_neg Bool.false_ne_true, if_neg fun h => hne h.2]

end Sys2Proof.Machine

namespace Sys2Proof.Proofs
open Sys2Proof Sys2Proof.Machine

/-! ### O55 -/

/-- The checks of an MMA. -/
theorem mma_checks {s : State} {o : EngOp} (ho : tget s.ops s.arg.a = some o) (hkind : o.kind = .mma) (hcls : o.cls = 1)
    (hstate : o.state = .check) (hstill : (s.core o.core).still = false) (hstop : s.stopsOp o = false)
    (hmay : s.mayStart s.arg.a o = true) :
    ∃ t, exec .engineOpProgress s = .next t ∧ t.mem = s.mem ∧ t.cores = s.cores ∧
      ∃ p, tget t.ops s.arg.a = some p ∧ p.seq = o.seq ∧ p.block = o.block ∧
        match mmaCheck (s.core o.core) o.cairns o.block with
        | none => if mmaBad (s.core o.core) o.block = true then ∃ r : FaultRec, p.state = .due r ∧ r.code = 0x1A#8 ∧ r.step = 6#3 ∧
            r.seq = BitVec.ofNat 16 o.seq
          else p.state = .finished
        | some code => ∃ r : FaultRec, p.state = .due r ∧ r.code = BitVec.ofNat 8 code ∧ r.step = 6#3 ∧ r.seq = BitVec.ofNat 16 o.seq := by
  have hunit : s.opUnit s.arg.a o = s.mmaStart s.arg.a o := by
    unfold State.opUnit
    rw [hstate]
    dsimp only
    rw [hkind]
    dsimp only
    unfold State.matrixStep
    rw [hstate, hkind]
    exact if_pos hmay
  have hrun (p : EngOp) (hp : s.mmaStart s.arg.a o = s.putOp s.arg.a p) (hne : p.state ≠ .check) : exec .engineOpProgress s =
      .next (((s.putOp s.arg.a p).opClear s.arg.a).putOp s.arg.a { p with noPages := [] }) :=
    congrArg Host.Outcome.next (State.opProgress_checked ho (by rw [hcls]; decide) hstill hstop (hunit.trans hp) (hstate ▸ hne))
  unfold State.mmaStart at hrun
  cases hcheck : mmaCheck (s.core o.core) o.cairns o.block with
  | some code =>
    rw [hcheck] at hrun
    exact ⟨_, hrun _ rfl nofun, rfl, rfl, _, tget_tset_same .., rfl, rfl, _, rfl, rfl, rfl, rfl⟩
  | none =>
    rw [hcheck] at hrun
    dsimp only at hrun ⊢
    by_cases hbad : mmaBad (s.core o.core) o.block = true
    · rw [if_pos hbad] at hrun
      refine ⟨_, hrun _ rfl nofun, rfl, rfl, _, tget_tset_same .., rfl, rfl, ?_⟩
      rw [if_pos hbad]
      exact ⟨_, rfl, rfl, rfl, rfl⟩
    · rw [if_neg hbad] at hrun
      exact ⟨_, hrun _ rfl nofun, rfl, rfl, _, tget_tset_same .., rfl, rfl, (if_neg hbad).mpr rfl⟩

/-- A condition that leaves nothing undefined only freezes its operation. -/
theorem freeze_only {s : State} {o : EngOp} {r : FaultRec} (ho : tget s.ops s.arg.a = some o) (hstate : o.state = .due r)
    (hrest : s.leavesRest o r = false) : exec .engineOpFreeze s = .next (s.putOp s.arg.a { o with state := .frozen r }) := by
  have hrst : r.rst = false := by
    unfold State.leavesRest at hrest
    exact (Bool.or_eq_false_iff.mp hrest).1
  refine congrArg Host.Outcome.next ?_
  rw [ho]
  dsimp only
  rw [hstate]
  dsimp only
  rw [hrst, hrest, if_neg Bool.false_ne_true, if_neg Bool.false_ne_true, ite_self, ho]

/-- A condition that is due freezes its operation. -/
theorem freezes {s : State} {o : EngOp} {r : FaultRec} (ho : tget s.ops s.arg.a = some o) (hstate : o.state = .due r) :
    ∃ t p, exec .engineOpFreeze s = .next t ∧ tget t.ops s.arg.a = some p ∧ p.state = .frozen r ∧ p.seq = o.seq ∧ p.block = o.block := by
  have hput (u : State) (hu : (∃ p, tget u.ops s.arg.a = some p ∧ o.Alike p) ∧ u.arg = s.arg) (hrun : exec .engineOpFreeze s =
      .next (match tget u.ops u.arg.a with
        | some o => u.putOp u.arg.a { o with state := .frozen r }
        | none => u)) :
      ∃ t p, exec .engineOpFreeze s = .next t ∧ tget t.ops s.arg.a = some p ∧ p.state = .frozen r ∧ p.seq = o.seq ∧ p.block = o.block := by
    obtain ⟨⟨p, hp, hseq, hblock⟩, harg⟩ := hu
    rw [harg, hp] at hrun
    exact ⟨_, _, hrun, tget_tset_same .., rfl, hseq, hblock⟩
  have hkeep {u : State} (hu : s.SameOps u) : (∃ p, tget u.ops s.arg.a = some p ∧ o.Alike p) ∧ u.arg = s.arg :=
    ⟨⟨o, by rw [hu.ops]; exact ho, .refl o⟩, hu.arg⟩
  refine hput (if o.kind = .xlevel then (if r.rst then s.spoilLevel s.arg.a o else s)
    else if s.leavesRest o r then s.spoil s.arg.a o else s) ?_ ?_
  · split
    · split
      · exact hkeep (State.sameOps_spoilLevel ..)
      · exact hkeep (.refl s)
    · split
      · exact State.spoil_op ho
      · exact hkeep (.refl s)
  · refine congrArg Host.Outcome.next ?_
    rw [ho]
    dsimp only
    split
    next q hq =>
      obtain rfl := OpState.due.inj (hq.symm.trans hstate)
      exact rfl
    next hn => exact absurd hstate (hn r)

/-- A finished operation without an end of its own completes. -/
theorem finishes {s : State} {o : EngOp} (ho : tget s.ops s.arg.a = some o) (hstate : o.state = .finished) (hsent : s.unsent s.arg.a o = false) :
    exec .engineOpComplete s = .next (s.opFinish s.arg.a o s.arg.b s.arg.c) := by
  refine congrArg Host.Outcome.next ?_
  rw [ho]
  exact if_pos ⟨hstate, by rw [hsent]; rfl⟩

theorem plain_completes {s : State} {o : EngOp} (ho : tget s.ops s.arg.a = some o) (hstate : o.state = .finished)
    (hsent : s.unsent s.arg.a o = false) (hkind : o.kind ∈ [.mzero, .dpload, .xlevel, .ldg2l]) :
    exec .engineOpComplete s = .next (s.putOp s.arg.a { o with state := .complete }) := by
  rw [finishes ho hstate hsent]
  refine congrArg Host.Outcome.next ?_
  unfold State.opFinish
  simp only [List.mem_cons, List.not_mem_nil, or_false] at hkind
  obtain h | h | h | h := hkind <;> rw [h]

/-- An MMA whose checksum meets no error writes its tile. -/
theorem mma_completes {s : State} {o : EngOp} {p : Mma} (ho : tget s.ops s.arg.a = some o) (hstate : o.state = .finished)
    (hsent : s.unsent s.arg.a o = false) (hkind : o.kind = .mma) (hblock : mmaBlock o.block = some p) (herr : s.arg.b = 0) :
    ∃ t c, exec .engineOpComplete s = .next t ∧ t.mem = s.mem ∧ t.core o.core = c ∧
      c = (s.core o.core).putTile p (mmaOut (s.core o.core) p).1 ∧
      tget t.ops s.arg.a = some { o with state := .complete, flags := o.flags ||| (mmaOut (s.core o.core) p).2 } := by
  have hmiss (c : CoreSt) : mmaMismatch c p 0 = false := if_pos rfl
  have hdone : s.opFinish s.arg.a o s.arg.b s.arg.c = (s.putCore o.core ((s.core o.core).putTile p (mmaOut (s.core o.core) p).1)).putOp
      s.arg.a { o with state := .complete, flags := o.flags ||| (mmaOut (s.core o.core) p).2 } := by
    have hend : s.opFinish s.arg.a o s.arg.b s.arg.c = s.mmaDone s.arg.a o s.arg.b s.arg.c := by
      unfold State.opFinish
      rw [hkind]
    rw [hend, herr]
    unfold State.mmaDone
    rw [hblock]
    dsimp only
    rw [hmiss, Bool.and_false, Bool.false_and, if_neg Bool.false_ne_true]
    exact if_pos (c := (!false) = true) rfl
  exact ⟨_, _, (finishes ho hstate hsent).trans (congrArg Host.Outcome.next hdone), rfl, (State.core_putCore ..).trans (if_pos rfl), rfl,
    tget_tset_same ..⟩

theorem unfolding_ends {s : State} {o : EngOp} {u : Unfold} (ho : tget s.ops s.arg.a = some o) (hu : o.unfold = some u)
    (hstate : o.state = .run) (hcls : o.cls ≠ 7) (hphase : u.phase = .result) (hrun : u.running = []) :
    exec .unfoldingEnd s = .next ((s.copyResult s.arg.a o u).retireNotice o.wave o.cls) := by
  have hghost : o.ghost = false := decide_eq_false hcls
  refine congrArg Host.Outcome.next ?_
  rw [ho]
  dsimp only
  rw [hu]
  exact if_pos ⟨hstate, hphase, hrun, by rw [hghost]; rfl⟩

theorem frame_dispatched {s : State} {o : EngOp} {u : Unfold} (ho : tget s.ops s.arg.a = some o) (hu : o.unfold = some u)
    (hstate : o.state = .run) (hstop : u.stopped = false) (hclean : ∀ x ∈ u.frames, x.dirty = false)
    (hfirst : s.firstOnRidge s.arg.a o = true) : exec .frameDispatch s = .next (s.dispatch s.arg.a o u s.arg.b) := by
  refine congrArg Host.Outcome.next ?_
  rw [ho]
  dsimp only
  rw [hu]
  exact if_pos ⟨hstate, hstop, List.all_eq_true.mpr fun x hx => by rw [hclean x hx]; rfl, hfirst⟩

/-- The notice of the first operation of its class retires. -/
theorem notice_retires {s : State} {o : EngOp} {key : Nat} {w : Wave} {rest : List (Nat × EngOp)}
    (hops : s.opsOf s.arg.a s.arg.b = (key, o) :: rest) (hw : tget s.waves s.arg.a = some w) (hstate : o.state = .complete)
    (hacked : o.unacked = 0) (hdenied : o.denied = []) (hkind : o.kind ≠ .rbegin) (hcls : s.arg.b < w.cnt.length) :
    ∃ t w', exec .completionNoticeRetire s = .next t ∧
      t.mem = s.mem ∧ tget t.waves s.arg.a = some w' ∧ w'.cntOf s.arg.b = w.cntOf s.arg.b - 1 ∧
      (∀ c, c ≠ s.arg.b → w'.cntOf c = w.cntOf c) ∧ w'.fpflags = w.fpflags ||| o.flags ∧ w'.regs = w.regs ∧ w'.seq = w.seq ∧
      tget t.ops key = none := by
  have hposts : (decide (s.arg.b ≠ 3) && (decide (0 < o.unacked) || decide (o.denied ≠ []))) = false := by
    rw [hacked, hdenied]
    exact Bool.and_false _
  have hupd : s.updWave s.arg.a (fun w => { w.uncount s.arg.b with fpflags := w.fpflags ||| o.flags }) =
      s.putWave s.arg.a { w.uncount s.arg.b with fpflags := w.fpflags ||| o.flags } := by
    unfold State.updWave
    rw [hw]
  refine ⟨s.noticed s.arg.a key o { w.uncount s.arg.b with fpflags := w.fpflags ||| o.flags }, _, congrArg Host.Outcome.next ?_, rfl,
    tget_tset_same .., (getD_lset hcls).trans (if_pos rfl), fun c hc => (getD_lset hcls).trans (if_neg hc), rfl, rfl, rfl,
    tget_tdel_same s.ops key⟩
  unfold State.retireNotice
  rw [hops, hw]
  dsimp only
  rw [hposts, if_neg (by simp [hstate]), if_neg Bool.false_ne_true, hupd]
  exact if_neg hkind

/-- A multicast write arrives. -/
theorem multicast_arrives {s : State} {m : McWrite} (hm : tget s.fab.multicasts s.arg.a = some m) (hop : tget s.ops m.op = none)
    (hstill : (s.core m.core).still = false ∨ s.mcHit m = false) : ∃ t, exec .multicastWriteArrive s = .next t ∧
      tget t.fab.multicasts s.arg.a = none ∧ t.mem = s.mem ∧
      t.core m.core = if s.mcHit m = true then (s.core m.core).lWrite m.addr m.bytes
        else { s.core m.core with lmdrop := if (s.core m.core).lmdrop = 0xFFFFFFFF#32 then 0xFFFFFFFF#32
                                            else (s.core m.core).lmdrop + 1#32 } := by
  have hrun : exec .multicastWriteArrive s = .next (s.mcLanded m (s.mcHit m)) := by
    refine congrArg Host.Outcome.next ?_
    rw [hm]
    exact congrArg (s.mcLanded m) (s.mcHit_eq m)
  unfold State.mcLanded at hrun
  cases hhit : s.mcHit m with
  | false =>
    rw [hhit] at hrun
    refine ⟨_, hrun.trans (congrArg Host.Outcome.next ((if_pos rfl).trans (State.mcOver_gone hop))), tget_tdel_same .., rfl, ?_⟩
    exact (State.countDrop_core s m.core).trans (if_neg Bool.false_ne_true).symm
  | true =>
    have hcore : (s.core m.core).still = false := hstill.resolve_right (by rw [hhit]; decide)
    rw [hhit, hcore] at hrun
    exact ⟨_, hrun.trans (congrArg Host.Outcome.next (State.mcOver_gone hop)), tget_tdel_same .., rfl, (State.core_putCore ..).trans (if_pos rfl)⟩

/-- A multicast write is dropped. -/
theorem multicast_times_out {s : State} {m : McWrite} (hm : tget s.fab.multicasts s.arg.a = some m) (hop : tget s.ops m.op = none)
    (htime : m.sent + 65536 ≤ s.clock.toNat) : ∃ t, exec .multicastTimeout s = .next t ∧ tget t.fab.multicasts s.arg.a = none ∧
      (t.core m.core).lmem = (s.core m.core).lmem ∧
      (t.core m.core).lmdrop = if (s.core m.core).lmdrop = 0xFFFFFFFF#32 then 0xFFFFFFFF#32 else (s.core m.core).lmdrop + 1#32 := by
  have hcore := State.countDrop_core s m.core
  have hrun : exec .multicastTimeout s = .next ((s.countDrop m.core).mcOver s.arg.a m) := by
    refine congrArg Host.Outcome.next ?_
    rw [hm]
    exact if_neg (Nat.not_lt.mpr htime)
  exact ⟨_, hrun.trans (congrArg Host.Outcome.next (State.mcOver_gone hop)), tget_tdel_same .., (congrArg CoreSt.lmem hcore :),
    (congrArg CoreSt.lmdrop hcore :)⟩

/-- Settles O55, event by event: a spoilt copy keeps its number and block, and the rest is each event's own definition. -/
theorem engineEvents : Obligations.EngineEvents := by
  unfold Obligations.EngineEvents
  exact fun s o => ⟨fun ho => ⟨fun hkind hcls hstate hstill hstop hmay => mma_checks ho hkind hcls hstate hstill hstop hmay,
      fun r hstate => ⟨freeze_only ho hstate, freezes ho hstate⟩, plain_completes ho, fun p => mma_completes ho,
      fun u hu hstate hcls => ⟨unfolding_ends ho hu hstate hcls, frame_dispatched ho hu hstate⟩⟩,
    fun key w rest => notice_retires, fun m hm hop => ⟨multicast_arrives hm hop, multicast_times_out hm hop⟩⟩

end Sys2Proof.Proofs
